-- ==== Sys2Proof/Word.lean ====
section
/-!
DEFINITION. The word types and their plainest arithmetic.
-/
namespace Sys2Proof

/-- A byte of memory. -/
abbrev Byte := BitVec 8

/-- A 32-bit operand, payload or register (R12, R46). -/
abbrev Word := BitVec 32

/-- A 64-bit operand word, address or register. -/
abbrev DWord := BitVec 64

/-- A frame tag: 12 bits; 0xFFF is never a frame's tag (R1, R406). -/
abbrev Tag := BitVec 12

/-- A cause code 0x00 to 0x5F, held in seven bits (R1, R350). -/
abbrev Cause := Nat

end Sys2Proof
end

