-- ==== Sys2Proof/Config.lean ====
section
/-!
DEFINITION. What the manual fixes by figure, and the values it leaves open: opaque constants that no proof can evaluate.
-/
namespace Sys2Proof.Config

/-- The open choices: which of several allowed alternatives is taken (R294, R301, R306).
The argument is the counter of the state; nothing constrains the value. -/
opaque choice : Nat → Nat

/-- A count that a single-sweep census may give for a token that moves between controllers (R229). DESIGN CHOICE (log 22), safe. -/
opaque sweepError : Nat → Nat

/-- The expected scan signature of a seed, which depends on the seed alone (R394). DESIGN CHOICE (log 118), safe. -/
opaque scanExpected : DWord → DWord

/-- The signature that a scan of a physical region measures: the hardware's condition decides it (R394).
Arguments: physical region, seed, counter. -/
opaque scanMeasured : Nat → DWord → Nat → DWord

/-- Whether a further victim is chosen beyond one for each page that a fault has named: R244 says that one is whenever a page is
eligible, and its run that none is. Argument: counter. DEDUCED (log 127), safe. -/
opaque furtherVictim : Nat → Bool

/-- How many 4 KiB save frames a snapshot of a page of this many stored items takes (R260: as many as its contents need). DEDUCED (log 53), safe. -/
opaque snapshotFrames : Nat → Nat

/-- How many save frames a cut record shares with the record before it, whose contents have not changed (R353). Argument: counter. -/
opaque cutShared : Nat → Nat

/-- The four bits by which a decision record names an input of an arbiter whose inputs the spec does not number below sixteen (R367).
Arguments: arbiter and input. DESIGN CHOICE (log 163), safe. -/
opaque inputIndex : Nat → Nat → BitVec 4

/-- The line of its device that a burst concerned which failed twice (R356). Argument: counter. DESIGN CHOICE (log 54), safe. -/
opaque burstLine : Nat → Nat

/-- The frames of an imported partition that have not been copied yet (R340). Argument: counter. DESIGN CHOICE (log 164), safe. -/
opaque uncopied : Nat → List Nat

/-- Whether the free chunks of a wing pool have become low enough for the advisory (R350). Argument: counter. DESIGN CHOICE (log 28), safe. -/
opaque wingPoolLow : Nat → Bool

/-- Whether the entries of an overflow table have become so many that the advisory is due (R350). Argument: counter. DESIGN CHOICE (log 28),
safe. -/
opaque matchSpillHigh : Nat → Bool

/-- Whether the active Prompter's heartbeat stands (R425). Argument: counter. DESIGN CHOICE (log 165), safe. -/
opaque prompterBeats : Nat → Bool

/-- Where the driver's descriptor ring of a port holds its n-th descriptor (R434). Arguments: port, whether it is the receive ring, n.
DESIGN CHOICE (log 166), safe. -/
opaque etherRing : Nat → Bool → Nat → Nat

/-- What the 64 bytes at a descriptor's place say (R434): the buffer's address and length, the CTXID it names, its traffic class; none
where no descriptor stands there. DESIGN CHOICE (log 166), safe. -/
opaque etherDesc : Bool → List Byte → Option (Nat × Nat × Option Word × Nat)

/-- The gate control list that the driver has given a port, with its base time (R435). Arguments: port and counter. DESIGN CHOICE (log 166), safe. -/
opaque gateList : Nat → Nat → DWord × List (BitVec 8 × BitVec 24)

/-- The grandmaster's time that a received frame gives (R435); none where the frame is not of the IEEE 802.1AS protocol.
DESIGN CHOICE (log 166), safe. -/
opaque syncFrame : List Byte → Option DWord

/-- Whether the next attempt of a failing link or memory operation succeeds (R356). DESIGN CHOICE (log 54), safe. -/
opaque retrySucceeds : Nat → Bool

/-- The handle of a window's snapshot in save frames: the manual gives it no form (R358). Argument: window number. DESIGN CHOICE (log 51), safe. -/
opaque snapshotHandle : Nat → DWord

/-- The set of the 8-way matching store that an entry's name selects: the manual gives no set function (R135). Arguments:
tag, block, serial, instruction, port. DESIGN CHOICE (log 26), safe. -/
opaque matchSet : Nat → Nat → Nat → Nat → Nat → Nat

/-- The set of an MSE's 8-way TLB that a translation's page goes into: the manual gives no set function (R327). Arguments: context
number and page address. DEDUCED (log 41), unsafe. -/
opaque tlbSet : Nat → Nat → Nat

/-- The MSE that translates the fetch of a configuration image: the manual names none (R332). Argument: page address.
DESIGN CHOICE (log 167), safe. -/
opaque imageMse : Nat → Nat

/-- The payload of the token that a 64-byte emit slot leaves as, towards a destination that takes 32-bit tokens: the
manual gives it no form (R129). Argument: counter. DESIGN CHOICE (log 24), safe. -/
opaque wideSlotToken : Nat → Word

/-- The value that a trap of an island instruction reports, and INFO0 of an island fault that no instruction or head
raises: the manual names one result or word, and there are many or none (R194, R201, R351). Argument: counter. DESIGN CHOICE (log 13), safe. -/
opaque islandReport : Nat → DWord

/-- A cell of an INT32 accumulator after an MMAS step whose scaled sum is no integer, or whose factor is no finite number:
the manual wraps it without saying how (R200). Arguments: the cell, the factor, the exact sum. DESIGN CHOICE (log 12), safe. -/
opaque mmasInteger : Word → Word → Int → Word

/-- A 32-bit value that the manual leaves unstated where an instruction or a register gives one. Argument: counter. DESIGN CHOICE (log 60), safe. DESIGN CHOICE (log 91), safe. -/
opaque freeWord : Nat → Word

/-- Fabric cycles in a microsecond at 2.3 GHz (R1, R8). -/
def cyclesPerMicrosecond : Nat := 2300

/-- Fabric cycles in a nanosecond, in tenths (2.3 GHz). -/
def cyclesPerTenNanoseconds : Nat := 23

/-- Logical regions of the device (R1). -/
def regions : Nat := 64

/-- Physical regions of the device (R1). -/
def physicalRegions : Nat := 80

/-- Memory-edge stream engines, one per GDDR-7 device (R1, R328). -/
def mses : Nat := 24

/-- Device memory in bytes: 96 GiB (R1, R328). -/
def deviceMemoryBytes : Nat := 96 * 2 ^ 30

/-- Fabric SRAM in bytes: 256 MiB (R1, R291). -/
def sramBytes : Nat := 2 ^ 28

/-- Contexts of a guest are numbered 0 to 239 (R427). -/
def contextsPerGuest : Nat := 240

end Sys2Proof.Config
end

