-- ==== Sys2Proof/Syntax.lean ====
section
/-!
DEFINITION. The instructions of the SK480 as data: the fields of an element word, a block instruction and an
island instruction, the names of the device's parties and places, and the one inductive of all steps of the table.
-/
namespace Sys2Proof

/-- A context: partition, guest slot of the partition, context number of the guest (R240). -/
structure CtxId where
  part : Nat
  guest : Nat
  num : Nat
  deriving DecidableEq, Repr

/-- A guest: partition and guest slot (R3, R418). -/
structure GuestId where
  part : Nat
  slot : Nat
  deriving DecidableEq, Repr

/-- A page is named by context, graph and logical page number (R251). -/
structure PageKey where
  ctx : CtxId
  graph : Word
  lpn : Nat
  deriving DecidableEq, Repr

/-- A live frame is named by its partition and its tag (R406). -/
structure FrameKey where
  part : Nat
  tag : Tag
  deriving DecidableEq, Repr

/-- A fault ring: one for each guest, one for each partition's hypervisor (R348). -/
inductive RingId where
  | guest (g : GuestId)
  | hypervisor (part : Nat)
  deriving DecidableEq, Repr

/-- A memory home: a memory tile (two a region) or an MSE (R179, R297). -/
inductive Home where
  | tile (n : Nat)
  | mse (n : Nat)
  deriving DecidableEq, Repr

/-- The four queues of an element (R55). -/
inductive QueueName where
  | L | R | P | O
  deriving DecidableEq, Repr

/-- The four mesh directions of a switch (R72). -/
inductive Dir where
  | N | E | S | W
  deriving DecidableEq, Repr

/-- The places of a page in which tokens and beats stand (R249, R283). -/
inductive Place where
  /-- The output register of ROUTE0 (false) or ROUTE1 (true) of an element. -/
  | out (elem : Nat) (second : Bool)
  /-- The buffer of a mesh switch output. -/
  | switch (elem : Nat) (dir : Dir)
  /-- An element queue. -/
  | queue (elem : Nat) (q : QueueName)
  /-- An ingress or egress port buffer. -/
  | ingress (port : Nat)
  | egress (port : Nat)
  /-- An island lane. -/
  | laneIn (lane : Nat)
  | laneOut (lane : Nat)
  /-- A port of a memory node: 0 DATA, 1 START, 2 STOP. -/
  | node (node port : Nat)
  /-- The external wing of the edge that enters an ingress port. -/
  | wing (port : Nat)
  /-- The reply wing of the page. -/
  | reply
  deriving DecidableEq, Repr

/-- The parties that issue accesses and raise faults (R181, R351). -/
inductive Party where
  | elem (page : PageKey) (elem : Nat)
  | actor (page : PageKey) (block instr : Nat)
  | island (page : PageKey)
  | node (page : PageKey) (node : Nat)
  | infill (page : PageKey)
  deriving DecidableEq, Repr

/-- Token kinds (R47). -/
inductive Kind where
  | data | eor | eos | strike | cue | drain | census | control
  deriving DecidableEq, Repr

/-- Scopes of atomics, fences and messages (R171, R303). -/
inductive Scope where
  | region | partition | device | system
  deriving DecidableEq, Repr

/-- Type codes 0 to 11 (R12). -/
inductive Ty where
  | i32 | n32 | i16x2 | n16x2 | i8x4 | n8x4 | f32 | bf16x2 | f16x2 | e4m3x4 | e5m2x4 | fx4x8
  deriving DecidableEq, Repr

/-- Predicate modes 00 to 11 (R56). -/
inductive PredMode where
  | always | ifNonzero | ifZero | consume
  deriving DecidableEq, Repr

/-- A route of an element, an IROUTE, an OUTROUTE or a DEST (R55). -/
inductive Route where
  | none
  | pe (col : BitVec 4) (row : BitVec 3) (q : QueueName)
  | egress (port : BitVec 4)
  | lane (lane : BitVec 4)
  | chan (chan : BitVec 6)
  | node (node : BitVec 3) (port : BitVec 2)
  deriving DecidableEq, Repr

/-- A target of a block instruction (R60). -/
inductive Target where
  | none
  | left (i : BitVec 7)
  | right (i : BitVec 7)
  | pred (i : BitVec 7)
  | emit (port : BitVec 4)
  | lane (lane : BitVec 4)
  deriving DecidableEq, Repr

/-- A register designator of an island instruction (R61); the codes 01100 to 01111 name no register. -/
inductive Desig where
  | t (n : BitVec 3)
  | a (n : BitVec 2)
  | s (n : BitVec 4)
  | bad (n : BitVec 2)
  deriving DecidableEq, Repr

/-- The source of an element's C operand (R53, R54). -/
inductive CSource where
  | literal | slot | counter
  deriving DecidableEq, Repr

/-- Emission pattern of an element (R57). -/
inductive Pattern where
  | plain | replay | decimate
  deriving DecidableEq, Repr

/-- EOR and EOS policy of an element (R57). -/
inductive EndPolicy where
  | forward | absorb | first
  deriving DecidableEq, Repr

/-- Scale check of a consumer input (R39, R53). -/
inductive ScaleCheck where
  | any | unscaled | scaled
  deriving DecidableEq, Repr

/-- The fields of an element configuration word beside its opcode (R53). -/
structure Ecw where
  pm : PredMode
  ty : Ty
  md : BitVec 3
  qL : Bool
  qR : Bool
  qP : Bool
  qO : Bool
  csrc : CSource
  carg : BitVec 5
  x : BitVec 10
  route0 : Route
  route1 : Route
  rpt : BitVec 12
  pat : Pattern
  eosp : EndPolicy
  rwin : BitVec 3
  sckl : ScaleCheck
  sckr : ScaleCheck
  const : Word
  deriving DecidableEq, Repr

/-- The fields of an actor or trap-handler instruction beside its opcode (R58). -/
structure Blk where
  pm : PredMode
  ty : Ty
  md : BitVec 3
  ri : Bool
  t1 : Target
  t2 : Target
  x : BitVec 10
  imm : BitVec 16
  deriving DecidableEq, Repr

/-- The fields of an island instruction beside its opcode (R58, R61). -/
structure Isl where
  ty : Ty
  md : BitVec 3
  ri : Bool
  da : Desig
  db : Desig
  dc : Desig
  x : BitVec 10
  imm : BitVec 16
  deriving DecidableEq, Repr

/-- An instruction that elements and blocks both hold stands in one of the two forms (R86). -/
inductive Form where
  | elem (e : Ecw)
  | block (b : Blk)
  deriving DecidableEq, Repr

/-- Where a NOP stands: its word is zero in every context (R91). -/
inductive NopPlace where
  | elem | block | island
  deriving DecidableEq, Repr

/-- What a turn concerns: the party that executes a word, or the unit of an event, with the operand that an outside
agent gives (a written value, a reading, a received frame). -/
inductive Subject where
  | party (p : Party)
  | page (k : PageKey)
  /-- A block, a memory node or an egress port of a page. -/
  | part (k : PageKey) (n : Nat)
  | place (k : PageKey) (src : Place)
  /-- An emit port of a block. -/
  | emitPort (k : PageKey) (b port : Nat)
  /-- A home and one of its port queues. -/
  | home (h : Home) (port : Nat)
  | ctx (c : CtxId)
  | graph (c : CtxId) (gid : Word)
  | frame (f : FrameKey)
  | guest (g : GuestId)
  | queue (g : GuestId) (q : Nat)
  /-- A record of a fault ring. -/
  | record (r : RingId) (fnum : Nat)
  /-- A unit by its number: quad, partition, region, walk, message, memory block, channel, port, pin. -/
  | unit (n : Nat)
  /-- Two numbers: partition and frame, invalidation and MSE, die and cause, rail and millivolts. -/
  | units (a b : Nat)
  /-- A sensor, its die and its reading. -/
  | sensor (sensor die temp : Nat)
  /-- A frame of an Ethernet port. -/
  | bytes (port : Nat) (data : List Byte)
  | ctxWrite (c : CtxId) (v : DWord)
  | guestWrite (g : GuestId) (v : DWord)
  | queueWrite (g : GuestId) (q : Nat) (v : Word)
  | partWrite (n : Nat) (v : DWord)
  /-- A register write: offset in the window, size in bytes, value. -/
  | regWrite (offset size : Nat) (v : DWord)
  | device
  deriving DecidableEq, Repr

/-- Every row of the operation table: the opcodes of the three instruction words, then the events of the
device's other agents; the unit that acts stands in the turn. -/
inductive Instr where
  /-- NOP (R91): Does nothing: an all-zero element never fires, a block NOP takes one issue slot, and an island NOP holds the stream for one cycle. -/
  | nop (place : NopPlace)
  /-- ADD (R101): Adds two integer lanes and wraps the result. -/
  | add (f : Form)
  /-- SUB (R101): Subtracts the right integer lane from the left and wraps the result. -/
  | sub (f : Form)
  /-- RSUB (R101): Subtracts the left integer lane from the right and wraps the result. -/
  | rsub (f : Form)
  /-- ADDS (R101): Adds signed lanes with saturation and raises SAT when it clamps. -/
  | adds (f : Form)
  /-- SUBS (R101): Subtracts signed lanes with saturation. -/
  | subs (f : Form)
  /-- ADDSN (R101): Adds unsigned lanes with saturation. -/
  | addsn (f : Form)
  /-- SUBSN (R101): Subtracts unsigned lanes with saturation; a result below 0 gives 0. -/
  | subsn (f : Form)
  /-- MUL (R101): Gives the low w bits of the lane product. -/
  | mul (f : Form)
  /-- MULH (R101): Gives the high w bits of the signed lane product. -/
  | mulh (f : Form)
  /-- MULHN (R101): Gives the high w bits of the unsigned lane product. -/
  | mulhn (f : Form)
  /-- MAD (R101): Computes a times b plus c exactly, then wraps. -/
  | mad (f : Form)
  /-- DIV (R33): Divides signed lanes with truncation; a zero divisor gives all ones and raises DZ. -/
  | div (f : Form)
  /-- DIVN (R33): Divides unsigned lanes, with the zero-divisor rule. -/
  | divn (f : Form)
  /-- REM (R33): Gives the signed remainder, which takes the sign of the dividend. -/
  | rem (f : Form)
  /-- REMN (R33): Gives the unsigned remainder. -/
  | remn (f : Form)
  /-- MIN (R101): Gives the signed minimum of two lanes. -/
  | min (f : Form)
  /-- MAX (R101): Gives the signed maximum of two lanes. -/
  | max (f : Form)
  /-- MINN (R101): Gives the unsigned minimum of two lanes. -/
  | minn (f : Form)
  /-- MAXN (R101): Gives the unsigned maximum of two lanes. -/
  | maxn (f : Form)
  /-- ABS (R101): Gives the absolute value of each lane, with wrapping. -/
  | abs (f : Form)
  /-- NEG (R101): Negates each lane, with wrapping. -/
  | neg (f : Form)
  /-- CLAMP (R101): Clamps the left lane between the right lane and the third. -/
  | clamp (f : Form)
  /-- AND (R102): Bitwise AND of the two words. -/
  | and (f : Form)
  /-- OR (R102): Bitwise OR of the two words. -/
  | or (f : Form)
  /-- XOR (R102): Bitwise XOR of the two words. -/
  | xor (f : Form)
  /-- ANDN (R102): Gives the left word AND NOT the right word. -/
  | andn (f : Form)
  /-- NOT (R102): Bitwise complement of the word. -/
  | not (f : Form)
  /-- SHL (R103): Shifts each lane left by the right-operand amount. -/
  | shl (f : Form)
  /-- SHR (R103): Shifts each lane right, logically. -/
  | shr (f : Form)
  /-- SAR (R103): Shifts each lane right, arithmetically. -/
  | sar (f : Form)
  /-- ROL (R103): Rotates the word left by s mod 32. -/
  | rol (f : Form)
  /-- ROR (R103): Rotates the word right by s mod 32. -/
  | ror (f : Form)
  /-- CLZ (R104): Counts the leading zero bits of the word. -/
  | clz (f : Form)
  /-- CTZ (R104): Counts the trailing zero bits of the word. -/
  | ctz (f : Form)
  /-- POPC (R104): Counts the set bits of the word. -/
  | popc (f : Form)
  /-- BREV (R104): Reverses the bit order of the word. -/
  | brev (f : Form)
  /-- BFX (R105): Extracts a bit field, zero-extended. -/
  | bfx (f : Form)
  /-- BFXS (R105): Extracts a bit field, sign-extended. -/
  | bfxs (f : Form)
  /-- BFI (R105): Inserts the low bits of the right operand into a field of the left. -/
  | bfi (f : Form)
  /-- BYTEP (R106): Permutes bytes of two words under a selector. -/
  | bytep (f : Form)
  /-- SHRR (R103): Shifts right, rounding half to even. -/
  | shrr (f : Form)
  /-- SATW (R34): Clamps a signed 32-bit lane to a narrower range and raises SAT when it clamps. -/
  | satw (f : Form)
  /-- SATWN (R34): Clamps an unsigned 32-bit lane to a narrower range. -/
  | satwn (f : Form)
  /-- LEA (R107): Forms a scaled position in a memory node; out of range it gives the limit and raises SAT. -/
  | lea (f : Form)
  /-- CMP (R108): Compares integer lanes under a condition and gives a mask. -/
  | cmp (f : Form)
  /-- TST (R109): Tests a AND b for nonzero or zero per lane. -/
  | tst (f : Form)
  /-- SEL (R110): Selects bits from left or right by a mask. -/
  | sel (f : Form)
  /-- MOV (R111): Passes the left operand unchanged, with its SC. -/
  | mov (f : Form)
  /-- LIT (R111): On a trigger token, gives the C operand, immediate or constant. -/
  | lit (f : Form)
  /-- DOT4 (R112): Adds the dot product of four 8-bit lane pairs to c. -/
  | dot4 (f : Form)
  /-- DOT2 (R112): Adds the dot product of two 16-bit lane pairs to c. -/
  | dot2 (f : Form)
  /-- SAD4 (R112): Adds the sum of absolute differences of four 8-bit lanes to c. -/
  | sad4 (f : Form)
  /-- PACK (R113): Narrows two words into packed lanes, saturating or wrapping. -/
  | pack (f : Form)
  /-- UNPKL (R114): Widens the lower lanes of a word. -/
  | unpkl (f : Form)
  /-- UNPKH (R114): Widens the upper lanes of a word. -/
  | unpkh (f : Form)
  /-- FADD (R115): Floating-point add, rounded once. -/
  | fadd (f : Form)
  /-- FSUB (R115): Floating-point subtract, rounded once. -/
  | fsub (f : Form)
  /-- FMUL (R115): Floating-point multiply, rounded once. -/
  | fmul (f : Form)
  /-- FFMA (R115): Fused multiply-add, rounded once. -/
  | ffma (f : Form)
  /-- FFMS (R115): Fused multiply-subtract, rounded once. -/
  | ffms (f : Form)
  /-- FMIN (R117): Floating-point minimum that returns the number when one operand is a NaN. -/
  | fmin (f : Form)
  /-- FMAX (R117): Floating-point maximum that returns the number when one operand is a NaN. -/
  | fmax (f : Form)
  /-- FMINM (R117): Floating-point minimum that propagates NaN. -/
  | fminm (f : Form)
  /-- FMAXM (R117): Floating-point maximum that propagates NaN. -/
  | fmaxm (f : Form)
  /-- FABS (R116): Clears the sign bit of each lane. -/
  | fabs (f : Form)
  /-- FNEG (R116): Inverts the sign bit of each lane. -/
  | fneg (f : Form)
  /-- FCMP (R118): Compares float lanes under a quiet or ordering condition. -/
  | fcmp (f : Form)
  /-- FCLS (R119): Gives a one-hot class mask for each float lane. -/
  | fcls (f : Form)
  /-- FRCP (R115): Reciprocal, rounded once. -/
  | frcp (f : Form)
  /-- FRSQ (R115): Reciprocal square root, rounded once. -/
  | frsq (f : Form)
  /-- FSQRT (R115): Square root, rounded once. -/
  | fsqrt (f : Form)
  /-- FDIV (R115): Floating-point divide, rounded once. -/
  | fdiv (f : Form)
  /-- FEXP2 (R115): Base-2 exponential, rounded once. -/
  | fexp2 (f : Form)
  /-- FLOG2 (R115): Base-2 logarithm, rounded once. -/
  | flog2 (f : Form)
  /-- FRND (R115): Rounds a float to an integral float value in mode MD. -/
  | frnd (f : Form)
  /-- FLDX (R115): Multiplies a float by 2 to the power n. -/
  | fldx (f : Form)
  /-- FSCL (R120): Scale-multiply node that applies or removes a scale tag, after checking the operands' SC. -/
  | fscl (f : Form)
  /-- CVTI (R121): Converts between integer and floating-point lanes. -/
  | cvti (f : Form)
  /-- CVTF (R123): Converts between float formats arithmetically, quieting NaNs. -/
  | cvtf (f : Form)
  /-- CVTW (R123): Converts between FP32 and a narrow format, keeping NaN payloads so that codes round-trip. -/
  | cvtw (f : Form)
  /-- FXPK (R124): Encodes 32 FP32 values from CB slots into an FX4 block. -/
  | fxpk (b : Blk)
  /-- FXUN (R124): Decodes an FX4 block into 32 FP32 values. -/
  | fxun (b : Blk)
  /-- FXSC (R124): Encodes 32 FP32 values into an FX4 block with supplied metadata. -/
  | fxsc (b : Blk)
  /-- STEER (R142): Routes the value to ROUTE0 or ROUTE1 by the condition. -/
  | steer (f : Form)
  /-- CMERGE (R143): Takes L or P as a condition token on R selects. -/
  | cmerge (f : Form)
  /-- MERGE (R143): Merges two queues alternately and pairs their closing tokens. -/
  | merge (f : Form)
  /-- OMERGE (R143): Merges by taking the smaller head, L on a tie. -/
  | omerge (f : Form)
  /-- GATE (R145): Passes data on L under credits that arrive on R. -/
  | gate (f : Form)
  /-- DUP (R146): Copies each head to both routes. -/
  | dup (f : Form)
  /-- DROP (R146): Consumes data and strikes and forwards closing tokens with an EOS payload of 0. -/
  | drop (f : Form)
  /-- REPEAT (R147): Stores a segment and replays it as many times as a count token gives. -/
  | repeatSeg (e : Ecw)
  /-- COUNT (R152): Counts a tag's data tokens and emits the count at a closing token. -/
  | count (f : Form)
  /-- ITER (R153): Generates loop indices from start to limit with a step. -/
  | iter (f : Form)
  /-- STRIKE_MAKE (R150): Turns each data token into a strike keyed by its payload. -/
  | strikeMake (f : Form)
  /-- STRIKE_ANNUL (R150): Removes from L the data tokens at the positions keyed by strikes on R. -/
  | strikeAnnul (e : Ecw)
  /-- JOIN (R154): Counting barrier that emits once a tag's count reaches n. -/
  | join (f : Form)
  /-- REDUCE (R155): Folds contributions within a window, ordered by rank or in arrival order. -/
  | reduce (f : Form)
  /-- SCANP (R157): Keeps a running fold per tag and emits it. -/
  | scanp (f : Form)
  /-- MKEOS (R148): Ends a stream with an EOS or EOR after n data tokens. -/
  | mkeos (f : Form)
  /-- ONEOS (R149): Turns a closing token into a data token on ROUTE1. -/
  | oneos (f : Form)
  /-- TAGR (R158): Gives the tag of the token or of the firing. -/
  | tagr (f : Form)
  /-- TAGW (R158): Rewrites the tag of a data token to another live frame of the context. -/
  | tagw (f : Form)
  /-- NEXTI (R159): Carries a value into the next iteration of the same tag. -/
  | nexti (f : Form)
  /-- WID (R160): Reads a field or lattice property of a work identifier. -/
  | wid (f : Form)
  /-- ARG (R161): Gives the value of an argument slot. -/
  | arg (f : Form)
  /-- ARGW (R161): Writes a graph argument, which takes effect at a round close. -/
  | argw (b : Blk)
  /-- LAUNCH (R162): Starts a child frame from a launch record in a CB slot. -/
  | launch (b : Blk)
  /-- CALL (R162): Launches a child and later receives its completion value on a page channel. -/
  | call (b : Blk)
  /-- RCLOSE (R163): Passes its operand on and asks for a round close. -/
  | rclose (f : Form)
  /-- RECV (R138): Reads a word of a listen CB slot. -/
  | recv (b : Blk)
  /-- PEEK (R138): Reads a word of a listen CB slot at a dynamic offset and waits until it is filled. -/
  | peek (b : Blk)
  /-- EMIT (R139): Writes a data, EOR, EOS or strike token into an emit CB slot. -/
  | emit (b : Blk)
  /-- ADVR (R140): Adds to a listen port's read advance at completion. -/
  | advr (b : Blk)
  /-- ADVW (R140): Adds to an emit port's publish count at completion. -/
  | advw (b : Blk)
  /-- CBQ (R141): Reads a CB counter, pointer or slot kind. -/
  | cbq (b : Blk)
  /-- LD (R174): Loads a word, half or byte from a memory node after the address checks. -/
  | ld (f : Form)
  /-- ST (R174): Stores into the open round's home buffer and returns a completion token. -/
  | st (f : Form)
  /-- LDX (R175): Loads 8 bytes single-copy-atomically, as two words. -/
  | ldx (b : Blk)
  /-- STX (R175): Stores 8 bytes at an LDX's position. -/
  | stx (b : Blk)
  /-- PF (R176): Prefetches a line; a faulting prefetch is dropped. -/
  | pf (f : Form)
  /-- AADD (R177): Atomic add with wrapping at the home. -/
  | aadd (f : Form)
  /-- AADDS (R177): Atomic saturating signed add. -/
  | aadds (f : Form)
  /-- AMIN (R177): Atomic signed minimum. -/
  | amin (f : Form)
  /-- AMAX (R177): Atomic signed maximum. -/
  | amax (f : Form)
  /-- AMINN (R177): Atomic unsigned minimum. -/
  | aminn (f : Form)
  /-- AMAXN (R177): Atomic unsigned maximum. -/
  | amaxn (f : Form)
  /-- AAND (R177): Atomic AND. -/
  | aand (f : Form)
  /-- AOR (R177): Atomic OR. -/
  | aor (f : Form)
  /-- AXOR (R177): Atomic XOR. -/
  | axor (f : Form)
  /-- AXCH (R177): Atomic exchange. -/
  | axch (f : Form)
  /-- ACAS (R177): Atomic compare-and-swap of a word. -/
  | acas (f : Form)
  /-- ACAS_D (R178): Compares 8 bytes with an LDX's value and, when they are equal, writes 8 bytes atomically. -/
  | acasD (b : Blk)
  /-- AFADD (R180): Floating-point atomic add, ordered by rank or unordered. -/
  | afadd (f : Form)
  /-- AINC (R177): Atomic increment that wraps to 0 at the bound. -/
  | ainc (f : Form)
  /-- FENCE_ACQ (R182): Acquire fence that gives its token at once. -/
  | fenceAcq (f : Form)
  /-- FENCE_REL (R182): Release fence that gives its token once earlier accesses are performed, or after a round close at DEVICE or SYSTEM scope. -/
  | fenceRel (f : Form)
  /-- FENCE_AR (R182): Release followed by acquire. -/
  | fenceAr (f : Form)
  /-- MMA (R200): Adds DB times DC transposed to an accumulator with one rounding per cell. -/
  | mma (w : Isl)
  /-- MMAT (R200): Adds DB times DC, with DC in K-major packing. -/
  | mmat (w : Isl)
  /-- MMAS (R201): Matrix step scaled by a factor, which applies or removes the scale tag. -/
  | mmas (w : Isl)
  /-- LDT (R202): Loads a tile register from a lane packet or from scratchpad rows. -/
  | ldt (w : Isl)
  /-- LDTT (R202): Loads a tile register transposed from scratchpad. -/
  | ldtt (w : Isl)
  /-- STT (R203): Stores a tile register's rows to scratchpad. -/
  | stt (w : Isl)
  /-- LDA (R204): Loads an accumulator from scratchpad rows. -/
  | lda (w : Isl)
  /-- STA (R204): Stores an accumulator to scratchpad rows. -/
  | sta (w : Isl)
  /-- RDA (R205): Sends a row, column or cell of an accumulator as tokens. -/
  | rda (w : Isl)
  /-- ZACC (R204): Zeroes an accumulator and sets its kind. -/
  | zacc (w : Isl)
  /-- SCA (R206): Scales an accumulator by a column or an immediate factor. -/
  | sca (w : Isl)
  /-- VMAXR (R206): Row-maximum fold, broadcast across columns. -/
  | vmaxr (w : Isl)
  /-- VSUMR (R206): Exact row sum, rounded once and broadcast. -/
  | vsumr (w : Isl)
  /-- VEXP2 (R206): Base-2 exponential of each cell. -/
  | vexp2 (w : Isl)
  /-- VADD (R206): Adds accumulators cell by cell. -/
  | vadd (w : Isl)
  /-- VSUB (R206): Subtracts accumulators cell by cell. -/
  | vsub (w : Isl)
  /-- VMUL (R206): Multiplies accumulators cell by cell. -/
  | vmul (w : Isl)
  /-- VFMA (R206): Fused multiply-add of accumulators cell by cell. -/
  | vfma (w : Isl)
  /-- VMAX (R206): Cell-wise NaN-propagating maximum. -/
  | vmax (w : Isl)
  /-- VCVT (R208): Converts accumulators into a column group of a tile register. -/
  | vcvt (w : Isl)
  /-- VBCAST (R207): Fills an accumulator from a column, an immediate or an S register. -/
  | vbcast (w : Isl)
  /-- ILOOP (R209): Repeats a body of instructions a counted number of times. -/
  | iloop (w : Isl)
  /-- IWAIT (R210): Consumes a data token from a lane into an S register. -/
  | iwait (w : Isl)
  /-- IEMIT_PKT (R210): Sends a tile register as one packet. -/
  | iemitPkt (w : Isl)
  /-- IEMIT_TOK (R210): Sends an S register as one data token. -/
  | iemitTok (w : Isl)
  /-- ISYNC (R198): Waits until earlier instructions have completed and earlier stores are performed. -/
  | isync (w : Isl)
  /-- SEND_COPY (R217): Queues a held COPY message. -/
  | sendCopy (b : Blk)
  /-- SEND_FILL (R217): Queues a held FILL message. -/
  | sendFill (b : Blk)
  /-- SEND_GATHER (R217): Queues a held GATHER message. -/
  | sendGather (b : Blk)
  /-- SEND_SCATTER (R217): Queues a held SCATTER message. -/
  | sendScatter (b : Blk)
  /-- SEND_ISTREAM (R225): Sends an immediate message that starts an indirect-stream generator. -/
  | sendIstream (b : Blk)
  /-- SEND_PUBLISH (R217): Queues a held PUBLISH message. -/
  | sendPublish (b : Blk)
  /-- SEND_DISCARD (R217): Queues a held DISCARD message. -/
  | sendDiscard (b : Blk)
  /-- SEND_PRELOAD (R226): Sends a privileged PRELOAD to the Stagehand. -/
  | sendPreload (b : Blk)
  /-- SEND_MIGRATE (R226): Sends a privileged MIGRATE to an MSE. -/
  | sendMigrate (b : Blk)
  /-- SEND_MARK (R227): Sends a MARK to the Logbook. -/
  | sendMark (b : Blk)
  /-- SEND_TEST (R228): Sends a privileged scan TEST to the quad's scan controller. -/
  | sendTest (b : Blk)
  /-- SENDW (R216): Sends an immediate message and waits in the firing for the reply. -/
  | sendw (b : Blk)
  /-- SENDW_CENSUS (R229): Asks for a single-sweep census of a tag and waits for the count. -/
  | sendwCensus (b : Blk)
  /-- SENDW_QUERY (R227): Asks the Prompter for a value by selector and waits for it. -/
  | sendwQuery (b : Blk)
  /-- TRAP (R234): Raises 0x1A TRAP_INSTR with a number and a fault value. -/
  | trap (f : Form)
  /-- BRK (R234): Raises 0x1B, or stops the context for the debugger when breakpoints are enabled. -/
  | brk (f : Form)
  /-- WMARK (R235): Requests a window marker at the next close and gives the window's number. -/
  | wmark (b : Blk)
  /-- SEAL (R235): Seals the current undo window at the next round close. -/
  | sealWindow (b : Blk)
  /-- RDSR (R239): Reads a system register. -/
  | rdsr (b : Blk)
  /-- WRSR_AFLG (R30): Replaces the page's AFLG word, applied in arbiter order. -/
  | wrsrAflg (b : Blk)
  /-- WRSR_RTMR (R239): Sets the round timer, effective at the round's commit. -/
  | wrsrRtmr (b : Blk)
  /-- WRSR_QUOTA (R262): Sets the context quota at commit, or raises QUOTA_REFUSED. -/
  | wrsrQuota (b : Blk)
  /-- INVAL (R236): Invalidates stage-1 translations of a range by drain tokens. -/
  | inval (b : Blk)
  /-- INVAL_ALL (R236): Invalidates every stage-1 translation of the context. -/
  | invalAll (b : Blk)
  /-- PGLD (R237): Hands a page to the Stagehand for loading. -/
  | pgld (b : Blk)
  /-- PGEV (R237): Hands a page to the Stagehand for eviction. -/
  | pgev (b : Blk)
  /-- FOLD (R237): Swaps a fold group for its variant of a level at the next round close. -/
  | fold (b : Blk)
  /-- YIELD (R238): Asks the scheduler to end the guest's slice at its next interval. -/
  | yield (b : Blk)
  /-- CENSUS (R238): Counts a tag's tokens by repeated pairs of sweeps until they agree. -/
  | census (b : Blk)
  /-- ACTOR_SELECT (R131): The tile selects a runnable handler by priority and round robin and starts its firing. -/
  | actorSelect
  /-- FIRING_COMPLETE (R132): Completion of an actor firing advances pointers, publishes emit slots and advances the serial. -/
  | firingComplete
  /-- MATCH_OVERFLOW_PROBE (R135): The probe of a spilled matching-store entry completes. -/
  | matchOverflowProbe
  /-- LISTEN_ARRIVAL (R129): A token arriving on a page channel fills a listen CB slot at the tile's arbiter. -/
  | listenArrival
  /-- EMIT_FORWARD (R129): The tile forwards a published emit slot to DEST as a token and frees the slot. -/
  | emitForward
  /-- TOKEN_HOP (R249): A token or beat moves one hop into a queue or buffer that has room. -/
  | tokenHop
  /-- EGRESS_LOOKUP (R251): A token leaving an egress port is delivered to the consumer's port buffer or diverted to the edge's wing. -/
  | egressLookup
  /-- CUE_MARK (R136): A cue on a listen port becomes a mark; once every fed port is marked, the actor records its cut and forwards cues. -/
  | cueMark
  /-- CENSUS_TOKEN (R81): A census token at the head of an input is counted, removed and forwarded once. -/
  | censusToken
  /-- UNKNOWN_CONTROL_CODE (R80): A control token with an unknown code is discarded and logged. -/
  | unknownControlCode
  /-- NOTIFY (R80): A notify token reaches the Prompter's arbiter and presents a queue. -/
  | notify
  /-- ARM (R274): The stage manager arms an island section for a tag with a tile count. -/
  | arm
  /-- PASS_END (R189): An island pass ends and the tile count decrements; the next pass starts or the section ends. -/
  | passEnd
  /-- SECTION_END (R189): A section waits for completion, consumes the input EOS, emits an EOS per output lane and reports. -/
  | sectionEnd
  /-- SECTION_DONE (R80): The stage manager receives a section's completion report. -/
  | sectionDone
  /-- ISLAND_CUT (R212): An island whose fed lanes are all marked records its cut and forwards cues. -/
  | islandCut
  /-- GENERATOR_START (R167): A token at a node's START port starts or restarts the generator for its tag. -/
  | generatorStart
  /-- GENERATOR_STOP (R167): A token at STOP ends the generator and emits its closing EOS. -/
  | generatorStop
  /-- WRITE_NODE_DATA (R166): A data token at a write node's DATA port is stored at its frame's next position. -/
  | writeNodeData
  /-- WRITE_NODE_EOS (R166): Once its stores are performed, a write node emits an EOS with the store count. -/
  | writeNodeEos
  /-- GENERATOR_EMIT (R166): A read generator emits an element, packet, EOR or EOS. -/
  | generatorEmit
  /-- WINDOW_RETURN (R168): A prefetch window requested by an MSE returns its data. -/
  | windowReturn
  /-- HOME_ARBITRATE (R294): A home arbiter takes a request from a port queue and performs the access. -/
  | homeArbitrate
  /-- ACCESS_RESPONSE (R295): A response is delivered to its issuer in issue order through the reorder buffer. -/
  | accessResponse
  /-- ROUND_TIMER (R308): Expiry of the round timer requests a close. -/
  | roundTimer
  /-- CLOSE_REQUEST (R309): The round controller begins a close and injects cues at every source. -/
  | closeRequest
  /-- CUT_REPORT (R309): A page reports its cut to the round controller. -/
  | cutReport
  /-- COMMIT (R311): At the commit point, every home entry of the round becomes committed and undo records are appended. -/
  | commit
  /-- WRITE_BACK (R311): A home writes committed entries back to memory. -/
  | writeBack
  /-- VOID (R314): Voiding a round drops its buffered stores, reverses its atomics and restores page state from the cut. -/
  | void
  /-- FREEZE (R317): A context is frozen and its open rounds voided at the homes. -/
  | freeze
  /-- TRAP_DELIVER (R352): Four trap tokens are written to the handler CB once four slots are free. -/
  | trapDeliver
  /-- TRAP_ACCEPT (R80): The tile reports a trap accepted and the party may fire again. -/
  | trapAccept
  /-- PAGE_SIGNAL (R256): The Stagehand takes a page signal and chooses a region, a steal or a victim. -/
  | pageSignal
  /-- PAGE_LOAD_DONE (R259): A page load completes; state is restored and its wings drain. -/
  | pageLoadDone
  /-- WING_DRAIN (R259): A wing drains one token or beat per cycle into its ingress buffer. -/
  | wingDrain
  /-- EVICTION_SAVE (R260): A Stopping page saves its state and tokens to save frames. -/
  | evictionSave
  /-- REGION_ASSIGN (R258): A freed region is assigned to a pending page. -/
  | regionAssign
  /-- FOLD_TURN_END (R265): A fold member's turn ends after 1,024 cycles or 64 idle cycles, and the next member swaps in. -/
  | foldTurnEnd
  /-- SAVE_POOL_WAIT_END (R354): A request waiting for save frames proceeds when frames become available. -/
  | savePoolWaitEnd
  /-- TLB_WALK_STEP (R325): A translation walk reads one table entry and continues, completes or faults. -/
  | tlbWalkStep
  /-- DRAIN_ACK (R334): A drain token reaches its MSE and is acknowledged; the last acknowledgement completes the invalidation or publication. -/
  | drainAck
  /-- PLACEMENT (R335): Before a graph's first frame in a context, the Prompter places its stream frames by migration. -/
  | placement
  /-- REPLICA_COLLAPSE (R338): A write to a duplicated frame collapses the replica by drain tokens. -/
  | replicaCollapse
  /-- PULL_RETRY (R340): A 2 ms pull retry expires; after the third, MIGRATION_PAGE_LOST freezes the partition. -/
  | pullRetry
  /-- PULL_COMPLETE (R340): A pulled frame arrives and clears its pull bit. -/
  | pullComplete
  /-- COPY (R221): A copy engine copies bytes into the destination understudy. -/
  | copy
  /-- FILL (R221): A copy engine fills the understudy with a pattern. -/
  | fill
  /-- GATHER (R221): A copy engine gathers table elements by index into the understudy. -/
  | gather
  /-- SCATTER (R221): A copy engine scatters source elements into the table's understudy. -/
  | scatter
  /-- PUBLISH (R222): Swaps visible backing and understudy by drain tokens to every observer. -/
  | publish
  /-- DISCARD (R222): Drops the understudy of each page in the range. -/
  | discard
  /-- ISTREAM (R225): An MSE starts an indirect-stream generator. -/
  | istream
  /-- PRELOAD (R226): The Stagehand copies pages into the configuration cache. -/
  | preload
  /-- MIGRATE (R226): An MSE moves a range's backing to another channel. -/
  | migrate
  /-- LOGBOOK_MARK (R227): The Logbook writes a mark record. -/
  | logbookMark
  /-- SCAN_TEST (R394): The scan controller vacates the selected regions and starts the pattern run. -/
  | scanTest
  /-- SCAN_PHASE_END (R394): A pattern run or rescan ends; the signatures are compared and regions returned or rescanned. -/
  | scanPhaseEnd
  /-- QUAD_CLAIM (R395): An urgent pending page claims the quad and aborts the TEST with TEST_ABORTED. -/
  | quadClaim
  /-- CENSUS_SWEEP (R229): The region controllers count a tag's tokens in one sweep. -/
  | censusSweep
  /-- PROMPTER_QUERY (R227): The Prompter answers a QUERY selector. -/
  | prompterQuery
  /-- ENGINE_REPLY (R219): An engine's reply token is delivered to a page channel, an ingress port or the reply wing. -/
  | engineReply
  /-- REGION_RETIRE (R396): The Prompter copies a region's tiles to the spare, rewrites the cast entry and reports REGION_RETIRED. -/
  | regionRetire
  /-- REPAIR_MAP_WRITE (R440): Completion of a repair-map flash write. -/
  | repairMapWrite
  /-- HANG (R369): The Foghorn finds a frame idle past its interval, freezes the context and writes the occupancy map. -/
  | hang
  /-- LOGBOOK_TIME_RECORD (R367): A time record is written every 2^22 cycles. -/
  | logbookTimeRecord
  /-- QNOTIFY_WRITE (R398): A write to QNOTIFY advances TAIL and sends a notify; an overfull queue stops. -/
  | qnotifyWrite
  /-- DISTRIBUTOR_SELECT (R409): A guest's distributor selects a context and queue head by stride and priority every 20 ns. -/
  | distributorSelect
  /-- ARG_BLOCK_LOAD (R404): A launch's argument block is written and a close requested before the walker starts. -/
  | argBlockLoad
  /-- TAG_WAIT (R406): A launch waiting 1 ms for a tag raises TAG_WAIT. -/
  | tagWait
  /-- WALKER_EMIT (R378): The block walker emits an identifier, an EOR or the final EOS to the launch ports. -/
  | walkerEmit
  /-- SINK_COUNTED (R407): A sink reports its EOS count to the Prompter. -/
  | sinkCounted
  /-- FRAME_COMPLETE (R407): Census, completion-word release, round close and tag return end a frame. -/
  | frameComplete
  /-- PHASE_RELEASE (R413): The stage manager releases the next phase of a frame at an interval. -/
  | phaseRelease
  /-- SLICE_END (R414): A guest's slice expires and its frames are held at their next intervals. -/
  | sliceEnd
  /-- SLICE_WATCHDOG (R415): The overrun exceeds the watchdog limit, and the Prompter folds, saves or faults each context. -/
  | sliceWatchdog
  /-- REGION_SHRINK (R416): An urgent pending page triggers a fold or an eviction in a lower-priority context at its close. -/
  | regionShrink
  /-- PREEMPT_UNFOLD (R417): At a round close, a shrink-folded context is unfolded by one group. -/
  | preemptUnfold
  /-- INFILL_START (R373): After the sinks have counted, the infill unit requests a close and starts once it commits. -/
  | infillStart
  /-- INFILL_POINT (R373): The infill unit fills or audits skipped points, up to four per cycle. -/
  | infillPoint
  /-- COVERAGE_UPDATE (R390): The controller receives a metric and steps the graph's level. -/
  | coverageUpdate
  /-- GUEST_SUSPEND (R418): GCMD SUSPEND saves a context at its interval and frees its regions. -/
  | guestSuspend
  /-- GUEST_RESUME (R418): GCMD RESUME makes a context's saved pages pending. -/
  | guestResume
  /-- GUEST_SWITCH (R418): GCMD SWITCH suspends one context and resumes another atomically. -/
  | guestSwitch
  /-- RESIDE (R408): GRCMD RESIDE validates and makes a graph resident, writing a completion record. -/
  | reside
  /-- RELEASE (R408): GRCMD RELEASE releases a graph from residency. -/
  | release
  /-- GRANULE_ASSIGN (R439): GNCMD assigns a granted granule to a context or a share. -/
  | granuleAssign
  /-- GRANULE_RELEASE (R439): GNCMD releases a granule after scrubbing it. -/
  | granuleRelease
  /-- CONTEXT_CREATE (R428): Writing CCTL.EXIST 1 creates a context. -/
  | contextCreate
  /-- CONTEXT_DESTROY (R428): Writing CCTL.EXIST 0 destroys a context and frees its resources. -/
  | contextDestroy
  /-- S1ROOT_WRITE (R323): A write to S1ROOT acts as INVAL.ALL of the context. -/
  | s1rootWrite
  /-- S2ROOT_WRITE (R323): A write to S2ROOT invalidates the partition's translations. -/
  | s2rootWrite
  /-- FRESOLVE_RETRY (R349): Resolving a fault record with retry restarts the stopped party or context. -/
  | fresolveRetry
  /-- FRESOLVE_STOP (R349): Resolving a fault record with stop freezes the context. -/
  | fresolveStop
  /-- FAULT_RING_WRITE (R348): A record is written to a fault ring when room exists, or waits. -/
  | faultRingWrite
  /-- QDIRTY_CLEAR (R424): Writing QDIRTY bit 31 clears both dirty bits. -/
  | qdirtyClear
  /-- COVGSTAT_WRITE (R392): A write clears BELOW and sets a clamped level. -/
  | covgstatWrite
  /-- LBCTL_WRITE (R368): Writes to LBCTL; a 0 in FROZEN restarts recording. -/
  | lbctlWrite
  /-- REGISTER_WRITE (R429): A write to a register with no row of its own takes effect when performed. -/
  | registerWrite
  /-- LOG_ENABLE (R358): Enables the context's undo log. -/
  | logEnable
  /-- LOG_DISABLE (R366): Disables the undo log. -/
  | logDisable
  /-- MARK (R360): Requests a window marker at the next commit. -/
  | mark
  /-- MARK_EVERY (R366): Sets a marker at every close. -/
  | markEvery
  /-- DRAIN (R361): Frees the oldest undo windows. -/
  | drain
  /-- BREAK_ENABLE (R234): Enables or disables breakpoints for the context. -/
  | breakEnable
  /-- STOP (R366): Stops the context at firing boundaries. -/
  | stop
  /-- RESUME (R446): Releases a waiting BRK and lets the context run. -/
  | resume
  /-- REWIND (R363): Voids open rounds, reverses committed windows back to k and restores the snapshot. -/
  | rewind
  /-- STEP_ROUNDS (R364): Replays n rounds with the recorded choices. -/
  | stepRounds
  /-- STEP_FIRING (R365): Runs until a party completes one firing. -/
  | stepFiring
  /-- MASK (R366): Masks or unmasks a party from selection under the debugger. -/
  | mask
  /-- CREATE (R420): HCMD CREATE builds a partition from a parameter block. -/
  | create
  /-- DESTROY (R438): HCMD DESTROY removes a partition. -/
  | destroy
  /-- RESET (R422): HCMD RESET freezes, power-cycles and clears a partition. -/
  | reset
  /-- GRANT (R339): HCMD GRANT gives a memory block to a partition. -/
  | grant
  /-- REMOVE (R339): HCMD REMOVE invalidates and scrubs a block and regrants it. -/
  | remove
  /-- SCRUB_COMPLETE (R339): A block's scrub completes and it becomes Free or Granted. -/
  | scrubComplete
  /-- BIND (R438): HCMD BIND binds a VF to a guest slot. -/
  | bind
  /-- EXPORT (R423): HCMD EXPORT holds frames and writes the partition's state to an area. -/
  | exportPart
  /-- IMPORT (R423): HCMD IMPORT rebuilds a partition from an export area. -/
  | importPart
  /-- SCRUB (R422): HCMD SCRUB zeroes every block of the partition in place. -/
  | scrub
  /-- PORT (R434): HCMD PORT assigns an Ethernet port to a partition or to none. -/
  | port
  /-- GRANULE_GRANT (R438): HCMD GRANULE with the grant bit set grants an SRAM granule. -/
  | granuleGrant
  /-- GRANULE_REVOKE (R438): HCMD GRANULE with the grant bit clear scrubs and revokes a granule. -/
  | granuleRevoke
  /-- S2INVAL (R334): HCMD S2INVAL invalidates stage-2 translations by drain tokens. -/
  | s2inval
  /-- PLACEFILL (R438): HCMD PLACEFILL adds frames to the placement lists. -/
  | placefill
  /-- DONATE (R353): HCMD DONATE adds device-memory frames to the save-frame list. -/
  | donate
  /-- RECLAIM (R438): HCMD RECLAIM takes back unused donated or placement frames. -/
  | reclaim
  /-- SAFECTL_CLR (R442): Writing SAFECTL.CLR deasserts the incident output. -/
  | safectlClr
  /-- SAFECTL_FORCE (R442): Writing SAFECTL.FORCE asserts the incident output. -/
  | safectlForce
  /-- SAFETY_TRIGGER (R442): A falling edge of a trigger input raises SAFETY_TRIGGER and may freeze the Logbook. -/
  | safetyTrigger
  /-- POWER_GOOD (R441): Power-good starts the boot sequence up to core release. -/
  | powerGood
  /-- VF_FLR (R432): A VF Function Level Reset destroys its guest's contexts and disables its queues. -/
  | vfFlr
  /-- PF_FLR (R432): A PF Function Level Reset resets every partition. -/
  | pfFlr
  /-- THERMAL_WARN (R426): A sensor at 95 degrees C throttles the die's islands. -/
  | thermalWarn
  /-- THERMAL_TRIP (R426): A sensor at 110 degrees C freezes the contexts on the die. -/
  | thermalTrip
  /-- THROTTLE_END (R426): Temperature or power recovery ends the island throttle. -/
  | throttleEnd
  /-- VOLTAGE_WARN (R437): A rail outside 3 percent for 10 us raises VOLTAGE_WARN. -/
  | voltageWarn
  /-- VOLTAGE_FAULT (R426): A rail outside 6 percent for 10 us resets the affected partitions. -/
  | voltageFault
  /-- POWER_LIMIT (R426): The 1 ms package power average exceeding PLIMIT throttles both dies. -/
  | powerLimit
  /-- UCIE_FLIT_ERROR (R356): A UCIe flit error is replayed, then retrained, then raised as UCIE_RETRY_EXHAUSTED. -/
  | ucieFlitError
  /-- GDDR_LINK_CRC (R356): A GDDR-7 burst CRC failure is re-issued and may start a retraining. -/
  | gddrLinkCrc
  /-- GDDR_RETRAIN_DONE (R436): GDDR-7 retraining completes and held requests proceed. -/
  | gddrRetrainDone
  /-- PROMPTER_FAILOVER (R425): A 100 us heartbeat lapse hands control to the standby Prompter. -/
  | prompterFailover
  /-- PAGE_BECOMES_ELIGIBLE (R244): A resident page reaches 2 us of residency, or 2 us without firing, and the Stagehand chooses a victim again for a pending page or a lowered quota. -/
  | pageBecomesEligible
  /-- VACATE_DEADLINE (R394): The 100 us vacate deadline of a TEST expires, and a region whose page could not be evicted fails the TEST with OPERAND_FORMAT. -/
  | vacateDeadline
  /-- PCIE_LINK_UP (R433): The PCIe link comes up, and core accesses to the host window reach the host instead of faulting. -/
  | pcieLinkUp
  /-- PCIE_LINK_DOWN (R433): The PCIe link goes down, and core accesses to the host window become access faults. -/
  | pcieLinkDown
  /-- TRIGGER_INPUT_RISE (R442): A trigger input is deasserted after its debounce, and its SAFECTL IN bit clears. -/
  | triggerInputRise
  /-- ETHERNET_TRANSMIT (R434): The port DMA transmits from a transmit descriptor, and a descriptor that names a CTXID seals that context's window. -/
  | ethernetTransmit
  /-- ETHERNET_RECEIVE (R434): A frame arriving on an assigned port is written by the port DMA into the receive ring as a committed SYSTEM-scope write. -/
  | ethernetReceive
  /-- GATE_CONTROL_INTERVAL (R435): The interval of an 802.1Qbv gate control list entry expires, and the next gate mask takes effect. -/
  | gateControlInterval
  deriving DecidableEq, Repr

end Sys2Proof
end

