-- ==== Sys2Proof/WellFormed.lean ====
section
/-!
DEFINITION. Which instruction words the configuration loader accepts: the opcode map of 03_opcode_map, the field
tables of the instruction chapters, and the causes 0x02 to 0x08 of R76 that one word alone can show.
-/
namespace Sys2Proof

/-- Where a word stands (R86), with the block flags that a word's check reads (R62: privileged, ordered reduce). -/
inductive Site where
  | elem
  | actor (priv ordRed : Bool)
  | handler (priv ordRed : Bool)
  | island
  deriving DecidableEq, Repr

namespace Site

/-- BFLG bit 7 of the block (R87). -/
def priv : Site → Bool
  | .actor p _ => p
  | .handler p _ => p
  | _ => false

/-- BFLG bit 5 of the block (R156). -/
def ordRed : Site → Bool
  | .actor _ o => o
  | .handler _ o => o
  | _ => false

end Site

/-- A row of the opcode table (R89): code, contexts, privilege, type codes ([] for a typeless opcode). -/
structure OpInfo where
  code : Nat
  elem : Bool
  actor : Bool
  handler : Bool
  island : Bool
  priv : Bool
  tys : List Ty
  deriving DecidableEq, Repr

/-- The opcode table (R89); an event of the device's other agents has no opcode. -/
def opInfo : Instr → Option OpInfo
  | .nop _ => some ⟨0x00, true, true, true, true, false, []⟩
  | .add _ => some ⟨0x01, true, true, true, false, false, [.i32, .n32, .i16x2, .n16x2, .i8x4, .n8x4]⟩
  | .sub _ => some ⟨0x02, true, true, true, false, false, [.i32, .n32, .i16x2, .n16x2, .i8x4, .n8x4]⟩
  | .rsub _ => some ⟨0x03, true, true, true, false, false, [.i32, .n32, .i16x2, .n16x2, .i8x4, .n8x4]⟩
  | .adds _ => some ⟨0x04, true, true, true, false, false, [.i32, .i16x2, .i8x4]⟩
  | .subs _ => some ⟨0x05, true, true, true, false, false, [.i32, .i16x2, .i8x4]⟩
  | .addsn _ => some ⟨0x06, true, true, true, false, false, [.n32, .n16x2, .n8x4]⟩
  | .subsn _ => some ⟨0x07, true, true, true, false, false, [.n32, .n16x2, .n8x4]⟩
  | .mul _ => some ⟨0x08, true, true, true, false, false, [.i32, .n32, .i16x2, .n16x2, .i8x4, .n8x4]⟩
  | .mulh _ => some ⟨0x09, true, true, true, false, false, [.i32, .i16x2, .i8x4]⟩
  | .mulhn _ => some ⟨0x0A, true, true, true, false, false, [.n32, .n16x2, .n8x4]⟩
  | .mad _ => some ⟨0x0B, true, true, true, false, false, [.i32, .n32, .i16x2, .n16x2, .i8x4, .n8x4]⟩
  | .div _ => some ⟨0x0C, true, true, true, false, false, [.i32, .i16x2, .i8x4]⟩
  | .divn _ => some ⟨0x0D, true, true, true, false, false, [.n32, .n16x2, .n8x4]⟩
  | .rem _ => some ⟨0x0E, true, true, true, false, false, [.i32, .i16x2, .i8x4]⟩
  | .remn _ => some ⟨0x0F, true, true, true, false, false, [.n32, .n16x2, .n8x4]⟩
  | .min _ => some ⟨0x10, true, true, true, false, false, [.i32, .i16x2, .i8x4]⟩
  | .max _ => some ⟨0x11, true, true, true, false, false, [.i32, .i16x2, .i8x4]⟩
  | .minn _ => some ⟨0x12, true, true, true, false, false, [.n32, .n16x2, .n8x4]⟩
  | .maxn _ => some ⟨0x13, true, true, true, false, false, [.n32, .n16x2, .n8x4]⟩
  | .abs _ => some ⟨0x14, true, true, true, false, false, [.i32, .i16x2, .i8x4]⟩
  | .neg _ => some ⟨0x15, true, true, true, false, false, [.i32, .i16x2, .i8x4]⟩
  | .clamp _ => some ⟨0x16, true, true, true, false, false, [.i32, .n32, .i16x2, .n16x2, .i8x4, .n8x4]⟩
  | .and _ => some ⟨0x17, true, true, true, false, false, []⟩
  | .or _ => some ⟨0x18, true, true, true, false, false, []⟩
  | .xor _ => some ⟨0x19, true, true, true, false, false, []⟩
  | .andn _ => some ⟨0x1A, true, true, true, false, false, []⟩
  | .not _ => some ⟨0x1B, true, true, true, false, false, []⟩
  | .shl _ => some ⟨0x1C, true, true, true, false, false, [.i32, .n32, .i16x2, .n16x2, .i8x4, .n8x4]⟩
  | .shr _ => some ⟨0x1D, true, true, true, false, false, [.i32, .n32, .i16x2, .n16x2, .i8x4, .n8x4]⟩
  | .sar _ => some ⟨0x1E, true, true, true, false, false, [.i32, .i16x2, .i8x4]⟩
  | .rol _ => some ⟨0x1F, true, true, true, false, false, [.i32, .n32]⟩
  | .ror _ => some ⟨0x20, true, true, true, false, false, [.i32, .n32]⟩
  | .clz _ => some ⟨0x21, true, true, true, false, false, [.i32, .n32]⟩
  | .ctz _ => some ⟨0x22, true, true, true, false, false, [.i32, .n32]⟩
  | .popc _ => some ⟨0x23, true, true, true, false, false, [.i32, .n32]⟩
  | .brev _ => some ⟨0x24, true, true, true, false, false, [.i32, .n32]⟩
  | .bfx _ => some ⟨0x25, true, true, true, false, false, [.i32, .n32]⟩
  | .bfxs _ => some ⟨0x26, true, true, true, false, false, [.i32]⟩
  | .bfi _ => some ⟨0x27, true, true, true, false, false, [.i32, .n32]⟩
  | .bytep _ => some ⟨0x28, true, true, true, false, false, []⟩
  | .shrr _ => some ⟨0x29, true, true, true, false, false, [.i32, .i16x2, .i8x4]⟩
  | .satw _ => some ⟨0x2A, true, true, true, false, false, [.i32]⟩
  | .satwn _ => some ⟨0x2B, true, true, true, false, false, [.n32]⟩
  | .lea _ => some ⟨0x2C, true, true, true, false, false, [.n32]⟩
  | .cmp _ => some ⟨0x30, true, true, true, false, false, [.i32, .n32, .i16x2, .n16x2, .i8x4, .n8x4]⟩
  | .tst _ => some ⟨0x31, true, true, true, false, false, [.i32, .n32, .i16x2, .n16x2, .i8x4, .n8x4]⟩
  | .sel _ => some ⟨0x32, true, true, true, false, false, []⟩
  | .mov _ => some ⟨0x33, true, true, true, false, false, []⟩
  | .lit _ => some ⟨0x34, true, true, true, false, false, []⟩
  | .dot4 _ => some ⟨0x35, true, true, true, false, false, [.i8x4, .n8x4]⟩
  | .dot2 _ => some ⟨0x36, true, true, true, false, false, [.i16x2, .n16x2]⟩
  | .sad4 _ => some ⟨0x37, true, true, true, false, false, [.i8x4, .n8x4]⟩
  | .pack _ => some ⟨0x38, true, true, true, false, false, [.i16x2, .n16x2, .i8x4, .n8x4]⟩
  | .unpkl _ => some ⟨0x39, true, true, true, false, false, [.i16x2, .n16x2, .i8x4, .n8x4]⟩
  | .unpkh _ => some ⟨0x3A, true, true, true, false, false, [.i16x2, .n16x2, .i8x4, .n8x4]⟩
  | .fadd _ => some ⟨0x40, true, true, true, false, false, [.f32, .bf16x2, .f16x2]⟩
  | .fsub _ => some ⟨0x41, true, true, true, false, false, [.f32, .bf16x2, .f16x2]⟩
  | .fmul _ => some ⟨0x42, true, true, true, false, false, [.f32, .bf16x2, .f16x2]⟩
  | .ffma _ => some ⟨0x43, true, true, true, false, false, [.f32, .bf16x2, .f16x2]⟩
  | .ffms _ => some ⟨0x44, true, true, true, false, false, [.f32, .bf16x2, .f16x2]⟩
  | .fmin _ => some ⟨0x45, true, true, true, false, false, [.f32, .bf16x2, .f16x2]⟩
  | .fmax _ => some ⟨0x46, true, true, true, false, false, [.f32, .bf16x2, .f16x2]⟩
  | .fminm _ => some ⟨0x47, true, true, true, false, false, [.f32, .bf16x2, .f16x2]⟩
  | .fmaxm _ => some ⟨0x48, true, true, true, false, false, [.f32, .bf16x2, .f16x2]⟩
  | .fabs _ => some ⟨0x49, true, true, true, false, false, [.f32, .bf16x2, .f16x2]⟩
  | .fneg _ => some ⟨0x4A, true, true, true, false, false, [.f32, .bf16x2, .f16x2]⟩
  | .fcmp _ => some ⟨0x4B, true, true, true, false, false, [.f32, .bf16x2, .f16x2]⟩
  | .fcls _ => some ⟨0x4C, true, true, true, false, false, [.f32, .bf16x2, .f16x2]⟩
  | .frcp _ => some ⟨0x4D, true, true, true, false, false, [.f32]⟩
  | .frsq _ => some ⟨0x4E, true, true, true, false, false, [.f32]⟩
  | .fsqrt _ => some ⟨0x4F, true, true, true, false, false, [.f32]⟩
  | .fdiv _ => some ⟨0x50, true, true, true, false, false, [.f32]⟩
  | .fexp2 _ => some ⟨0x51, true, true, true, false, false, [.f32]⟩
  | .flog2 _ => some ⟨0x52, true, true, true, false, false, [.f32]⟩
  | .frnd _ => some ⟨0x53, true, true, true, false, false, [.f32, .bf16x2, .f16x2]⟩
  | .fldx _ => some ⟨0x54, true, true, true, false, false, [.f32]⟩
  | .fscl _ => some ⟨0x55, true, true, true, false, false, [.f32, .bf16x2, .f16x2]⟩
  | .cvti _ => some ⟨0x60, true, true, true, false, false, [.f32, .bf16x2, .f16x2]⟩
  | .cvtf _ => some ⟨0x61, true, true, true, false, false, [.f32, .bf16x2, .f16x2, .e4m3x4, .e5m2x4]⟩
  | .cvtw _ => some ⟨0x62, true, true, true, false, false, [.bf16x2, .f16x2, .e4m3x4, .e5m2x4]⟩
  | .fxpk _ => some ⟨0x63, false, true, true, false, false, [.fx4x8]⟩
  | .fxun _ => some ⟨0x64, false, true, true, false, false, [.fx4x8]⟩
  | .fxsc _ => some ⟨0x65, false, true, true, false, false, [.fx4x8]⟩
  | .steer _ => some ⟨0x70, true, true, true, false, false, []⟩
  | .cmerge _ => some ⟨0x71, true, true, true, false, false, []⟩
  | .merge _ => some ⟨0x72, true, true, true, false, false, []⟩
  | .omerge _ => some ⟨0x73, true, true, true, false, false, []⟩
  | .gate _ => some ⟨0x74, true, true, true, false, false, []⟩
  | .dup _ => some ⟨0x75, true, true, true, false, false, []⟩
  | .drop _ => some ⟨0x76, true, true, true, false, false, []⟩
  | .repeatSeg _ => some ⟨0x77, true, false, false, false, false, []⟩
  | .count _ => some ⟨0x78, true, true, true, false, false, []⟩
  | .iter _ => some ⟨0x79, true, true, true, false, false, [.i32, .n32]⟩
  | .strikeMake _ => some ⟨0x7A, true, true, true, false, false, []⟩
  | .strikeAnnul _ => some ⟨0x7A, true, false, false, false, false, []⟩
  | .join _ => some ⟨0x7B, true, true, true, false, false, []⟩
  | .reduce _ => some ⟨0x7C, true, true, true, false, false, [.i32, .n32, .i16x2, .n16x2, .i8x4, .n8x4, .f32, .bf16x2, .f16x2]⟩
  | .scanp _ => some ⟨0x7D, true, true, true, false, false, [.i32, .n32, .i16x2, .n16x2, .i8x4, .n8x4, .f32, .bf16x2, .f16x2]⟩
  | .mkeos _ => some ⟨0x7E, true, true, true, false, false, []⟩
  | .oneos _ => some ⟨0x7F, true, true, true, false, false, []⟩
  | .tagr _ => some ⟨0x80, true, true, true, false, false, []⟩
  | .tagw _ => some ⟨0x81, true, true, true, false, false, []⟩
  | .nexti _ => some ⟨0x82, true, true, true, false, false, []⟩
  | .wid _ => some ⟨0x83, true, true, true, false, false, [.n32]⟩
  | .arg _ => some ⟨0x84, true, true, true, false, false, []⟩
  | .argw _ => some ⟨0x85, false, true, true, false, false, []⟩
  | .launch _ => some ⟨0x86, false, true, false, false, false, []⟩
  | .call _ => some ⟨0x87, false, true, false, false, false, []⟩
  | .rclose _ => some ⟨0x88, true, true, true, false, false, []⟩
  | .recv _ => some ⟨0x90, false, true, true, false, false, []⟩
  | .peek _ => some ⟨0x91, false, true, true, false, false, []⟩
  | .emit _ => some ⟨0x92, false, true, true, false, false, []⟩
  | .advr _ => some ⟨0x93, false, true, true, false, false, []⟩
  | .advw _ => some ⟨0x94, false, true, true, false, false, []⟩
  | .cbq _ => some ⟨0x95, false, true, true, false, false, []⟩
  | .ld _ => some ⟨0xA0, true, true, true, false, false, [.i32, .n32, .i16x2, .n16x2, .i8x4, .n8x4, .f32, .bf16x2, .f16x2, .e4m3x4, .e5m2x4, .fx4x8]⟩
  | .st _ => some ⟨0xA1, true, true, true, false, false, [.i32, .n32, .i16x2, .n16x2, .i8x4, .n8x4, .f32, .bf16x2, .f16x2, .e4m3x4, .e5m2x4, .fx4x8]⟩
  | .ldx _ => some ⟨0xA2, false, true, true, false, false, []⟩
  | .stx _ => some ⟨0xA3, false, true, true, false, false, []⟩
  | .pf _ => some ⟨0xA4, true, true, true, false, false, []⟩
  | .aadd _ => some ⟨0xA5, true, true, true, false, false, [.i32, .n32, .i16x2, .n16x2, .i8x4, .n8x4]⟩
  | .aadds _ => some ⟨0xA6, true, true, true, false, false, [.i32, .i16x2, .i8x4]⟩
  | .amin _ => some ⟨0xA7, true, true, true, false, false, [.i32, .i16x2, .i8x4]⟩
  | .amax _ => some ⟨0xA8, true, true, true, false, false, [.i32, .i16x2, .i8x4]⟩
  | .aminn _ => some ⟨0xA9, true, true, true, false, false, [.n32, .n16x2, .n8x4]⟩
  | .amaxn _ => some ⟨0xAA, true, true, true, false, false, [.n32, .n16x2, .n8x4]⟩
  | .aand _ => some ⟨0xAB, true, true, true, false, false, []⟩
  | .aor _ => some ⟨0xAC, true, true, true, false, false, []⟩
  | .axor _ => some ⟨0xAD, true, true, true, false, false, []⟩
  | .axch _ => some ⟨0xAE, true, true, true, false, false, []⟩
  | .acas _ => some ⟨0xAF, true, true, true, false, false, []⟩
  | .acasD _ => some ⟨0xAF, false, true, true, false, false, []⟩
  | .afadd _ => some ⟨0xB0, true, true, true, false, false, [.f32, .bf16x2, .f16x2]⟩
  | .ainc _ => some ⟨0xB1, true, true, true, false, false, [.n32]⟩
  | .fenceAcq _ => some ⟨0xB2, true, true, true, false, false, []⟩
  | .fenceRel _ => some ⟨0xB2, true, true, true, false, false, []⟩
  | .fenceAr _ => some ⟨0xB2, true, true, true, false, false, []⟩
  | .mma _ => some ⟨0xC0, false, false, false, true, false, [.i8x4, .n8x4, .bf16x2, .f16x2, .e4m3x4, .e5m2x4, .fx4x8]⟩
  | .mmat _ => some ⟨0xC1, false, false, false, true, false, [.i8x4, .n8x4, .bf16x2, .f16x2, .e4m3x4, .e5m2x4, .fx4x8]⟩
  | .mmas _ => some ⟨0xC2, false, false, false, true, false, [.i8x4, .n8x4, .bf16x2, .f16x2, .e4m3x4, .e5m2x4, .fx4x8]⟩
  | .ldt _ => some ⟨0xC3, false, false, false, true, false, []⟩
  | .ldtt _ => some ⟨0xC4, false, false, false, true, false, []⟩
  | .stt _ => some ⟨0xC5, false, false, false, true, false, []⟩
  | .lda _ => some ⟨0xC6, false, false, false, true, false, [.i32, .f32]⟩
  | .sta _ => some ⟨0xC7, false, false, false, true, false, [.i32, .f32]⟩
  | .rda _ => some ⟨0xC8, false, false, false, true, false, [.i32, .f32]⟩
  | .zacc _ => some ⟨0xC9, false, false, false, true, false, [.i32, .f32]⟩
  | .sca _ => some ⟨0xCA, false, false, false, true, false, [.f32]⟩
  | .vmaxr _ => some ⟨0xCB, false, false, false, true, false, [.f32]⟩
  | .vsumr _ => some ⟨0xCC, false, false, false, true, false, [.f32]⟩
  | .vexp2 _ => some ⟨0xCD, false, false, false, true, false, [.f32]⟩
  | .vadd _ => some ⟨0xCE, false, false, false, true, false, [.f32]⟩
  | .vsub _ => some ⟨0xCF, false, false, false, true, false, [.f32]⟩
  | .vmul _ => some ⟨0xD0, false, false, false, true, false, [.f32]⟩
  | .vfma _ => some ⟨0xD1, false, false, false, true, false, [.f32]⟩
  | .vmax _ => some ⟨0xD2, false, false, false, true, false, [.f32]⟩
  | .vcvt _ => some ⟨0xD3, false, false, false, true, false, [.i8x4, .n8x4, .bf16x2, .f16x2, .e4m3x4, .e5m2x4, .fx4x8]⟩
  | .vbcast _ => some ⟨0xD4, false, false, false, true, false, [.f32]⟩
  | .iloop _ => some ⟨0xD5, false, false, false, true, false, []⟩
  | .iwait _ => some ⟨0xD6, false, false, false, true, false, []⟩
  | .iemitPkt _ => some ⟨0xD7, false, false, false, true, false, []⟩
  | .iemitTok _ => some ⟨0xD7, false, false, false, true, false, []⟩
  | .isync _ => some ⟨0xD8, false, false, false, true, false, []⟩
  | .sendCopy _ => some ⟨0xE0, false, true, true, false, false, []⟩
  | .sendFill _ => some ⟨0xE0, false, true, true, false, false, []⟩
  | .sendGather _ => some ⟨0xE0, false, true, true, false, false, []⟩
  | .sendScatter _ => some ⟨0xE0, false, true, true, false, false, []⟩
  | .sendIstream _ => some ⟨0xE0, false, true, true, false, false, []⟩
  | .sendPublish _ => some ⟨0xE0, false, true, true, false, false, []⟩
  | .sendDiscard _ => some ⟨0xE0, false, true, true, false, false, []⟩
  | .sendPreload _ => some ⟨0xE0, false, true, true, false, false, []⟩
  | .sendMigrate _ => some ⟨0xE0, false, true, true, false, false, []⟩
  | .sendMark _ => some ⟨0xE0, false, true, true, false, false, []⟩
  | .sendTest _ => some ⟨0xE0, false, true, true, false, false, []⟩
  | .sendw _ => some ⟨0xE1, false, true, true, false, false, []⟩
  | .sendwCensus _ => some ⟨0xE1, false, true, true, false, false, []⟩
  | .sendwQuery _ => some ⟨0xE1, false, true, true, false, false, []⟩
  | .trap _ => some ⟨0xF0, true, true, true, false, false, []⟩
  | .brk _ => some ⟨0xF1, true, true, true, false, false, []⟩
  | .wmark _ => some ⟨0xF2, false, true, true, false, false, []⟩
  | .sealWindow _ => some ⟨0xF3, false, true, true, false, false, []⟩
  | .rdsr _ => some ⟨0xF4, false, true, true, false, false, []⟩
  | .wrsrAflg _ => some ⟨0xF5, false, true, true, false, false, []⟩
  | .wrsrRtmr _ => some ⟨0xF5, false, true, true, false, false, []⟩
  | .wrsrQuota _ => some ⟨0xF5, false, true, true, false, false, []⟩
  | .inval _ => some ⟨0xF6, false, true, true, false, true, []⟩
  | .invalAll _ => some ⟨0xF6, false, true, true, false, true, []⟩
  | .pgld _ => some ⟨0xF7, false, true, false, false, true, []⟩
  | .pgev _ => some ⟨0xF8, false, true, false, false, true, []⟩
  | .fold _ => some ⟨0xF9, false, true, false, false, true, []⟩
  | .yield _ => some ⟨0xFA, false, true, false, false, false, []⟩
  | .census _ => some ⟨0xFB, false, true, true, false, true, []⟩
  | .actorSelect => none
  | .firingComplete => none
  | .matchOverflowProbe => none
  | .listenArrival => none
  | .emitForward => none
  | .tokenHop => none
  | .egressLookup => none
  | .cueMark => none
  | .censusToken => none
  | .unknownControlCode => none
  | .notify => none
  | .arm => none
  | .passEnd => none
  | .sectionEnd => none
  | .sectionDone => none
  | .islandCut => none
  | .generatorStart => none
  | .generatorStop => none
  | .writeNodeData => none
  | .writeNodeEos => none
  | .generatorEmit => none
  | .windowReturn => none
  | .homeArbitrate => none
  | .accessResponse => none
  | .roundTimer => none
  | .closeRequest => none
  | .cutReport => none
  | .commit => none
  | .writeBack => none
  | .void => none
  | .freeze => none
  | .trapDeliver => none
  | .trapAccept => none
  | .pageSignal => none
  | .pageLoadDone => none
  | .wingDrain => none
  | .evictionSave => none
  | .regionAssign => none
  | .foldTurnEnd => none
  | .savePoolWaitEnd => none
  | .tlbWalkStep => none
  | .drainAck => none
  | .placement => none
  | .replicaCollapse => none
  | .pullRetry => none
  | .pullComplete => none
  | .copy => none
  | .fill => none
  | .gather => none
  | .scatter => none
  | .publish => none
  | .discard => none
  | .istream => none
  | .preload => none
  | .migrate => none
  | .logbookMark => none
  | .scanTest => none
  | .scanPhaseEnd => none
  | .quadClaim => none
  | .censusSweep => none
  | .prompterQuery => none
  | .engineReply => none
  | .regionRetire => none
  | .repairMapWrite => none
  | .hang => none
  | .logbookTimeRecord => none
  | .qnotifyWrite => none
  | .distributorSelect => none
  | .argBlockLoad => none
  | .tagWait => none
  | .walkerEmit => none
  | .sinkCounted => none
  | .frameComplete => none
  | .phaseRelease => none
  | .sliceEnd => none
  | .sliceWatchdog => none
  | .regionShrink => none
  | .preemptUnfold => none
  | .infillStart => none
  | .infillPoint => none
  | .coverageUpdate => none
  | .guestSuspend => none
  | .guestResume => none
  | .guestSwitch => none
  | .reside => none
  | .release => none
  | .granuleAssign => none
  | .granuleRelease => none
  | .contextCreate => none
  | .contextDestroy => none
  | .s1rootWrite => none
  | .s2rootWrite => none
  | .fresolveRetry => none
  | .fresolveStop => none
  | .faultRingWrite => none
  | .qdirtyClear => none
  | .covgstatWrite => none
  | .lbctlWrite => none
  | .registerWrite => none
  | .logEnable => none
  | .logDisable => none
  | .mark => none
  | .markEvery => none
  | .drain => none
  | .breakEnable => none
  | .stop => none
  | .resume => none
  | .rewind => none
  | .stepRounds => none
  | .stepFiring => none
  | .mask => none
  | .create => none
  | .destroy => none
  | .reset => none
  | .grant => none
  | .remove => none
  | .scrubComplete => none
  | .bind => none
  | .exportPart => none
  | .importPart => none
  | .scrub => none
  | .port => none
  | .granuleGrant => none
  | .granuleRevoke => none
  | .s2inval => none
  | .placefill => none
  | .donate => none
  | .reclaim => none
  | .safectlClr => none
  | .safectlForce => none
  | .safetyTrigger => none
  | .powerGood => none
  | .vfFlr => none
  | .pfFlr => none
  | .thermalWarn => none
  | .thermalTrip => none
  | .throttleEnd => none
  | .voltageWarn => none
  | .voltageFault => none
  | .powerLimit => none
  | .ucieFlitError => none
  | .gddrLinkCrc => none
  | .gddrRetrainDone => none
  | .prompterFailover => none
  | .pageBecomesEligible => none
  | .vacateDeadline => none
  | .pcieLinkUp => none
  | .pcieLinkDown => none
  | .triggerInputRise => none
  | .ethernetTransmit => none
  | .ethernetReceive => none
  | .gateControlInterval => none
namespace OpInfo

/-- An opcode is legal where its context letter stands in the table (R86). -/
def legalAt (o : OpInfo) : Site → Bool
  | .elem => o.elem
  | .actor _ _ => o.actor
  | .handler _ _ => o.handler
  | .island => o.island

/-- The opcode accepts this type code; a typeless opcode has TY 0000 (R88). -/
def takes (o : OpInfo) (t : Ty) : Bool :=
  if o.tys.isEmpty then t == .i32 else o.tys.contains t

end OpInfo

namespace Ty

/-- The type code (R12). -/
def code : Ty → Nat
  | .i32 => 0 | .n32 => 1 | .i16x2 => 2 | .n16x2 => 3 | .i8x4 => 4 | .n8x4 => 5
  | .f32 => 6 | .bf16x2 => 7 | .f16x2 => 8 | .e4m3x4 => 9 | .e5m2x4 => 10 | .fx4x8 => 11

/-- The type of a code; 12 to 15 are refused (R12). -/
def ofCode (n : Nat) : Option Ty :=
  match n with
  | 0 => some .i32 | 1 => some .n32 | 2 => some .i16x2 | 3 => some .n16x2 | 4 => some .i8x4 | 5 => some .n8x4
  | 6 => some .f32 | 7 => some .bf16x2 | 8 => some .f16x2 | 9 => some .e4m3x4 | 10 => some .e5m2x4 | 11 => some .fx4x8
  | _ => none

/-- Lanes of a word (R12). -/
def lanes : Ty → Nat
  | .i32 => 1 | .n32 => 1 | .i16x2 => 2 | .n16x2 => 2 | .i8x4 => 4 | .n8x4 => 4
  | .f32 => 1 | .bf16x2 => 2 | .f16x2 => 2 | .e4m3x4 => 4 | .e5m2x4 => 4 | .fx4x8 => 8

/-- Width of a lane (R12). -/
def width : Ty → Nat
  | .i32 => 32 | .n32 => 32 | .i16x2 => 16 | .n16x2 => 16 | .i8x4 => 8 | .n8x4 => 8
  | .f32 => 32 | .bf16x2 => 16 | .f16x2 => 16 | .e4m3x4 => 8 | .e5m2x4 => 8 | .fx4x8 => 4

/-- Two's-complement integer lanes (R12). -/
def signed : Ty → Bool
  | .i32 => true | .i16x2 => true | .i8x4 => true | _ => false

/-- Floating-point lanes (R12). -/
def isFloat : Ty → Bool
  | .f32 => true | .bf16x2 => true | .f16x2 => true | .e4m3x4 => true | .e5m2x4 => true | .fx4x8 => true
  | _ => false

end Ty

/-- What a target of a block instruction may be (R60 and the entries that restrict it). -/
inductive TargetRule where
  | any | none | emitPort
  deriving DecidableEq, Repr

/-- How one opcode uses the fields of its word in one context (R96, R125, R171, R214, R233). -/
structure Rule where
  /-- MD values that are not refused; a rule that does not use MD reserves it. -/
  md : List Nat := [0]
  mdUsed : Bool := false
  /-- MD values from here on set a bit that the opcode does not use; such a bit is reserved. -/
  mdTop : Nat := 8
  /-- The bits of X that the opcode uses; the others are reserved. -/
  x : Nat := 0
  /-- The bits of IMM16 that the opcode reads when RI is 0; the others are reserved. -/
  imm : Nat := 0
  /-- RI may be 1 (blocks). -/
  ri : Bool := false
  /-- IMM16 under RI is zero-extended whatever the type, and none of its values is refused (R172). -/
  immRaw : Bool := false
  /-- No refused value or combination stands in the word. -/
  ok : Bool := true
  /-- The instruction reads its left slot, its right slot (blocks); an element opcode that reads no right operand
  is refused with R enabled when `unary` holds. -/
  left : Bool := true
  right : Bool := true
  unary : Bool := false
  /-- The constant of R95 is read through X[3:0] and X[9:8]. -/
  const : Bool := false
  /-- The constant of R125 and R171 is read through X[7:4] and X[9:8]. -/
  const4 : Bool := false
  t1 : TargetRule := .any
  t2 : TargetRule := .any
  deriving DecidableEq, Repr

namespace Rule

/-- MD values 000 to 100 name the rounding modes (R25). -/
def rounding : List Nat := [0, 1, 2, 3, 4]

/-- Scopes (R171). -/
def scopes : List Nat := [0, 1, 2, 3]

/-- Two operands, RI allowed (R95). -/
def bin : Rule := { ri := true }

/-- One operand (R94, R95). -/
def un : Rule := { right := false, unary := true }

/-- Three operands: a block takes the third from a constant (R94, R95). -/
def tri (block : Bool) : Rule := { ri := true, x := if block then 0x30F else 0, const := block }

/-- The same rule with MD used and these values allowed. -/
def withMd (r : Rule) (l : List Nat) : Rule := { r with md := l, mdUsed := true }

/-- One operand, a trigger or a value, and nothing else. -/
def one : Rule := { right := false }

/-- An atomic (R171): node, scope, RI in blocks. -/
def atomic : Rule := { md := scopes, mdUsed := true, mdTop := 4, x := 7, ri := true }

/-- A message (R214): the named slot, operands only under .OV. -/
def message (md x : Nat) (ok : Bool) : Rule :=
  { md := [0, 1, 2, 3, 4, 5, 6, 7], mdUsed := true, x := 0xFF, imm := 0x3FF, ok := ok && x < 0x100, left := 4 ≤ md, right := 4 ≤ md }

end Rule

/-- Field bits `lo` to `lo + n - 1` of a number. -/
def bitsOf (v lo n : Nat) : Nat := v / 2 ^ lo % 2 ^ n

namespace Form

/-- The form is a block instruction. -/
def isBlock : Form → Bool
  | .elem _ => false
  | .block _ => true

/-- Type code of the word. -/
def ty : Form → Ty
  | .elem e => e.ty
  | .block b => b.ty

/-- MD of the word. -/
def md : Form → Nat
  | .elem e => e.md.toNat
  | .block b => b.md.toNat

/-- X of the word. -/
def x : Form → Nat
  | .elem e => e.x.toNat
  | .block b => b.x.toNat

/-- RI of a block word; an element has none. -/
def ri : Form → Bool
  | .elem _ => false
  | .block b => b.ri

/-- IMM16 of a block word; an element has none. -/
def imm : Form → Nat
  | .elem _ => 0
  | .block b => b.imm.toNat

/-- Predicate mode. -/
def pm : Form → PredMode
  | .elem e => e.pm
  | .block b => b.pm

/-- The element's queue P or R is enabled; a block has no queues. -/
def enables (f : Form) (q : QueueName) : Bool :=
  match f with
  | .elem e => match q with
    | .L => e.qL
    | .R => e.qR
    | .P => e.qP
    | .O => e.qO
  | .block _ => false

end Form

/-- A level field is not 6 or 7 (R125). -/
def levelOk (v : Nat) : Bool := v % 8 < 6

/-- The CVTF pair of source and destination formats is listed, and its lane exists (R122). -/
def cvtfOk (dst : Ty) (x : Nat) : Bool :=
  match Ty.ofCode (x % 16) with
  | none => false
  | some src =>
    let lane := bitsOf x 4 2
    if src = dst then src.isFloat && src != .fx4x8
    else if src = .f32 then dst.isFloat && dst != .fx4x8 && lane < dst.lanes
    else if dst = .f32 then src.isFloat && src != .fx4x8 && lane < src.lanes
    else (src = .f16x2 && dst = .bf16x2) || (src = .bf16x2 && dst = .f16x2) ||
         (src = .e5m2x4 && dst = .e4m3x4) || (src = .e4m3x4 && dst = .e5m2x4)

/-- CVTF widens to FP32, and then uses neither MD nor X[6] (R123). -/
def cvtfWidens (dst : Ty) (x : Nat) : Bool := dst == .f32 && x % 16 != 6

/-- CVTF converts every lane in place, and then does not use X[5:4] (R122). -/
def cvtfInPlace (dst : Ty) (x : Nat) : Bool := !(dst != .f32 && x % 16 == 6) && !cvtfWidens dst x

/-- CVTF inserts one lane, so that the other lanes come from the right operand (R122). -/
def cvtfInserts (dst : Ty) (x : Nat) : Bool := x % 16 == 6 && dst != .f32

/-- CMP's condition exists and has the signedness of the type (R108). -/
def cmpOk (t : Ty) (x : Nat) : Bool :=
  let c := x % 16
  c < 2 || (c < 6 && t.signed) || (6 ≤ c && c < 10 && !t.signed)

/-- The rule of an opcode that elements and blocks hold, as the entries of 04 give it. DESIGN CHOICE (log 145), unsafe. -/
def scalarRule (i : Instr) : Option (Form × Rule) :=
  let tri (f : Form) := (f, Rule.tri f.isBlock)
  match i with
  | .add f | .sub f | .rsub f | .adds f | .subs f | .addsn f | .subsn f | .mul f | .mulh f | .mulhn f
  | .div f | .divn f | .rem f | .remn f | .min f | .max f | .minn f | .maxn f
  | .and f | .or f | .xor f | .andn f | .shl f | .shr f | .sar f | .rol f | .ror f | .shrr f
  | .fmin f | .fmax f | .fminm f | .fmaxm f => some (f, Rule.bin)
  | .mad f | .clamp f | .bytep f | .sel f => some (tri f)
  | .dot4 f | .dot2 f | .sad4 f => some (f, (Rule.tri f.isBlock).withMd [0, 1])
  | .ffma f | .ffms f => some (f, (Rule.tri f.isBlock).withMd Rule.rounding)
  | .abs f | .neg f | .not f | .clz f | .ctz f | .popc f | .brev f | .mov f | .unpkl f | .unpkh f
  | .fabs f | .fneg f | .fcls f => some (f, Rule.un)
  | .satw f | .satwn f => some (f, Rule.un.withMd [0, 1])
  | .bfx f | .bfxs f => some (f, { Rule.un with x := 0x3FF, ok := bitsOf f.x 0 5 + bitsOf f.x 5 5 + 1 ≤ 32 })
  | .bfi f => some (f, { Rule.bin with x := 0x3FF, ok := bitsOf f.x 0 5 + bitsOf f.x 5 5 + 1 ≤ 32 })
  | .lea f => some (f, { Rule.bin.withMd [0, 1, 2, 3, 4, 5, 6, 7] with x := 7 })
  | .cmp f => some (f, { Rule.bin with x := 0xF, ok := cmpOk f.ty f.x })
  | .tst f => some (f, Rule.bin.withMd [0, 1])
  | .lit f => some (f, { ri := true, right := false, x := if f.isBlock && !f.ri then 0x30F else 0, const := f.isBlock && !f.ri })
  | .pack f => some (f, Rule.bin.withMd [0, 1])
  | .fadd f | .fsub f | .fmul f | .fdiv f | .fldx f => some (f, Rule.bin.withMd Rule.rounding)
  | .frcp f | .frsq f | .fsqrt f | .fexp2 f | .flog2 f | .frnd f => some (f, Rule.un.withMd Rule.rounding)
  | .fcmp f => some (f, { Rule.bin.withMd [0] with x := 0x3FF, ok := f.x < 8 })
  | .fscl f => some (f, { Rule.bin.withMd Rule.rounding with x := 3, ok := f.x % 4 == 1 || f.x % 4 == 2 })
  | .cvti f => some (f, { Rule.un.withMd Rule.rounding with x := 9 })
  | .cvtf f =>
    let r := if cvtfInserts f.ty f.x then Rule.bin else Rule.un
    let wide := cvtfWidens f.ty f.x
    some (f, { r with
      md := Rule.rounding
      mdUsed := !wide
      x := if wide then 0x3F else if cvtfInPlace f.ty f.x then 0x4F else 0x7F
      ok := cvtfOk f.ty f.x })
  | .cvtw f =>
    let narrow := bitsOf f.x 3 1 == 1
    let r := if narrow then Rule.bin else Rule.un
    some (f, { r with
      md := Rule.rounding
      mdUsed := narrow
      x := if narrow then 0x78 else 0x38
      ok := bitsOf f.x 4 2 < f.ty.lanes })
  | _ => none

/-- REDUCE and SCANP: rounding mode or .SAT in MD, 000 for float MIN and MAX; the operation 11 is refused (R125). -/
def foldOk (t : Ty) (md x : Nat) : Bool :=
  x % 4 != 3 && (if t.isFloat then md < 5 && (x % 4 == 0 || md == 0) else md < 2)

/-- The rule of an opcode of 05 that elements and blocks hold (R125). DESIGN CHOICE (log 139), unsafe. -/
def steerRule (i : Instr) (ordRed : Bool) : Option (Form × Rule) :=
  match i with
  | .steer f => some (f, { ri := true, ok := f.pm == .always })
  | .cmerge f => some (f, { ok := f.isBlock || (f.pm == .always && f.enables .P) })
  | .merge f => some (f, {})
  | .omerge f => some (f, if f.isBlock then {} else Rule.withMd {} [0, 1])
  | .gate f => some (f, { ri := true })
  | .dup f => some (f, { right := false, ok := match f with
      | .elem e => e.pat == .plain
      | .block _ => true })
  | .drop f => some (f, { right := false, t1 := .none, t2 := .none })
  | .count f => some (f, { ri := true, x := if f.isBlock then 0xF else 0x1F, ok := levelOk f.x })
  | .iter f => some (f, { ri := true, x := if f.isBlock then 0x30F else 0xF, const := f.isBlock, ok := f.isBlock || levelOk f.x })
  | .strikeMake f => some (f, { right := false, md := [0, 1], mdUsed := true, t1 := .emitPort, t2 := .none, ok := f.md == 0 })
  | .join f => some (f, { ri := true, x := if f.isBlock then 0 else 7, ok := f.isBlock || f.x % 8 != 0 })
  | .reduce f => some (f, { ri := true, md := Rule.rounding, mdUsed := true, x := if f.isBlock then 3 else 7, ok := foldOk f.ty f.md f.x && (if f.isBlock then ordRed else !(bitsOf f.x 2 1 == 1 && f.enables .R)) })
  | .scanp f => some (f, { ri := true, md := Rule.rounding, mdUsed := true, x := if f.isBlock then 0x3FB else 0xB, const4 := f.isBlock, ok := foldOk f.ty f.md f.x })
  | .mkeos f => some (f, { right := !f.isBlock, md := [0, 1], mdUsed := true, x := 7, ok := levelOk f.x, t1 := .emitPort, t2 := .none })
  | .oneos f => some (f, { left := !f.isBlock, right := false, md := [0, 1, 2], mdUsed := true, x := if f.isBlock then 0x3FF else 1 })
  | .tagr f => some (f, { right := false })
  | .tagw f => some (f, { ri := true, t1 := .emitPort, t2 := .none })
  | .nexti f => some (f, { right := false, x := if f.isBlock then 0x30F else 0, const := f.isBlock })
  | .wid f => some (f, { x := 0xF, ok := f.x % 16 < 9 })
  | .arg f => some (f, { right := false, x := 0x1F })
  | .rclose f => some (f, { right := false })
  | _ => none

/-- The rule of a memory opcode that elements and blocks hold (R171). -/
def memRule (i : Instr) (ordRed : Bool) : Option (Form × Rule) :=
  let width (f : Form) : List Nat := if f.ty == .i32 || f.ty == .n32 then [0, 1, 2] else [0]
  match i with
  | .ld f => some (f, { ri := true, immRaw := true, right := !f.isBlock, md := width f, mdUsed := true, mdTop := 4, x := 7 })
  | .st f => some (f, { ri := true, md := width f, mdUsed := true, mdTop := 4, x := 7 })
  | .pf f => some (f, { ri := true, right := !f.isBlock, x := 7, t1 := .none, t2 := .none })
  | .aadd f | .aadds f | .amin f | .amax f | .aminn f | .amaxn f | .aand f | .aor f | .axor f | .axch f
  | .ainc f => some (f, Rule.atomic)
  | .acas f => some (f, { Rule.atomic with x := if f.isBlock then 0x3FF else 0xF, const4 := f.isBlock, ok := bitsOf f.x 3 1 == 0 })
  | .afadd f => some (f, { Rule.atomic with x := 0xF, ok := !f.isBlock || bitsOf f.x 3 1 == 1 || ordRed })
  | .fenceAcq f => some (f, { right := false, md := [1, 2, 3], mdUsed := true, x := 3, ok := f.md == 1 })
  | .fenceRel f => some (f, { right := false, md := [1, 2, 3], mdUsed := true, x := 3, ok := f.md == 2 })
  | .fenceAr f => some (f, { right := false, md := [1, 2, 3], mdUsed := true, x := 3, ok := f.md == 3 })
  | .trap f | .brk f => some (f, { right := false, x := 0x3FF })
  | _ => none

/-- System registers that RDSR may read: number and privilege (R239). -/
def sysRead (x : Nat) : Option Bool :=
  if x ≤ 6 || (8 ≤ x && x ≤ 0x0D) then some false else if x = 0x20 then some true else none

/-- The privileged message codes (R93). -/
def privCode (c : Nat) : Bool := [0x08, 0x09, 0x0B, 0x0C].contains c

/-- A SEND of this code (R93, R216): REGION scope only where `region`. -/
def sendRule (code : Nat) (region : Bool) (b : Blk) : Rule :=
  Rule.message b.md.toNat b.x.toNat (b.x.toNat % 256 == code && (!region || b.md.toNat % 4 == 0))

/-- The rule of an opcode that only blocks hold, with the privilege its X field carries (R87). -/
def blockRule (i : Instr) : Option (Blk × Rule × Bool) :=
  let recv (b : Blk) : Blk × Rule × Bool := (b, { left := false, right := false, x := 0x3FF, imm := 0xF }, false)
  let fx : Rule := { left := false, right := false, x := 0x3FF, imm := 0x3F, t1 := .emitPort, t2 := .none }
  let sys : Rule := { right := false }
  match i with
  | .fxpk b | .fxun b => some (b, fx, false)
  | .fxsc b => some (b, { fx with right := true }, false)
  | .argw b => some (b, { right := false, x := 0x3FF, ok := bitsOf b.x.toNat 8 2 < 3 }, false)
  | .launch b => some (b, { left := false, right := false, md := [0, 1], mdUsed := true, mdTop := 2, x := 0x3FF }, false)
  | .call b => some (b, { left := false, right := false, md := [0, 1], mdUsed := true, mdTop := 2, x := 0x3FF, imm := 0x3F }, false)
  | .recv b => some (recv b)
  | .peek b => some (b, { left := false, ri := true, x := 0x3FF }, false)
  | .emit b => some (b, { right := false, md := [0, 1, 2, 3], mdUsed := true, x := 0x3FF, imm := 0x7F, ok := levelOk (bitsOf b.imm.toNat 4 3), t1 := .none, t2 := .none }, false)
  | .advr b | .advw b => some (b, { left := !b.ri, right := false, ri := true, x := 0x3C0 }, false)
  | .cbq b => some (b, { right := false, x := 0x3F8, imm := 0xFFFF, ok := bitsOf b.x.toNat 3 3 < 6 }, false)
  | .ldx b => some (b, { right := false, x := 7 }, false)
  | .stx b => some (b, { x := 0x3FF }, false)
  | .acasD b => some (b, { md := Rule.scopes, mdUsed := true, mdTop := 4, x := 0x3FF, ok := bitsOf b.x.toNat 3 1 == 1 }, false)
  | .sendCopy b => some (b, sendRule 0x01 false b, privCode (b.x.toNat % 256))
  | .sendFill b => some (b, sendRule 0x02 false b, privCode (b.x.toNat % 256))
  | .sendGather b => some (b, sendRule 0x03 false b, privCode (b.x.toNat % 256))
  | .sendScatter b => some (b, sendRule 0x04 false b, privCode (b.x.toNat % 256))
  | .sendIstream b => some (b, sendRule 0x05 true b, privCode (b.x.toNat % 256))
  | .sendPublish b => some (b, sendRule 0x06 false b, privCode (b.x.toNat % 256))
  | .sendDiscard b => some (b, sendRule 0x07 false b, privCode (b.x.toNat % 256))
  | .sendPreload b => some (b, sendRule 0x08 true b, privCode (b.x.toNat % 256))
  | .sendMigrate b => some (b, sendRule 0x09 true b, privCode (b.x.toNat % 256))
  | .sendMark b => some (b, sendRule 0x0A true b, privCode (b.x.toNat % 256))
  | .sendTest b => some (b, sendRule 0x0B true b, privCode (b.x.toNat % 256))
  | .sendw b =>
    let c := b.x.toNat % 256
    some (b, { Rule.message b.md.toNat b.x.toNat (b.md.toNat % 4 == 0) with
      ok := b.md.toNat % 4 == 0 && [0x05, 0x08, 0x09, 0x0A, 0x0B].contains c }, privCode c)
  | .sendwCensus b => some (b, sendRule 0x0C true b, privCode (b.x.toNat % 256))
  | .sendwQuery b => some (b, sendRule 0x0D true b, privCode (b.x.toNat % 256))
  | .wmark b | .sealWindow b | .yield b | .census b => some (b, sys, false)
  | .rdsr b => some (b, { sys with x := 0x3FF, ok := (sysRead b.x.toNat).isSome }, sysRead b.x.toNat == some true)
  | .wrsrAflg b => some (b, { sys with x := 0x3FF, ok := b.x.toNat == 0 }, false)
  | .wrsrRtmr b => some (b, { sys with x := 0x3FF, ok := b.x.toNat == 2 }, true)
  | .wrsrQuota b => some (b, { sys with x := 0x3FF, ok := b.x.toNat == 0x0B }, true)
  | .inval b => some (b, { md := [0, 1], mdUsed := true, ok := b.md.toNat == 0 }, false)
  | .invalAll b => some (b, { right := false, md := [0, 1], mdUsed := true, ok := b.md.toNat == 1 }, false)
  | .pgld b | .pgev b => some (b, {}, false)
  | .fold b => some (b, { md := [0, 1, 2], mdUsed := true, mdTop := 4 }, false)
  | _ => none

/-- The rule of an opcode that only elements hold (R147, R150). -/
def elemRule (i : Instr) : Option (Ecw × Rule) :=
  match i with
  | .repeatSeg e => some (e, { x := 0xF, ok := levelOk e.x.toNat })
  | .strikeAnnul e => some (e, { md := [0, 1], mdUsed := true, x := 0xF, ok := e.md.toNat == 1 && bitsOf e.x.toNat 1 3 < 6 })
  | _ => none

/-- The fields and the rule of an element or block word; the last component is the privilege that X carries. -/
def ruleOf (site : Site) (i : Instr) : Option (Form × Rule × Bool) :=
  match scalarRule i with
  | some (f, r) => some (f, r, false)
  | none => match steerRule i site.ordRed with
    | some (f, r) => some (f, r, false)
    | none => match memRule i site.ordRed with
      | some (f, r) => some (f, r, false)
      | none => match blockRule i with
        | some (b, r, p) => some (.block b, r, p)
        | none => match elemRule i with
          | some (e, r) => some (.elem e, r, false)
          | none => none

/-- One check: the cause when the condition is broken. -/
def chk (c : Cause) (ok : Bool) : List Cause := if ok then [] else [c]

/-- The target stands where the rule allows it (0x08). -/
def TargetRule.holds (r : TargetRule) (t : Target) : Bool :=
  match r, t with
  | .any, _ => true
  | .none, .none => true
  | .emitPort, .emit _ => true
  | _, _ => false

/-- The checks of X, MD and the rule's own refusals (R96). -/
def Rule.causes (r : Rule) (md x : Nat) : List Cause :=
  chk 5 (r.mdUsed || md == 0) ++ chk 5 (!r.mdUsed || md < r.mdTop) ++ chk 7 (!r.mdUsed || r.md.contains md) ++
  chk 5 (x &&& r.x == x) ++ chk 7 r.ok ++
  chk 7 (!r.const || x < 0x200) ++ chk 7 (!r.const4 || x < 0x200)

/-- REDUCE and SCANP alone use RWIN (R57). -/
def usesRwin : Instr → Bool
  | .reduce _ => true
  | .scanp _ => true
  | _ => false

/-- The checks of an element word (R53, R55 to R57, R94). -/
def elemCauses (i : Instr) (e : Ecw) (r : Rule) : List Cause :=
  chk 5 (e.csrc == .slot || e.carg == 0) ++ chk 5 (e.csrc != .slot || e.const == 0) ++
  chk 7 (e.pm == .always || e.qP) ++ chk 7 (e.pat != .plain || e.rpt == 0 || e.csrc == .counter) ++
  chk 7 (e.rwin == 0 || usesRwin i) ++ chk 7 (e.rwin != 7) ++ chk 7 (!r.unary || !e.qR) ++
  chk 8 (match i with
    | .pf _ => e.route0 == .none && e.route1 == .none
    | _ => true)

/-- The checks of a block word (R58 to R60). -/
def blkCauses (b : Blk) (r : Rule) : List Cause :=
  chk 7 (!b.ri || r.ri) ++ chk 7 (!b.ri || r.immRaw || b.ty != .fx4x8) ++
  chk 5 (b.ri || b.imm.toNat &&& r.imm == b.imm.toNat) ++
  chk 5 (!b.ri || r.immRaw || b.ty.width != 8 || b.imm.toNat < 256) ++
  chk 8 (r.t1.holds b.t1) ++ chk 8 (r.t2.holds b.t2)

/-- The kinds of island register that a designator may name (R61, R192). -/
inductive DesigRule where
  | unused | t | a | s | pair | tOrPair
  deriving DecidableEq, Repr

/-- An S designator that names a descriptor pair is even (R61). -/
def Desig.isPair : Desig → Bool
  | .s n => n.toNat % 2 == 0
  | _ => false

/-- A designator that an opcode does not use is zero (0x05), and one of the wrong kind or of no kind is refused (0x07). DEDUCED (log 9), unsafe. -/
def DesigRule.causes (r : DesigRule) (d : Desig) : List Cause :=
  match r with
  | .unused => chk 5 (d == .t 0)
  | .t => chk 7 (match d with
    | .t _ => true
    | _ => false)
  | .a => chk 7 (match d with
    | .a _ => true
    | _ => false)
  | .s => chk 7 (match d with
    | .s _ => true
    | _ => false)
  | .pair => chk 7 d.isPair
  | .tOrPair => chk 7 (d.isPair || match d with
    | .t _ => true
    | _ => false)

/-- How an island opcode uses its fields (R192). -/
structure IslandRule where
  da : DesigRule := .unused
  db : DesigRule := .unused
  dc : DesigRule := .unused
  md : List Nat := [0]
  mdUsed : Bool := false
  x : Nat := 0
  imm : Nat := 0
  ri : Bool := false
  riNeeded : Bool := false
  ok : Bool := true
  deriving DecidableEq, Repr

/-- The combinations of FMT and SMODE that LDT accepts from scratchpad (R192). -/
def ldtOk (imm : Nat) : Bool :=
  let fmt := bitsOf imm 12 4
  let sm := bitsOf imm 10 2
  2 ≤ fmt && fmt ≤ 11 && sm != 3 && (sm == 1) == (fmt == 11) && !(sm == 2 && fmt ≤ 5)

/-- A descriptor node and advance bit of MMA stand only for an S operand (R192). -/
def mmaX (d : Desig) (node adv : Nat) : Nat := match d with
  | .s _ => node + adv
  | _ => 0

/-- The island opcodes' fields and rules (R192). -/
def islandRule (i : Instr) : Option (Isl × IslandRule) :=
  let mma (w : Isl) : IslandRule :=
    { da := .a, db := .tOrPair, dc := .tOrPair, x := mmaX w.db 0x07 0x40 + mmaX w.dc 0x38 0x80 }
  let cell3 : IslandRule := { da := .a, db := .a, dc := .a, md := Rule.rounding, mdUsed := true }
  let cell2 : IslandRule := { da := .a, db := .a, md := Rule.rounding, mdUsed := true }
  match i with
  | .mma w => some (w, mma w)
  | .mmat w => some (w, mma w)
  | .mmas w => some (w, { mma w with x := (mma w).x + 0x300, ri := true, riNeeded := true, ok := bitsOf w.x.toNat 8 2 == 1 || bitsOf w.x.toNat 8 2 == 2 })
  | .ldt w => some (w, if bitsOf w.x.toNat 9 1 == 1
      then { da := .t, db := .pair, x := 0x247, imm := 0xFFE0, ok := ldtOk w.imm.toNat }
      else { da := .t, x := 0xF })
  | .ldtt w => some (w, { da := .t, db := .pair, x := 0x47, imm := 0xF200, ok := [2, 3, 4, 5, 7, 8, 9, 10].contains (bitsOf w.imm.toNat 12 4) })
  | .stt w => some (w, { da := .t, db := .pair, x := 0x47 })
  | .lda w => some (w, { da := .a, db := .pair, x := 0x47 })
  | .sta w => some (w, { da := .a, db := .pair, x := 0x47 })
  | .rda w => some (w, { da := .a, md := [0, 1, 2], mdUsed := true, x := 0xF, imm := if w.md.toNat == 2 then 0xFF else 0xF })
  | .zacc w => some (w, { da := .a })
  | .sca w => some (w, { da := .a, db := if w.ri then .unused else .a, md := Rule.rounding, mdUsed := true, x := if w.ri then 0 else 0xF, ri := true })
  | .vmaxr w => some (w, { da := .a, db := .a })
  | .vsumr w => some (w, cell2)
  | .vexp2 w => some (w, cell2)
  | .vadd w => some (w, cell3)
  | .vsub w => some (w, cell3)
  | .vmul w => some (w, cell3)
  | .vfma w => some (w, cell3)
  | .vmax w => some (w, { da := .a, db := .a, dc := .a })
  | .vcvt w => some (w,
      let narrow := w.ty.isFloat && w.ty != .fx4x8
      { da := .t, db := .a, dc := if w.ty = .fx4x8 then .a else .unused, md := if narrow then Rule.rounding else [0], mdUsed := narrow
        x := 0x03 + (if narrow then 0x10 else 0) + (if w.ty = .fx4x8 then 0x20 else 0)
        ok := bitsOf w.x.toNat 0 2 < (if w.ty.width == 16 then 2 else 4) })
  | .vbcast w => some (w, { da := .a
                            db := if w.md.toNat == 0 then .a else if w.md.toNat == 2 then .s else .unused
                            md := [0, 1, 2], mdUsed := true
                            x := if w.md.toNat == 0 then 0xF else 0
                            ri := w.md.toNat == 1, riNeeded := w.md.toNat == 1 })
  | .iloop w => some (w, { da := if w.ri then .unused else .s, x := 0x3F, ri := true, ok := w.x.toNat % 64 != 0 })
  | .iwait w => some (w, { da := .s, x := 0xF })
  | .iemitPkt w => some (w, { da := .t, md := [0, 1], mdUsed := true, x := 0xF, ok := w.md.toNat == 0 })
  | .iemitTok w => some (w, { da := .s, md := [0, 1], mdUsed := true, x := 0xF, ok := w.md.toNat == 1 })
  | .isync w => some (w, {})
  | _ => none

/-- The checks of an island word (R61, R192). -/
def islCauses (w : Isl) (r : IslandRule) : List Cause :=
  r.da.causes w.da ++ r.db.causes w.db ++ r.dc.causes w.dc ++
  chk 5 (r.mdUsed || w.md == 0) ++ chk 7 (!r.mdUsed || r.md.contains w.md.toNat) ++
  chk 5 (w.x.toNat &&& r.x == w.x.toNat) ++ chk 7 (!w.ri || r.ri) ++ chk 7 (w.ri || !r.riNeeded) ++
  chk 5 (w.ri || w.imm.toNat &&& r.imm == w.imm.toNat) ++ chk 7 r.ok

/-- The causes for which the loader refuses this word at this site, as far as the word alone shows them (R76). -/
def wordCauses (site : Site) (i : Instr) : List Cause :=
  match opInfo i with
  | none => [2]
  | some o =>
    match i with
    | .nop p => chk 3 (match p, site with
        | .elem, .elem => true
        | .block, .actor _ _ => true
        | .block, .handler _ _ => true
        | .island, .island => true
        | _, _ => false)
    | _ =>
      chk 3 (o.legalAt site) ++ chk 4 (!o.priv || site.priv) ++
      match islandRule i with
      | some (w, r) => chk 3 (site == .island) ++ chk 6 (o.takes w.ty) ++ islCauses w r
      | none =>
        match ruleOf site i with
        | none => [2]
        | some (f, r, p) =>
          chk 4 (!p || site.priv) ++ chk 6 (o.takes f.ty) ++ r.causes f.md f.x ++
          match f with
          | .elem e => chk 3 (site == .elem) ++ elemCauses i e r
          | .block b => chk 3 (site != .elem && site != .island) ++ blkCauses b r

/-- The lowest cause of a list (R75). -/
def lowest : List Cause → Option Cause
  | [] => none
  | c :: cs => match lowest cs with
    | none => some c
    | some d => some (Nat.min c d)

/-- A word that the loader accepts at this site, as far as the word alone shows it (R74 to R77). -/
abbrev WellFormed (site : Site) (i : Instr) : Prop := wordCauses site i = []

/-- The slots that an instruction of a block reads: left, right, predicate (R60, R95). -/
def slotsRead (i : Instr) : Bool × Bool × Bool :=
  match ruleOf (.actor true true) i with
  | some (.block b, r, _) => (r.left, r.right && !b.ri, b.pm != .always)
  | _ => (false, false, false)

end Sys2Proof
end

