-- ==== Sys2Proof/Machine/Flags.lean ====
section
/-!
DEFINITION. The arithmetic flags (R28 to R31), integer lanes (R12, R13), and the one rounding of floating-point
results (R14, R15, R25, R26) from which every floating-point operation takes its result and its flags.
-/
namespace Sys2Proof.Machine

/-- The six sticky flags (R28). -/
structure Flags where
  iv : Bool := false
  dz : Bool := false
  ofl : Bool := false
  uf : Bool := false
  nx : Bool := false
  sat : Bool := false
  deriving DecidableEq, Repr

namespace Flags

/-- No flag. -/
def none : Flags := {}

/-- The union of two sets of flags (R28). -/
def union (a b : Flags) : Flags :=
  { iv := a.iv || b.iv, dz := a.dz || b.dz, ofl := a.ofl || b.ofl, uf := a.uf || b.uf, nx := a.nx || b.nx,
    sat := a.sat || b.sat }

/-- The flags as AFLG bits 5:0 (R29). -/
def bits (f : Flags) : BitVec 6 :=
  BitVec.ofBool f.sat ++ BitVec.ofBool f.nx ++ BitVec.ofBool f.uf ++ BitVec.ofBool f.ofl ++
  BitVec.ofBool f.dz ++ BitVec.ofBool f.iv

/-- AFLG after an arithmetic update: bits are set and never cleared (R30). -/
def setIn (f : Flags) (aflg : Word) : Word := aflg ||| (f.bits.setWidth 32)

/-- The trap cause of the enabled flag ranked first in the order IV, DZ, OF, UF, NX, SAT (R31). -/
def trapCause (f : Flags) (aflg : Word) : Option Cause :=
  if f.iv && aflg.getLsbD 8 then some 0x14
  else if f.dz && aflg.getLsbD 9 then some 0x15
  else if f.ofl && aflg.getLsbD 10 then some 0x16
  else if f.uf && aflg.getLsbD 11 then some 0x17
  else if f.nx && aflg.getLsbD 12 then some 0x18
  else if f.sat && aflg.getLsbD 13 then some 0x19
  else Option.none

/-- SAT alone, when it clamps. -/
def satIf (b : Bool) : Flags := { sat := b }

/-- IV alone. -/
def ivIf (b : Bool) : Flags := { iv := b }

end Flags

/-- A 32-bit result with the flags of its lanes. -/
abbrev Res := Word × Flags

/-- Lane `i` of width `w`, as a number (R12). -/
def laneNat (w i : Nat) (v : Word) : Nat := v.toNat / 2 ^ (w * i) % 2 ^ w

/-- The lanes of a word under a type, lane 0 first (R78). -/
def lanesOf (t : Ty) (v : Word) : List Nat := (List.range t.lanes).map (fun i => laneNat t.width i v)

/-- Lane values packed to a number, lane 0 least significant. -/
def packNat (w : Nat) : List Nat → Nat
  | [] => 0
  | l :: ls => l % 2 ^ w + 2 ^ w * packNat w ls

/-- The word with these lane values (R78). -/
def packWord (w : Nat) (ls : List Nat) : Word := BitVec.ofNat 32 (packNat w ls)

/-- A lane read as two's complement. -/
def signedNat (w n : Nat) : Int := if n < 2 ^ (w - 1) then (n : Int) else (n : Int) - (2 ^ w : Nat)

/-- A lane read with the signedness of the type. -/
def laneInt (t : Ty) (n : Nat) : Int := if t.signed then signedNat t.width n else (n : Int)

/-- An exact value modulo the lane's width (R13). -/
def wrapw (w : Nat) (v : Int) : Nat := (v % ((2 ^ w : Nat) : Int)).toNat

/-- Least value of a lane (R13). -/
def laneMin (w : Nat) (signed : Bool) : Int := if signed then -((2 ^ (w - 1) : Nat) : Int) else 0

/-- Greatest value of a lane (R13). -/
def laneMax (w : Nat) (signed : Bool) : Int :=
  if signed then ((2 ^ (w - 1) : Nat) : Int) - 1 else ((2 ^ w : Nat) : Int) - 1

/-- An exact value clamped to the lane's range, SAT raised when it clamps (R13). -/
def satw (w : Nat) (signed : Bool) (v : Int) : Nat × Flags :=
  if v < laneMin w signed then (wrapw w (laneMin w signed), Flags.satIf true)
  else if v > laneMax w signed then (wrapw w (laneMax w signed), Flags.satIf true)
  else (wrapw w v, Flags.none)

/-- All ones of a lane. -/
def allOnes (w : Nat) : Nat := 2 ^ w - 1

/-- The union of the flags of a list of lane results. -/
def unionAll : List (Nat × Flags) → Flags
  | [] => Flags.none
  | x :: xs => x.2.union (unionAll xs)

/-- Lane results packed, with the union of their flags (R99). -/
def packRes (w : Nat) (ls : List (Nat × Flags)) : Res := (packWord w (ls.map Prod.fst), unionAll ls)

/-- One operation on every lane of one word. -/
def lanes1 (t : Ty) (f : Nat → Nat × Flags) (a : Word) : Res := packRes t.width ((lanesOf t a).map f)

/-- One operation on every lane of two words. -/
def lanes2 (t : Ty) (f : Nat → Nat → Nat × Flags) (a b : Word) : Res :=
  packRes t.width (List.zipWith f (lanesOf t a) (lanesOf t b))

/-- One operation on every lane of three words. -/
def lanes3 (t : Ty) (f : Nat → Nat → Nat → Nat × Flags) (a b c : Word) : Res :=
  packRes t.width (List.zipWith (fun g z => g z) (List.zipWith f (lanesOf t a) (lanesOf t b)) (lanesOf t c))

/-- A lane result without flags. -/
def plain (n : Nat) : Nat × Flags := (n, Flags.none)

/-- The binary floating-point formats (R14). -/
structure Fmt where
  ebits : Nat
  mbits : Nat
  bias : Nat
  /-- E4M3: the greatest exponent holds finite values, and S.1111.111 alone is NaN (R15). -/
  e4m3 : Bool
  deriving DecidableEq, Repr

namespace Fmt

/-- FP32. -/
def f32 : Fmt := ⟨8, 23, 127, false⟩
/-- FP16. -/
def f16 : Fmt := ⟨5, 10, 15, false⟩
/-- BF16. -/
def bf16 : Fmt := ⟨8, 7, 127, false⟩
/-- E5M2. -/
def e5m2 : Fmt := ⟨5, 2, 15, false⟩
/-- E4M3. -/
def e4m3Fmt : Fmt := ⟨4, 3, 7, true⟩

/-- The format of a type code's lanes; the integer types have none and give FP32. -/
def ofTy : Ty → Fmt
  | .bf16x2 => bf16
  | .f16x2 => f16
  | .e4m3x4 => e4m3Fmt
  | .e5m2x4 => e5m2
  | _ => f32

/-- Width of a code. -/
def width (f : Fmt) : Nat := 1 + f.ebits + f.mbits

/-- The sign bit set. -/
def signBit (f : Fmt) : Nat := 2 ^ (f.ebits + f.mbits)

/-- Magnitude code of infinity; for E4M3 the NaN code that stands for it (R26). -/
def infMag (f : Fmt) : Nat := if f.e4m3 then 0x7F else (2 ^ f.ebits - 1) * 2 ^ f.mbits

/-- Magnitude code of the largest finite value (R14). -/
def maxMag (f : Fmt) : Nat := if f.e4m3 then 0x7E else (2 ^ f.ebits - 1) * 2 ^ f.mbits - 1

/-- The quiet bit. -/
def quietBit (f : Fmt) : Nat := if f.e4m3 then 0 else 2 ^ (f.mbits - 1)

/-- The default NaN (R15). -/
def defaultNan (f : Fmt) : Nat := if f.e4m3 then 0x7F else f.infMag + f.quietBit

/-- The magnitude part of a code. -/
def mag (f : Fmt) (c : Nat) : Nat := c % f.signBit

/-- The sign of a code. -/
def neg (f : Fmt) (c : Nat) : Bool := c / f.signBit % 2 == 1

/-- A code with this sign and magnitude. -/
def code (f : Fmt) (s : Bool) (m : Nat) : Nat := if s then f.signBit + m else m

/-- A NaN (R15). -/
def isNan (f : Fmt) (c : Nat) : Bool := if f.e4m3 then f.mag c == 0x7F else f.mag c > f.infMag

/-- An infinity (R15). -/
def isInf (f : Fmt) (c : Nat) : Bool := !f.e4m3 && f.mag c == f.infMag

/-- A signalling NaN (R15). -/
def isSnan (f : Fmt) (c : Nat) : Bool := f.isNan c && !f.e4m3 && c / f.quietBit % 2 == 0

/-- The NaN with its quiet bit set (R78). -/
def quiet (f : Fmt) (c : Nat) : Nat := if c / f.quietBit % 2 == 0 && !f.e4m3 then c + f.quietBit else c

/-- A zero of either sign. -/
def isZero (f : Fmt) (c : Nat) : Bool := f.mag c == 0

end Fmt

/-- An exact binary number: sign, magnitude and exponent of its last bit. -/
structure Dy where
  neg : Bool
  mant : Nat
  exp : Int
  deriving DecidableEq, Repr

/-- The exact value of a finite code (R14). -/
def dyOf (f : Fmt) (c : Nat) : Dy :=
  let m := f.mag c
  let e := m / 2 ^ f.mbits
  let frac := m % 2 ^ f.mbits
  if e = 0 then ⟨f.neg c, frac, 1 - (f.bias : Int) - f.mbits⟩
  else ⟨f.neg c, frac + 2 ^ f.mbits, (e : Int) - f.bias - f.mbits⟩

/-- The quotient by a power of two, rounded to an integer in a mode (R25): nearest-even, toward zero, up, down,
nearest-away; and whether a part was discarded. -/
def roundShift (md : Nat) (neg : Bool) (mant shift : Nat) : Nat × Bool :=
  let q := mant / 2 ^ shift
  let r := mant % 2 ^ shift
  let up : Bool :=
    match md with
    | 0 => 2 * r > 2 ^ shift || (2 * r == 2 ^ shift && q % 2 == 1)
    | 1 => false
    | 2 => !neg && r != 0
    | 3 => neg && r != 0
    | _ => 2 * r ≥ 2 ^ shift && r != 0
  (if up then q + 1 else q, r != 0)

/-- An exact value brought to a quantum 2^q: the integer multiple, and whether it was inexact. -/
def toQuantum (md : Nat) (d : Dy) (q : Int) : Nat × Bool :=
  if d.exp ≤ q then roundShift md d.neg d.mant (q - d.exp).toNat
  else (d.mant * 2 ^ (d.exp - q).toNat, false)

/-- m × 2^a is above n × 2^b. -/
def dyGt (m : Nat) (a : Int) (n : Nat) (b : Int) : Bool :=
  if a ≤ b then m > n * 2 ^ (b - a).toNat else m * 2 ^ (a - b).toNat > n

/-- The overflow result of a mode: the infinity or the largest finite value (R26). DESIGN CHOICE (log 130), unsafe. -/
def overflowCode (f : Fmt) (md : Nat) (neg : Bool) : Nat :=
  let toInf := match md with
    | 0 => true
    | 1 => false
    | 2 => !neg
    | 3 => neg
    | _ => true
  f.code neg (if toInf then f.infMag else f.maxMag)

/-- The exact result rounded once to a format (R26, R28), in the saturating form or not (R123): overflow judged
after rounding with an unbounded exponent, underflow of a tiny inexact result. -/
def roundTo (f : Fmt) (md : Nat) (sat : Bool) (d : Dy) : Nat × Flags :=
  if d.mant = 0 then (f.code d.neg 0, Flags.none)
  else
    let e : Int := d.exp + (Nat.log2 d.mant : Nat)
    let emin : Int := 1 - (f.bias : Int)
    let qu : Int := e - f.mbits
    let q : Int := if qu < emin - f.mbits then emin - f.mbits else qu
    let u := toQuantum md d qu
    let maxM := f.maxMag % 2 ^ f.mbits + 2 ^ f.mbits
    let maxQ : Int := ((f.maxMag / 2 ^ f.mbits : Nat) : Int) - f.bias - f.mbits
    if dyGt u.1 qu maxM maxQ then
      if sat then (f.code d.neg f.maxMag, { sat := true, nx := true })
      else (overflowCode f md d.neg, { ofl := true, nx := true })
    else
      let b := toQuantum md d q
      let tiny := dyGt 1 emin u.1 qu
      let ef : Int := q + f.mbits + f.bias
      let mag : Int := ef * (2 ^ f.mbits : Nat) + b.1 - (2 ^ f.mbits : Nat)
      (f.code d.neg mag.toNat, { nx := b.2, uf := tiny && b.2 })

end Sys2Proof.Machine
end

