-- ==== Sys2Proof/Machine/Integer.lean ====
section
/-!
DEFINITION. The integer, logic, shift, bit-field, address, compare, select and packed operations on words: R101 to
R114, R33 and R34.
-/
namespace Sys2Proof.Machine

/-- A lane operation whose exact value wraps (R13, R101). -/
def wrapOp (t : Ty) (f : Int → Int → Int) (a b : Word) : Res :=
  lanes2 t (fun x y => plain (wrapw t.width (f (laneInt t x) (laneInt t y)))) a b

/-- A lane operation whose exact value saturates (R13, R101). -/
def satOp (t : Ty) (f : Int → Int → Int) (a b : Word) : Res :=
  lanes2 t (fun x y => satw t.width t.signed (f (laneInt t x) (laneInt t y))) a b

/-- A unary lane operation whose exact value wraps. -/
def wrapOp1 (t : Ty) (f : Int → Int) (a : Word) : Res :=
  lanes1 t (fun x => plain (wrapw t.width (f (laneInt t x)))) a

/-- The quotient and remainder of one lane (R33). -/
def divLane (t : Ty) (x y : Nat) : (Nat × Nat) × Flags :=
  let a := laneInt t x
  let b := laneInt t y
  if b = 0 then ((allOnes t.width, x), { dz := true })
  else
    let q := Int.tdiv a b
    ((wrapw t.width q, wrapw t.width (a - q * b)), Flags.none)

/-- DIV, DIVN (R33). -/
def divOp (t : Ty) (a b : Word) : Res := lanes2 t (fun x y => ((divLane t x y).1.1, (divLane t x y).2)) a b

/-- REM, REMN (R33). -/
def remOp (t : Ty) (a b : Word) : Res := lanes2 t (fun x y => ((divLane t x y).1.2, (divLane t x y).2)) a b

/-- High half of the exact product (R101). -/
def mulhOp (t : Ty) (a b : Word) : Res := wrapOp t (fun x y => (x * y) / ((2 ^ t.width : Nat) : Int)) a b

/-- MAD (R101): the product and the sum exact, then wrapped. -/
def madOp (t : Ty) (a b c : Word) : Res :=
  lanes3 t (fun x y z => plain (wrapw t.width (laneInt t x * laneInt t y + laneInt t z))) a b c

/-- CLAMP (R101): max(b, min(a, c)). -/
def clampOp (t : Ty) (a b c : Word) : Res :=
  lanes3 t (fun x y z => plain (wrapw t.width (max (laneInt t y) (min (laneInt t x) (laneInt t z))))) a b c

/-- SHL (R103). -/
def shlOp (t : Ty) (a b : Word) : Res :=
  lanes2 t (fun x s => plain (if t.width ≤ s then 0 else x * 2 ^ s % 2 ^ t.width)) a b

/-- SHR (R103): logical for every type. -/
def shrOp (t : Ty) (a b : Word) : Res :=
  lanes2 t (fun x s => plain (if t.width ≤ s then 0 else x / 2 ^ s)) a b

/-- SAR (R103). -/
def sarOp (t : Ty) (a b : Word) : Res :=
  lanes2 t (fun x s =>
    plain (wrapw t.width (signedNat t.width x / ((2 ^ (if t.width ≤ s then t.width else s) : Nat) : Int)))) a b

/-- The signed quotient by 2^s rounded half to even (R34, R103): every lane value is below half of the divisor once
the amount exceeds the width, so that the result is then 0. -/
def shrrLane (w x s : Nat) : Nat :=
  let a := signedNat w x
  if w < s then 0
  else
    let r := roundShift 0 (a < 0) a.natAbs s
    wrapw w (if a < 0 then -(r.1 : Int) else (r.1 : Int))

/-- SHRR (R103). -/
def shrrOp (t : Ty) (a b : Word) : Res := lanes2 t (fun x s => plain (shrrLane t.width x s)) a b

/-- ROL (R103). -/
def rolOp (a b : Word) : Res := (a.rotateLeft (b.toNat % 32), Flags.none)

/-- ROR (R103). -/
def rorOp (a b : Word) : Res := (a.rotateRight (b.toNat % 32), Flags.none)

/-- Bits of a word from bit 31 down, as a list. -/
def bitsDown (a : Word) : List Bool := (List.range 32).map (fun i => a.getLsbD (31 - i))

/-- The number of leading false elements. -/
def leadFalse : List Bool → Nat
  | [] => 0
  | b :: bs => if b then 0 else 1 + leadFalse bs

/-- CLZ (R104): 32 for a zero word. -/
def clzOp (a : Word) : Res := (BitVec.ofNat 32 (leadFalse (bitsDown a)), Flags.none)

/-- CTZ (R104): 32 for a zero word. -/
def ctzOp (a : Word) : Res := (BitVec.ofNat 32 (leadFalse (bitsDown a).reverse), Flags.none)

/-- POPC (R104). -/
def popcOp (a : Word) : Res := (BitVec.ofNat 32 ((bitsDown a).filter id).length, Flags.none)

/-- The number whose bits, least significant first, are the list. -/
def ofBits : List Bool → Nat
  | [] => 0
  | b :: bs => (if b then 1 else 0) + 2 * ofBits bs

/-- BREV (R104): bit i goes to bit 31 − i. -/
def brevOp (a : Word) : Res := (BitVec.ofNat 32 (ofBits (bitsDown a)), Flags.none)

/-- BFX (R105): the field of position X[4:0] and width X[9:5] plus one. -/
def bfxOp (x : Nat) (a : Word) : Res := (BitVec.ofNat 32 (bitsOf a.toNat (bitsOf x 0 5) (bitsOf x 5 5 + 1)), Flags.none)

/-- BFXS (R105). -/
def bfxsOp (x : Nat) (a : Word) : Res :=
  let n := bitsOf x 5 5 + 1
  (BitVec.ofInt 32 (signedNat n (bitsOf a.toNat (bitsOf x 0 5) n)), Flags.none)

/-- BFI (R105). -/
def bfiOp (x : Nat) (a b : Word) : Res :=
  let p := bitsOf x 0 5
  let m : Word := BitVec.ofNat 32 ((2 ^ (bitsOf x 5 5 + 1) - 1) * 2 ^ p)
  ((a &&& ~~~m) ||| ((b <<< p) &&& m), Flags.none)

/-- One byte of BYTEP (R106). -/
def bytepByte (a b c : Word) (i : Nat) : Nat :=
  let sel := bitsOf c.toNat (4 * i) 4
  if 8 ≤ sel then 0 else if sel < 4 then laneNat 8 sel a else laneNat 8 (sel - 4) b

/-- BYTEP (R106). -/
def bytepOp (a b c : Word) : Res := (packWord 8 ((List.range 4).map (bytepByte a b c)), Flags.none)

/-- LEA (R107): the position, or the limit with SAT when it leaves the declared range. DESIGN CHOICE (log 132), unsafe. -/
def leaOp (scale low limit : Nat) (a b : Word) : Res :=
  let e := a.toNat + b.toNat * 2 ^ scale
  if low ≤ e ∧ e < limit then (BitVec.ofNat 32 e, Flags.none)
  else (BitVec.ofNat 32 (min limit (2 ^ 32 - 1)), Flags.satIf true)

/-- A mask lane. -/
def maskLane (w : Nat) (b : Bool) : Nat × Flags := plain (if b then allOnes w else 0)

/-- A condition of CMP (R108). -/
def cmpHolds (c : Nat) (w x y : Nat) : Bool :=
  let a := signedNat w x
  let b := signedNat w y
  match c with
  | 0 => x == y
  | 1 => x != y
  | 2 => a < b
  | 3 => a ≤ b
  | 4 => b < a
  | 5 => b ≤ a
  | 6 => x < y
  | 7 => x ≤ y
  | 8 => y < x
  | _ => y ≤ x

/-- CMP (R108). -/
def cmpOp (t : Ty) (x : Nat) (a b : Word) : Res :=
  lanes2 t (fun u v => maskLane t.width (cmpHolds (x % 16) t.width u v)) a b

/-- TST (R109). -/
def tstOp (t : Ty) (md : Nat) (a b : Word) : Res :=
  lanes1 t (fun u => maskLane t.width ((u != 0) == (md == 0))) (a &&& b)

/-- SEL (R110). -/
def selOp (a b c : Word) : Res := ((a &&& c) ||| (b &&& ~~~c), Flags.none)

/-- A whole-word sum wrapped, or clamped under .SAT (R112). -/
def dotResult (signed : Bool) (md : Nat) (e : Int) : Res :=
  if md = 0 then (BitVec.ofNat 32 (wrapw 32 e), Flags.none)
  else
    let r := satw 32 signed e
    (BitVec.ofNat 32 r.1, r.2)

/-- DOT4 and DOT2 (R112). -/
def dotOp (t : Ty) (md : Nat) (a b c : Word) : Res :=
  let cv : Int := if t.signed then signedNat 32 c.toNat else (c.toNat : Int)
  let s := (List.zipWith (fun x y => laneInt t x * laneInt t y) (lanesOf t a) (lanesOf t b)).foldl (· + ·) cv
  dotResult t.signed md s

/-- SAD4 (R112). -/
def sadOp (t : Ty) (md : Nat) (a b c : Word) : Res :=
  let cv : Int := if t.signed then signedNat 32 c.toNat else (c.toNat : Int)
  let d := List.zipWith (fun x y => ((laneInt t x - laneInt t y).natAbs : Int)) (lanesOf t a) (lanesOf t b)
  dotResult t.signed md (d.foldl (· + ·) cv)

/-- The wider type whose lanes PACK narrows and UNPK gives: twice the width. -/
def wideLanes (t : Ty) (v : Word) : List Nat := (List.range (t.lanes / 2)).map (fun i => laneNat (2 * t.width) i v)

/-- PACK (R113): the left word's wide lanes below, the right word's above; clamped, or wrapped under MD 001. -/
def packOp (t : Ty) (md : Nat) (a b : Word) : Res :=
  packRes t.width ((wideLanes t a ++ wideLanes t b).map (fun n =>
    let v : Int := if t.signed then signedNat (2 * t.width) n else (n : Int)
    if md = 0 then satw t.width t.signed v else plain (wrapw t.width v)))

/-- UNPKL and UNPKH (R114): half of the lanes, extended to twice their width. -/
def unpkOp (t : Ty) (upper : Bool) (a : Word) : Res :=
  let half := t.lanes / 2
  let ls := (lanesOf t a).drop (if upper then half else 0) |>.take half
  (packWord (2 * t.width) (ls.map (fun n => wrapw (2 * t.width) (laneInt t n))), Flags.none)

/-- SATW and SATWN (R34): a 32-bit value clamped to the 8-bit or 16-bit range, kept as a 32-bit value. -/
def satwOp (signed : Bool) (md : Nat) (a : Word) : Res :=
  let w := if md = 0 then 8 else 16
  let v : Int := if signed then signedNat 32 a.toNat else (a.toNat : Int)
  if v < laneMin w signed then (BitVec.ofInt 32 (laneMin w signed), Flags.satIf true)
  else if v > laneMax w signed then (BitVec.ofInt 32 (laneMax w signed), Flags.satIf true)
  else (a, Flags.none)

end Sys2Proof.Machine
end

