-- ==== Sys2Proof/Machine/Float.lean ====
section
/-!
DEFINITION. The floating-point operations: exact values rounded once (R16, R17, R27, R115 to R120), and the
conversions between formats (R35, R121 to R123).
-/
namespace Sys2Proof.Machine

/-- The first NaN operand made quiet (R16), and whether some operand signals. -/
def nanOf (f : Fmt) : List Nat → Option Nat
  | [] => none
  | c :: cs => if f.isNan c then some (f.quiet c) else nanOf f cs

/-- Some operand is a signalling NaN. -/
def anySnan (f : Fmt) (cs : List Nat) : Bool := cs.any f.isSnan

/-- A NaN result (R16). -/
def nanRes (f : Fmt) (cs : List Nat) (c : Nat) : Nat × Flags := (c, Flags.ivIf (anySnan f cs))

/-- An invalid operation (R16). -/
def invalid (f : Fmt) : Nat × Flags := (f.defaultNan, Flags.ivIf true)

/-- The exact sum; an exact zero takes the sign of R27. -/
def dyAdd (md : Nat) (a b : Dy) : Dy :=
  let e := min a.exp b.exp
  let x : Int := (a.mant * 2 ^ (a.exp - e).toNat : Nat)
  let y : Int := (b.mant * 2 ^ (b.exp - e).toNat : Nat)
  let s := (if a.neg then -x else x) + (if b.neg then -y else y)
  if s = 0 then ⟨if a.neg == b.neg then a.neg else md == 3, 0, e⟩
  else ⟨s < 0, s.natAbs, e⟩

/-- The exact product. -/
def dyMul (a b : Dy) : Dy := ⟨a.neg != b.neg, a.mant * b.mant, a.exp + b.exp⟩

/-- A finite or infinite operand. -/
inductive Num where
  | inf (neg : Bool)
  | fin (d : Dy)
  deriving DecidableEq, Repr

/-- The value of a code that is not a NaN. -/
def numOf (f : Fmt) (c : Nat) : Num := if f.isInf c then .inf (f.neg c) else .fin (dyOf f c)

/-- Negation. -/
def Num.negate : Num → Num
  | .inf s => .inf (!s)
  | .fin d => .fin { d with neg := !d.neg }

/-- The product of two values; none when it is 0 × ∞. -/
def numMul (a b : Num) : Option Num :=
  match a, b with
  | .inf s, .inf t => some (.inf (s != t))
  | .inf s, .fin d => if d.mant = 0 then none else some (.inf (s != d.neg))
  | .fin d, .inf t => if d.mant = 0 then none else some (.inf (d.neg != t))
  | .fin d, .fin e => some (.fin (dyMul d e))

/-- The sum of two values; none when it is ∞ − ∞. -/
def numAdd (md : Nat) (a b : Num) : Option Num :=
  match a, b with
  | .inf s, .inf t => if s = t then some (.inf s) else none
  | .inf s, .fin _ => some (.inf s)
  | .fin _, .inf t => some (.inf t)
  | .fin d, .fin e => some (.fin (dyAdd md d e))

/-- A value rounded to a format; none is an invalid operation. -/
def numRound (f : Fmt) (md : Nat) : Option Num → Nat × Flags
  | none => invalid f
  | some (.inf s) => (f.code s f.infMag, Flags.none)
  | some (.fin d) => roundTo f md false d

/-- FADD (R115). -/
def faddLane (f : Fmt) (md a b : Nat) : Nat × Flags :=
  match nanOf f [a, b] with
  | some c => nanRes f [a, b] c
  | none => numRound f md (numAdd md (numOf f a) (numOf f b))

/-- FSUB (R115). -/
def fsubLane (f : Fmt) (md a b : Nat) : Nat × Flags :=
  match nanOf f [a, b] with
  | some c => nanRes f [a, b] c
  | none => numRound f md (numAdd md (numOf f a) (numOf f b).negate)

/-- FMUL (R115). -/
def fmulLane (f : Fmt) (md a b : Nat) : Nat × Flags :=
  match nanOf f [a, b] with
  | some c => nanRes f [a, b] c
  | none => numRound f md (numMul (numOf f a) (numOf f b))

/-- FFMA, and FFMS with the third operand subtracted (R40, R115): 0 × ∞ raises IV even beside a quiet NaN. -/
def ffmaLane (f : Fmt) (sub : Bool) (md a b c : Nat) : Nat × Flags :=
  let bad := !f.isNan a && !f.isNan b && (numMul (numOf f a) (numOf f b)).isNone
  match nanOf f [a, b, c] with
  | some n => (n, Flags.ivIf (anySnan f [a, b, c] || bad))
  | none =>
    match numMul (numOf f a) (numOf f b) with
    | none => invalid f
    | some p => numRound f md (numAdd md p (if sub then (numOf f c).negate else numOf f c))

/-- A quotient whose discarded part, if any, is kept as a last bit of one. -/
def dyDiv (a b : Dy) : Dy :=
  let k := 40 + Nat.log2 b.mant + 1
  let n := a.mant * 2 ^ k
  let q := n / b.mant
  let s := a.neg != b.neg
  if n % b.mant = 0 then ⟨s, q, a.exp - b.exp - k⟩ else ⟨s, 4 * q + 1, a.exp - b.exp - k - 2⟩

/-- FDIV (R115). -/
def fdivLane (f : Fmt) (md a b : Nat) : Nat × Flags :=
  match nanOf f [a, b] with
  | some c => nanRes f [a, b] c
  | none =>
    match numOf f a, numOf f b with
    | .inf _, .inf _ => invalid f
    | .inf s, .fin d => (f.code (s != d.neg) f.infMag, Flags.none)
    | .fin d, .inf t => (f.code (d.neg != t) 0, Flags.none)
    | .fin d, .fin e =>
      if e.mant = 0 then
        if d.mant = 0 then invalid f else (f.code (d.neg != e.neg) f.infMag, { dz := true })
      else roundTo f md false (dyDiv d e)

/-- FRCP (R115). -/
def frcpLane (f : Fmt) (md a : Nat) : Nat × Flags :=
  match nanOf f [a] with
  | some c => nanRes f [a] c
  | none =>
    match numOf f a with
    | .inf s => (f.code s 0, Flags.none)
    | .fin d =>
      if d.mant = 0 then (f.code d.neg f.infMag, { dz := true })
      else roundTo f md false (dyDiv ⟨false, 1, 0⟩ d)

/-- The integer square root, one bit at a time from bit `n - 1` down. -/
def isqrt (m : Nat) : Nat → Nat → Nat
  | 0, r => r
  | n + 1, r => if (r + 2 ^ n) * (r + 2 ^ n) ≤ m then isqrt m n (r + 2 ^ n) else isqrt m n r

/-- √(m × 2^e) with its discarded part kept as a last bit of one. -/
def dySqrt (m : Nat) (e : Int) : Dy :=
  let odd := e % 2 == 1
  let n := m * 2 ^ (if odd then 65 else 64)
  let h : Int := (e - (if odd then 65 else 64)) / 2
  let r := isqrt n (Nat.log2 n / 2 + 1) 0
  if r * r = n then ⟨false, r, h⟩ else ⟨false, 4 * r + 1, h - 2⟩

/-- FSQRT (R115). -/
def fsqrtLane (f : Fmt) (md a : Nat) : Nat × Flags :=
  match nanOf f [a] with
  | some c => nanRes f [a] c
  | none =>
    match numOf f a with
    | .inf s => if s then invalid f else (f.code false f.infMag, Flags.none)
    | .fin d =>
      if d.mant = 0 then (f.code d.neg 0, Flags.none)
      else if d.neg then invalid f
      else roundTo f md false (dySqrt d.mant d.exp)

/-- 1/√(m × 2^e) with its discarded part kept as a last bit of one. -/
def dyRsqrt (m : Nat) (e : Int) : Dy :=
  let k : Nat := if e % 2 == 1 then 161 else 160
  let n := 2 ^ k / m
  let r := isqrt n (Nat.log2 n / 2 + 1) 0
  let h : Int := -((k : Int) + e) / 2
  if r * r * m = 2 ^ k then ⟨false, r, h⟩ else ⟨false, 4 * r + 1, h - 2⟩

/-- FRSQ (R115). -/
def frsqLane (f : Fmt) (md a : Nat) : Nat × Flags :=
  match nanOf f [a] with
  | some c => nanRes f [a] c
  | none =>
    match numOf f a with
    | .inf s => if s then invalid f else (f.code false 0, Flags.none)
    | .fin d =>
      if d.mant = 0 then (f.code d.neg f.infMag, { dz := true })
      else if d.neg then invalid f
      else roundTo f md false (dyRsqrt d.mant d.exp)

/-- An exact value rounded to an integer in a mode (R121), and whether that changed it. -/
def dyToInt (md : Nat) (d : Dy) : Int × Bool :=
  let r := toQuantum md d 0
  (if d.neg then -(r.1 : Int) else (r.1 : Int), r.2)

/-- FRND (R115): the integral value keeps the sign of a zero result. -/
def frndLane (f : Fmt) (md a : Nat) : Nat × Flags :=
  match nanOf f [a] with
  | some c => nanRes f [a] c
  | none =>
    match numOf f a with
    | .inf _ => (a, Flags.none)
    | .fin d =>
      let r := toQuantum md d 0
      if d.exp ≥ 0 then (a, Flags.none)
      else ((roundTo f 0 false ⟨d.neg, r.1, 0⟩).1, { nx := r.2 })

/-- FLDX (R115): n is the right operand, clamped to −1,024 to 1,024. -/
def fldxLane (f : Fmt) (md a : Nat) (n : Int) : Nat × Flags :=
  match nanOf f [a] with
  | some c => nanRes f [a] c
  | none =>
    match numOf f a with
    | .inf _ => (a, Flags.none)
    | .fin d => if d.mant = 0 then (a, Flags.none)
      else roundTo f md false { d with exp := d.exp + max (-1024) (min 1024 n) }

/-- ln 2 in units of 2^-320. -/
def ln2Fixed : Nat :=
  1480553391661173448385607439722553250922680800745876974795605978609098082859138712941075737848984

/-- The terms of the exponential series of x, in units of 2^-320: the sum from the n-th term on. -/
def expSeries (x : Nat) : Nat → Nat → Nat → Nat → Nat
  | 0, _, _, acc => acc
  | k + 1, n, t, acc => expSeries x k (n + 1) (t * x / (2 ^ 320 * n)) (acc + t)

/-- 2 to the power of a value that is not an integer, in units of 2^-321, its last bit one: the value is irrational. -/
def exp2Frac (f : Nat) : Nat :=
  2 * expSeries (f * ln2Fixed / 2 ^ 320) 90 1 (2 ^ 320) 0 + 1

/-- 2^a of an exact value; a magnitude that over- or underflows every format stands as 2^±1000. -/
def dyExp2 (d : Dy) : Dy :=
  let v : Int := if d.neg then -(d.mant : Int) else (d.mant : Int)
  if d.mant = 0 then ⟨false, 1, 0⟩
  else if d.exp ≥ 12 ∨ d.exp + (Nat.log2 d.mant : Nat) ≥ 12 then ⟨false, 1, if d.neg then -1000 else 1000⟩
  else if d.exp ≥ 0 then ⟨false, 1, v * (2 ^ d.exp.toNat : Nat)⟩
  else
    let k := (-d.exp).toNat
    let i := v / (2 ^ k : Nat)
    let r := (v % (2 ^ k : Nat)).toNat
    if r = 0 then ⟨false, 1, i⟩
    else ⟨false, exp2Frac (r * 2 ^ 320 / 2 ^ k), i - 321⟩

/-- FEXP2 (R115). -/
def fexp2Lane (f : Fmt) (md a : Nat) : Nat × Flags :=
  match nanOf f [a] with
  | some c => nanRes f [a] c
  | none =>
    match numOf f a with
    | .inf s => (f.code false (if s then 0 else f.infMag), Flags.none)
    | .fin d => roundTo f md false (dyExp2 d)

/-- The binary digits of log2 x for 1 ≤ x < 2 in units of 2^-320: squaring gives one digit at a time. -/
def log2Digits : Nat → Nat → Nat → Nat
  | 0, _, acc => acc
  | n + 1, x, acc =>
    let y := x * x / 2 ^ 320
    if y ≥ 2 ^ 321 then log2Digits n (y / 2) (2 * acc + 1) else log2Digits n y (2 * acc)

/-- log2 of a positive value: exact for a power of two, else irrational with a last bit of one. -/
def dyLog2 (m : Nat) (e : Int) : Dy :=
  let l := Nat.log2 m
  let i : Int := e + l
  if m = 2 ^ l then ⟨i < 0, i.natAbs, 0⟩
  else
    let v : Int := i * (2 ^ 128 : Nat) + log2Digits 128 (m * 2 ^ (320 - l)) 0
    if v < 0 then ⟨true, 2 * v.natAbs - 1, -129⟩ else ⟨false, 2 * v.natAbs + 1, -129⟩

/-- FLOG2 (R115). -/
def flog2Lane (f : Fmt) (md a : Nat) : Nat × Flags :=
  match nanOf f [a] with
  | some c => nanRes f [a] c
  | none =>
    match numOf f a with
    | .inf s => if s then invalid f else (f.code false f.infMag, Flags.none)
    | .fin d =>
      if d.mant = 0 then (f.code true f.infMag, { dz := true })
      else if d.neg then invalid f
      else roundTo f md false (dyLog2 d.mant d.exp)

/-- The place of a code in the order of R17, in which −0 ranks below +0. -/
def orderKey (f : Fmt) (c : Nat) : Int := if f.neg c then -(f.mag c : Int) - 1 else (f.mag c : Int)

/-- FMIN and FMAX return the number beside a NaN; FMINM and FMAXM return the NaN (R117). -/
def fminLane (f : Fmt) (max keepNan : Bool) (a b : Nat) : Nat × Flags :=
  let fl := Flags.ivIf (anySnan f [a, b])
  let pick := if (orderKey f a ≤ orderKey f b) != max then a else b
  let tie := if orderKey f a = orderKey f b then a else pick
  match f.isNan a, f.isNan b with
  | true, true => (f.quiet a, fl)
  | true, false => (if keepNan then f.quiet a else b, fl)
  | false, true => (if keepNan then f.quiet b else a, fl)
  | false, false => (tie, fl)

/-- Comparison of two codes that are not NaNs, −0 equal to +0 (R118). -/
def fcmpKey (f : Fmt) (c : Nat) : Int := if f.neg c then -(f.mag c : Int) else (f.mag c : Int)

/-- A condition of FCMP (R118). -/
def fcmpLane (f : Fmt) (w cond a b : Nat) : Nat × Flags :=
  let un := f.isNan a || f.isNan b
  let x := fcmpKey f a
  let y := fcmpKey f b
  let holds : Bool :=
    match cond with
    | 0 => !un && x == y
    | 1 => un || x != y
    | 2 => !un && x < y
    | 3 => !un && x ≤ y
    | 4 => !un && y < x
    | 5 => !un && y ≤ x
    | 6 => un
    | _ => !un
  let iv := anySnan f [a, b] || (un && 2 ≤ cond && cond ≤ 5)
  (if holds then allOnes w else 0, Flags.ivIf iv)

/-- FCLS (R119). -/
def fclsLane (f : Fmt) (a : Nat) : Nat :=
  let s := f.neg a
  if f.isSnan a then 256
  else if f.isNan a then 512
  else if f.isInf a then (if s then 1 else 128)
  else if f.isZero a then (if s then 8 else 16)
  else if f.mag a < 2 ^ f.mbits then (if s then 4 else 32)
  else (if s then 2 else 64)

/-- CVTI, integer to float (R121). -/
def intToFloat (f : Fmt) (md : Nat) (v : Int) : Nat × Flags := roundTo f md false ⟨v < 0, v.natAbs, 0⟩

/-- CVTI, float to integer (R28, R121). -/
def floatToInt (f : Fmt) (md w : Nat) (signed : Bool) (a : Nat) : Nat × Flags :=
  if f.isNan a then (0, Flags.ivIf true)
  else
    match numOf f a with
    | .inf s => (wrapw w (if s then laneMin w signed else laneMax w signed), Flags.ivIf true)
    | .fin d =>
      let r := dyToInt md d
      if r.1 < laneMin w signed then (wrapw w (laneMin w signed), Flags.ivIf true)
      else if r.1 > laneMax w signed then (wrapw w (laneMax w signed), Flags.ivIf true)
      else (wrapw w r.1, { nx := r.2 })

/-- The payload of a NaN of one format in another: fractions aligned at their top bit (R16, R35). -/
def nanPayload (src dst : Fmt) (c : Nat) : Nat :=
  let frac := if src.e4m3 then 2 ^ (src.mbits - 1) else src.mag c % 2 ^ src.mbits
  if src.mbits ≤ dst.mbits then frac * 2 ^ (dst.mbits - src.mbits) else frac / 2 ^ (src.mbits - dst.mbits)

/-- A NaN carried into another format (R35): E4M3 has one NaN of each sign, and a fraction never becomes zero. -/
def carryNan (src dst : Fmt) (c : Nat) : Nat :=
  if dst.e4m3 then dst.code (src.neg c) 0x7F
  else
    let p := nanPayload src dst c
    dst.code (src.neg c) (dst.infMag + (if p = 0 then 1 else p))

/-- One lane converted between formats: CVTF quiets a NaN, CVTW carries it (R123). -/
def convertLane (src dst : Fmt) (md : Nat) (sat carry : Bool) (c : Nat) : Nat × Flags :=
  if src.isNan c then
    let n := carryNan src dst c
    (if carry then n else if dst.e4m3 then n else dst.quiet (if src.e4m3 then n else carryNan src dst (src.quiet c)),
     Flags.ivIf (src.isSnan c))
  else if src.isInf c then
    if dst.e4m3 then
      if sat then (dst.code (src.neg c) dst.maxMag, Flags.satIf true)
      else (dst.code (src.neg c) 0x7F, Flags.ivIf true)
    else (dst.code (src.neg c) dst.infMag, Flags.none)
  else roundTo dst md sat (dyOf src c)

/-- One lane of a word replaced. -/
def insertLane (w i : Nat) (v : Nat) (into : Word) : Word :=
  let m : Word := BitVec.ofNat 32 ((2 ^ w - 1) * 2 ^ (w * i))
  (into &&& ~~~m) ||| (BitVec.ofNat 32 (v % 2 ^ w * 2 ^ (w * i)) &&& m)

/-- CVTF (R122, R123). DEDUCED (log 10), unsafe. -/
def cvtfOp (dst : Ty) (md x : Nat) (a b : Word) : Res :=
  let src := (Ty.ofCode (x % 16)).getD .f32
  let lane := bitsOf x 4 2
  let sat := bitsOf x 6 1 == 1
  let f := Fmt.ofTy src
  let g := Fmt.ofTy dst
  if src = dst then lanes1 dst (convertLane f g md sat false) a
  else if src = .f32 then
    let r := convertLane f g md sat false a.toNat
    (insertLane dst.width lane r.1 b, r.2)
  else if dst = .f32 then
    let r := convertLane f g 0 false false (laneNat src.width lane a)
    (BitVec.ofNat 32 r.1, r.2)
  else lanes1 dst (convertLane f g md sat false) a

/-- CVTW (R35, R122, R123). -/
def cvtwOp (t : Ty) (md x : Nat) (a b : Word) : Res :=
  let lane := bitsOf x 4 2
  let g := Fmt.ofTy t
  if bitsOf x 3 1 = 1 then
    let r := convertLane .f32 g md (bitsOf x 6 1 == 1) true a.toNat
    (insertLane t.width lane r.1 b, r.2)
  else
    let r := convertLane g .f32 0 false true (laneNat t.width lane a)
    (BitVec.ofNat 32 r.1, r.2)

/-- CVTI (R121). -/
def cvtiOp (t : Ty) (md x : Nat) (a : Word) : Res :=
  let signed := bitsOf x 0 1 == 0
  let f := Fmt.ofTy t
  if bitsOf x 3 1 = 0 then
    lanes1 t (fun n => intToFloat f md (if signed then signedNat t.width n else (n : Int))) a
  else lanes1 t (floatToInt f md t.width signed) a

end Sys2Proof.Machine
end

