-- ==== Sys2Proof/Machine/Fx4.lean ====
section
/-!
DEFINITION. The block-scaled four-bit format FX4: decoding, the encoder and encoding with supplied metadata
(R18 to R24). Magnitudes are exact integers: an element in units of 2^-160, a code in sixteenths.
-/
namespace Sys2Proof.Machine.Fx4

/-- Grid magnitudes in sixteenths (R19). -/
def grid : List Nat := [0, 8, 16, 24, 32, 48, 64, 96]

/-- Magnitude of the spare field in sixteenths (R19). -/
def spareMag (field : Nat) : Nat :=
  let spe := bitsOf field 2 3
  let spm := bitsOf field 0 2
  if spe = 0 then spm else (4 + spm) * 2 ^ (spe - 1)

/-- The signed magnitude of a code in sixteenths, given the spare field. -/
def codeVal (spare c : Nat) : Int :=
  if c = 8 then (if bitsOf spare 5 1 = 1 then -(spareMag spare : Int) else (spareMag spare : Int))
  else
    let m := grid.getD (c % 8) 0
    if c < 8 then (m : Int) else -(m : Int)

/-- The scale in units of 2^-160: (1 + SM/4) × 2^(SE − 127) (R18). -/
def scaleOf (se sm : Nat) : Nat := (4 + sm) * 2 ^ (se + 31)

/-- An FP32 code in units of 2^-160, signed; infinities and NaNs are handled before it is used. -/
def valOf (c : Nat) : Int :=
  let d := dyOf .f32 c
  let m : Int := (d.mant * 2 ^ (d.exp + 160).toNat : Nat)
  if d.neg then -m else m

/-- One element decoded to FP32 (R20, R21). -/
def decodeElem (meta_ c : Nat) : Nat × Flags :=
  let se := bitsOf meta_ 8 8
  if se = 0xFF then (0x7FC00000 + c, Flags.none)
  else
    let spare := bitsOf meta_ 0 6
    let v := codeVal spare c
    let neg := v < 0 || (c == 8 && bitsOf spare 5 1 == 1)
    roundTo .f32 0 false ⟨neg, v.natAbs * (4 + bitsOf meta_ 6 2), (se : Int) - 133⟩

/-- The exact signed value of a code in units of 2^-164. -/
def exactVal (meta_ c : Nat) : Int :=
  codeVal (bitsOf meta_ 0 6) c * (scaleOf (bitsOf meta_ 8 8) (bitsOf meta_ 6 2) : Int)

/-- The nearest grid code of |q| = x/s, a tie to the even code, above 6 the code of 6 (R22). -/
def nearestGrid (x s : Nat) : Nat :=
  let dist (i : Nat) : Nat := ((16 * x : Int) - (grid.getD i 0 * s : Nat)).natAbs
  (List.range 8).foldl (fun best i =>
    if dist i < dist best then i
    else if dist i = dist best ∧ i % 2 = 0 then i else best) 0

/-- The code of one element for a scale and a spare field (R22, the element loop of `try`). -/
def elemCode (s spare : Nat) (x : Int) : Nat :=
  let g := nearestGrid x.natAbs s
  let gc := if x < 0 ∧ g ≠ 0 then g + 8 else g
  let q : Int := 16 * x
  let dp := (q - codeVal spare 8 * (s : Int)).natAbs
  let dg := (q - codeVal spare gc * (s : Int)).natAbs
  if dp < dg then 8 else gc

/-- Spare fields of positive sign whose magnitude is not a grid magnitude, in ascending magnitude (R21, R22). -/
def spareFields : List Nat := (List.range 32).filter (fun f => !(grid.contains (spareMag f)))

/-- The spare field nearest min(|x|/s, 28), a tie to the smaller magnitude, with the sign of x (R22). -/
def nearestSpare (x : Int) (s : Nat) : Nat :=
  let t := min (16 * x.natAbs) (448 * s)
  let dist (f : Nat) : Nat := ((t : Int) - (spareMag f * s : Nat)).natAbs
  let best := spareFields.foldl (fun b f => if dist f < dist b then f else b) (spareFields.headD 1)
  best + (if x < 0 then 32 else 0)

/-- The smallest scale with a ≤ 6 × scale, as (SE, SM), and whether it was clamped (R22). -/
def fit (a : Nat) : (Nat × Nat) × Bool :=
  if a = 0 then ((0, 0), false)
  else if a > 6 * scaleOf 0xF9 3 then ((0xF9, 3), true)
  else
    let se := ((List.range 250).find? (fun e => a ≤ 6 * scaleOf e 3)).getD 0xF9
    let sm := ((List.range 4).find? (fun m => a ≤ 6 * scaleOf se m)).getD 3
    ((se, sm), false)

/-- One variant: metadata and codes (R22). -/
def tryScale (xs : List Int) (outlier : Int) (se sm : Nat) : Nat × List Nat :=
  let s := scaleOf se sm
  let spare := nearestSpare outlier s
  (se * 256 + sm * 64 + spare, xs.map (elemCode s spare))

/-- The exact squared error of a variant, in units of 2^-328 (R22). -/
def err (xs : List Int) (v : Nat × List Nat) : Nat :=
  (List.zipWith (fun x c => let d := (16 * x - exactVal v.1 c).natAbs; d * d) xs v.2).foldl (· + ·) 0

/-- The flags of a finite block: NX where a value changes, UF where a nonzero input decodes to zero (R23, R24). -/
def lossFlags (xs : List Int) (v : Nat × List Nat) : Flags :=
  { nx := (List.zipWith (fun x c => 16 * x != exactVal v.1 c) xs v.2).any id
    uf := (List.zipWith (fun x c => x != 0 && exactVal v.1 c == 0) xs v.2).any id }

/-- An encoded block: metadata, 32 codes, flags. -/
abbrev Block := Nat × List Nat × Flags

/-- The codes of a block NaN: the low payload bits of its NaN elements (R22, R24). -/
def nanCodes (xs : List Nat) : List Nat := xs.map (fun x => if Fmt.f32.isNan x then x % 16 else 0)

/-- Some element is a signalling NaN or infinite (R22). -/
def nanFlags (xs : List Nat) : Flags := Flags.ivIf (xs.any (fun x => Fmt.f32.isSnan x || Fmt.f32.isInf x))

/-- The FX4 encoder (R22, R23). -/
def encode (xs : List Nat) : Block :=
  if xs.any (fun x => Fmt.f32.isNan x || Fmt.f32.isInf x) then (0xFF01, nanCodes xs, nanFlags xs)
  else
    let vs := xs.map valOf
    let top := (vs.map Int.natAbs).foldl max 0
    if top = 0 then (0x0001, vs.map (fun _ => 0), Flags.none)
    else
      let o := (vs.findIdx? (fun v => v.natAbs == top)).getD 0
      let outlier := vs.getD o 0
      let rest := ((vs.eraseIdx o).map Int.natAbs).foldl max 0
      let p := fit top
      let a := fit rest
      let vp := tryScale vs outlier p.1.1 p.1.2
      let v :=
        if scaleOf a.1.1 a.1.2 < scaleOf p.1.1 p.1.2 then
          let va := tryScale vs outlier a.1.1 a.1.2
          if err vs va < err vs vp then va else vp
        else vp
      (v.1, v.2, (lossFlags vs v).union { ofl := p.2 })

/-- Encoding with supplied metadata (R24). -/
def encodeWith (meta_ : Nat) (xs : List Nat) : Block :=
  if bitsOf meta_ 8 8 = 0xFF then (meta_, nanCodes xs, nanFlags xs)
  else
    let s := scaleOf (bitsOf meta_ 8 8) (bitsOf meta_ 6 2)
    let one (x : Nat) : Nat :=
      if Fmt.f32.isNan x then 0
      else if Fmt.f32.isInf x then (if Fmt.f32.neg x then 15 else 7)
      else elemCode s (bitsOf meta_ 0 6) (valOf x)
    let finite := xs.filter (fun x => !(Fmt.f32.isNan x) && !(Fmt.f32.isInf x))
    let vs := finite.map valOf
    let fl := lossFlags vs (meta_, finite.map one)
    let special := xs.filter (fun x => Fmt.f32.isNan x || Fmt.f32.isInf x)
    (meta_, xs.map one, fl.union { iv := !special.isEmpty, nx := special.any (fun x => (decodeElem meta_ (one x)).1 != x) })

/-- Thirty-two codes as four words, code 2j in the low half of byte j (R18). -/
def packCodes (cs : List Nat) : List Word := (List.range 4).map (fun w => packWord 4 ((cs.drop (8 * w)).take 8))

/-- The 32 codes of four words (R18). -/
def unpackCodes (ws : List Word) : List Nat := ws.flatMap (fun w => lanesOf .fx4x8 w)

end Sys2Proof.Machine.Fx4
end

