-- ==== Sys2Proof/Decode.lean ====
section
/-!
DEFINITION. The decoder of element words, block instructions and island instructions, total on any bits and
rejecting by the loader's cause, and after it the encoder, both written from the layouts of R53 to R61.
-/
namespace Sys2Proof

namespace Decode

/-- A queue code (R55). -/
def queueOf (n : Nat) : QueueName :=
  match n with
  | 0 => .L
  | 1 => .R
  | 2 => .P
  | _ => .O

/-- A predicate mode (R56). -/
def pmOf (n : Nat) : PredMode :=
  match n with
  | 0 => .always
  | 1 => .ifNonzero
  | 2 => .ifZero
  | _ => .consume

/-- A route (R55): the kinds 110 and 111 are refused, and the bits that a kind does not use are reserved. -/
def routeOf (v : BitVec 12) : Route × List Cause :=
  match (v.extractLsb' 9 3).toNat with
  | 0 => (.none, chk 5 (v.extractLsb' 0 9 == 0))
  | 1 => (.pe (v.extractLsb' 5 4) (v.extractLsb' 2 3) (queueOf (v.extractLsb' 0 2).toNat), [])
  | 2 => (.egress (v.extractLsb' 0 4), chk 5 (v.extractLsb' 4 5 == 0))
  | 3 => (.lane (v.extractLsb' 0 4), chk 5 (v.extractLsb' 4 5 == 0))
  | 4 => (.chan (v.extractLsb' 0 6), chk 5 (v.extractLsb' 6 3 == 0))
  | 5 => (.node (v.extractLsb' 0 3) (v.extractLsb' 3 2), chk 5 (v.extractLsb' 5 4 == 0))
  | _ => (.none, [8])

/-- A target (R60): the kinds 110 and 111 are refused, and the bits that a kind does not use are reserved. -/
def targetOf (v : BitVec 10) : Target × List Cause :=
  match (v.extractLsb' 7 3).toNat with
  | 0 => (.none, chk 5 (v.extractLsb' 0 7 == 0))
  | 1 => (.left (v.extractLsb' 0 7), [])
  | 2 => (.right (v.extractLsb' 0 7), [])
  | 3 => (.pred (v.extractLsb' 0 7), [])
  | 4 => (.emit (v.extractLsb' 0 4), chk 5 (v.extractLsb' 4 3 == 0))
  | 5 => (.lane (v.extractLsb' 0 4), chk 5 (v.extractLsb' 4 3 == 0))
  | _ => (.none, [8])

/-- A designator (R61). -/
def desigOf (v : BitVec 5) : Desig × List Cause :=
  if v.extractLsb' 4 1 == 1 then (.s (v.extractLsb' 0 4), [])
  else if v.extractLsb' 3 2 == 0 then (.t (v.extractLsb' 0 3), [])
  else if v.extractLsb' 2 3 == 2 then (.a (v.extractLsb' 0 2), [])
  else (.bad (v.extractLsb' 0 2), [])

/-- A type code; 12 to 15 are refused (R12). -/
def tyOf (v : BitVec 4) : Ty × List Cause :=
  match Ty.ofCode v.toNat with
  | some t => (t, [])
  | none => (.i32, [6])

/-- The source of the C operand; 11 is refused (R53). -/
def csrcOf (v : BitVec 2) : CSource × List Cause :=
  match v.toNat with
  | 0 => (.literal, [])
  | 1 => (.slot, [])
  | 2 => (.counter, [])
  | _ => (.literal, [7])

/-- The emission pattern (R57). -/
def patOf (v : BitVec 4) : Pattern × List Cause :=
  match v.toNat with
  | 0 => (.plain, [])
  | 1 => (.replay, [])
  | 2 => (.decimate, [])
  | _ => (.plain, [7])

/-- The EOR and EOS policy (R57). -/
def eospOf (v : BitVec 2) : EndPolicy × List Cause :=
  match v.toNat with
  | 0 => (.forward, [])
  | 1 => (.absorb, [])
  | 2 => (.first, [])
  | _ => (.forward, [7])

/-- A scale check; 11 is refused (R53). -/
def sckOf (v : BitVec 2) : ScaleCheck × List Cause :=
  match v.toNat with
  | 0 => (.any, [])
  | 1 => (.unscaled, [])
  | 2 => (.scaled, [])
  | _ => (.any, [7])

/-- The fields of an element word beside its opcode, and the causes that they alone show (R53). -/
def ecwOf (w : BitVec 128) : Ecw × List Cause :=
  let ty := tyOf (w.extractLsb' 114 4)
  let csrc := csrcOf (w.extractLsb' 105 2)
  let r0 := routeOf (w.extractLsb' 78 12)
  let r1 := routeOf (w.extractLsb' 66 12)
  let pat := patOf (w.extractLsb' 50 4)
  let eosp := eospOf (w.extractLsb' 48 2)
  let sl := sckOf (w.extractLsb' 43 2)
  let sr := sckOf (w.extractLsb' 41 2)
  ({ pm := pmOf (w.extractLsb' 118 2).toNat
     ty := ty.1
     md := w.extractLsb' 111 3
     qL := w.extractLsb' 110 1 == 1
     qR := w.extractLsb' 109 1 == 1
     qP := w.extractLsb' 108 1 == 1
     qO := w.extractLsb' 107 1 == 1
     csrc := csrc.1
     carg := w.extractLsb' 100 5
     x := w.extractLsb' 90 10
     route0 := r0.1
     route1 := r1.1
     rpt := w.extractLsb' 54 12
     pat := pat.1
     eosp := eosp.1
     rwin := w.extractLsb' 45 3
     sckl := sl.1
     sckr := sr.1
     const := w.extractLsb' 0 32 },
   ty.2 ++ csrc.2 ++ r0.2 ++ r1.2 ++ pat.2 ++ eosp.2 ++ sl.2 ++ sr.2 ++ chk 5 (w.extractLsb' 32 9 == 0))

/-- The fields of an actor or trap-handler instruction beside its opcode (R58). -/
def blkOf (w : BitVec 64) : Blk × List Cause :=
  let ty := tyOf (w.extractLsb' 50 4)
  let t1 := targetOf (w.extractLsb' 36 10)
  let t2 := targetOf (w.extractLsb' 26 10)
  ({ pm := pmOf (w.extractLsb' 54 2).toNat
     ty := ty.1
     md := w.extractLsb' 47 3
     ri := w.extractLsb' 46 1 == 1
     t1 := t1.1
     t2 := t2.1
     x := w.extractLsb' 16 10
     imm := w.extractLsb' 0 16 }, ty.2 ++ t1.2 ++ t2.2)

/-- The fields of an island instruction beside its opcode (R58, R61); PM has no meaning there and must be 00. -/
def islOf (w : BitVec 64) : Isl × List Cause :=
  let ty := tyOf (w.extractLsb' 50 4)
  let da := desigOf (w.extractLsb' 41 5)
  let db := desigOf (w.extractLsb' 36 5)
  let dc := desigOf (w.extractLsb' 31 5)
  ({ ty := ty.1
     md := w.extractLsb' 47 3
     ri := w.extractLsb' 46 1 == 1
     da := da.1
     db := db.1
     dc := dc.1
     x := w.extractLsb' 16 10
     imm := w.extractLsb' 0 16 },
   ty.2 ++ da.2 ++ db.2 ++ dc.2 ++ chk 7 (w.extractLsb' 54 2 == 0) ++ chk 5 (w.extractLsb' 26 5 == 0))

/-- SEND by its message code, X bits 7:0; a code that SEND refuses is left to the checks of its rule (R93, R216). -/
def sendOf (w : Blk) : Instr :=
  match w.x.toNat % 256 with
  | 0x02 => .sendFill w
  | 0x03 => .sendGather w
  | 0x04 => .sendScatter w
  | 0x05 => .sendIstream w
  | 0x06 => .sendPublish w
  | 0x07 => .sendDiscard w
  | 0x08 => .sendPreload w
  | 0x09 => .sendMigrate w
  | 0x0A => .sendMark w
  | 0x0B => .sendTest w
  | _ => .sendCopy w

/-- The opcodes 0x01 to 0x3F that elements and blocks hold (R89). -/
def formLow (op : Nat) (w : Form) : Option Instr :=
  match op with
  | 0x01 => some (.add w)
  | 0x02 => some (.sub w)
  | 0x03 => some (.rsub w)
  | 0x04 => some (.adds w)
  | 0x05 => some (.subs w)
  | 0x06 => some (.addsn w)
  | 0x07 => some (.subsn w)
  | 0x08 => some (.mul w)
  | 0x09 => some (.mulh w)
  | 0x0A => some (.mulhn w)
  | 0x0B => some (.mad w)
  | 0x0C => some (.div w)
  | 0x0D => some (.divn w)
  | 0x0E => some (.rem w)
  | 0x0F => some (.remn w)
  | 0x10 => some (.min w)
  | 0x11 => some (.max w)
  | 0x12 => some (.minn w)
  | 0x13 => some (.maxn w)
  | 0x14 => some (.abs w)
  | 0x15 => some (.neg w)
  | 0x16 => some (.clamp w)
  | 0x17 => some (.and w)
  | 0x18 => some (.or w)
  | 0x19 => some (.xor w)
  | 0x1A => some (.andn w)
  | 0x1B => some (.not w)
  | 0x1C => some (.shl w)
  | 0x1D => some (.shr w)
  | 0x1E => some (.sar w)
  | 0x1F => some (.rol w)
  | 0x20 => some (.ror w)
  | 0x21 => some (.clz w)
  | 0x22 => some (.ctz w)
  | 0x23 => some (.popc w)
  | 0x24 => some (.brev w)
  | 0x25 => some (.bfx w)
  | 0x26 => some (.bfxs w)
  | 0x27 => some (.bfi w)
  | 0x28 => some (.bytep w)
  | 0x29 => some (.shrr w)
  | 0x2A => some (.satw w)
  | 0x2B => some (.satwn w)
  | 0x2C => some (.lea w)
  | 0x30 => some (.cmp w)
  | 0x31 => some (.tst w)
  | 0x32 => some (.sel w)
  | 0x33 => some (.mov w)
  | 0x34 => some (.lit w)
  | 0x35 => some (.dot4 w)
  | 0x36 => some (.dot2 w)
  | 0x37 => some (.sad4 w)
  | 0x38 => some (.pack w)
  | 0x39 => some (.unpkl w)
  | 0x3A => some (.unpkh w)
  | _ => none

/-- The opcodes 0x40 to 0xFF that elements and blocks hold (R89); MD splits FENCE (R182). -/
def formHigh (op : Nat) (w : Form) : Option Instr :=
  match op with
  | 0x40 => some (.fadd w)
  | 0x41 => some (.fsub w)
  | 0x42 => some (.fmul w)
  | 0x43 => some (.ffma w)
  | 0x44 => some (.ffms w)
  | 0x45 => some (.fmin w)
  | 0x46 => some (.fmax w)
  | 0x47 => some (.fminm w)
  | 0x48 => some (.fmaxm w)
  | 0x49 => some (.fabs w)
  | 0x4A => some (.fneg w)
  | 0x4B => some (.fcmp w)
  | 0x4C => some (.fcls w)
  | 0x4D => some (.frcp w)
  | 0x4E => some (.frsq w)
  | 0x4F => some (.fsqrt w)
  | 0x50 => some (.fdiv w)
  | 0x51 => some (.fexp2 w)
  | 0x52 => some (.flog2 w)
  | 0x53 => some (.frnd w)
  | 0x54 => some (.fldx w)
  | 0x55 => some (.fscl w)
  | 0x60 => some (.cvti w)
  | 0x61 => some (.cvtf w)
  | 0x62 => some (.cvtw w)
  | 0x70 => some (.steer w)
  | 0x71 => some (.cmerge w)
  | 0x72 => some (.merge w)
  | 0x73 => some (.omerge w)
  | 0x74 => some (.gate w)
  | 0x75 => some (.dup w)
  | 0x76 => some (.drop w)
  | 0x78 => some (.count w)
  | 0x79 => some (.iter w)
  | 0x7B => some (.join w)
  | 0x7C => some (.reduce w)
  | 0x7D => some (.scanp w)
  | 0x7E => some (.mkeos w)
  | 0x7F => some (.oneos w)
  | 0x80 => some (.tagr w)
  | 0x81 => some (.tagw w)
  | 0x82 => some (.nexti w)
  | 0x83 => some (.wid w)
  | 0x84 => some (.arg w)
  | 0x88 => some (.rclose w)
  | 0xA0 => some (.ld w)
  | 0xA1 => some (.st w)
  | 0xA4 => some (.pf w)
  | 0xA5 => some (.aadd w)
  | 0xA6 => some (.aadds w)
  | 0xA7 => some (.amin w)
  | 0xA8 => some (.amax w)
  | 0xA9 => some (.aminn w)
  | 0xAA => some (.amaxn w)
  | 0xAB => some (.aand w)
  | 0xAC => some (.aor w)
  | 0xAD => some (.axor w)
  | 0xAE => some (.axch w)
  | 0xB0 => some (.afadd w)
  | 0xB1 => some (.ainc w)
  | 0xB2 => some (match w.md with | 2 => .fenceRel w | 3 => .fenceAr w | _ => .fenceAcq w)
  | 0xF0 => some (.trap w)
  | 0xF1 => some (.brk w)
  | _ => none

/-- The opcodes that only blocks hold (R89); X splits SEND, SENDW and WRSR, and MD splits INVAL (R93, R233). -/
def blockOp (op : Nat) (w : Blk) : Option Instr :=
  match op with
  | 0x63 => some (.fxpk w)
  | 0x64 => some (.fxun w)
  | 0x65 => some (.fxsc w)
  | 0x85 => some (.argw w)
  | 0x86 => some (.launch w)
  | 0x87 => some (.call w)
  | 0x90 => some (.recv w)
  | 0x91 => some (.peek w)
  | 0x92 => some (.emit w)
  | 0x93 => some (.advr w)
  | 0x94 => some (.advw w)
  | 0x95 => some (.cbq w)
  | 0xA2 => some (.ldx w)
  | 0xA3 => some (.stx w)
  | 0xE0 => some (sendOf w)
  | 0xE1 => some (match w.x.toNat % 256 with | 0x0C => .sendwCensus w | 0x0D => .sendwQuery w | _ => .sendw w)
  | 0xF2 => some (.wmark w)
  | 0xF3 => some (.sealWindow w)
  | 0xF4 => some (.rdsr w)
  | 0xF5 => some (match w.x.toNat with | 2 => .wrsrRtmr w | 0x0B => .wrsrQuota w | _ => .wrsrAflg w)
  | 0xF6 => some (match w.md.toNat with | 1 => .invalAll w | _ => .inval w)
  | 0xF7 => some (.pgld w)
  | 0xF8 => some (.pgev w)
  | 0xF9 => some (.fold w)
  | 0xFA => some (.yield w)
  | 0xFB => some (.census w)
  | _ => none

/-- The opcodes of island blocks (R192); MD splits IEMIT. -/
def islandOp (op : Nat) (w : Isl) : Option Instr :=
  match op with
  | 0xC0 => some (.mma w)
  | 0xC1 => some (.mmat w)
  | 0xC2 => some (.mmas w)
  | 0xC3 => some (.ldt w)
  | 0xC4 => some (.ldtt w)
  | 0xC5 => some (.stt w)
  | 0xC6 => some (.lda w)
  | 0xC7 => some (.sta w)
  | 0xC8 => some (.rda w)
  | 0xC9 => some (.zacc w)
  | 0xCA => some (.sca w)
  | 0xCB => some (.vmaxr w)
  | 0xCC => some (.vsumr w)
  | 0xCD => some (.vexp2 w)
  | 0xCE => some (.vadd w)
  | 0xCF => some (.vsub w)
  | 0xD0 => some (.vmul w)
  | 0xD1 => some (.vfma w)
  | 0xD2 => some (.vmax w)
  | 0xD3 => some (.vcvt w)
  | 0xD4 => some (.vbcast w)
  | 0xD5 => some (.iloop w)
  | 0xD6 => some (.iwait w)
  | 0xD7 => some (match w.md.toNat with | 1 => .iemitTok w | _ => .iemitPkt w)
  | 0xD8 => some (.isync w)
  | _ => none

/-- The instruction that an element's opcode and fields name; MD splits STRIKE (R150). -/
def elemInstr (op : Nat) (e : Ecw) : Option Instr :=
  if op = 0x77 then some (.repeatSeg e)
  else if op = 0x7A then some (if e.md.toNat = 1 then .strikeAnnul e else .strikeMake (.elem e))
  else if op = 0xAF then some (.acas (.elem e))
  else if op < 0x40 then formLow op (.elem e) else formHigh op (.elem e)

/-- The instruction that a block's opcode and fields name; X[3] splits ACAS (R171). -/
def blockInstr (op : Nat) (b : Blk) : Option Instr :=
  if op = 0x7A then some (.strikeMake (.block b))
  else if op = 0xAF then some (if bitsOf b.x.toNat 3 1 = 1 then .acasD b else .acas (.block b))
  else if op < 0x40 then formLow op (.block b)
  else match formHigh op (.block b) with
    | some i => some i
    | none => blockOp op b

/-- Some context holds the opcode (R89, R90). -/
def assigned (op : Nat) : Bool :=
  let e : Ecw := (ecwOf 0).1
  let b : Blk := (blkOf 0).1
  op == 0 || (elemInstr op e).isSome || (blockInstr op b).isSome || (islandOp op (islOf 0).1).isSome

/-- The instruction, unless a cause refuses the word; the lowest cause is reported (R75). -/
def finish (site : Site) (op : Nat) (i : Option Instr) (raw : List Cause) : Except Cause Instr :=
  match i with
  | none => .error (if assigned op then 3 else 2)
  | some i =>
    match lowest (raw ++ wordCauses site i) with
    | some c => .error c
    | none => .ok i

end Decode

open Decode in
/-- The element word (R53), or the cause that refuses it. -/
def decodeEcw (w : BitVec 128) : Except Cause Instr :=
  let op := (w.extractLsb' 120 8).toNat
  if op = 0 then (if w = 0 then .ok (.nop .elem) else .error 5)
  else
    let e := ecwOf w
    finish .elem op (elemInstr op e.1) e.2

open Decode in
/-- The instruction of an actor, trap-handler or island block (R58, R61), or the cause that refuses it. -/
def decodeBlk (site : Site) (w : BitVec 64) : Except Cause Instr :=
  let op := (w.extractLsb' 56 8).toNat
  match site with
  | .island =>
    if op = 0 then (if w = 0 then .ok (.nop .island) else .error 5)
    else
      let i := islOf w
      finish .island op (islandOp op i.1) i.2
  | _ =>
    if op = 0 then (if w = 0 then .ok (.nop .block) else .error 5)
    else
      let b := blkOf w
      finish site op (blockInstr op b.1) b.2

namespace Encode

/-- Queue code (R55). -/
def queue : QueueName → BitVec 2
  | .L => 0
  | .R => 1
  | .P => 2
  | .O => 3

/-- Predicate mode (R56). -/
def pm : PredMode → BitVec 2
  | .always => 0
  | .ifNonzero => 1
  | .ifZero => 2
  | .consume => 3

/-- Route (R55). -/
def route : Route → BitVec 12
  | .none => 0
  | .pe c r q => (1 : BitVec 3) ++ c ++ r ++ queue q
  | .egress p => (2 : BitVec 3) ++ (0 : BitVec 5) ++ p
  | .lane l => (3 : BitVec 3) ++ (0 : BitVec 5) ++ l
  | .chan c => (4 : BitVec 3) ++ (0 : BitVec 3) ++ c
  | .node n p => (5 : BitVec 3) ++ (0 : BitVec 4) ++ p ++ n

/-- Target (R60). -/
def target : Target → BitVec 10
  | .none => 0
  | .left i => (1 : BitVec 3) ++ i
  | .right i => (2 : BitVec 3) ++ i
  | .pred i => (3 : BitVec 3) ++ i
  | .emit p => (4 : BitVec 3) ++ (0 : BitVec 3) ++ p
  | .lane l => (5 : BitVec 3) ++ (0 : BitVec 3) ++ l

/-- Designator (R61). -/
def desig : Desig → BitVec 5
  | .t n => (0 : BitVec 2) ++ n
  | .a n => (2 : BitVec 3) ++ n
  | .s n => (1 : BitVec 1) ++ n
  | .bad n => (3 : BitVec 3) ++ n

/-- Type code (R12). -/
def ty (t : Ty) : BitVec 4 := BitVec.ofNat 4 t.code

/-- C source (R53). -/
def csrc : CSource → BitVec 2
  | .literal => 0
  | .slot => 1
  | .counter => 2

/-- Pattern (R57). -/
def pat : Pattern → BitVec 4
  | .plain => 0
  | .replay => 1
  | .decimate => 2

/-- Policy (R57). -/
def eosp : EndPolicy → BitVec 2
  | .forward => 0
  | .absorb => 1
  | .first => 2

/-- Scale check (R53). -/
def sck : ScaleCheck → BitVec 2
  | .any => 0
  | .unscaled => 1
  | .scaled => 2

/-- The element word (R53), its fields from bit 127 down. -/
def ecw (op : BitVec 8) (e : Ecw) : BitVec 128 :=
  op ++ pm e.pm ++ ty e.ty ++ e.md ++ BitVec.ofBool e.qL ++ BitVec.ofBool e.qR ++ BitVec.ofBool e.qP ++
  BitVec.ofBool e.qO ++ csrc e.csrc ++ e.carg ++ e.x ++ route e.route0 ++ route e.route1 ++ e.rpt ++ pat e.pat ++
  eosp e.eosp ++ e.rwin ++ sck e.sckl ++ sck e.sckr ++ (0 : BitVec 9) ++ e.const

/-- The block word (R58), its fields from bit 63 down. -/
def blk (op : BitVec 8) (b : Blk) : BitVec 64 :=
  op ++ pm b.pm ++ ty b.ty ++ b.md ++ BitVec.ofBool b.ri ++ target b.t1 ++ target b.t2 ++ b.x ++ b.imm

/-- The island word (R58, R61), its fields from bit 63 down. -/
def isl (op : BitVec 8) (w : Isl) : BitVec 64 :=
  op ++ (0 : BitVec 2) ++ ty w.ty ++ w.md ++ BitVec.ofBool w.ri ++ desig w.da ++ desig w.db ++ desig w.dc ++
  (0 : BitVec 5) ++ w.x ++ w.imm

end Encode

/-- An instruction word: 128 bits in an element, 64 bits in a block. -/
inductive Code where
  | ecw (w : BitVec 128)
  | blk (w : BitVec 64)
  deriving DecidableEq, Repr

/-- The word of an instruction; an event of the device's other agents has none. -/
def encode (i : Instr) : Option Code :=
  match i with
  | .nop .elem => some (.ecw 0)
  | .nop _ => some (.blk 0)
  | _ =>
    match opInfo i with
    | none => none
    | some o =>
      let op := BitVec.ofNat 8 o.code
      match islandRule i with
      | some (w, _) => some (.blk (Encode.isl op w))
      | none =>
        match ruleOf (.actor true true) i with
        | some (.elem e, _, _) => some (.ecw (Encode.ecw op e))
        | some (.block b, _, _) => some (.blk (Encode.blk op b))
        | none => none

/-- Decoding a word at a site. -/
def decode (site : Site) (c : Code) : Except Cause Instr :=
  match site, c with
  | .elem, .ecw w => decodeEcw w
  | .elem, .blk _ => .error 3
  | _, .ecw _ => .error 3
  | s, .blk w => decodeBlk s w

/-- The word built from bytes, the byte of lowest address least significant (R6). -/
def wordOfBytes : List Byte → Nat
  | [] => 0
  | b :: bs => b.toNat + 256 * wordOfBytes bs

/-- The bytes of a word, least significant first (R6). DEDUCED (log 58), unsafe. -/
def bytesOfWord : Nat → Nat → List Byte
  | 0, _ => []
  | n + 1, w => BitVec.ofNat 8 w :: bytesOfWord n (w / 256)

/-- The instruction that the decoder reads from a table row's bits, numbered as the table numbers them: a row of
128 bits is an element word and a row of 64 bits is a word of an island block or of a privileged actor block. -/
def decodeTableWord (nbits w : Nat) : Option Instr :=
  if nbits = 128 then
    match decodeEcw (BitVec.ofNat 128 w) with
    | .ok i => some i
    | .error _ => none
  else if nbits = 64 then
    let b := BitVec.ofNat 64 w
    let op := (b.extractLsb' 56 8).toNat
    let site : Site := if 0xC0 ≤ op ∧ op ≤ 0xD8 then .island else .actor true true
    match decodeBlk site b with
    | .ok i => some i
    | .error _ => none
  else none

end Sys2Proof
end

