-- ==== Sys2Proof/Machine/State.lean ====
section
/-!
DEFINITION. The state of the whole device as plain data, the reasons for which the model stops, and the state at reset.
-/
namespace Sys2Proof.Machine

/-- Why the model's machine stops with a fault. The hardware's own faults are next states: their records and trap
tokens are written, and the party stops. DEDUCED (log 126), safe. -/
inductive Fault where
  /-- An instruction was executed although the turn names no unit that can run it: a word in a party that cannot hold
  it (R86), an event without its unit. Raised by the meanings; safe, because no fetch and no sweep leads to it. -/
  | noParty
  deriving DecidableEq, Repr

/-- Why the model gives an instruction no meaning. -/
inductive Refusal where
  /-- The instruction has no meaning yet. Raised by `exec`; safe: the machine stops. -/
  | notModelled (mnemonic : String)
  /-- The word at the party's place is not one that the loader accepts, with the cause it would report (R76, R90).
  Raised by the fetch; safe: no such word becomes resident. -/
  | undecodable (cause : Nat)
  deriving DecidableEq, Repr

/-- What orders later accesses after earlier ones, carried by every token and value (R181, R182, R300). This is the model's
bookkeeping of 'ordered before'. -/
structure Dep where
  /-- The writes ordered before it. -/
  know : List Nat := []
  /-- The writes that reads ordered before it returned, each with the region of the reader. -/
  reads : List (Nat × Nat) := []
  /-- The writes that an acquire ordered before it has added to its knowledge (R302, R305). -/
  rounds : List Nat := []
  /-- The release fences ordered before it. -/
  rels : List Nat := []
  /-- Accesses of a firing, by request, that a fence of the firing put before it although they had not been performed (R182). -/
  pend : List Nat := []
  deriving DecidableEq, Repr

/-- A token of R46, with the ordering it carries. -/
structure Token where
  kind : Kind
  sc : Bool := false
  tag : Tag
  pay : Word
  dep : Dep := {}
  deriving DecidableEq, Repr

/-- What stands in a queue, buffer, lane or wing: a token, the header beat or a row beat of a tile packet (R50, R278),
or the mark of a cue on a lane (R212). -/
inductive Item where
  | tok (t : Token)
  | head (h : DWord) (dep : Dep)
  | row (r : BitVec 512)
  deriving DecidableEq, Repr

/-- A value in an operand slot, a register or a result: 32 bits, its SC and its ordering. -/
structure Val where
  v : Word
  sc : Bool := false
  dep : Dep := {}
  deriving DecidableEq, Repr

/-- The spaces of memory (R291, R326, R328). -/
inductive Space where
  | sram | dram | host
  deriving DecidableEq, Repr

/-- What an access does at its home (R174, R177, R178, R180). -/
inductive MemOp where
  | load (signed : Bool)
  | store
  | atomic (op : Nat) (ty : Ty) (scope : Scope)
  | cas (scope : Scope)
  | fadd (ty : Ty) (scope : Scope) (rank : Option Nat)
  | load8
  | store8
  | cas8 (scope : Scope)
  /-- A fence that waits for a commit point (R182). -/
  | fence (rel acq : Bool) (scope : Scope)
  deriving DecidableEq, Repr

/-- How far an access has come. -/
inductive ReqPhase where
  /-- Waits for a translation at an MSE of a virtual address. -/
  | translating (mse : Nat)
  /-- Waits for the close that a DEVICE- or SYSTEM-scope atomic requests (R184). -/
  | waitClose (round : Nat)
  /-- Its home is known, and its port queue has no room for it yet (R249, R294, R298). -/
  | entering
  /-- Stands in a port queue of its home (R294). -/
  | queued
  /-- An ordered-AFADD contribution that its window holds (R180). -/
  | held
  /-- Performed; the result waits for delivery in issue order (R295). -/
  | done
  /-- Delivered behind the commit point that it waited for, and kept until the round of its delivery commits: a void of
  that round delivers it again (R182, R184, R314). -/
  | given
  deriving DecidableEq, Repr

/-- An access between its issue and the delivery of its response (R294, R295). -/
structure Req where
  id : Nat
  issuer : Party
  ctx : CtxId
  round : Nat
  tag : Tag
  op : MemOp
  node : Nat
  va : Nat
  space : Space
  addr : Nat
  size : Nat
  home : Home
  port : Nat
  a : DWord := 0
  b : DWord := 0
  phase : ReqPhase
  /-- When the request entered its port queue (R294). -/
  entered : BitVec 64 := 0
  /-- Earlier accesses that are ordered before this one and not yet performed (R181). -/
  after : List Nat := []
  /-- A DEVICE- or SYSTEM-scope atomic that still has to request its close (R184). -/
  needClose : Bool := false
  /-- The result passes the issuing element's decimation (R57). -/
  keep : Bool := true
  value : DWord := 0
  /-- The SC of a value that a fence passes on (R182). -/
  sc : Bool := false
  /-- AFLG bits that the access raised at its home (R177). -/
  flags : BitVec 6 := 0
  dep : Dep := {}
  /-- The access has waited for another context's atomic to commit or be voided (R185). -/
  waited : Bool := false
  /-- The emission of a closing token follows the accesses before it (R173): a token to forward, not an access. -/
  closing : Option Token := none
  deriving DecidableEq, Repr

/-- One performed write, for the candidate rule (R300, R301): its location is an aligned 4-byte word. -/
structure WriteRec where
  id : Nat
  space : Space
  addr : Nat
  /-- The four bytes of the word, none where the write leaves the byte. -/
  bytes : List (Option Byte)
  /-- The writing context and round; none for the initial value, engines, cores and the host. -/
  ctx : Option CtxId
  round : Nat
  committed : Bool
  /-- The region of the writer, for the scopes of R303; 0xFF for an engine and the initial value, 0xFE for a core or the
  host. -/
  region : Nat
  before : List Nat
  rels : List Nat
  /-- The other word of an 8-byte write, which is single-copy atomic with this one (R304). -/
  twin : Option Nat := none
  deriving DecidableEq, Repr

/-- What a party's accesses to a word in one round order before its later ones (R181, R300). -/
structure Seen where
  party : Party
  space : Space
  addr : Nat
  round : Nat
  dep : Dep
  deriving DecidableEq, Repr

/-- What a memory node's accesses of one tag in one round order before those of nodes that name it in their masks (R181). -/
structure NodeDep where
  page : PageKey
  node : Nat
  tag : Tag
  round : Nat
  dep : Dep
  deriving DecidableEq, Repr

/-- A release fence that has given its token (R182). -/
structure Release where
  id : Nat
  scope : Scope
  /-- The party's context and region; a core or the host has none (R303, R305). -/
  ctx : Option CtxId
  region : Nat
  know : List Nat
  deriving DecidableEq, Repr

/-- A performed store that a home buffer holds (R310), or a performed atomic kept with its old value (R184). -/
structure HomeWrite where
  writeId : Nat
  ctx : CtxId
  round : Nat
  space : Space
  addr : Nat
  va : Nat
  /-- The bytes written and the bytes they overwrite, lowest address first. -/
  bytes : List Byte
  old : List Byte
  atomic : Bool
  committed : Bool
  home : Home
  deriving DecidableEq, Repr

/-- An ordered-AFADD window (R180): frame, location, next rank and held contributions by request. -/
structure FaddWindow where
  frame : FrameKey
  space : Space
  addr : Nat
  home : Home
  next : Nat := 0
  /-- The next rank at the start of each open round in which a contribution was added. -/
  starts : List (Nat × Nat) := []
  held : List (Nat × Nat) := []
  deriving DecidableEq, Repr

/-- The 4-cycle window after an atomic (R179). -/
structure AtomicWindow where
  space : Space
  addr : Nat
  until_ : BitVec 64
  deriving DecidableEq, Repr

/-- Per-tag state of an element or of a block instruction (R126, R135). -/
structure TagState where
  tag : Tag
  /-- The local counter of R54 and the decimation count of R57. -/
  ctr : Nat := 0
  dec : Nat := 0
  /-- Data tokens sent on the two routes for the tag (R47, R97), and EOS tokens counted (R57). -/
  sent0 : Nat := 0
  sent1 : Nat := 0
  eosSeen : Nat := 0
  /-- COUNT's count, JOIN's count, GATE's credit, ANNUL's position, MKEOS's passed tokens. -/
  count : Nat := 0
  /-- MKEOS's n, ITER's limit, REPEAT's count. -/
  need : Option Nat := none
  /-- REDUCE's and SCANP's fold, ITER's current index, NEXTI's held value. -/
  acc : Option Val := none
  /-- REDUCE: the next rank and the held ranks; none is a rank struck out. -/
  next : Nat := 0
  held : List (Nat × Option Val) := []
  /-- MKEOS has emitted its EOS. -/
  ended : Bool := false
  /-- REPEAT: the stored segment, the place of the replay, the passes still to come. -/
  seg : List Token := []
  replay : Nat := 0
  passes : Nat := 0
  deriving DecidableEq, Repr

/-- An element's state beside its queues (R31, R126, R143, R349). -/
structure ElemState where
  elem : Nat
  tags : List TagState := []
  /-- A trap waits for acceptance (R31). -/
  trap : Bool := false
  /-- Stopped by an unresolved record of path P (R346). -/
  stopped : Bool := false
  /-- The tag whose state the PE holds, that of its latest firing, and the written-back states that lie in the overflow table,
  each with whether its probe has completed (R126, R135). -/
  latest : Option Tag := none
  spilled : List (Tag × Bool) := []
  /-- MERGE's latest choice (R143). -/
  last : Option QueueName := none
  /-- REPEAT's open segment (R147). -/
  openTag : Option Tag := none
  /-- EOS tokens that the element has absorbed, by tag: a sink's count (R57, R407). -/
  sunk : List (Tag × Nat) := []
  /-- Census sequence numbers already forwarded (R81). -/
  census : List Word := []
  /-- The element's cut of the round in progress is recorded (R309). -/
  cut : Bool := false
  deriving DecidableEq, Repr

/-- A CB slot (R129): the side field and the words, one of a 4-byte slot, sixteen of a 64-byte slot. -/
structure Slot where
  kind : Kind
  sc : Bool
  tag : Tag
  words : List Word
  dep : Dep := {}
  deriving DecidableEq, Repr

/-- A circular buffer (R129): filled slots from the read pointer on, and the two pointers. -/
structure Cb where
  handle : Nat
  rp : Nat := 0
  wp : Nat := 0
  slots : List Slot := []
  /-- Cue marks: how many slots stand before the mark, and the cue (R136). -/
  marks : List (Nat × Token) := []
  deriving DecidableEq, Repr

/-- The side of an operand slot of an instruction (R60). -/
inductive Side where
  | left | right | pred
  deriving DecidableEq, Repr

/-- What keeps an instruction of a firing waiting. -/
inductive Wait where
  /-- The response of an access (R174). -/
  | access (req : Nat)
  /-- The reply of a message (R216). -/
  | reply (msg : Nat)
  /-- A trap not yet accepted, a breakpoint not yet resumed (R233, R234). -/
  | trap
  | brk
  /-- A round's commit: the number of the round (R182). -/
  | commit (round : Nat)
  /-- An invalidation's acknowledgements (R236). -/
  | inval (id : Nat)
  /-- A census (R238), a free tag (R162). -/
  | census (seq : Word)
  | tag
  deriving DecidableEq, Repr

/-- A slot write of a firing (R133, R139). -/
structure SlotWrite where
  handle : Nat
  pos : Nat
  word : Nat
  wide : Bool
  instr : Nat
  kind : Kind
  sc : Bool
  tag : Tag
  value : Word
  dep : Dep := {}
  deriving DecidableEq, Repr

/-- The name of a matching-store entry (R135): tag, handler index, firing serial, instruction and port. Ports 0 to 2 are the
left, right and predicate slots, 3 is an instruction's state of the tag, and 4 + p is REDUCE's held rank p. -/
structure EntryName where
  tag : Tag
  block : Nat
  serial : Nat
  instr : Nat
  port : Nat
  deriving DecidableEq, Repr

/-- A firing in flight (R132). -/
structure Firing where
  tag : Tag
  serial : Nat
  /-- Filled operand slots. -/
  slots : List (Nat × Side × Val) := []
  /-- Instructions that have fired, and those that wait for an outside event. -/
  fired : List Nat := []
  waits : List (Nat × Wait) := []
  /-- ADVR and ADVW counts by handle (R140). -/
  advances : List (Nat × Nat) := []
  writes : List SlotWrite := []
  /-- Positions that LDX instructions of the firing received, with the value read (R175, R178). -/
  ldx : List (Nat × Word × Option DWord) := []
  /-- Accesses that instructions of the firing issued, by instruction (R175, R182). -/
  accs : List (Nat × Nat) := []
  deriving DecidableEq, Repr

/-- An actor or trap-handler block's state (R129 to R136). -/
structure ActorState where
  block : Nat
  cbs : List Cb := []
  firing : Option Firing := none
  /-- Firings per tag, modulo 4,096 (R135). -/
  serials : List (Tag × Nat) := []
  /-- Per-tag state of stateful instructions, by instruction (R135). -/
  instrs : List (Nat × TagState) := []
  /-- NEXTI values for the next firing of a tag, by target (R159). -/
  nexts : List (Tag × Nat × Side × Val) := []
  /-- A cue taken from the round controller by an actor without fed listen ports (R445). -/
  cueDue : Option Token := none
  /-- Entries that the partition's overflow table holds, and whether the probe of each has been made (R135). -/
  spilled : List (EntryName × Bool) := []
  /-- Data tokens sent, by tag and by emit port or, from 16 on, island lane: the edges' send counts (R81). -/
  sends : List ((Tag × Nat) × Nat) := []
  trap : Bool := false
  /-- Stopped by an unresolved record of path P, with the instruction that raised it still to be attempted (R346). -/
  stopped : Bool := false
  /-- An unresolved record keeps the block from a new firing, while the firing in flight completes without the instruction
  that raised it (R169). -/
  held : Bool := false
  census : List Word := []
  cut : Bool := false
  deriving DecidableEq, Repr

/-- A tile register (R188): its tag and its planes, rows of 64 bytes and the 128-byte side plane. -/
structure TileReg where
  fmt : Nat := 0
  smode : Nat := 0
  sc : Bool := false
  nrow : Nat := 0
  rows : List (BitVec 512)
  side : BitVec 1024 := 0
  dep : Dep := {}
  deriving DecidableEq, Repr

/-- An accumulator (R188): 16 × 16 cells in row order. -/
structure Accum where
  int : Bool := false
  sc : Bool := false
  cells : List Word
  dep : Dep := {}
  deriving DecidableEq, Repr

/-- The two words of a scalar register hold one value each (R188). -/
structure SReg where
  v : Word := 0
  dep : Dep := {}
  deriving DecidableEq, Repr

/-- A loop of the stack (R209): first index, body length, remaining iterations. -/
structure Loop where
  first : Nat
  len : Nat
  left : Nat
  deriving DecidableEq, Repr

/-- How far an island has come with its section (R189). -/
inductive IslandPhase where
  | idle | running | ending | reported
  deriving DecidableEq, Repr

/-- The island of a page (R188). -/
structure IslandState where
  phase : IslandPhase := .idle
  tag : Tag := 0
  pc : Nat := 0
  loops : List Loop := []
  tiles : Nat := 0
  t : List TileReg
  s : List SReg
  a : List Accum
  /-- Packets or tokens sent per output lane for the tag. -/
  sent : List (Nat × Nat) := []
  /-- The arm queue of an island without input lanes (R274). -/
  armq : List Tag := []
  /-- Tags that have entered the arm queue, until their frames complete (R274). -/
  armSeen : List Tag := []
  /-- A cue taken from the round controller by an island without fed lanes (R212). -/
  cueDue : Option Token := none
  /-- Input lanes whose end-of-stream the section has consumed (R194). -/
  eosTaken : List Nat := []
  /-- What ISYNC orders later emissions after (R198). -/
  sync : Dep := {}
  /-- Everything the island's accesses are ordered after as one party (R181). -/
  party : Dep := {}
  trap : Bool := false
  stopped : Bool := false
  census : List Word := []
  cut : Bool := false
  deriving DecidableEq, Repr

/-- A generator's work for one frame (R166): the offset, the elements taken or stored, the data tokens sent or the
stores performed, an EOR still to be emitted, and how far it has come. -/
structure Gen where
  tag : Tag
  off : Nat
  k : Nat := 0
  sent : Nat := 0
  /-- An EOR still to be emitted, by level. -/
  eor : Option Nat := none
  /-- A STOP, or a write node's EOS, has arrived. -/
  last : Bool := false
  /-- The closing EOS has been emitted; the entry stays until its frame completes, so that AUTO starts once (R165). -/
  done : Bool := false
  /-- A gathered-table base that ISTREAM gives for the frame (R225). -/
  table : Option DWord := none
  /-- Prefetch windows requested and returned (R168). -/
  requested : Nat := 0
  returned : Nat := 0
  /-- What its accesses are ordered after through its start, and what its closing token is ordered after. -/
  dep : Dep := {}
  after : Dep := {}
  stopped : Bool := false
  deriving DecidableEq, Repr

/-- A memory node's generators, in the order in which their starts reached it (R166). -/
structure NodeState where
  node : Nat
  gens : List Gen := []
  /-- The tag of the packet that enters at DATA, and its rows still to come (R281). -/
  packet : Option (Tag × Nat) := none
  /-- A cue of the round controller that the generator is still to emit (R307). -/
  cue : Option Token := none
  /-- The fed START and STOP ports on which the cue of the node's cut is still to come (R309). -/
  open_ : List Nat := []
  census : List Word := []
  cut : Bool := false
  deriving DecidableEq, Repr

/-- What a page holds that its snapshot saves (R260, R309): queues, buffers and lanes, elements, actors, the island,
the nodes, AFLG, argument values and the latches of R239. -/
structure PageDyn where
  fifos : List (Place × List Item) := []
  /-- Rows of a packet still to come behind the header that entered a place (R278). -/
  pends : List (Place × Nat) := []
  elems : List ElemState := []
  actors : List ActorState := []
  island : IslandState
  nodes : List NodeState := []
  /-- AFLG (R29). -/
  aflg : Word := 0
  /-- The 32 argument slots (R71), and, once the close of the round has begun, their values in the round behind it. -/
  args : List Word := []
  argsNext : List Word := []
  /-- Repetitions that the token in an output register is still to make (R57, R249). -/
  reps : List (Place × Nat) := []
  /-- The latched high halves that CYCHI and TIMEHI read (R239). -/
  cycHi : Word := 0
  timeHi : Word := 0
  /-- Where each token of the reply wing goes: an ingress port, or a page channel (R219). -/
  replies : List (Bool × Nat) := []
  deriving DecidableEq, Repr

/-- The states of a page (R252). -/
inductive PageState where
  | absent | pending | loading | resident | stopping | folded
  deriving DecidableEq, Repr

/-- A 4 KiB save frame (R353): one of a die's 2,048 shadow frames, or a donated frame of device memory. -/
inductive SaveFrame where
  | shadow (die n : Nat)
  | donated (frame : Nat)
  deriving DecidableEq, Repr

/-- Fold membership of a page (R265): level, the group's members, the running member. -/
structure FoldInfo where
  level : Nat
  members : List Nat
  running : Nat
  /-- Start of the turn. -/
  since : BitVec 64
  /-- Save frames that the region's fold store holds (R353). -/
  frames : List SaveFrame := []
  deriving DecidableEq, Repr

/-- An entry of the stage map with the page's state (R251, R252). -/
structure Page where
  key : PageKey
  st : PageState := .absent
  /-- The logical region, when the page holds one. -/
  region : Option Nat := none
  /-- The configuration image by offset (R67), fixed while the graph is resident. -/
  image : List Host.Cell := []
  /-- The last-fire time, from which the last-fire unit is taken (R243), and when the page became resident. -/
  lastFire : BitVec 64 := 0
  since : BitVec 64 := 0
  fold : Option FoldInfo := none
  dyn : PageDyn
  /-- Cut records by the round that the cut begins (R309). -/
  cuts : List (Nat × PageDyn) := []
  /-- A fault has named the page since it last had a region: a signal taken, or one that arrived while it was Stopping (R253,
  R257). -/
  signalled : Bool := false
  /-- A fold of the page waits for its firings in flight; no new one is selected (R132, R266). -/
  foldDue : Bool := false
  /-- Save frames held (R260). -/
  frames : List SaveFrame := []
  /-- The page's cut report for the close in progress has been sent (R309). -/
  reported : Bool := false
  /-- Ingress ports whose injected cue waits for room (R249, R261, R307). -/
  injects : List Nat := []
  /-- The rounds in which the traps of the page have been delivered, one for each token, since the oldest cut (R32, R352). -/
  trapRounds : List Nat := []
  /-- Save frames that the cut record of each round holds (R353). -/
  cutUse : List (Nat × List SaveFrame) := []
  /-- A CRC mismatch has been retried (R74). -/
  crcTried : Bool := false
  /-- A PGEV of the page waits: the round of the request (R237). -/
  evict : Option Nat := none
  /-- A region shrink evicts the page for this context (R416). -/
  giveTo : Option CtxId := none
  deriving DecidableEq, Repr

/-- A launch record (R399). -/
structure LaunchRec where
  gid : Word := 0
  prio : Nat := 0
  pv : Bool := false
  eorm : Nat := 0
  cover : Nat := 0
  widths : List Nat := [0, 0, 0, 0, 0, 0]
  prePage : Nat := 0
  preCount : Nat := 0
  start : Nat := 0
  limit : Nat := 0
  low : Nat := 0
  high : Nat := 0
  cval : Word := 0
  caddr : DWord := 0
  argptr : DWord := 0
  infLpn : Nat := 0
  infNode : Nat := 0
  kernel : Nat := 0
  infType : Nat := 0
  so : Nat := 0
  sb : Nat := 0
  sa : Nat := 0
  /-- The bytes of the record are valid by R400 as far as they alone show. -/
  wellFormed : Bool := true
  deriving DecidableEq, Repr

/-- How far the block walker of a frame has come (R379). -/
inductive WalkPhase where
  | placing | loadingArgs | waitClose (round : Nat) | running | done
  deriving DecidableEq, Repr

/-- How far a frame has come towards completion (R407). -/
inductive FramePhase where
  | live | census | strayHeld | closing (round : Nat)
  deriving DecidableEq, Repr

/-- The infill unit's work for a frame (R373, R386 to R388). -/
structure Infill where
  /-- The order in which the frame's sinks finished counting (R386). -/
  order : Option Nat := none
  /-- Intervals that still ask for a pass of the unit (R387). -/
  asked : Nat := 0
  /-- The unit serves the frame: a pass of an interval, or the last one. -/
  active : Bool := false
  last : Bool := false
  /-- The round whose close the unit has requested. -/
  waitRound : Option Nat := none
  /-- The next identifier and the next skip number. -/
  pos : Nat := 0
  skip : Nat := 0
  /-- The sums of R388 since the latest update, counts under the mode kernel and FP32 codes else, and the audit points
  behind them. -/
  sd : Nat := 0
  sc : Nat := 0
  n : Nat := 0
  /-- A pass is over and its update is still to be delivered. -/
  due : Bool := false
  /-- Updates delivered, and the last one of them (R391). -/
  updates : Nat := 0
  done : Bool := false
  stopped : Bool := false
  deriving DecidableEq, Repr

/-- What the cut that begins a round holds of a frame: the walker's position, the phase, the infill unit's work (R373,
R380, R413). -/
structure FrameCut where
  round : Nat
  pos : Nat
  sent : Nat
  skip : Nat
  eor : Option Nat
  walk : WalkPhase
  phase : Nat
  infill : Infill
  deriving DecidableEq, Repr

/-- A live frame (R403 to R407). -/
structure Frame where
  key : FrameKey
  ctx : CtxId
  graph : Word
  lrec : LaunchRec := {}
  /-- Captured priority (R412) and captured lattice kind (R374). -/
  prio : Nat := 0
  kind : Nat := 0
  walk : WalkPhase := .running
  /-- The first frame of its graph in the context, which waits for the placement of the graph's streams (R335). -/
  placer : Bool := false
  pos : Nat := 0
  sent : Nat := 0
  skip : Nat := 0
  /-- The walker's EOR still to be sent. -/
  eor : Option Nat := none
  phase : Nat := 0
  /-- Sink entries that have counted, in the order of their reports (R407). -/
  sinks : List Nat := []
  phaseOf : FramePhase := .live
  /-- Censuses in a row that gave the same nonzero count, and that count (R407). -/
  censusSame : Nat := 0
  censusLast : Word := 0
  /-- Held at an interval (R414). -/
  held : Bool := false
  /-- The launching page, its channel and the launching frame's tag; CALL's reply goes there (R162). -/
  parent : Option (PageKey × Nat × Tag) := none
  call : Bool := false
  inh : Bool := false
  queue : Option Nat := none
  lastFire : BitVec 64 := 0
  infill : Infill := {}
  /-- The round in which the frame was launched, when an instruction launched it (R405). -/
  launchedIn : Option Nat := none
  /-- The values of the argument block, until they have been written (R404). -/
  argBlock : Option (List DWord) := none
  /-- Coverage updates that the frame has made; no void takes one back (R391). -/
  updates : Nat := 0
  cuts : List FrameCut := []
  /-- What the tokens of a child are ordered after (R162, R181). -/
  dep : Dep := {}
  /-- The Foghorn's clock of the frame has been paused since this time (R369). -/
  pausedAt : Option (BitVec 64) := none
  deriving DecidableEq, Repr

/-- A resident graph of a context's translation (R408): header image, page images, argument values. -/
structure Graph where
  part : Nat
  gid : Word
  owner : CtxId
  /-- The virtual address of the graph header in the translation of the owner (R73, R408). -/
  base : DWord := 0
  header : List Host.Cell := []
  pages : List (Nat × List Host.Cell) := []
  released : Bool := false
  /-- Values of the graph arguments as the argument network holds them (R161). -/
  args : List (Nat × DWord) := []
  /-- The device-memory frames of the images, read-only at stage 2 while the graph is resident (R74). -/
  frames : List Nat := []
  deriving DecidableEq, Repr

/-- A request that takes effect at a close of its context (R161, R235, R237, R239). -/
inductive AtClose where
  | wmark
  | seal
  /-- The seal of an engine's write to host memory or of a SYSTEM publication, which stands whatever becomes of the round
  (R230). -/
  | engineSeal
  | fold (graph : Word) (lpn level : Nat)
  | arg (graph : Word) (arg part : Nat) (value : Word)
  | rtmr (v : Word)
  | quota (v : Word)
  /-- A frame's completion word, and its end (R407). -/
  | complete (tag : Tag)
  /-- A region shrink of the context for another one (R416), and an unfold of a shrunk group (R417). -/
  | shrink (by_ : CtxId)
  | unfold (graph : Word) (lpn level : Nat)
  /-- The slice watchdog's action (R415). -/
  | watchdog
  deriving DecidableEq, Repr

/-- A record of the undo log (R359). -/
structure UndoRec where
  kind : Nat
  wid : Nat
  space : Nat
  addr : Nat
  old : Word
  round : Nat
  window : Nat
  deriving DecidableEq, Repr

/-- A window of the undo log (R358, R360): number, first round, flags, the snapshot's pages. -/
structure UndoWindow where
  num : Nat
  round : Nat
  sealed : Bool := false
  truncated : Bool := false
  /-- Index of the window's first record and the records in it (R358). -/
  first : Nat := 0
  count : Nat := 0
  pages : List (PageKey × PageDyn) := []
  heads : List (Nat × Word) := []
  tags : List Tag := []
  /-- What the cut holds of the context's frames. -/
  walks : List (Tag × FrameCut) := []
  /-- Save frames that the snapshot holds (R353). -/
  frames : List SaveFrame := []
  deriving DecidableEq, Repr

/-- The undo log of a context (R358). -/
structure UndoLog where
  on : Bool := false
  base : Nat := 0
  units : Nat := 0
  stall : Bool := false
  every : Bool := false
  records : List UndoRec := []
  /-- Records appended since the log was enabled: the next record's place in the circle (R358). -/
  total : Nat := 0
  /-- A log write failed: the context stops at its next close (R350). -/
  failed : Bool := false
  windows : List UndoWindow := []
  nextWindow : Nat := 0
  /-- Records of engine writes and swaps, appended at the close of the round in which they are performed (R230). -/
  engine : List UndoRec := []
  deriving DecidableEq, Repr

/-- A close in progress (R309): the round, whether the cues are injected, whether its commit waits. -/
structure Close where
  round : Nat
  injected : Bool := false
  reported : Bool := false
  deriving DecidableEq, Repr

/-- The state that the debugger sees (R366). -/
inductive DbgState where
  | running | stopped | stepping | frozen
  deriving DecidableEq, Repr

/-- The coverage controller's state of one graph in a context (R374, R390). -/
structure Cover where
  graph : Word
  level : Nat
  below : Nat := 0
  metric : Word := 0x7FC00000
  deriving DecidableEq, Repr

/-- Where a context's sources stood at the cut of a round (R319): each generator by its page, node and tag, with its position, a
pending EOR and whether it has closed; each walker by its tag, with its identifier, a pending EOR and whether it has closed. -/
structure CutMark where
  round : Nat
  gens : List ((PageKey × Nat × Tag) × (Nat × Option Nat × Bool)) := []
  walks : List (Tag × (Nat × Option Nat × Bool)) := []
  deriving DecidableEq, Repr

/-- A context (R240, R427, R428). -/
structure Context where
  id : CtxId
  exist : Bool := false
  s1root : DWord := 0
  /-- QUOTA: maximum in 15:8, minimum in 7:0 (R239). -/
  quota : Word := 0x100
  weight : Nat := 1
  pass : Nat := 0
  rtmr : Word := 16
  /-- Number of the open round (R307) and the time of the previous commit point (R308). -/
  round : Nat := 0
  commitAt : BitVec 64 := 0
  close : Option Close := none
  /-- A close has been requested, merged from every trigger (R308). -/
  wantClose : Bool := false
  atClose : List (Nat × AtClose) := []
  /-- A void has been asked for from this round on (R313). -/
  voidFrom : Option Nat := none
  /-- How many choices of the context had been recorded when that void was asked for: those up to the faulting access (R315). -/
  voidMade : Option Nat := none
  /-- What the context's firings in flight had done when the void last looked at them (R314). -/
  voidSeen : Option Nat := none
  /-- The rounds from this one on are voided; records are unresolved, and the context resumes from this round's cut. -/
  voided : Option Nat := none
  frozen : Bool := false
  frozenCause : Nat := 0
  suspended : Bool := false
  /-- Debug registers and state (R366). -/
  dbgArg0 : DWord := 0
  dbgArg1 : DWord := 0
  dbgCmd : Word := 0
  dbg : DbgState := .running
  free : Bool := false
  brkEn : Bool := false
  res : Nat := 0
  /-- The latest report of path D: cause, INFO0, INFO1 (R346, R350). -/
  report : Option (Nat × DWord × DWord) := none
  /-- STEP-ROUNDS: the commit points asked for and still to come (R364). -/
  stepsLeft : Option Nat := none
  steps : Nat := 0
  /-- Rounds ahead of this one have been removed by a REWIND (R319, R364). -/
  removed : Nat := 0
  /-- Where the sources stood at the cuts of the rounds that a REWIND can still remove (R319). -/
  marks : List CutMark := []
  /-- STEP-FIRING: the identity word to be stepped, 0 for the next firing selected, and whether only that party runs
  (R365). -/
  stepParty : Option Word := none
  stepOnly : Bool := false
  masked : List Word := []
  /-- Parties whose BRK waits (R234). -/
  brks : List Party := []
  /-- Identity words of parties whose BRK the debugger has released and whose firing is still to complete (R234, R446). -/
  released : List Word := []
  /-- A full undo log in stall mode holds the commit point back, and 0x30 has been raised (R361). -/
  stalled : Bool := false
  undo : UndoLog := {}
  /-- Coverage registers (R392). -/
  covUp : Word := 0x3D800000
  covLo : Word := 0x3C000000
  covCtl : Word := 4
  covGsel : Word := 0
  covers : List Cover := []
  /-- Graphs whose streams have been placed (R335). -/
  placed : List Word := []
  /-- Graphs whose placement is in progress, with the invalidations it waits for (R335). -/
  placing : List (Word × List Nat) := []
  /-- Groups that a shrink has folded: graph, a member, the level before (R417). -/
  shrunk : List (Word × Nat × Nat) := []
  /-- The context had a presented record at the latest selection (R411). -/
  runnable : Bool := false
  /-- Folded by the slice watchdog, it runs on outside its guest's slice; since when (R415). -/
  runsOn : Option (BitVec 64) := none
  /-- Its pages are saved until its guest's next slice (R415). -/
  parked : Bool := false
  /-- Pages whose regions a suspension or the end of a slice has taken (R415, R418). -/
  saved : List PageKey := []
  /-- Argument values that the context's pages see in the open round (R71). -/
  args : List (Word × Nat × DWord) := []
  /-- Those that its parties see behind their cuts, while a close is in progress (R71, R309). -/
  nextArgs : List (Word × Nat × DWord) := []
  deriving DecidableEq, Repr

/-- A launch queue (R398, R424). -/
structure Queue where
  num : Nat
  base : DWord := 0
  ctl : Word := 0
  tail : Word := 0
  head : Word := 0
  dirty : Word := 0
  /-- The tail that the Prompter knows of, and its notifies with their order, the oldest that still counts first (R412). -/
  shown : Word := 0
  notes : List (Nat × Word) := []
  /-- The 4 KiB frames of the ring as the Prompter has translated it, none where a page does not translate (R402). -/
  pages : List (Option (Space × Nat)) := []
  /-- The records that the Prompter's record cache keeps, as places in the ring, the latest first (R402). -/
  cache : List Nat := []
  /-- The writes ordered before the latest QNOTIFY writes by their writers' releases, and those of the notifies that the Prompter has
  taken, which it has acquired (R305, R402). -/
  told : List Nat := []
  known : List Nat := []
  /-- A head has been selected and waits for a tag: its record, its argument values, its captured priority and the start
  of the wait (R406). -/
  waiting : Option (LaunchRec × Option (List DWord) × Nat × BitVec 64) := none
  /-- 0x4B has been raised for the queue (R406). -/
  tagWait : Bool := false
  /-- A thermal trip has stopped the queue (R426). -/
  tripped : Bool := false
  deriving DecidableEq, Repr

/-- A record of a fault ring that is outstanding or waits for room (R347, R348). -/
structure FaultRec where
  cause : Nat
  info0 : DWord := 0
  info1 : DWord := 0
  flags : Nat := 0
  orig : Nat := 0
  lreg : Nat := 0xFF
  ctxid : Word := 0xFFFFFFFF
  tag : Tag := 0xFFF
  round : Nat := 0
  ctx : Option CtxId := none
  /-- The party that the record stopped, and what a retry attempts again (R349). -/
  party : Option Party := none
  voids : Bool := false
  advisory : Bool := false
  fnum : Nat := 0
  deriving DecidableEq, Repr

/-- A fault ring with its registers (R348). -/
structure Ring where
  id : RingId
  base : DWord := 0
  ctl : Word := 0
  head : Word := 0
  tail : Word := 0
  fresolve : Word := 0
  nextNum : Nat := 0
  outstanding : List FaultRec := []
  waiting : List FaultRec := []
  deriving DecidableEq, Repr

/-- A guest (R398, R408, R418, R427, R439). -/
structure Guest where
  id : GuestId
  vf : Option Nat := none
  queues : List Queue := []
  /-- GRCMD without BUSY, its arguments, and the commands not yet completed with theirs, the running one first (R408). -/
  grCmd : Word := 0
  grArg0 : DWord := 0
  grArg1 : DWord := 0
  grQueue : List (Word × DWord × DWord) := []
  gCmd : Word := 0
  gcArg : Word := 0
  /-- Commands carried until the guest runs (R418). -/
  pendingCmds : List (Word × Word) := []
  gnCmd : DWord := 0
  gnStat : Word := 0
  /-- Interrupts raised, by vector (R432). -/
  irqs : List Nat := []
  /-- Vectors delivered to the guest's interrupt file of the cores, while no VF delivers them (R432, R433). -/
  fileIrqs : List Nat := []
  overrun : Nat := 0
  deriving DecidableEq, Repr

/-- A quad's scan controller with its TEST (R394, R395). -/
structure Scan where
  quad : Nat
  msg : Nat
  part : Nat
  ctx : CtxId
  seed : DWord
  /-- 0 vacating, 1 running, 2 rescanning, 3 writing the result block. -/
  phase : Nat := 0
  since : BitVec 64 := 0
  held : List Nat
  /-- Regions whose first scan differed, and those that differed twice. -/
  again : List Nat := []
  lasting : List Nat := []
  /-- Measured signatures by quad slot. -/
  measured : List (Nat × DWord) := []
  /-- The cause of the reply to come. -/
  cause : Nat := 0
  deriving DecidableEq, Repr

/-- How far a partition's current time slice has come (R410, R414): none begun, running, over and waiting for the guest
to yield, and closing the rounds that it names. -/
inductive SlicePhase where
  | idle | running | past
  | closing (rounds : List (CtxId × Nat))
  deriving DecidableEq, Repr

/-- A request for save frames that waits for them (R354): an eviction, a page's cut report, a context's saving, a fold. -/
inductive SaveReq where
  | evict (page : PageKey)
  | cut (page : PageKey)
  | save (ctx : CtxId)
  | fold (page : PageKey)
  deriving DecidableEq, Repr

/-- A partition (R420, R427). -/
structure Partition where
  num : Nat
  exist : Bool := false
  quads : Nat := 0
  s2root : DWord := 0
  gslice : List Word := [0, 0, 0, 0]
  covFloor : Word := 0
  /-- Save frames: the shadow allowance, donated frames, frames in use (R353). -/
  saveAllow : Nat := 0
  donated : List Nat := []
  saveWaits : List (SaveReq × Nat) := []
  wingBase : DWord := 0
  wingChunks : Nat := 0
  wingUsed : Nat := 0
  ovfBase : DWord := 0
  ovfWaits : Bool := false
  rbAllow : Nat := 0
  foghornMs : Nat := 100
  mapBase : DWord := 0
  priv : Bool := false
  permissive : Bool := false
  stallMode : Bool := false
  watchdog : Nat := 10
  /-- Free frame tags, the one free longest first (R406). -/
  tags : List Tag := []
  sliceGuest : Nat := 0
  sliceEnd : BitVec 64 := 0
  slice : SlicePhase := .idle
  yields : Bool := false
  /-- Overruns still to be charged, in cycles, by guest slot (R414). -/
  owed : List Nat := [0, 0, 0, 0]
  /-- The start of the watchdog's count, and whether it has acted (R415). -/
  watchFrom : BitVec 64 := 0
  watchdogRaised : Bool := false
  /-- An export holds every live frame at its next interval (R423). -/
  exporting : Bool := false
  /-- Pending pages in order, and signals not yet taken (R253, R258). -/
  pending : List PageKey := []
  signals : List PageKey := []
  /-- Pages that PGLD names, with the round of the request (R237). -/
  asked : List (PageKey × Nat) := []
  placement : List Nat := []
  replicas : List (Nat × Nat) := []
  /-- Duplicated frames whose collapse is in progress, with their twins (R338). -/
  collapsing : List (Nat × Nat) := []
  pullBits : List Nat := []
  pulls : List (Nat × Nat × BitVec 64) := []
  /-- Accesses of generators and write nodes that wait for a pulled frame, as the record that the frame's loss would give each
  (R313, R340). -/
  pullWaits : List (Nat × FaultRec) := []
  frozen : Bool := false
  resetCount : Nat := 0
  health : List (Nat × Nat) := []
  /-- Launches that wait for a tag, in order of selection (R406). -/
  tagWaiters : List (Nat × Nat) := []
  urgent : Option PageKey := none
  deriving DecidableEq, Repr

/-- An active message (R65, R217 to R219). -/
structure Msg where
  id : Nat
  code : Nat
  scope : Scope
  tag : Tag
  seq : Nat
  ctx : CtxId
  page : PageKey
  region : Nat
  round : Nat
  rkind : Nat
  rdst : Nat
  opnds : List DWord
  /-- SENDW: the waiting block and instruction (R216). -/
  sendw : Option (Nat × Nat) := none
  /-- 0 held, 1 queued, 2 running, 3 with a reply to deliver, 4 replied and still draining. -/
  phase : Nat := 0
  /-- Bytes or elements already moved. -/
  pos : Nat := 0
  cause : Nat := 0
  result : Word := 0
  /-- The round of the message was voided: its reply is discarded (R217). -/
  voided : Bool := false
  /-- It was sent from a step of the debugger (R366). -/
  stepped : Bool := false
  /-- The acknowledgements of the application cores' (24) and the host's (25) cached translations that a PUBLISH under .SYSTEM
  still waits for (R222). -/
  acks : List Nat := []
  /-- The instruction that sent it: block and index. -/
  src : Nat × Nat := (0, 0)
  dep : Dep := {}
  /-- The engine whose inbox holds the message; none while it waits in the tile (R218, R232). -/
  engine : Option Nat := none
  /-- The invalidation of a publication, or the census, that the message waits for. -/
  waits : Option Nat := none
  deriving DecidableEq, Repr

/-- A TLB entry of an MSE (R327). -/
structure TlbEntry where
  mse : Nat
  ctx : CtxId
  va : Nat
  size : Nat
  pa : Nat
  host : Bool
  /-- Bits 11:0 of the two leaves: the permissions in force are both together (R324, R326). -/
  leaf1 : Nat
  leaf2 : Nat
  /-- The guest-physical address of the entry's start, and the NEXT codes of the stage-1 and stage-2 tables that held the
  leaves (R332 LEVEL). -/
  gpa : Nat
  level1 : Nat := 0xFF
  level2 : Nat
  deriving DecidableEq, Repr

/-- What a translation is for (R332 FLAGS 4:2). -/
inductive WalkFor where
  | read | write | atomic | config | engineRead | engineWrite
  deriving DecidableEq, Repr

/-- Where a walk stands: before the root, in a stage-2 table that translates a guest-physical address, or before a
stage-1 entry whose physical address is known (R325). -/
inductive WalkAt where
  | start
  | stage2 (gpa base upper lower : Nat)
  | entry (pa : Nat) (host : Bool)
  deriving DecidableEq, Repr

/-- A translation walk in progress (R325). -/
structure Walk where
  id : Nat := 0
  mse : Nat := 0
  ctx : CtxId
  va : Nat
  use : WalkFor
  pos : WalkAt := .start
  /-- The stage-1 table in progress: its base and its index's boundaries; none once the final address is known. -/
  table : Option (Nat × Nat × Nat) := none
  /-- The stage-1 leaf found: its bits 11:0 and its page size. -/
  leaf1 : Option (Nat × Nat) := none
  /-- NEXT code of the stage-1 table that held the leaf (R332). -/
  level1 : Nat := 0xFF
  round : Nat := 0
  window : Bool := false
  tag : Tag := 0xFFF
  /-- Cleared when an invalidation passes: the result is not cached (R334). -/
  cached : Bool := true
  /-- The roots of the two stages with which a walk of an MSE began (R323); none for the device's own. -/
  root1 : Option DWord := none
  root2 : Option DWord := none
  deriving DecidableEq, Repr

/-- A table entry that an MSE's walk cache holds (R327): the stage and whose it is, where it stands, and its value. -/
structure WalkEntry where
  mse : Nat
  part : Nat
  /-- The context of a stage-1 entry; none for one of stage 2. -/
  ctx : Option CtxId
  space : Space
  addr : Nat
  value : Nat
  deriving DecidableEq, Repr

/-- An invalidation or publication in progress (R222, R334). -/
structure Inval where
  id : Nat
  part : Nat
  ctx : Option CtxId
  /-- Stage 1 when true. -/
  stage1 : Bool
  lo : Nat
  hi : Nat
  /-- The drain tokens on their way, by MSE (R47). -/
  drains : List (Nat × Token) := []
  /-- What completes when every acknowledgement is in. -/
  msg : Option Nat := none
  hcmd : Bool := false
  collapse : Option Nat := none
  block : Option Nat := none
  publish : Bool := false
  /-- Where the drain token of a publication has arrived, with the model's number of the first request behind it (R222). -/
  reached : List (Nat × Nat) := []
  /-- The root that a root write replaced: accesses ahead of the drain tokens use it (R323). -/
  root1 : Option DWord := none
  root2 : Option DWord := none
  deriving DecidableEq, Repr

/-- The MSEs whose acknowledgement is still to come. -/
def Inval.pending (v : Inval) : List Nat := v.drains.map Prod.fst

/-- The drain token of an invalidation or publication: its sequence number in bits 19:0 (R47). -/
def drainTok (id : Nat) : Token := { kind := .drain, tag := 0xFFF, pay := BitVec.ofNat 32 (id % 2 ^ 20) }

/-- A drain token for every MSE (R334). -/
def drainAll (id : Nat) : List (Nat × Token) := (List.range 24).map (fun m => (m, drainTok id))

/-- A held translation fault of an MSE (R332). -/
structure HeldFault where
  mse : Nat
  ctx : CtxId
  stage2 : Bool
  page : Nat
  deriving DecidableEq, Repr

/-- What a store of a double-backed page is: its understudy, its visible backing, a former backing or a discarded
understudy that a REWIND may bring back (R221, R222, R359). -/
inductive Backing where
  | study | visible | former | discarded
  deriving DecidableEq, Repr

/-- A store of a 4 KiB frame beside the frame's own: R222's swap is a change of which store the frame names. The
store's number is the model's own name for a frame that software cannot address. -/
structure Understudy where
  ctx : CtxId
  va : Nat
  space : Space
  frame : Nat
  store : Nat
  state : Backing := .study
  /-- The publication in progress that makes it visible, MSE by MSE. -/
  publish : Option Nat := none
  /-- The order of the swap or discard that retained it (R359). -/
  since : Nat := 0
  /-- The message that covers the whole page and has not completed, and how many of the page's bytes it has written: the
  manual gives the others no contents (R221). -/
  maker : Option (Nat × Nat) := none
  deriving DecidableEq, Repr

/-- A page image that a die's configuration cache holds: the last use, and the latest preload (R226, R259). -/
structure CachedImage where
  die : Nat
  part : Nat
  graph : Word
  lpn : Nat
  used : BitVec 64
  preload : Option (BitVec 64) := none
  deriving DecidableEq, Repr

/-- The states of a memory block (R339). -/
inductive BlockState where
  | free
  | granted (part : Nat)
  | removing (part : Nat) (dst : Option Nat)
  | scrubbing (dst : Option Nat)
  | logbook
  deriving DecidableEq, Repr

/-- A control token (R80). -/
structure Ctl where
  code : Nat
  tag : Tag := 0xFFF
  operand : Nat := 0
  /-- The unit it concerns, which its path on the control network gives. -/
  ctx : Option CtxId := none
  page : Option PageKey := none
  part : Nat := 0
  deriving DecidableEq, Repr

/-- A trap or path-P delivery that waits at the region controller for four slots (R352). -/
structure TrapMsg where
  page : PageKey
  words : List Word
  tag : Tag
  party : Option Party
  /-- A trap of path T: acceptance lets the party fire again (R31). -/
  accepts : Bool
  /-- The round in which it was raised (R314). -/
  round : Nat := 0
  dep : Dep := {}
  deriving DecidableEq, Repr

/-- The reply token of a CALL whose child has completed (R162): the calling page, the channel, the token, and the round in
which it arrived there, until that round commits. -/
structure CallReply where
  page : PageKey
  chan : Nat
  tok : Token
  given : Option Nat := none
  deriving DecidableEq, Repr

/-- What a census token finds at the head of: a party of the page, with its routes. -/
inductive CensusAt where
  | elem (n : Nat)
  | block (b : Nat)
  | island
  | node (n : Nat)
  deriving DecidableEq, Repr

/-- A census token that a source still has to send: at an ingress port, or by a party. -/
inductive CensusFrom where
  | port (n : Nat)
  | party (a : CensusAt)
  deriving DecidableEq, Repr

/-- A census: sequence number, tag, count so far and the sweep pairs already made (R81, R238). -/
structure Census where
  seq : Word
  part : Nat
  tag : Tag
  sweep : Nat := 0
  /-- Sources of the sweep whose token waits for room (R81, R249). -/
  todo : List (PageKey × CensusFrom) := []
  count : Nat := 0
  sends : Nat := 0
  prev : Option (Nat × Nat) := none
  pairs : Nat := 0
  waiter : Option (PageKey × Nat × Nat) := none
  frame : Option FrameKey := none
  deriving DecidableEq, Repr

/-- A descriptor of an Ethernet port's ring (R434, R435): the buffer, the context that a transmit descriptor may name, and its traffic
class. -/
structure EthDesc where
  addr : Nat
  len : Nat
  ctx : Option CtxId := none
  cls : Nat := 0
  deriving DecidableEq, Repr

/-- An Ethernet port (R434, R435). DEDUCED (log 121), unsafe. -/
structure EthPort where
  num : Nat
  part : Option Nat := none
  /-- Descriptors fetched from the rings and not yet used up, and the number of the next one in each ring. -/
  tx : List EthDesc := []
  txNext : Nat := 0
  rx : List EthDesc := []
  rxNext : Nat := 0
  sent : List (List Byte) := []
  /-- Frames received and not yet written. -/
  inbox : List (List Byte) := []
  /-- The gate control list, the mask in force, the next entry, and when it comes into force. -/
  gates : List (BitVec 8 × BitVec 24) := []
  mask : BitVec 8 := 0xFF
  pos : Nat := 0
  gateAt : BitVec 64 := 0
  deriving DecidableEq, Repr

/-- A record of the Logbook (R367): its type and the 120 bits beside it; of a decision, the first choice and those packed
behind it. -/
structure LogRec where
  type : Nat
  arb : Nat := 0
  seq : Nat := 0
  payload : Nat := 0
  more : List Nat := []
  cycle : BitVec 64 := 0
  deriving DecidableEq, Repr

/-- A choice that the Logbook recorded and a replay takes again (R315, R364): arbiter and input. -/
structure Choice where
  arb : Nat
  ctx : Option CtxId
  round : Nat
  input : Nat
  deriving DecidableEq, Repr

/-- What an application core or the host does at device memory (R305): its number (the host is one of them), the physical
address, the naturally aligned size in bytes, whether its code orders later accesses behind it (a load-acquire, a FENCE
with read predecessors) and whether it orders earlier ones before it (a store-release, a FENCE with write successors). -/
structure CoreAccess where
  core : Nat
  addr : Nat := 0
  size : Nat := 4
  /-- The bytes of a store; none for a load or for a FENCE alone, whose size is 0. -/
  store : Option (List Byte) := none
  acquire : Bool := false
  release : Bool := false
  /-- An access by PCIe to BAR0 of the PF, or of this VF (R430), where the address is an offset; none for a physical address. -/
  bar : Option (Option Nat) := none
  deriving DecidableEq, Repr

/-- What a core or the host receives for its latest access (R74, R305). -/
inductive CoreReply where
  | value (v : Nat)
  | stored
  /-- A store access fault, or a Completer Abort to the host. -/
  | refused
  deriving DecidableEq, Repr

/-- An application core, or the host, as a party of SYSTEM scope (R303, R305): what its fences order before its later
accesses, what its accesses to each word order before its later ones there, the writes it has performed, and its latest
reply. -/
structure CoreParty where
  core : Nat
  dep : Dep := {}
  seen : List ((Space × Nat) × Dep) := []
  own : List Nat := []
  rets : List (Nat × Nat) := []
  reply : Option CoreReply := none
  deriving DecidableEq, Repr

/-- A turn of the machine: a party executes the word at its place, an agent's event takes place, or a core or the host
reaches device memory. -/
inductive Turn where
  | party (p : Party)
  | event (i : Instr) (u : Subject)
  | core (a : CoreAccess)
  deriving DecidableEq, Repr

/-- The device's management state (R367, R368, R425, R427, R435 to R442). -/
structure Device where
  powered : Bool := false
  bootStep : Nat := 0
  coresReleased : Bool := false
  activeDie : Nat := 0
  /-- When the active Prompter's heartbeat was last seen (R425). -/
  beatAt : BitVec 64 := 0
  mgtTemp : Word := 0x80008000
  mgtPwr : Word := 0
  plimit : Nat := 480
  fwver : Word := 0
  incident : Bool := false
  in0 : Bool := false
  in1 : Bool := false
  lbCtl : Word := 0x80000000
  lbWptr : Word := 0
  lbMask : List Word := [0, 0, 0]
  log : List LogRec := []
  logSeq : List (Nat × Nat) := []
  /-- Choices to be replayed, and every choice that the Logbook has recorded (R315, R364, R367). -/
  choices : List Choice := []
  made : List Choice := []
  hcmd : Word := 0
  harg : DWord := 0
  hbusy : Bool := false
  hcause : Nat := 0
  cast : List Word := []
  /-- Repair map: retired physical regions, shift rows, sequence number, a write in progress (R440). -/
  retired : List Nat := []
  shift : List Nat := []
  repairSeq : Nat := 0
  repairWrites : Nat := 0
  /-- The partitions whose retired regions those writes record (R350). -/
  repairFor : List Nat := []
  firmware : List (Nat × Bool) := [(1, true), (0, false)]
  blocks : List BlockState := []
  pcieUp : Bool := false
  ports : List EthPort := [{ num := 0 }, { num := 1 }]
  throttle : List (Nat × Nat) := []
  irqs : List Nat := []
  retraining : List Nat := []
  /-- Lines whose next read is uncorrectable, as the hardware's condition has it; lines marked suspect by such a read
  (R356); both by address ÷ 64. -/
  failing : List (Space × Nat) := []
  suspect : List (Space × Nat) := []
  poisoned : List Nat := []
  /-- SRAM words that a retirement marked poisoned, by address ÷ 4 (R357), and the regions that are to be retired. -/
  poisonedWords : List Nat := []
  retiring : List Nat := []
  /-- Lines whose writes fail, as the hardware's condition has it, by address ÷ 64 (R339). -/
  deadLines : List Nat := []
  configCache : List CachedImage := []
  cores : List CoreParty := []
  /-- Accesses of cores and the host that wait at their homes (R305). -/
  coreWaits : List CoreAccess := []
  logTimeAt : BitVec 64 := 0
  /-- Logical regions whose first mismatch is outstanding behind an aborted TEST (R395). -/
  scanSuspects : List Nat := []
  deriving DecidableEq, Repr

/-- What an export area holds of a partition beside the canonical queues, whose layout alone the manual gives (R423, R424):
registers and pools, contexts, resident graphs, pages with their saved state, live frames, guests with their queued
commands, and the frames of memory that have not been copied to the importing device (R340). DESIGN CHOICE (log 115), unsafe. -/
structure ExportArea where
  area : Nat
  part : Partition
  ctxs : List Context
  graphs : List Graph
  pages : List Page
  frames : List Frame
  guests : List Guest
  missing : List Nat := []
  deriving DecidableEq, Repr

/-- The whole device. -/
structure State where
  /-- The device cycle counter and the IEEE 802.1AS time (R239, R435). -/
  cycle : BitVec 64
  time : BitVec 64
  dev : Device
  /-- Fabric SRAM, device memory and host memory as the homes have written them back. -/
  sram : List Host.Cell
  dram : List Host.Cell
  hostMem : List Host.Cell
  granules : List (Nat × Word)
  parts : List Partition
  exports : List ExportArea
  guests : List Guest
  ctxs : List Context
  rings : List Ring
  graphs : List Graph
  pages : List Page
  frames : List Frame
  /-- Accesses in flight, in issue order. -/
  reqs : List Req
  hist : List WriteRec
  seen : List Seen
  nodeDeps : List NodeDep
  /-- What the performed accesses of firings order before what follows them, by request (R182). -/
  lateDeps : List (Nat × Dep)
  releases : List Release
  homeWrites : List HomeWrite
  windows : List AtomicWindow
  fadds : List FaddWindow
  msgs : List Msg
  seqs : List (Nat × Nat)
  tlb : List TlbEntry
  walkCache : List WalkEntry
  walks : List Walk
  invals : List Inval
  heldFaults : List HeldFault
  understudies : List Understudy
  scans : List Scan
  censuses : List Census
  ctl : List Ctl
  traps : List TrapMsg
  callReplies : List CallReply
  /-- Round-robin position of an actor tile per quad and priority (R131). -/
  rr : List (Nat × Nat × Nat)
  /-- The next identity of an access, a write, a message, a walk, an invalidation or a census. -/
  nextId : Nat
  nextNotify : Nat
  /-- The model's own: the turns to come, what the turn taken concerns, and the counter of the open choices. -/
  agenda : List Turn
  cur : Option Subject
  free : Nat
  deriving DecidableEq, Repr

/-- A tile register at arming (R188). -/
def TileReg.empty : TileReg := { rows := List.replicate 16 0 }

/-- An accumulator at arming (R188). -/
def Accum.zero : Accum := { cells := List.replicate 256 0 }

/-- An island before any section (R188). -/
def IslandState.empty : IslandState :=
  { t := List.replicate 8 TileReg.empty, s := List.replicate 16 {}, a := List.replicate 4 Accum.zero }

/-- A page that has never fired. -/
def PageDyn.empty : PageDyn := { island := IslandState.empty, args := List.replicate 32 0 }

/-- The device before power-good (R441): nothing created, memories with nothing listed, every register at the value
its table gives for reset or the log names. DESIGN CHOICE (log 3), unsafe. DESIGN CHOICE (log 4), unsafe. DESIGN CHOICE (log 6), safe. -/
def State.reset : State :=
  { cycle := 0, time := 0
    dev :=
      { cast := List.replicate 64 0
        shift := List.replicate 80 8
        blocks := List.replicate 46 .free ++ [.logbook, .logbook] }
    sram := [], dram := [], hostMem := [], granules := []
    parts := [], exports := [], guests := [], ctxs := [], rings := [], graphs := [], pages := [], frames := []
    reqs := [], hist := [], seen := [], nodeDeps := [], lateDeps := [], releases := [], homeWrites := [], windows := [], fadds := []
    msgs := [], seqs := [], tlb := [], walkCache := [], walks := [], invals := [], heldFaults := [], understudies := []
    scans := [], censuses := [], ctl := [], traps := [], callReplies := [], rr := []
    nextId := 0, nextNotify := 0
    agenda := [], cur := none, free := 0 }

end Sys2Proof.Machine
end

