-- ==== Sys2Proof/Machine/Ops.lean ====
section
/-!
DEFINITION. The named operations over the state: memory as canonical cell lists, keyed records, page configuration,
queues, flags, traps and the delivery of faults.
-/
namespace Sys2Proof.Machine

/-- The outcome of a step. -/
abbrev Out := Host.Outcome State Fault Refusal

/-! ### Lists in order -/

/-- An element placed before the first one that it does not follow. -/
def insertBy {α : Type} (le : α → α → Bool) (x : α) : List α → List α
  | [] => [x]
  | y :: ys => if le x y then x :: y :: ys else y :: insertBy le x ys

/-- A list in ascending order; elements of one rank keep their order. -/
def sortBy {α : Type} (le : α → α → Bool) : List α → List α
  | [] => []
  | x :: xs => insertBy le x (sortBy le xs)

/-! ### Memory -/

namespace Memory

/-- The canonical form: addresses strictly rising, no entry equal to the 0 that an unlisted address reads as. -/
def wf : List Host.Cell → Bool
  | [] => true
  | [c] => c.2 != 0
  | c :: d :: rest => c.2 != 0 && decide (c.1 < d.1) && wf (d :: rest)

/-- The byte at an address; an unlisted address reads 0. DESIGN CHOICE (log 1), unsafe. -/
def read : List Host.Cell → Nat → Byte
  | [], _ => 0
  | c :: rest, a => if c.1 = a then c.2 else read rest a

/-- One byte written, the canonical form kept: writing 0 removes the entry. -/
def write : List Host.Cell → Nat → Byte → List Host.Cell
  | [], a, b => if b = 0 then [] else [(a, b)]
  | c :: rest, a, b =>
    if a < c.1 then (if b = 0 then c :: rest else (a, b) :: c :: rest)
    else if a = c.1 then (if b = 0 then rest else (a, b) :: rest)
    else c :: write rest a b

/-- `n` bytes from an address, lowest first. -/
def readBytes (m : List Host.Cell) : Nat → Nat → List Byte
  | _, 0 => []
  | a, n + 1 => read m a :: readBytes m (a + 1) n

/-- Bytes written from an address on, lowest first. -/
def writeBytes (m : List Host.Cell) : Nat → List Byte → List Host.Cell
  | _, [] => m
  | a, b :: bs => writeBytes (write m a b) (a + 1) bs

/-- The little-endian number of `n` bytes (R6). -/
def readNat (m : List Host.Cell) (a n : Nat) : Nat := wordOfBytes (readBytes m a n)

/-- A number written as `n` bytes, little-endian (R6). -/
def writeNat (m : List Host.Cell) (a n v : Nat) : List Host.Cell := writeBytes m a (bytesOfWord n v)

/-- Zeros written over a range: its entries removed (R339, R422, R439). -/
def clear (m : List Host.Cell) (lo hi : Nat) : List Host.Cell := m.filter (fun c => !(lo ≤ c.1 && c.1 < hi))

/-- The cells of bytes from address 0 on, in the canonical form. -/
def ofBytes (bs : List Byte) : List Host.Cell := bs.zipIdx.filterMap (fun b => if b.1 = 0 then none else some (b.2, b.1))

end Memory

namespace State

/-- The memory of a space. -/
def mem (s : State) : Space → List Host.Cell
  | .sram => s.sram
  | .dram => s.dram
  | .host => s.hostMem

/-- The memory of a space replaced. -/
def setMem (s : State) (sp : Space) (m : List Host.Cell) : State :=
  match sp with
  | .sram => { s with sram := m }
  | .dram => { s with dram := m }
  | .host => { s with hostMem := m }

end State

/-! ### Keyed records -/

/-- The first record that a test accepts, changed; with none, `new` is appended when given. -/
def update {α : Type} (p : α → Bool) (f : α → α) (new : Option α) : List α → List α
  | [] => new.toList
  | x :: xs => if p x then f x :: xs else x :: update p f new xs

/-- A value by its key. -/
def lookup {κ ν : Type} [DecidableEq κ] (k : κ) : List (κ × ν) → Option ν
  | [] => none
  | (k', v) :: rest => if k' = k then some v else lookup k rest

/-- A value set at its key. -/
def assign {κ ν : Type} [DecidableEq κ] (k : κ) (v : ν) (l : List (κ × ν)) : List (κ × ν) :=
  update (fun e => e.1 = k) (fun _ => (k, v)) (some (k, v)) l

namespace State

/-- The page of a key. -/
def page? (s : State) (k : PageKey) : Option Page := s.pages.find? (fun p => p.key == k)
/-- A page changed. -/
def modPage (s : State) (k : PageKey) (f : Page → Page) : State :=
  { s with pages := update (fun p => p.key == k) f none s.pages }
/-- The dynamic state of a page changed. -/
def modDyn (s : State) (k : PageKey) (f : PageDyn → PageDyn) : State :=
  s.modPage k (fun p => { p with dyn := f p.dyn })
/-- A page's dynamic state; a page never touched has the empty one. -/
def dyn (s : State) (k : PageKey) : PageDyn :=
  match s.page? k with
  | some p => p.dyn
  | none => PageDyn.empty
/-- The context of an identity. -/
def ctx? (s : State) (c : CtxId) : Option Context := s.ctxs.find? (fun x => x.id == c)
/-- A context; one never created has its reset values. -/
def ctx (s : State) (c : CtxId) : Context := (s.ctx? c).getD { id := c }
/-- A context changed; one never touched first takes its reset values. -/
def modCtx (s : State) (c : CtxId) (f : Context → Context) : State :=
  { s with ctxs := update (fun x => x.id == c) f (some (f { id := c })) s.ctxs }
/-- The partition of a number. -/
def part? (s : State) (n : Nat) : Option Partition := s.parts.find? (fun p => p.num == n)
/-- A partition; one never created has its reset values. -/
def part (s : State) (n : Nat) : Partition := (s.part? n).getD { num := n }
/-- A partition changed. -/
def modPart (s : State) (n : Nat) (f : Partition → Partition) : State :=
  { s with parts := update (fun p => p.num == n) f (some (f { num := n })) s.parts }
/-- A guest; one never touched has its reset values. -/
def guest (s : State) (g : GuestId) : Guest := (s.guests.find? (fun x => x.id == g)).getD { id := g }
/-- A guest changed. -/
def modGuest (s : State) (g : GuestId) (f : Guest → Guest) : State :=
  { s with guests := update (fun x => x.id == g) f (some (f { id := g })) s.guests }
/-- A fault ring; one never touched has its reset values. -/
def ring (s : State) (r : RingId) : Ring := (s.rings.find? (fun x => x.id == r)).getD { id := r }
/-- A fault ring changed. -/
def modRing (s : State) (r : RingId) (f : Ring → Ring) : State :=
  { s with rings := update (fun x => x.id == r) f (some (f { id := r })) s.rings }
/-- A live frame. -/
def frame? (s : State) (k : FrameKey) : Option Frame := s.frames.find? (fun f => f.key == k)
/-- A frame changed. -/
def modFrame (s : State) (k : FrameKey) (f : Frame → Frame) : State :=
  { s with frames := update (fun x => x.key == k) f none s.frames }
/-- A resident graph of a partition. -/
def graph? (s : State) (part : Nat) (gid : Word) : Option Graph :=
  s.graphs.find? (fun g => g.part == part && g.gid == gid)
/-- A graph changed. -/
def modGraph (s : State) (part : Nat) (gid : Word) (f : Graph → Graph) : State :=
  { s with graphs := update (fun g => g.part == part && g.gid == gid) f none s.graphs }
/-- A message. -/
def msg? (s : State) (id : Nat) : Option Msg := s.msgs.find? (fun m => m.id == id)
/-- A message changed. -/
def modMsg (s : State) (id : Nat) (f : Msg → Msg) : State :=
  { s with msgs := update (fun m => m.id == id) f none s.msgs }
/-- An access in flight changed. -/
def modReq (s : State) (id : Nat) (f : Req → Req) : State :=
  { s with reqs := update (fun r => r.id == id) f none s.reqs }
/-- A fresh identity. -/
def fresh (s : State) : Nat × State := (s.nextId, { s with nextId := s.nextId + 1 })
/-- One open choice among `n` alternatives, taken by the opaque constant (R294, R301, R306). -/
def choose (s : State) (n : Nat) : Nat × State := (Config.choice s.free % n, { s with free := s.free + 1 })

end State

/-! ### Queues, buffers and lanes -/

namespace PageDyn

/-- The contents of a place, head first. -/
def fifo (d : PageDyn) (p : Place) : List Item := (lookup p d.fifos).getD []
/-- The contents of a place replaced. -/
def setFifo (d : PageDyn) (p : Place) (l : List Item) : PageDyn := { d with fifos := assign p l d.fifos }
/-- An item appended to a place. -/
def push (d : PageDyn) (p : Place) (i : Item) : PageDyn := d.setFifo p (d.fifo p ++ [i])
/-- The head of a place removed. -/
def pop (d : PageDyn) (p : Place) : PageDyn := d.setFifo p (d.fifo p).tail
/-- The token at the head of a place. -/
def headTok (d : PageDyn) (p : Place) : Option Token :=
  match d.fifo p with
  | .tok t :: _ => some t
  | _ => none
/-- The state of an element; one that never fired has the initial one. -/
def elem (d : PageDyn) (e : Nat) : ElemState := (d.elems.find? (fun x => x.elem == e)).getD { elem := e }
/-- The state of an element changed. -/
def modElem (d : PageDyn) (e : Nat) (f : ElemState → ElemState) : PageDyn :=
  { d with elems := update (fun x => x.elem == e) f (some (f { elem := e })) d.elems }
/-- The state of a block; one that never fired has the initial one. -/
def actor (d : PageDyn) (b : Nat) : ActorState := (d.actors.find? (fun x => x.block == b)).getD { block := b }
/-- The state of a block changed. -/
def modActor (d : PageDyn) (b : Nat) (f : ActorState → ActorState) : PageDyn :=
  { d with actors := update (fun x => x.block == b) f (some (f { block := b })) d.actors }
/-- The state of a memory node. -/
def node (d : PageDyn) (n : Nat) : NodeState := (d.nodes.find? (fun x => x.node == n)).getD { node := n }
/-- The state of a memory node changed. -/
def modNode (d : PageDyn) (n : Nat) (f : NodeState → NodeState) : PageDyn :=
  { d with nodes := update (fun x => x.node == n) f (some (f { node := n })) d.nodes }

end PageDyn

namespace ElemState

/-- The state of a tag, created at the tag's first token (R126). -/
def tagSt (e : ElemState) (t : Tag) : TagState := (e.tags.find? (fun x => x.tag == t)).getD { tag := t }
/-- The state of a tag changed: the PE holds it now (R126). -/
def modTag (e : ElemState) (t : Tag) (f : TagState → TagState) : ElemState :=
  { e with tags := update (fun x => x.tag == t) f (some (f { tag := t })) e.tags, latest := some t, spilled := e.spilled.filter (fun x => x.1 != t) }
/-- The state of a tag freed (R126). -/
def freeTag (e : ElemState) (t : Tag) : ElemState :=
  { e with tags := e.tags.filter (fun x => x.tag != t), latest := if e.latest = some t then none else e.latest, spilled := e.spilled.filter (fun x => x.1 != t) }

end ElemState

namespace ActorState

/-- The CB of a handle; one never written is empty (R129). -/
def cb (a : ActorState) (h : Nat) : Cb := (a.cbs.find? (fun c => c.handle == h)).getD { handle := h }
/-- The CB of a handle changed. -/
def modCb (a : ActorState) (h : Nat) (f : Cb → Cb) : ActorState :=
  { a with cbs := update (fun c => c.handle == h) f (some (f { handle := h })) a.cbs }
/-- The per-tag state of an instruction (R135). -/
def instrSt (a : ActorState) (i : Nat) (t : Tag) : TagState :=
  ((a.instrs.find? (fun x => x.1 == i && x.2.tag == t)).map Prod.snd).getD { tag := t }
/-- The per-tag state of an instruction replaced. -/
def setInstr (a : ActorState) (i : Nat) (st : TagState) : ActorState :=
  { a with instrs := update (fun x => x.1 == i && x.2.tag == st.tag) (fun _ => (i, st)) (some (i, st)) a.instrs }

end ActorState

/-- The union of two lists without repeats. -/
def unionOf {α : Type} [BEq α] (a b : List α) : List α := a ++ b.filter (fun x => !(a.contains x))

/-- The union of two lists of numbers without repeats. -/
abbrev unionNat (a b : List Nat) : List Nat := unionOf a b

namespace Dep

/-- What is ordered after either is ordered after both (R181). -/
def join (a b : Dep) : Dep :=
  { know := unionOf a.know b.know, reads := unionOf a.reads b.reads, rounds := unionOf a.rounds b.rounds,
    rels := unionOf a.rels b.rels, pend := unionOf a.pend b.pend }

end Dep

/-! ### Fields of a page's configuration -/

/-- The 64-bit header of a block's rates: four bits of port k (R62). -/
def rateAt (base v k : Nat) : Nat := bitsOf v (base + 4 * k) 4

/-- The header of a block (R62). -/
structure Header where
  off : Nat
  bkind : Nat
  nins : Nat
  ncon : Nat
  nlis : Nat
  nemi : Nat
  prio : Nat
  chb : Nat
  raw : Nat
  cba : Nat
  msa : Nat
  bflg : Nat
  deriving DecidableEq, Repr

namespace Header

/-- The header whose 128 bits are `v`, at an offset of the image (R62). -/
def ofNat (off v : Nat) : Header :=
  { off := off, bkind := bitsOf v 120 8, nins := bitsOf v 113 7 + 1, ncon := bitsOf v 109 4, nlis := bitsOf v 105 4,
    nemi := bitsOf v 101 4, prio := bitsOf v 98 3, chb := bitsOf v 90 8, raw := v, cba := bitsOf v 16 10,
    msa := bitsOf v 8 8, bflg := bitsOf v 0 8 }
/-- The page channel of the block's first listen port: a trap-handler block listens on 0x3F (R63, R64). -/
def chan (h : Header) : Nat := if h.bkind = 0xA3 then 0x3F else h.chb
/-- Listen rate of port k (R62). -/
def lrate (h : Header) (k : Nat) : Nat := rateAt 58 h.raw k
/-- Emit rate of port k (R62). -/
def erate (h : Header) (k : Nat) : Nat := rateAt 26 h.raw k
/-- Privileged block (R62). -/
def priv (h : Header) : Bool := h.bflg / 128 % 2 == 1
/-- Ordered reduce (R62, R156). -/
def ordRed (h : Header) : Bool := h.bflg / 32 % 2 == 1
/-- Single-step enabled (R62). -/
def step (h : Header) : Bool := h.bflg / 64 % 2 == 1
/-- Length of header, instructions and constants, rounded up to 16 (R62). -/
def len (h : Header) : Nat := (16 + 8 * (h.nins + h.ncon) + 15) / 16 * 16
/-- Offset of the port or lane table (R128, R193). -/
def table (h : Header) : Nat := h.off + h.len
/-- Length of the table, rounded up to 16 (R128, R193). -/
def tableLen (h : Header) : Nat := (8 * (h.nlis + h.nemi) + 15) / 16 * 16
/-- The site of the block's instructions (R86). -/
def site (h : Header) : Site :=
  if h.bkind = 0xA2 then .island
  else if h.bkind = 0xA3 then .handler h.priv h.ordRed
  else .actor h.priv h.ordRed

end Header

/-- A CB or lane table entry, 64 bits (R128, R193). -/
structure CbEntry where
  handle : Nat
  base : Nat
  slog : Nat
  wide : Bool
  out : Bool
  port : Nat
  dest : Route
  deriving DecidableEq, Repr

/-- An entry of an island's lane table (R193). -/
structure LaneEntry where
  lane : Nat
  out : Bool
  tokens : Bool
  sck : Nat
  dest : Route
  deriving DecidableEq, Repr

/-- A memory-node descriptor (R69, R164 to R166). -/
structure Desc where
  nkind : Nat
  access : Nat
  slot : Nat
  order : Nat
  low : Nat
  limit : Nat
  gen : Nat
  dims : List (Int × Nat)
  deriving DecidableEq, Repr

namespace Desc

/-- Route of generated elements (R165). -/
def outRoute (d : Desc) : Route := (Decode.routeOf (BitVec.ofNat 12 (bitsOf d.gen 52 12))).1
/-- Write generator (R165). -/
def isWrite (d : Desc) : Bool := bitsOf d.gen 51 1 == 1
/-- Window size and count (R165). -/
def winsz (d : Desc) : Nat := bitsOf d.gen 32 16
def wincnt (d : Desc) : Nat := bitsOf d.gen 28 4
/-- Slot pair of the gathered table (R165). -/
def gslot (d : Desc) : Nat := bitsOf d.gen 23 5
/-- Stream port (R165). -/
def sport (d : Desc) : Nat := bitsOf d.gen 21 2
/-- The generator starts at each frame's first token (R165). -/
def auto (d : Desc) : Bool := bitsOf d.gen 20 1 == 1
/-- Mask of dimensions that emit an EOR (R165). -/
def eormask (d : Desc) : Nat := bitsOf d.gen 16 4
/-- Dimensions (R165). -/
def ndim (d : Desc) : Nat := bitsOf d.gen 13 3
/-- Element size in bytes (R165). -/
def esize (d : Desc) : Nat := match bitsOf d.gen 10 3 with
  | 0 => 1
  | 1 => 2
  | 2 => 4
  | _ => 64
/-- Packet format, side mode and rows (R165). -/
def pfmt (d : Desc) : Nat := bitsOf d.gen 6 4
def psmode (d : Desc) : Nat := bitsOf d.gen 4 2
def pnrow (d : Desc) : Nat := bitsOf d.gen 0 4
/-- Read, write and atomic access bits (R69). -/
def canRead (d : Desc) : Bool := bitsOf d.access 0 1 == 1
def canWrite (d : Desc) : Bool := bitsOf d.access 1 1 == 1
def canAtomic (d : Desc) : Bool := bitsOf d.access 2 1 == 1

end Desc

/-- Bits of a page image: `n` bytes at an offset (R67). -/
def imgNat (img : List Host.Cell) (off n : Nat) : Nat := Memory.readNat img off n

namespace Page

/-- The configuration word of an element (R67). -/
def ecwWord (p : Page) (e : Nat) : BitVec 128 := BitVec.ofNat 128 (imgNat p.image (0x400 + 16 * e) 16)
/-- The element's decoded word (R53). -/
def ecw (p : Page) (e : Nat) : Ecw := (Decode.ecwOf (p.ecwWord e)).1
/-- The element's opcode (R53). -/
def ecwOp (p : Page) (e : Nat) : Nat := imgNat p.image (0x40F + 16 * e) 1
/-- The number of blocks of the actor area (R68). -/
def nact (p : Page) : Nat := imgNat p.image 0x09 1
/-- The number of descriptors (R68). -/
def nmem (p : Page) : Nat := imgNat p.image 0x08 1
/-- An island block is present (R68). -/
def hasIsland (p : Page) : Bool := imgNat p.image 0x0A 1 % 2 == 1
/-- A trap handler is present (R68). -/
def hasHandler (p : Page) : Bool := imgNat p.image 0x0A 1 / 2 % 2 == 1

/-- The headers of `n` blocks packed from an offset (R67, R128). -/
def headersFrom (img : List Host.Cell) : Nat → Nat → List Header
  | 0, _ => []
  | n + 1, off =>
    let h := Header.ofNat off (imgNat img off 16)
    h :: headersFrom img n (off + h.len + h.tableLen)

/-- The headers of the page's blocks in actor-area order (R67). -/
def headers (p : Page) : List Header := headersFrom p.image p.nact 0x1800
/-- The header of block `b`. -/
def header? (p : Page) (b : Nat) : Option Header := p.headers[b]?
/-- The header of the island block (R67). -/
def islandHeader (p : Page) : Header := Header.ofNat 0x1400 (imgNat p.image 0x1400 16)
/-- The word of instruction `i` of a block. -/
def insWord (p : Page) (h : Header) (i : Nat) : BitVec 64 := BitVec.ofNat 64 (imgNat p.image (h.off + 16 + 8 * i) 8)
/-- Constant `k` of a block (R62). -/
def const (p : Page) (h : Header) (k : Nat) : DWord :=
  BitVec.ofNat 64 (imgNat p.image (h.off + 16 + 8 * (h.nins + k)) 8)
/-- The decoded instruction of a block. -/
def ins? (p : Page) (h : Header) (i : Nat) : Option Instr :=
  match decodeBlk h.site (p.insWord h i) with
  | .ok x => some x
  | .error _ => none
/-- The CB entry of a handle (R128). -/
def cbEntry (p : Page) (h : Header) (k : Nat) : CbEntry :=
  let v := imgNat p.image (h.table + 8 * k) 8
  { handle := k, base := bitsOf v 54 10, slog := bitsOf v 50 4, wide := bitsOf v 49 1 == 1, out := bitsOf v 48 1 == 1,
    port := bitsOf v 45 3, dest := (Decode.routeOf (BitVec.ofNat 12 (bitsOf v 32 12))).1 }
/-- The CB entries of a block (R128). -/
def cbEntries (p : Page) (h : Header) : List CbEntry := (List.range (h.nlis + h.nemi)).map (p.cbEntry h)
/-- The lane entries of the island (R193). -/
def lanes (p : Page) : List LaneEntry :=
  let h := p.islandHeader
  if p.hasIsland then
    (List.range (h.nlis + h.nemi)).map (fun k =>
      let v := imgNat p.image (h.table + 8 * k) 8
      { lane := bitsOf v 60 4, out := bitsOf v 59 1 == 1, tokens := bitsOf v 58 1 == 1, sck := bitsOf v 56 2,
        dest := (Decode.routeOf (BitVec.ofNat 12 (bitsOf v 44 12))).1 })
  else []
/-- The descriptor of a node (R69). -/
def desc (p : Page) (n : Nat) : Desc :=
  let o := 0x40 + 64 * n
  { nkind := imgNat p.image o 1, access := imgNat p.image (o + 1) 1, slot := imgNat p.image (o + 2) 1,
    order := imgNat p.image (o + 3) 1, low := imgNat p.image (o + 8) 8, limit := imgNat p.image (o + 16) 8,
    gen := imgNat p.image (o + 24) 8,
    dims := (List.range 4).map (fun d =>
      (signedNat 32 (imgNat p.image (o + 36 + 8 * d) 4), imgNat p.image (o + 32 + 8 * d) 4)) }
/-- A port-table entry: 0 to 15 ingress, 16 to 31 egress (R67, R70). -/
def portEntry (p : Page) (k : Nat) : Nat := imgNat p.image (0x240 + 8 * k) 8
/-- The entry is valid (R70). -/
def portValid (p : Page) (k : Nat) : Bool := bitsOf (p.portEntry k) 63 1 == 1
/-- PEER, PPORT, WING and IROUTE (R70). -/
def peer (p : Page) (k : Nat) : Nat := bitsOf (p.portEntry k) 48 12
def pport (p : Page) (k : Nat) : Nat := bitsOf (p.portEntry k) 44 4
def wing (p : Page) (k : Nat) : Nat := let w := bitsOf (p.portEntry k) 16 16; if w = 0 then 64 else w
def iroute (p : Page) (k : Nat) : Route := (Decode.routeOf (BitVec.ofNat 12 (bitsOf (p.portEntry k) 0 12))).1
/-- The switch selectors of a PE, 32 bits; a switch without a word selects nothing (R72). -/
def switchSel (p : Page) (e : Nat) : Nat :=
  let n := imgNat p.image 0x0C 2
  let words := (List.range n).map (fun k => imgNat p.image (0xC00 + 8 * k) 8)
  match words.find? (fun w => bitsOf w 57 7 == e) with
  | some w => bitsOf w 0 32
  | none => 0

/-- The page stands in a region and is neither on its way in nor out: Resident, or Folded in a folded region (R252). -/
def placed (p : Page) : Bool := p.st == .resident || p.st == .folded

/-- It is the running member of its region (R265). -/
def hasTurn (p : Page) : Bool :=
  match p.fold with
  | some f => f.running == p.key.lpn
  | none => true

/-- The page leads its region's fold group, or stands alone: what counts a folded region as one page (R266). -/
def leads (p : Page) : Bool :=
  match p.fold with
  | some f => f.members.head? == some p.key.lpn
  | none => true

/-- The elements with an opcode, and their words (R53). -/
def elements (p : Page) : List (Nat × Ecw) :=
  ((List.range 128).filter (fun n => p.ecwOp n != 0)).map (fun n => (n, p.ecw n))

/-- The routes of the page's graph (R445): element routes, IROUTEs, emit-port and lane DESTs, OUTROUTEs. -/
def routes (p : Page) : List Route :=
  p.elements.flatMap (fun e => [e.2.route0, e.2.route1]) ++
  ((List.range 16).filter p.portValid).map p.iroute ++
  p.headers.flatMap (fun h => (p.cbEntries h).filterMap (fun c => if c.out then some c.dest else none)) ++
  p.lanes.filterMap (fun l => if l.out then some l.dest else none) ++
  ((List.range p.nmem).filter (fun n => (p.desc n).ndim != 0)).map (fun n => (p.desc n).outRoute)

/-- The element whose index is row × 16 + column (R67). -/
def elemOf (col : BitVec 4) (row : BitVec 3) : Nat := row.toNat * 16 + col.toNat

/-- A queue of an element is fed (R445). -/
def fedQueue (p : Page) (n : Nat) (q : QueueName) : Bool :=
  p.routes.any (fun r => match r with
    | .pe c w q' => elemOf c w == n && q' == q
    | _ => false)
/-- A page channel is fed (R445). -/
def fedChan (p : Page) (c : Nat) : Bool :=
  c != 0x3F && p.routes.any (fun r => match r with
    | .chan c' => c'.toNat == c
    | _ => false)
/-- An island input lane is fed (R445). -/
def fedLane (p : Page) (l : Nat) : Bool :=
  p.routes.any (fun r => match r with
    | .lane l' => l'.toNat == l
    | _ => false)

end Page

/-! ### The control network, the Logbook, records and traps -/

namespace State

/-- A control token sent (R80). -/
def sendCtl (s : State) (c : Ctl) : State := { s with ctl := s.ctl ++ [c] }

/-- The Logbook records an event, unless it is frozen or not enabled (R367, R368). DEDUCED (log 78), unsafe. -/
def logEvent (s : State) (type arb payload : Nat) : State :=
  if s.dev.lbCtl.getLsbD 31 && !s.dev.lbCtl.getLsbD 30 then
    let q := (lookup arb s.dev.logSeq).getD 0
    { s with dev := { s.dev with
        log := s.dev.log ++ [{ type := type, arb := arb, seq := q, payload := payload, cycle := s.cycle }]
        logSeq := assign arb (q + 1) s.dev.logSeq
        lbWptr := s.dev.lbWptr + 1 } }
  else s

/-- The last element of a list that meets a test, changed. -/
def modLast {α : Type} (p : α → Bool) (f : α → α) (l : List α) : Option (List α) :=
  let r := l.reverse
  match r.dropWhile (fun x => !p x) with
  | [] => none
  | x :: rest => some (r.takeWhile (fun x => !p x) ++ f x :: rest).reverse

/-- The Logbook records a choice of an arbiter: packed behind the choices of the arbiter's last record while that is a
decision of fewer than sixteen, else in a record of its own (R367). -/
def logChoice (s : State) (arb k : Nat) : State :=
  let d := s.dev
  let mine (r : LogRec) : Bool := r.type != 2 && r.arb == arb
  let room := (d.log.reverse.find? mine).any (fun r => r.type == 1 && decide (r.more.length < 15))
  match modLast mine (fun r => { r with more := r.more ++ [k] }) d.log with
  | some l =>
    if room && d.lbCtl.getLsbD 31 && !d.lbCtl.getLsbD 30 then
      { s with dev := { d with log := l, logSeq := assign arb ((lookup arb d.logSeq).getD 0 + 1) d.logSeq } }
    else s.logEvent 1 arb k
  | none => s.logEvent 1 arb k

/-- A choice of an arbiter among its inputs: the one that a replay repeats when one waits for this arbiter, else the
given one; the Logbook records it (R315, R364, R367). DEDUCED (log 38), unsafe. -/
def decideBy (s : State) (arb : Nat) (c : CtxId) (round input : Nat) : Nat × State :=
  let rep := s.dev.choices.find? (fun x => x.arb == arb && x.ctx == some c)
  let k := (rep.map Choice.input).getD input
  let d := s.dev
  let rest := match rep with
    | some x => d.choices.erase x
    | none => d.choices
  let made : List Choice := if d.lbCtl.getLsbD 31 && !d.lbCtl.getLsbD 30 then [{ arb := arb, ctx := some c, round := round, input := k }] else []
  let d1 : Device := { d with choices := rest, made := d.made ++ made }
  let s1 : State := { s with dev := d1 }
  (k, s1.logChoice arb k)

/-- The input that a replay takes next at an arbiter for a context (R315, R364). -/
def replayInput (s : State) (arb : Nat) (c : CtxId) : Option Nat :=
  (s.dev.choices.find? (fun x => x.arb == arb && x.ctx == some c)).map Choice.input

/-- An arbiter that nothing replays has taken an input: the Logbook records which (R306, R367). -/
def noteChoice (s : State) (arb input : Nat) : State := s.logChoice arb input

/-- A close of the context's open round requested; requests merge until it begins, and the first is the round
controller's input (R306, R308). -/
def requestClose (s : State) (c : CtxId) (trigger : Nat) : State :=
  if (s.ctx c).wantClose then s
  else ((s.modCtx c (fun x => { x with wantClose := true })).sendCtl { code := 0x05, operand := trigger, ctx := some c }).noteChoice (0xA000 + c.num % 2 ^ 13) trigger

/-- CTXID of a context (R240). -/
def ctxWord (c : CtxId) : Word := BitVec.ofNat 32 (c.part * 2 ^ 29 + c.guest * 2 ^ 27 + c.num)

/-- A frame that a parent launched without .INH runs whatever the debugger does to the context (R162, R365). -/
def unstepped (s : State) (part : Nat) (tag : Tag) : Bool :=
  match s.frame? ⟨part, tag⟩ with
  | some f => f.parent.isSome && !f.inh
  | none => false

/-- The identity word that names a party: that of a block or an island carries no instruction index (R351, R365). -/
def partyWord (w : Word) : Word := if w.extractLsb' 18 2 = 0 then w else w &&& 0xFFFFFF80#32

/-- The debugger lets a party of this identity word fire for this tag (R365, R366). -/
def dbgAllows (s : State) (c : CtxId) (ident : Word) (tag : Tag) : Bool :=
  let x := s.ctx c
  (s.unstepped c.part tag && !x.frozen) ||
    ((x.dbg == .running || (x.dbg == .stepping && (!x.stepOnly || x.stepParty == some (partyWord ident) || x.released.contains (partyWord ident)))) &&
      !x.masked.contains (partyWord ident)) ||
    ((x.dbg == .stopped || x.dbg == .frozen) && x.released.contains (partyWord ident))

/-- Under STEP-FIRING a block without single-step enabled does not fire (R365). -/
def stepAllows (s : State) (c : CtxId) (step : Bool) : Bool := step || (s.ctx c).stepParty.isNone

/-- The context's guest is in its time slice, or the context runs on outside it (R409, R415). -/
def inSlice (s : State) (c : CtxId) : Bool :=
  let p := s.part c.part
  let x := s.ctx c
  (p.slice != .idle && p.sliceGuest == c.guest && !x.parked) || x.runsOn.isSome

/-- The Stagehand and the Prompter serve the context: it is neither frozen nor suspended, and its guest has its slice
(R317, R409, R418). -/
def ctxServed (s : State) (c : CtxId) : Bool := let x := s.ctx c; !x.frozen && !x.suspended && s.inSlice c

/-- No void of the context holds its sources and parties back (R313, R314). -/
def voidFree (s : State) (c : CtxId) : Bool :=
  let x := s.ctx c
  x.voided.isNone && (match x.voidFrom, x.close with
    | none, _ => true
    | some v, some cl => decide (cl.round < v)
    | some _, none => false)

/-- The parties of a page are selected: the page is resident in a region that is not frozen for its retirement (R356), its
fold turn runs, its guest has its slice, and its
context is neither frozen, suspended nor waiting for the resolution of a void (R252, R265, R314, R317, R409, R418). -/
def pageRuns (s : State) (k : PageKey) : Bool :=
  match s.page? k with
  | none => false
  | some p =>
    p.placed && p.hasTurn && !((p.region.map s.dev.retiring.contains).getD false) && s.ctxServed k.ctx && s.voidFree k.ctx

/-- A page of a frozen context on which a firing may have to complete whose BRK the debugger has released (R446). -/
def pageReleased (s : State) (k : PageKey) : Bool :=
  (s.ctx k.ctx).frozen && !(s.ctx k.ctx).released.isEmpty && ((s.page? k).map Page.placed).getD false

/-- The round to which the next accesses and tokens of a party belong: the open round ahead of its cut, the next
behind it (R309). -/
def roundOf (s : State) (c : CtxId) (cut : Bool) : Nat := (s.ctx c).round + (if cut then 1 else 0)

/-- The Prompter's 512-entry matching store is full (R1, R425): of launches that have been selected and whose walker has not begun, of
completions from their census on, and of exports under way. DEDUCED (log 162), unsafe. -/
def storeFull (s : State) : Bool :=
  let waiting := (s.guests.map (fun g => (g.queues.filter (fun q => q.waiting.isSome)).length)).foldl (· + ·) 0
  let busy (f : Frame) : Bool := f.phaseOf != .live || (f.walk != .running && f.walk != .done)
  decide (512 ≤ waiting + (s.frames.filter busy).length + (s.parts.filter Partition.exporting).length)

/-- A time record of the Logbook: the cycle counter and the IEEE 802.1AS time (R367). -/
def logTime (s : State) : State :=
  let d := s.dev
  if d.lbCtl.getLsbD 31 && !d.lbCtl.getLsbD 30 then
    let r : LogRec := { type := 2, payload := s.cycle.toNat % 2 ^ 56 * 2 ^ 64 + s.time.toNat, cycle := s.cycle }
    { s with dev := { d with log := d.log ++ [r], lbWptr := d.lbWptr + 1, logTimeAt := s.cycle } }
  else s

/-- The Logbook frozen (R368): a time record, the freeze record, and no record behind it; the PF's vector 9, and the
incident output under INCOUT (R432, R442). -/
def lbFreeze (s : State) (payload : Nat) : State :=
  let d0 := s.dev
  if d0.lbCtl.getLsbD 31 && !d0.lbCtl.getLsbD 30 then
    let t := s.logTime.logEvent 0x1A 0xC002 payload
    let d := t.dev
    { t with dev := { d with lbCtl := d.lbCtl ||| 0x40000000#32, irqs := d.irqs ++ [9], incident := d.incident || d.lbCtl.getLsbD 27 } }
  else s

/-- A cause reaches the Logbook's collector: its event, and the freeze when its bit of LBMASK is set (R367, R368). DEDUCED (log 99), unsafe. -/
def noteCause (s : State) (type arb cause : Nat) (ctxid : Word) : State :=
  let t := s.logEvent type arb (cause * 2 ^ 32 + ctxid.toNat)
  if ((s.dev.lbMask[cause / 32]?).getD 0).getLsbD (cause % 32) then t.lbFreeze cause else t

/-- The arbiter at which a record arises: its MSE, its party's region controller, else the Prompter (R367). -/
def recArb (f : FaultRec) : Nat :=
  if 0x20 ≤ f.cause ∧ f.cause ≤ 0x26 then 0x4000 + f.lreg else if f.lreg = 0xFF then 0xC002 else 0x8000 + f.lreg

/-- A record handed to a fault ring, where it waits to be written (R348). -/
def post (s : State) (r : RingId) (f : FaultRec) : State :=
  (s.modRing r (fun x => { x with waiting := x.waiting ++ [f] })).noteCause 0x15 (recArb f) f.cause f.ctxid

/-- The ring of a context's guest. -/
def guestRing (c : CtxId) : RingId := .guest ⟨c.part, c.guest⟩

end State

/-- The delivery paths of R346. -/
inductive Path where
  | L | T | P | V1 | V2 | H | A | D | E | N
  deriving DecidableEq, Repr

/-- The path of a cause (R350). DESIGN CHOICE (log 28), safe. -/
def pathOf (c : Nat) : Path :=
  if c ≤ 0x13 then (if c = 0 then .P else .L)
  else if c ≤ 0x1B then .T
  else if c ≤ 0x1D then .P
  else if c ≤ 0x1F then .D
  else if c ≤ 0x22 then .V1
  else if c ≤ 0x26 then .V2
  else if c = 0x27 then .N
  else if c = 0x28 then .V2
  else if c = 0x29 then .N
  else if c ≤ 0x2B then .V2
  else if c ≤ 0x2E then .P
  else if c = 0x2F then .E
  else if c = 0x30 then .D
  else if c = 0x31 then .N
  else if c ≤ 0x33 then .H
  else if c ≤ 0x40 then .P
  else if c ≤ 0x43 then .A
  else if c = 0x44 then .H
  else if c ≤ 0x48 then .P
  else if c = 0x49 then .E
  else if c ≤ 0x4F then .A
  else if c = 0x59 ∨ c = 0x5F then .N
  else .H

end Sys2Proof.Machine

namespace Sys2Proof

/-- The page of a party. -/
def Party.page : Party → PageKey
  | .elem p _ => p
  | .actor p _ _ => p
  | .island p => p
  | .node p _ => p
  | .infill p => p

/-- The identity word of a party (R351): LPN, source, block, index. -/
def Party.identity (s : Machine.State) : Party → Word
  | .elem p e => BitVec.ofNat 32 (p.lpn * 2 ^ 20 + e)
  | .actor p b i =>
    let src := match (s.page? p).bind (fun g => g.header? b) with
      | some h => if h.bkind = 0xA3 then 3 else 1
      | none => 1
    BitVec.ofNat 32 (p.lpn * 2 ^ 20 + src * 2 ^ 18 + b * 2 ^ 13 + i)
  | .island p => BitVec.ofNat 32 (p.lpn * 2 ^ 20 + 2 * 2 ^ 18 + (s.dyn p).island.pc)
  | .node p n => BitVec.ofNat 32 (p.lpn * 2 ^ 20 + n)
  | .infill p => BitVec.ofNat 32 (p.lpn * 2 ^ 20)

/-- The party is the trap handler of its page (R352). -/
def Party.isHandler (s : Machine.State) : Party → Bool
  | .actor p b _ => match (s.page? p).bind (fun g => g.header? b) with
    | some h => h.bkind == 0xA3
    | none => false
  | _ => false

end Sys2Proof

namespace Sys2Proof.Machine

namespace State

/-- The party stopped, or let go (R346, R349). -/
def setStopped (s : State) (p : Party) (v : Bool) : State :=
  match p with
  | .elem k e => s.modDyn k (fun d => d.modElem e (fun x => { x with stopped := v }))
  | .actor k b _ => s.modDyn k (fun d => d.modActor b (fun x => { x with stopped := v, held := x.held && v }))
  | .island k => s.modDyn k (fun d => { d with island := { d.island with stopped := v } })
  | .node k n => s.modDyn k (fun d => d.modNode n (fun x => { x with gens := x.gens.map (fun g => { g with stopped := v && !g.done }) }))
  | .infill k =>
    let mine (f : Frame) : Bool := f.ctx == k.ctx && f.graph == k.graph && f.lrec.infLpn == k.lpn && f.infill.active
    { s with frames := s.frames.map (fun f => if mine f then { f with infill := { f.infill with stopped := v } } else f) }

/-- A trap of the party waits for acceptance, or is accepted (R31, R352). -/
def setTrap (s : State) (p : Party) (v : Bool) : State :=
  match p with
  | .elem k e => s.modDyn k (fun d => d.modElem e (fun x => { x with trap := v }))
  | .actor k b _ => s.modDyn k (fun d => d.modActor b (fun x => { x with trap := v }))
  | .island k => s.modDyn k (fun d => { d with island := { d.island with trap := v } })
  | .node _ _ => s
  | .infill _ => s

/-- The logical region of a page, 0xFF when it holds none (R347). -/
def regionByte (s : State) (k : PageKey) : Nat := ((s.page? k).bind Page.region).getD 0xFF

/-- The four words that a trap or a path-P fault delivers (R351). DEDUCED (log 109), unsafe. -/
def trapWords (s : State) (cause x : Nat) (p : Party) (tag : Tag) (value : Word) : List Word :=
  [BitVec.ofNat 32 (cause + x * 2 ^ 8), tag.setWidth 32, p.identity s, value]

/-- The cut of the round in progress is recorded for the party: what it does belongs to the next round (R309). -/
def partyCut (s : State) (p : Party) : Bool :=
  match p with
  | .elem k e => ((s.dyn k).elem e).cut
  | .actor k b _ => ((s.dyn k).actor b).cut
  | .island k => (s.dyn k).island.cut
  | .node k n => ((s.dyn k).node n).cut
  | .infill _ => false

/-- What a record of path P reports about a lasting loss: address and unit, as the hypervisor's record of the same loss has them (R350). -/
def lossReport (s : State) (part : Nat) : Option (DWord × DWord) :=
  (((s.ring (.hypervisor part)).waiting.reverse).find? (fun f => f.cause == 0x50)).map (fun f => (f.info0, f.info1))

/-- A record of the layout of R347 about a party: its round is the one to which the party's next access belongs (R309). -/
def partyRec (s : State) (cause orig : Nat) (p : Party) (tag : Tag) (info0 : DWord) (node : Nat) : FaultRec :=
  let k := p.page
  let own : DWord × DWord := (info0, BitVec.ofNat 64 ((p.identity s).toNat + node * 2 ^ 32))
  let rep := if cause = 0x50 then (s.lossReport k.ctx.part).getD own else own
  { cause := cause, info0 := rep.1, info1 := rep.2, orig := orig,
    lreg := s.regionByte k, ctxid := ctxWord k.ctx, tag := tag, round := s.roundOf k.ctx (s.partyCut p) % 2 ^ 32,
    ctx := some k.ctx, party := some p }

/-- A fault of path P (R346, R352): the record in the guest's ring, the trap tokens when the page has a handler, and
the party stopped with its heads in place; a handler's own fault is 0x1D. INFO0 is 64 bits wide; its low half is the
handler's fault value. -/
def faultWide (s : State) (cause : Nat) (p : Party) (tag : Tag) (info0 : DWord) (node : Nat) : State :=
  let k := p.page
  let own := p.isHandler s
  let c := if own then 0x1D else cause
  let r := s.partyRec c (if own then cause else 0) p tag info0 node
  let s1 := (s.post (guestRing k.ctx) r).setStopped p true
  let has := match s.page? k with
    | some g => g.hasHandler
    | none => false
  if has && !own then
    { s1 with traps := s1.traps ++
        [{ page := k, words := s.trapWords c 0 p tag (r.info0.setWidth 32), tag := tag, party := some p, accepts := false
           round := s.roundOf k.ctx (s.partyCut p) }] }
  else s1

/-- A fault of path P with a 32-bit value. -/
def faultP (s : State) (cause : Nat) (p : Party) (tag : Tag) (value : Word) (node : Nat) : State :=
  s.faultWide cause p tag (value.setWidth 64) node

/-- A trap of path T (R31, R346, R351): the handler's tokens, the party waiting for acceptance; without a handler
0x1C by path P, and a trap of the handler itself 0x1D by path P. -/
def trapT (s : State) (cause x : Nat) (p : Party) (tag : Tag) (value : Word) : State :=
  let k := p.page
  let has := match s.page? k with
    | some g => g.hasHandler
    | none => false
  if p.isHandler s then
    (s.post (guestRing k.ctx) (s.partyRec 0x1D cause p tag (value.setWidth 64) 0)).setStopped p true
  else if has then
    let t : TrapMsg := { page := k, words := s.trapWords cause x p tag value, tag := tag, party := some p, accepts := true
                         round := s.roundOf k.ctx (s.partyCut p) }
    let s1 : State := { s with traps := s.traps ++ [t] }
    (s1.setTrap p true).noteCause 0x16 (0x8000 + s.regionByte k) cause (ctxWord k.ctx)
  else
    (s.post (guestRing k.ctx) (s.partyRec 0x1C cause p tag (value.setWidth 64) 0)).setStopped p true

/-- Flags raised into a page's AFLG, and the trap that an enabled one raises (R30, R31). DEDUCED (log 124), unsafe. -/
def raiseFlags (s : State) (f : Flags) (p : Party) (tag : Tag) (value : Word) : State :=
  let k := p.page
  let s1 := s.modDyn k (fun d => { d with aflg := f.setIn d.aflg })
  match f.trapCause (s.dyn k).aflg with
  | some c => s1.trapT c 0 p tag value
  | none => s1

/-- An advisory record to a guest (path A, R346). -/
def advise (s : State) (c : CtxId) (cause : Nat) (info0 info1 : DWord) (tag : Tag) : State :=
  s.post (guestRing c)
    { cause := cause
      info0 := info0
      info1 := info1
      flags := 0x80
      ctxid := ctxWord c
      tag := tag
      round := (s.ctx c).round % 2 ^ 32
      ctx := some c
      advisory := true }

/-- A guest's vector: to its VF's MSI-X table while the VF is bound and the link is up, else to the cores' interrupt files (R432, R433).
DEDUCED (log 160), unsafe. -/
def guestIrq (s : State) (g : GuestId) (v : Nat) : State :=
  let x := s.guest g
  if x.vf.isSome && s.dev.pcieUp then s.modGuest g (fun y => { y with irqs := y.irqs ++ [v] })
  else s.modGuest g (fun y => { y with fileIrqs := y.fileIrqs ++ [v] })

/-- A health cause raises the PF's vector 10 (R432). -/
def healthIrq (s : State) (cause : Nat) : State :=
  let d := s.dev
  if 0x50 ≤ cause ∧ cause ≤ 0x5F then { s with dev := { d with irqs := d.irqs ++ [10] } } else s

/-- A record to a partition's hypervisor (path H, R346); a health cause raises the PF's vector 10 (R432). -/
def tellHyp (s : State) (part cause : Nat) (info0 info1 : DWord) (c : Option CtxId) : State :=
  (s.healthIrq cause).post (.hypervisor part)
    { cause := cause
      info0 := info0
      info1 := info1
      ctxid := (c.map ctxWord).getD 0xFFFFFFFF
      round := ((c.map (fun x => (s.ctx x).round)).getD 0) % 2 ^ 32
      ctx := c }

/-- A record to every partition's hypervisor. DEDUCED (log 105), unsafe. -/
def tellAll (s : State) (cause : Nat) (info0 info1 : DWord) : State :=
  match s.parts.filter Partition.exist with
  | [] => s.healthIrq cause
  | ps => ps.foldl (fun t p => t.tellHyp p.num cause info0 info1 none) s

/-- The debug interrupt: the guest's vector 2 (R366, R432). -/
def debugIrq (s : State) (c : CtxId) : State := s.guestIrq ⟨c.part, c.guest⟩ 2

/-- A report of path D (R346): in the context's debug status, with the debug interrupt. DEDUCED (log 100), unsafe. -/
def tellDebug (s : State) (c : CtxId) (cause : Nat) (info0 info1 : DWord) : State :=
  ((s.modCtx c (fun x => { x with report := some (cause, info0, info1) })).debugIrq c).noteCause 0x15 (0xA000 + c.num % 2 ^ 13) cause (ctxWord c)

/-- A recorded choice cannot be taken (R364, R366): a STEP-ROUNDS stops with RES 8 and 0x1F. -/
def diverge (s : State) (c : CtxId) (arb : Nat) : State :=
  (s.modCtx c (fun x => { x with dbg := .stopped, res := 8, stepsLeft := none })).tellDebug c 0x1F (BitVec.ofNat 64 arb)
    (BitVec.ofNat 64 ((lookup arb s.dev.logSeq).getD 0))

/-- An island whose block has no single-step enabled: its sections run whatever the debugger does (R212). -/
def freeIsland (s : State) (p : Party) : Bool :=
  match p with
  | .island k => ((s.page? k).map (fun g => !g.islandHeader.step)).getD false
  | _ => false

/-- A party has completed a firing: a STEP-FIRING that names it, or the next firing of all, ends there (R365). -/
def countStep (s : State) (p : Party) (tag : Tag) : State :=
  let c := p.page.ctx
  let x := s.ctx c
  let me := partyWord (p.identity s)
  let mine := x.released.contains me
  let s := if mine then s.modCtx c (fun y => { y with released := y.released.filter (fun z => z != me) }) else s
  match x.stepParty with
  | none => s
  | some w =>
    if ((w = 0 ∧ !mine) ∨ w = me) ∧ !s.unstepped c.part tag ∧ !s.freeIsland p then
      (s.modCtx c (fun y => { y with dbg := .stopped, stepParty := none, stepOnly := false, res := 0 })).tellDebug c 0x1E 1 0
    else s

/-- An access performed refreshes the frame whose tag it carries (R369). -/
def touchFrame (s : State) (part : Nat) (tag : Tag) : State := s.modFrame ⟨part, tag⟩ (fun f => { f with lastFire := s.cycle })

/-- A firing or an emission is noted in its page's last-fire time (R243). -/
def fireAt (s : State) (k : PageKey) : State := s.modPage k (fun p => { p with lastFire := s.cycle })

/-- A firing or an emission refreshes the frame of its tag, and its page's last-fire time (R243, R369). -/
def touch (s : State) (k : PageKey) (tag : Tag) : State :=
  let t := (s.fireAt k).touchFrame k.ctx.part tag
  match s.cur with
  | some (.party p) => t.countStep p tag
  | _ => t

end State

/-! ### Commands by number -/

/-- The event of a hypervisor operation (R438); bit 12 of HARG tells a grant of a granule from a revocation. -/
def hcmdInstr (op harg : Nat) : Option Instr :=
  match op with
  | 0x01 => some .create
  | 0x02 => some .destroy
  | 0x03 => some .reset
  | 0x04 => some .grant
  | 0x05 => some .remove
  | 0x06 => some .bind
  | 0x07 => some .exportPart
  | 0x08 => some .importPart
  | 0x09 => some .scrub
  | 0x0A => some .port
  | 0x0B => some (if bitsOf harg 12 1 = 1 then .granuleGrant else .granuleRevoke)
  | 0x0C => some .s2inval
  | 0x0D => some .placefill
  | 0x0E => some .donate
  | 0x0F => some .reclaim
  | _ => none

/-- The event of a debug command (R366). -/
def dbgInstr (code : Nat) : Option Instr :=
  match code with
  | 0x01 => some .logEnable
  | 0x02 => some .logDisable
  | 0x03 => some .mark
  | 0x04 => some .markEvery
  | 0x05 => some .drain
  | 0x06 => some .breakEnable
  | 0x07 => some .stop
  | 0x08 => some .resume
  | 0x09 => some .rewind
  | 0x0A => some .stepRounds
  | 0x0B => some .stepFiring
  | 0x0C => some .mask
  | _ => none

/-- The event of a residency command (R408). -/
def residencyInstr (cmd : Word) : Instr := if bitsOf cmd.toNat 24 8 = 1 then .reside else .release

/-- The event of a command in GNCMD (R439). -/
def granuleInstr (v : DWord) : Instr := if v.getLsbD 49 then .granuleRelease else .granuleAssign

end Sys2Proof.Machine
end

