-- ==== Sys2Proof/Machine/Operands.lean ====
section
/-!
DEFINITION. The operand forms and the firing rules: the heads, C operand, predicate, emission and closing tokens of
an element (R54 to R57, R79, R94, R97), and the slots, immediates, constants and targets of a block (R59, R60, R95,
R132, R133).
-/
namespace Sys2Proof

/-- The enabled queues of an element, L first (R53). -/
def Ecw.queues (e : Ecw) : List QueueName :=
  (if e.qL then [.L] else []) ++ (if e.qR then [.R] else []) ++ (if e.qP then [.P] else []) ++ (if e.qO then [.O] else [])

/-- The route of one output register. -/
def Ecw.route (e : Ecw) (second : Bool) : Route := if second then e.route1 else e.route0

/-- A consumer's scale check fails for a token (R39). -/
def ScaleCheck.fails (c : ScaleCheck) (sc : Bool) : Bool :=
  match c with
  | .any => false
  | .unscaled => sc
  | .scaled => !sc

/-- A target names an operand slot of an instruction. -/
def Target.names (t : Target) (i : Nat) (sd : Machine.Side) : Bool :=
  match t, sd with
  | .left j, .left => j.toNat == i
  | .right j, .right => j.toNat == i
  | .pred j, .pred => j.toNat == i
  | _, _ => false

end Sys2Proof

namespace Sys2Proof.Machine

/-- The operands of one firing: left, right and third, and the firing's tag (R54, R94, R95). -/
structure Args where
  a : Val
  b : Val
  c : Val
  tag : Tag
  deriving DecidableEq, Repr

namespace Args

/-- The SC of a result that reads `n` operands (R38). -/
def sc (g : Args) (n : Nat) : Bool := (1 ≤ n && g.a.sc) || (2 ≤ n && g.b.sc) || (3 ≤ n && g.c.sc)

/-- What a result is ordered after: everything the firing consumed (R181). -/
def dep (g : Args) : Dep := (g.a.dep.join g.b.dep).join g.c.dep

/-- A result of the firing (R38, R98). -/
def val (g : Args) (n : Nat) (v : Word) : Val := { v := v, sc := g.sc n, dep := g.dep }

end Args

/-- An operand that no token carried: a literal, an immediate, a constant or an argument, unscaled (R38). -/
def Val.plain (v : Word) : Val := { v := v }

/-- IMM16 as the right operand (R59). -/
def immWord (t : Ty) (i : BitVec 16) : Word :=
  match t with
  | .i32 => i.signExtend 32
  | .n32 => i.setWidth 32
  | .f32 => i ++ (0 : BitVec 16)
  | .i16x2 | .n16x2 | .bf16x2 | .f16x2 => i ++ i
  | .i8x4 | .n8x4 | .e4m3x4 | .e5m2x4 =>
    let b : BitVec 8 := i.setWidth 8
    b ++ b ++ b ++ b
  | .fx4x8 => 0

/-- The predicate lets the instruction operate (R56). -/
def predHolds (pm : PredMode) (p : Word) : Bool :=
  match pm with
  | .always => true
  | .ifNonzero => p != 0
  | .ifZero => p == 0
  | .consume => true

/-! ### Elements -/

/-- The item is a token of this kind. -/
def Item.isKind (i : Item) (k : Kind) : Bool :=
  match i with
  | .tok t => t.kind == k
  | _ => false

namespace PageDyn

/-- The token at the head of an element queue; a census token is none of R79's heads (R81). -/
def qhead (d : PageDyn) (n : Nat) (q : QueueName) : Option Token :=
  match d.headTok (.queue n q) with
  | some t => if t.kind = .census then none else some t
  | none => none

/-- Heads of several queues; none when one of them is missing. -/
def qheads (d : PageDyn) (n : Nat) : List QueueName → Option (List Token)
  | [] => some []
  | q :: qs =>
    match d.qhead n q, d.qheads n qs with
    | some t, some ts => some (t :: ts)
    | _, _ => none

/-- One token removed from each of several queues. -/
def popAll (d : PageDyn) (n : Nat) : List QueueName → PageDyn
  | [] => d
  | q :: qs => (d.pop (.queue n q)).popAll n qs

/-- Both output registers that the element's routes use are empty (R249). -/
def outFree (d : PageDyn) (n : Nat) (e : Ecw) : Bool :=
  (e.route0 == .none || (d.fifo (.out n false)).isEmpty) && (e.route1 == .none || (d.fifo (.out n true)).isEmpty)

/-- Data tokens sent on a route for a tag (R47, R97). -/
def sentOn (d : PageDyn) (n : Nat) (second : Bool) (tag : Tag) : Nat :=
  let st := (d.elem n).tagSt tag
  if second then st.sent1 else st.sent0

/-- One token put into an output register: data repeated by PAT and counted (R57, R97); a route of kind 000 takes
nothing. -/
def sendTok (d : PageDyn) (n : Nat) (e : Ecw) (second : Bool) (t : Token) : PageDyn :=
  if e.route second = .none then d
  else
    let c := if t.kind = .data ∧ e.pat = .replay then e.rpt.toNat + 1 else 1
    let d0 := d.push (.out n second) (.tok t)
    let d1 := if c = 1 then d0 else { d0 with reps := assign (.out n second) (c - 1) d0.reps }
    if t.kind = .data then
      d1.modElem n (fun x => x.modTag t.tag (fun st =>
        if second then { st with sent1 := st.sent1 + c } else { st with sent0 := st.sent0 + c }))
    else d1

/-- The head leaves a place: a token that PAT repeats stays in its register until its last repetition has left (R57, R249). -/
def leave (d : PageDyn) (p : Place) : PageDyn :=
  match lookup p d.reps with
  | some (n + 1) => { d with reps := if n = 0 then d.reps.filter (fun x => x.1 != p) else assign p n d.reps }
  | _ => d.pop p

/-- A closing token on one route: an EOS carries the data tokens sent on the route for its tag (R47, R97). -/
def sendClose (d : PageDyn) (n : Nat) (e : Ecw) (second : Bool) (t : Token) : PageDyn :=
  d.sendTok n e second (if t.kind = .eos then { t with pay := BitVec.ofNat 32 (d.sentOn n second t.tag) } else t)

/-- One token on both routes, route 0 first (R55). -/
def sendBoth (d : PageDyn) (n : Nat) (e : Ecw) (t : Token) : PageDyn := (d.sendTok n e false t).sendTok n e true t

/-- A closing token or a cue forwarded as EOSP directs; a cue goes on every route (R57, R79). -/
def forward (d : PageDyn) (n : Nat) (e : Ecw) (t : Token) : PageDyn :=
  if t.kind = .cue then d.sendBoth n e t
  else match e.eosp with
    | .forward => (d.sendClose n e false t).sendClose n e true t
    | .first => d.sendClose n e false t
    | .absorb => d

/-- Per-tag state behind a consumed closing token: an EOR resets the local counter (R54), an EOS frees the tag
(R126). -/
def endTag (d : PageDyn) (n : Nat) (t : Token) : PageDyn :=
  if t.kind = .eos then d.modElem n (fun x => x.freeTag t.tag)
  else if t.kind = .eor then d.modElem n (fun x => x.modTag t.tag (fun st => { st with ctr := 0 }))
  else d

/-- The argument slots as a party sees them: behind its cut the values of the next round (R71, R309). -/
def argsAt (d : PageDyn) (cut : Bool) : List Word := if cut then d.argsNext else d.args

/-- The C operand (R54). -/
def cValue (d : PageDyn) (n : Nat) (e : Ecw) (tag : Tag) : Word :=
  match e.csrc with
  | .literal => e.const
  | .slot => ((d.argsAt (d.elem n).cut)[e.carg.toNat]?).getD 0
  | .counter => e.const + BitVec.ofNat 32 ((d.elem n).tagSt tag).ctr

/-- The firing counted: the local counter of R54 and the decimation count of R57. DEDUCED (log 32), unsafe. -/
def countFiring (d : PageDyn) (n : Nat) (e : Ecw) (tag : Tag) : PageDyn :=
  d.modElem n (fun x => x.modTag tag (fun st =>
    { st with
      ctr := if e.rpt ≠ 0 ∧ st.ctr = e.rpt.toNat then 0 else (st.ctr + 1) % 2 ^ 32
      dec := st.dec + 1 }))

/-- The result of the firing just counted is one that decimation lets through (R57). -/
def keeps (d : PageDyn) (n : Nat) (e : Ecw) (tag : Tag) : Bool :=
  e.pat != .decimate || ((d.elem n).tagSt tag).dec % (e.rpt.toNat + 1) == 0

end PageDyn

/-- A token's value as an operand. -/
def Token.val (t : Token) : Val := { v := t.pay, sc := t.sc, dep := t.dep }

/-- A data token of a value. -/
def Val.token (v : Val) (tag : Tag) : Token := { kind := .data, sc := v.sc, tag := tag, pay := v.v, dep := v.dep }

/-- What R79 finds at the heads of an element. -/
inductive Heads where
  | wait
  | skew (t : Token)
  | cue (t : Token)
  | strikes (t : Token)
  | closing (t : Token)
  | data (ts : List Token)
  deriving DecidableEq, Repr

/-- The classification of R79 and R97: heads of one tag and one kind; closing tokens of one payload too. -/
def classify (ts : List Token) : Heads :=
  match ts with
  | [] => .wait
  | t :: rest =>
    if rest.all (fun u => u.tag == t.tag && u.kind == t.kind) then
      match t.kind with
      | .data => .data ts
      | .strike => .strikes t
      | _ => if rest.all (fun u => u.pay == t.pay) then (if t.kind = .cue then .cue t else .closing t) else .skew t
    else .skew t

namespace Page

/-- T1 and T2 of an instruction of a block (R58, R60). -/
def targets (p : Page) (h : Header) (i : Nat) : List Target :=
  let w := p.insWord h i
  [(Decode.targetOf (w.extractLsb' 36 10)).1, (Decode.targetOf (w.extractLsb' 26 10)).1]

/-- The emit-port entry of a port (R128). -/
def emitEntry? (p : Page) (h : Header) (port : Nat) : Option CbEntry :=
  (p.cbEntries h).find? (fun c => c.out && c.port == port)
/-- The listen-port entry of a port (R128). -/
def listenEntry? (p : Page) (h : Header) (port : Nat) : Option CbEntry :=
  (p.cbEntries h).find? (fun c => !c.out && c.port == port)

/-- The position of a kind-100 target (R133): the number of such targets of the port at lower instruction index, and
T1 before T2. -/
def targetPos (p : Page) (h : Header) (i : Nat) (second : Bool) (port : BitVec 4) : Nat :=
  let below := (List.range i).flatMap (p.targets h)
  let own := if second then (p.targets h i).take 1 else []
  ((below ++ own).filter (fun t => t == Target.emit port)).length

end Page

namespace State

/-- The element may fire as far as it goes itself: its page runs, no record stops it, no trap of it waits, the debugger lets it, and
its output registers are free (R31, R249, R346, R366). DEDUCED (log 36), unsafe. -/
def elemFree (s : State) (k : PageKey) (n : Nat) (e : Ecw) (tag : Tag) : Bool :=
  let x := (s.dyn k).elem n
  (s.pageRuns k || s.pageReleased k) && !x.stopped && !x.trap && s.dbgAllows k.ctx ((Party.elem k n).identity s) tag && (s.dyn k).outFree n e

/-- What takes its turn on a page is behind its cut (R309). -/
def turnBehind (p : Page) (u : Option Subject) : Bool :=
  p.reported || match u with
    | some (.party (.elem _ n)) => (p.dyn.elem n).cut
    | some (.party (.actor _ b _)) => (p.dyn.actor b).cut
    | some (.party (.island _)) => p.dyn.island.cut
    | some (.part _ n) => (p.dyn.node n).cut
    | _ => false

/-- The argument slots of a page for what takes its turn there (R71). -/
def turnArgs (s : State) (k : PageKey) : List Word :=
  match s.page? k with
  | some p => p.dyn.argsAt (turnBehind p s.cur)
  | none => []

/-! #### The matching store (R1, R126, R135) -/

/-- The entry of an operand slot that a target fills (R60, R135). -/
def slotEntry (tag : Tag) (b serial : Nat) (t : Target) : Option EntryName :=
  match t with
  | .left j => some ⟨tag, b, serial, j.toNat, 0⟩
  | .right j => some ⟨tag, b, serial, j.toNat, 1⟩
  | .pred j => some ⟨tag, b, serial, j.toNat, 2⟩
  | _ => none

/-- The port of an operand slot's entry (R135). -/
def sidePort : Side → Nat
  | .left => 0
  | .right => 1
  | .pred => 2

/-- An opcode that keeps one matching-store entry for a tag (R135, R443). -/
def keepsEntry : Option Instr → Bool
  | some (.count _) | some (.join _) | some (.scanp _) => true
  | _ => false

/-- Matching-store entries that a block holds: filled slots, slots that its waiting instructions are to fill, values for
its next firings, per-tag state and held ranks (R135, R156, R159). -/
def blockEntries (p : Page) (h : Header) (b : Nat) (a : ActorState) : List EntryName :=
  let next (t : Tag) : Nat := match a.firing with
    | some f => if f.tag = t then (f.serial + 1) % 4096 else (lookup t a.serials).getD 0
    | none => (lookup t a.serials).getD 0
  (match a.firing with
    | some f =>
      f.slots.map (fun x => ⟨f.tag, b, f.serial, x.1, sidePort x.2.1⟩) ++
        f.waits.flatMap (fun w => (p.targets h w.1).filterMap (slotEntry f.tag b f.serial))
    | none => []) ++
  a.nexts.map (fun x => ⟨x.1, b, next x.1, x.2.1, sidePort x.2.2.1⟩) ++
  a.instrs.flatMap (fun x =>
    (if keepsEntry (p.ins? h x.1) then [⟨x.2.tag, b, 0, x.1, 3⟩] else []) ++ x.2.held.map (fun y => ⟨x.2.tag, b, 0, x.1, 4 + y.1⟩))

/-- The opcodes whose elements keep state by tag, and the local and decimation counters (R126). -/
def keepsTags (p : Page) (n : Nat) : Bool :=
  let e := p.ecw n
  [0x74, 0x77, 0x78, 0x79, 0x7B, 0x7C, 0x7D, 0x7E, 0x82].contains (p.ecwOp n) || e.csrc == .counter || e.pat == .decimate

/-- The entry of an element's state of a tag: serial zero, and the element index in place of the instruction (R126). -/
def elemEntry (n : Nat) (t : Tag) : EntryName := ⟨t, 0, 0, n, 0⟩

/-- The states that an element has written back: those of every tag but the one that its PE holds (R126). -/
def elemEntries (p : Page) (x : ElemState) : List (Tag × EntryName) :=
  if keepsTags p x.elem then (x.tags.filter (fun y => x.latest != some y.tag)).map (fun y => (y.tag, elemEntry x.elem y.tag)) else []

/-- The entries that stand in the matching store of a quad's actor tile, each with the handler index that names its actor, or with
the quad slot of its element (R64, R126, R135). -/
def tileEntries (s : State) (quad : Nat) : List (Nat × EntryName) :=
  s.pages.flatMap (fun p => match p.region with
    | some l =>
      if l / 4 = quad then
        p.headers.zipIdx.flatMap (fun x =>
          let a := p.dyn.actor x.2
          ((blockEntries p x.1 x.2 a).filter (fun n => !a.spilled.any (fun y => y.1 == n))).map (fun n => (64 * (l % 4) + x.1.chan, n))) ++
        p.dyn.elems.flatMap (fun x =>
          ((elemEntries p x).filter (fun n => !x.spilled.any (fun y => y.1 == n.1))).map (fun n => (l % 4, n.2)))
      else []
    | none => [])

/-- The set, of 1,024, that an entry's name selects (R1, R135). -/
def setOf (idx : Nat) (n : EntryName) : Nat := Config.matchSet n.tag.toNat idx n.serial n.instr n.port % 1024

/-- Of an instruction's new entries, those that find their set full (R135). -/
def spillsIn (idx : Nat) : List Nat → List EntryName → List EntryName
  | _, [] => []
  | sets, n :: ns =>
    if 8 ≤ (sets.filter (fun x => x == setOf idx n)).length then n :: spillsIn idx sets ns
    else spillsIn idx (setOf idx n :: sets) ns

/-- Entries of a partition that its overflow table holds (R135). -/
def ovfUsed (s : State) (part : Nat) : Nat :=
  ((s.pages.filter (fun p => p.key.ctx.part == part)).map (fun p =>
    (p.dyn.actors.map (fun a => a.spilled.length)).foldl (· + ·) 0 + (p.dyn.elems.map (fun a => a.spilled.length)).foldl (· + ·) 0)).foldl (· + ·) 0

/-- Entries that find their sets full spill into the partition's overflow table: without a table the party waits and the hypervisor is
told, and a full table is 0x3A at the party (R135, R420). -/
def spillInto (s : State) (k : PageKey) (count : Nat) (party : Party) (tag : Tag) (put : State → State) : State :=
  let part := k.ctx.part
  if (s.part part).ovfBase = 0 then
    if (s.part part).ovfWaits then s
    else (s.tellHyp part 0x32 (BitVec.ofNat 64 part) 0 (some k.ctx)).modPart part (fun x => { x with ovfWaits := true })
  else if 2 ^ 20 < s.ovfUsed part + count then s.faultP 0x3A party tag 0 0
  else
    let t := (put s).modPart part (fun x => { x with ovfWaits := false })
    let u : State := { t with free := t.free + 1 }
    if Config.matchSpillHigh t.free then u.advise k.ctx 0x42 (BitVec.ofNat 64 (u.ovfUsed part)) 0 0xFFF else u

/-- The tag whose state the element's PE has to write back before a firing of this tag (R126). -/
def writesBack (s : State) (k : PageKey) (n : Nat) (tag : Tag) : Option Tag :=
  match s.page? k with
  | some p =>
    let x := p.dyn.elem n
    if keepsTags p n then x.latest.bind (fun t => if t ≠ tag ∧ x.tags.any (fun y => y.tag == t) then some t else none) else none
  | none => none

/-- The state that the element's PE would write back finds its set full and has no place in the overflow table yet (R126, R135). -/
def backSpills (s : State) (k : PageKey) (n : Nat) (tag : Tag) : Bool :=
  match s.writesBack k n tag, s.page? k with
  | some t, some p =>
    let l := p.region.getD 0
    let held := s.tileEntries (l / 4)
    !(p.dyn.elem n).spilled.any (fun y => y.1 == t) && decide (8 ≤ held.length) &&
      !(spillsIn (l % 4) (held.map (fun x => setOf x.1 x.2)) [elemEntry n t]).isEmpty
  | _, _ => false

/-- The state of the tag is at hand: found if it was spilled, and the state that leaves the PE has its place (R126, R135). -/
def tagReady (s : State) (k : PageKey) (n : Nat) (tag : Tag) : Bool :=
  !((s.dyn k).elem n).spilled.contains (tag, false) && !s.backSpills k n tag

/-- The element may fire for the tag. -/
def elemGate (s : State) (k : PageKey) (n : Nat) (e : Ecw) (tag : Tag) : Bool := s.elemFree k n e tag && s.tagReady k n tag

/-- An element that may not fire: one that lacks only a place for the state that leaves its PE spills it (R126, R135). -/
def elemWaits (s : State) (k : PageKey) (n : Nat) (e : Ecw) (tag : Tag) : State :=
  match s.writesBack k n tag with
  | some t =>
    if s.elemFree k n e tag && s.backSpills k n tag then
      s.spillInto k 1 (.elem k n) tag (fun x => x.modDyn k (fun d => d.modElem n (fun y => { y with spilled := y.spilled ++ [(t, false)] })))
    else s
  | none => s

/-- The heads of an element by R79; cues are aligned over its fed queues only (R445). -/
def elemHeads (s : State) (k : PageKey) (n : Nat) (e : Ecw) : Heads :=
  match s.page? k with
  | none => .wait
  | some p =>
    let fed := e.queues.filter (p.fedQueue n)
    match (p.dyn.qheads n fed).map classify with
    | some (.cue t) => .cue t
    | _ =>
      match p.dyn.qheads n e.queues with
      | some ts => match classify ts with
        | .data l => if e.qL then .data l else .wait
        | .strikes t => if e.qL then .strikes t else .wait
        | h => h
      | none => .wait

/-- EOS tokens of a tag that a page's sinks have counted (R407). DEDUCED (log 34), unsafe. -/
def sunkIn (d : PageDyn) (tag : Tag) : Nat := (d.elems.map (fun e => (lookup tag e.sunk).getD 0)).foldl (· + ·) 0

/-- The sink entries of a graph's header: index, page and the EOS tokens that it counts for each frame (R73). -/
def sinkEntries (hdr : List Host.Cell) : List (Nat × Nat × Nat) :=
  (List.range 16).filterMap (fun j =>
    let e := Memory.readNat hdr (0x20 + 4 * j) 4
    if bitsOf e 31 1 = 1 then some (j, bitsOf e 16 12, bitsOf e 0 16) else none)

/-- An element of a sink page absorbs an EOS, and the page reports each sink entry whose count it reaches (R57, R407). -/
def sinkEos (s : State) (k : PageKey) (n : Nat) (tag : Tag) : State :=
  let s1 := s.modDyn k (fun d => d.modElem n (fun e => { e with sunk := assign tag ((lookup tag e.sunk).getD 0 + 1) e.sunk }))
  let c := sunkIn (s1.dyn k) tag
  let hdr := ((s.graph? k.ctx.part k.graph).map Graph.header).getD []
  ((sinkEntries hdr).filter (fun e => e.2.1 == k.lpn && e.2.2 == c)).foldl (fun t e =>
    t.sendCtl { code := 0x0C, tag := tag, operand := e.1, ctx := some k.ctx, page := some k, part := k.ctx.part }) s1

/-- The cut of an element: its per-tag state as the next round begins with it (R126, R309). -/
def cutElem (s : State) (k : PageKey) (n : Nat) : State :=
  let r := (s.ctx k.ctx).round + 1
  s.modPage k (fun p =>
    let snap := (lookup r p.cuts).getD PageDyn.empty
    { p with
      dyn := p.dyn.modElem n (fun x => { x with cut := true })
      cuts := assign r (snap.modElem n (fun _ => { p.dyn.elem n with cut := false })) p.cuts })

/-- The queues that a cue stands on give it up: the fed ones (R445). -/
def cueQueues (s : State) (k : PageKey) (n : Nat) (e : Ecw) : List QueueName :=
  match s.page? k with
  | some p => e.queues.filter (p.fedQueue n)
  | none => []

/-- An access waits for the close that it has requested (R184). DEDUCED (log 49), unsafe. -/
def waitsClose (r : Req) : Bool :=
  match r.phase with
  | .waitClose _ => true
  | _ => false

/-- The cues of a round leave the queues of an element: the ones at the heads, and those of further producers behind them. -/
def dropCues (d : PageDyn) (n : Nat) (qs : List QueueName) : PageDyn :=
  qs.foldl (fun d q => d.setFifo (.queue n q) ((d.fifo (.queue n q)).filter (fun i => !i.isKind .cue))) d

/-- Cues at every fed queue of an element: the cut is recorded and the cue forwarded on every route, once every
access that the element issued earlier has been performed (R183, R309). Accesses that wait for the close itself, and what
stands behind them in issue order, do not hold the cue back; their results follow it (R184, R295). -/
def cueElem (s : State) (k : PageKey) (n : Nat) (e : Ecw) (both : Bool) (t : Token) : State :=
  let mine := s.reqs.filter (fun r => r.issuer == .elem k n && r.phase != .given)
  let behind := mine.dropWhile (fun r => !waitsClose r)
  if behind.length < mine.length ∨ behind.any (fun r => !waitsClose r && r.phase != .done && r.closing.isNone) then s
  else
    let s1 : State := { s with reqs := s.reqs.map (fun r => if behind.any (fun q => q.id == r.id) then { r with needClose := true } else r) }
    ((s1.fireAt k).cutElem k n).modDyn k (fun d =>
      let d1 := dropCues d n (s.cueQueues k n e)
      if both then d1.sendBoth n e t else d1.sendTok n e false t)

/-- Closing tokens at every head: consumed, forwarded as EOSP directs, counted by a sink (R57, R79). -/
def closeElem (s : State) (k : PageKey) (n : Nat) (e : Ecw) (t : Token) : State :=
  let s1 := (s.touch k t.tag).modDyn k (fun d => ((d.popAll n e.queues).forward n e t).endTag n t)
  if t.kind = .eos ∧ e.eosp = .absorb then s1.sinkEos k n t.tag else s1

/-- Strikes at every head: one strike with the left key on every route, neither repeated nor thinned (R97, R151). -/
def strikeElem (s : State) (k : PageKey) (n : Nat) (e : Ecw) (t : Token) : State :=
  (s.touch k t.tag).modDyn k (fun d => (d.popAll n e.queues).sendBoth n e t)

end State

/-- The head of a queue among the heads of an element. -/
def headIn (e : Ecw) (ts : List Token) (q : QueueName) : Option Token := lookup q (e.queues.zip ts)

/-- The operands of an element's data firing (R54, R94): the third is the head of P for a three-operand opcode with
P enabled and PM = 00 (`tri`), and the C operand otherwise. -/
def elemArgs (tri : Bool) (d : PageDyn) (n : Nat) (e : Ecw) (ts : List Token) : Args :=
  let tag := (ts.head?.map Token.tag).getD 0
  let c := Val.plain (d.cValue n e tag)
  let of (q : QueueName) : Val := ((headIn e ts q).map Token.val).getD c
  let dep := ts.foldl (fun (x : Dep) (t : Token) => x.join t.dep) {}
  { a := { of .L with dep := dep }, b := of .R, c := if tri && e.qP && e.pm == .always then of .P else c, tag := tag }

/-- What an element opcode does where it departs from R79: its strikes and its closing tokens (behind the gate, on
the state with every head in place), and whether a data firing can take place yet. -/
structure ElemRule where
  tri : Bool := false
  strikes : Token → State → State
  closing : Token → State → State
  ready : Args → State → Bool := fun _ _ => true

/-- R79 for one element: `check` finds a fault before anything is consumed, `data` is the opcode's effect behind the
consumption, on the state in which the firing has been counted. -/
def fireWith (r : ElemRule) (check : Args → State → Option (Nat × Word × Nat)) (data : Args → State → State)
    (e : Ecw) (k : PageKey) (n : Nat) (s : State) : State :=
  match s.elemHeads k n e with
  | .wait => s
  | .skew t => if s.elemGate k n e t.tag then s.faultP 0x36 (.elem k n) t.tag t.pay 0 else s
  | .cue t => if s.elemFree k n e t.tag then s.cueElem k n e true t else s
  | .strikes t => if s.elemGate k n e t.tag then r.strikes t s else s.elemWaits k n e t.tag
  | .closing t => if s.elemGate k n e t.tag then r.closing t s else s.elemWaits k n e t.tag
  | .data ts =>
    let g := elemArgs r.tri (s.dyn k) n e ts
    if !(s.elemGate k n e g.tag && r.ready g s) then s.elemWaits k n e g.tag
    else if e.sckl.fails g.a.sc || (e.qR && e.sckr.fails g.b.sc) then s.faultP 0x34 (.elem k n) g.tag g.a.v 0
    else
      let s1 := (s.touch k g.tag).modDyn k (fun d => (d.popAll n e.queues).countFiring n e g.tag)
      if predHolds e.pm (((headIn e ts .P).map Token.pay).getD 0) then
        match check g s with
        | some (c, v, node) => s.faultP c (.elem k n) g.tag v node
        | none => data g s1
      else s1

/-- The strikes and closing tokens of R79 and R97. DEDUCED (log 29), unsafe. -/
def stdRule (tri : Bool) (e : Ecw) (k : PageKey) (n : Nat) : ElemRule :=
  { tri := tri, strikes := fun t s => s.strikeElem k n e t, closing := fun t s => s.closeElem k n e t }

/-- R79 for a data opcode that keeps its strike and closing rules. -/
def fireElem (tri : Bool) (check : Args → State → Option (Nat × Word × Nat)) (data : Args → State → State)
    (e : Ecw) (k : PageKey) (n : Nat) (s : State) : State :=
  fireWith (stdRule tri e k n) check data e k n s

/-- The cue that stands on every fed queue of an element (R309, R445). -/
def State.fedCue (s : State) (k : PageKey) (n : Nat) (e : Ecw) : Option Token :=
  match s.elemHeads k n e with
  | .cue t => some t
  | _ => none

/-- The queues that accompany a head taken alone: the predicate where PM asks for one, and the ordering queue. DEDUCED (log 30), unsafe. -/
def auxQueues (e : Ecw) : List QueueName :=
  (if e.qP && e.pm != .always then [.P] else []) ++ (if e.qO then [.O] else [])

/-- The element's gate and its accompanying heads let it consume the head of a queue alone: nothing is missing, of
another tag or kind, or of the wrong SC. -/
def State.headFree (s : State) (q : QueueName) (e : Ecw) (k : PageKey) (n : Nat) : Bool :=
  let d := s.dyn k
  match d.qhead n q, d.qheads n (auxQueues e) with
  | some t, some us =>
    s.elemGate k n e t.tag && us.all (fun u => u.tag == t.tag && u.kind == t.kind) &&
      !(t.kind == .data && (if q = .R then e.sckr else e.sckl).fails t.sc)
  | _, _ => false

/-- One head taken alone by an opcode that fires on single heads (R143, R145, R147, R148, R150, R154), with its
predicate and ordering token: `f` is the effect behind the consumption. -/
def takeHead (q : QueueName) (f : Token → State → State) (e : Ecw) (k : PageKey) (n : Nat) (s : State) : State :=
  let d := s.dyn k
  match d.qhead n q, d.qheads n (auxQueues e) with
  | some t, some us =>
    if !s.elemGate k n e t.tag then s.elemWaits k n e t.tag
    else if !us.all (fun u => u.tag == t.tag && u.kind == t.kind) then s.faultP 0x36 (.elem k n) t.tag t.pay 0
    else if t.kind == .data && (if q = .R then e.sckr else e.sckl).fails t.sc then s.faultP 0x34 (.elem k n) t.tag t.pay 0
    else
      let s1 := (s.touch k t.tag).modDyn k (fun d =>
        let d1 := d.popAll n (q :: auxQueues e)
        if t.kind = .data then d1.countFiring n e t.tag else d1)
      let p := ((us.find? (fun _ => e.qP && e.pm != .always)).map Token.pay).getD 0
      if t.kind != .data || e.pm == .always || predHolds e.pm p then f t s1 else s1
  | _, _ => s

/-- A pair of equal closing tokens at L and R taken with the heads that accompany it: `f` is the effect behind the consumption
(R79, R143, R147, R150). DEDUCED (log 30), unsafe. -/
def takePair (f : State → State) (e : Ecw) (k : PageKey) (n : Nat) (t : Token) (s : State) : State :=
  match (s.dyn k).qheads n (auxQueues e) with
  | none => s
  | some us =>
    if !s.elemGate k n e t.tag then s.elemWaits k n e t.tag
    else if !us.all (fun u => u.tag == t.tag && u.kind == t.kind) then s.faultP 0x36 (.elem k n) t.tag t.pay 0
    else f ((s.touch k t.tag).modDyn k (fun d => d.popAll n ([.L, .R] ++ auxQueues e)))

namespace State

/-- The per-tag state of an element changed (R126). -/
def modTag (s : State) (k : PageKey) (n : Nat) (t : Tag) (f : TagState → TagState) : State :=
  s.modDyn k (fun d => d.modElem n (fun x => x.modTag t f))
/-- The per-tag state of an element (R126). -/
def tagSt (s : State) (k : PageKey) (n : Nat) (t : Tag) : TagState := ((s.dyn k).elem n).tagSt t

/-- A token on both routes, unchanged. -/
def sendBoth (s : State) (k : PageKey) (n : Nat) (e : Ecw) (t : Token) : State := s.modDyn k (fun d => d.sendBoth n e t)
/-- A token on one route, unchanged. -/
def sendTok (s : State) (k : PageKey) (n : Nat) (e : Ecw) (second : Bool) (t : Token) : State :=
  s.modDyn k (fun d => d.sendTok n e second t)
/-- A consumed closing token forwarded as EOSP directs, its tag's state ended, a sink's count taken (R57, R126). -/
def forwardEnd (s : State) (k : PageKey) (n : Nat) (e : Ecw) (t : Token) : State :=
  let s1 := s.modDyn k (fun d => (d.forward n e t).endTag n t)
  if t.kind = .eos ∧ e.eosp = .absorb then s1.sinkEos k n t.tag else s1
/-- Every head consumed. -/
def takeAll (s : State) (k : PageKey) (n : Nat) (e : Ecw) (t : Token) : State :=
  (s.touch k t.tag).modDyn k (fun d => d.popAll n e.queues)

/-- A result emitted on one route, thinned by PAT (R57). -/
def emitOn (s : State) (k : PageKey) (n : Nat) (e : Ecw) (second : Bool) (tag : Tag) (v : Val) : State :=
  s.modDyn k (fun d => if d.keeps n e tag then d.sendTok n e second (v.token tag) else d)

/-- A result emitted on both routes (R79, R96). -/
def emitBoth (s : State) (k : PageKey) (n : Nat) (e : Ecw) (tag : Tag) (v : Val) : State :=
  s.modDyn k (fun d => if d.keeps n e tag then d.sendBoth n e (v.token tag) else d)

end State

/-! ### Items and places -/

/-- The tag of an item; a row belongs to its packet. -/
def Item.tag? : Item → Option Tag
  | .tok t => some t.tag
  | .head h _ => some (h.extractLsb' 32 12)
  | .row _ => none

/-- A cue or a census token takes no beat of a lane (R81, R212). -/
def Item.weightless (i : Item) : Bool := i.isKind .cue || i.isKind .census

/-- The tokens that an item counts for in a wing: a beat takes 8 (R279). -/
def Item.wingCost : Item → Nat
  | .tok _ => 1
  | _ => 8

/-- Row beats behind a packet's header: its code rows, then its metadata rows or its scale row (R50, R51). -/
def rowsBehind (h : DWord) : Nat :=
  let n := bitsOf h.toNat 52 4 + 1
  n + (match bitsOf h.toNat 58 2 with
    | 1 => (n + 7) / 8
    | 2 => 1
    | _ => 0)

/-- The capacity of a place (R249, R283). DESIGN CHOICE (log 17), unsafe. -/
def Place.cap : Place → Nat
  | .out _ _ => 1
  | .switch _ _ => 2
  | .queue _ _ => 4
  | .ingress _ | .egress _ => 8
  | .laneIn _ | .laneOut _ => 40
  | .node _ _ => 4
  | .wing _ => 64
  | .reply => 16

end Sys2Proof.Machine

namespace Sys2Proof

/-- The capacity of a place (R249, R283). -/
def Place.room (p : Place) (used : Nat) : Bool := decide (used < Machine.Place.cap p)

end Sys2Proof

namespace Sys2Proof.Machine

namespace PageDyn

/-- Places of a fifo in use; weightless items of a lane count nothing. -/
def used (d : PageDyn) (p : Place) : Nat :=
  match p with
  | .laneIn _ | .laneOut _ => ((d.fifo p).filter (fun i => !i.weightless)).length
  | _ => (d.fifo p).length

/-- Rows still to come behind the header that entered a place (R278). DEDUCED (log 18), unsafe. -/
def pend (d : PageDyn) (p : Place) : Nat := (lookup p d.pends).getD 0

/-- The place takes the item now: room, and no other packet in the middle of its way in (R249, R278). -/
def takes (d : PageDyn) (p : Place) (i : Item) : Bool :=
  let lane := match p with
    | .laneIn _ | .laneOut _ => i.weightless
    | _ => false
  (lane || p.room (d.used p)) && (match i with
    | .row _ => true
    | _ => d.pend p == 0)

/-- The item enters the place. -/
def enter (d : PageDyn) (p : Place) (i : Item) : PageDyn :=
  let d1 := d.push p i
  match i with
  | .head h _ => { d1 with pends := assign p (rowsBehind h) d1.pends }
  | .row _ => { d1 with pends := assign p (d1.pend p - 1) d1.pends }
  | .tok _ => d1

end PageDyn

/-! ### Blocks -/

namespace Firing

/-- The value in an operand slot. -/
def slot (f : Firing) (i : Nat) (sd : Side) : Option Val :=
  (f.slots.find? (fun x => x.1 == i && x.2.1 == sd)).map (fun x => x.2.2)
/-- An operand slot filled. -/
def fill (f : Firing) (i : Nat) (sd : Side) (v : Val) : Firing := { f with slots := f.slots ++ [(i, sd, v)] }
/-- An instruction has fired. -/
def didFire (f : Firing) (i : Nat) : Firing :=
  { f with fired := f.fired ++ [i], waits := f.waits.filter (fun w => w.1 != i) }
/-- An instruction waits for an outside event. -/
def await (f : Firing) (i : Nat) (w : Wait) : Firing := { f with waits := f.waits ++ [(i, w)] }

end Firing

namespace State

/-- The firing in flight of a block (R132). -/
def firing? (s : State) (k : PageKey) (b : Nat) : Option Firing := ((s.dyn k).actor b).firing
/-- The firing in flight changed. -/
def modFiring (s : State) (k : PageKey) (b : Nat) (f : Firing → Firing) : State :=
  s.modDyn k (fun d => d.modActor b (fun a => { a with firing := a.firing.map f }))
/-- The header of a block. -/
def header? (s : State) (k : PageKey) (b : Nat) : Option Header := (s.page? k).bind (fun p => p.header? b)

/-- A data token that a block has sent on an edge, by emit port or, from 16 on, by island lane (R81). -/
def countSend (s : State) (k : PageKey) (b : Nat) (tag : Tag) (edge : Nat) : State :=
  s.modDyn k (fun d => d.modActor b (fun a =>
    { a with sends := assign (tag, edge) ((lookup (tag, edge) a.sends).getD 0 + 1) a.sends }))

/-- A result in one target (R60, R133): an operand slot, an emit slot of this kind and tag, or an island lane. -/
def deliverTo (s : State) (k : PageKey) (b i : Nat) (second : Bool) (t : Target) (kind : Kind) (tag : Tag) (v : Val) : State :=
  match t with
  | .none => s
  | .left j => s.modFiring k b (fun f => f.fill j.toNat .left v)
  | .right j => s.modFiring k b (fun f => f.fill j.toNat .right v)
  | .pred j => s.modFiring k b (fun f => f.fill j.toNat .pred v)
  | .lane l =>
    let t : Token := { kind := kind, sc := v.sc, tag := tag, pay := v.v, dep := v.dep }
    (if kind = .data then s.countSend k b tag (16 + l.toNat) else s).modDyn k (fun d => d.push (.laneIn l.toNat) (.tok t))
  | .emit port =>
    match s.page? k with
    | none => s
    | some p =>
      match p.header? b with
      | none => s
      | some h =>
        match p.emitEntry? h port.toNat with
        | none => s
        | some c => s.modFiring k b (fun f => { f with writes := f.writes ++ [
            { handle := c.handle, pos := p.targetPos h i second port, word := 0, wide := c.wide, instr := i, kind := kind,
              sc := v.sc, tag := tag, value := v.v, dep := v.dep }] })

/-- The instruction has fired with this result in T1 and T2, as a token of this kind and tag where a target makes one. -/
def giveAs (s : State) (k : PageKey) (b i : Nat) (w : Blk) (kind : Kind) (tag : Tag) (v : Val) : State :=
  ((s.modFiring k b (fun f => f.didFire i)).deliverTo k b i false w.t1 kind tag v).deliverTo k b i true w.t2 kind tag v

/-- The instruction has fired with this result. -/
def give (s : State) (k : PageKey) (b i : Nat) (w : Blk) (tag : Tag) (v : Val) : State := s.giveAs k b i w .data tag v

/-- The instruction has fired without a result (R56). -/
def giveNone (s : State) (k : PageKey) (b i : Nat) : State := s.modFiring k b (fun f => f.didFire i)

/-- A fault of an instruction without which its firing completes (R169): the record keeps the block from a new firing, the
one in flight goes on. -/
def faultPast (s : State) (cause : Nat) (k : PageKey) (b i : Nat) (tag : Tag) (info0 : DWord) (node : Nat) : State :=
  let was := ((s.dyn k).actor b).stopped
  ((s.faultWide cause (.actor k b i) tag info0 node).modDyn k (fun d => d.modActor b (fun a =>
    { a with stopped := was, held := true }))).giveNone k b i

/-- The lanes that the instruction's targets name have room for every token that it gives them, and no packet is in the
middle of its way in (R210, R278, R283). -/
def targetRoom (s : State) (k : PageKey) (ts : List Target) : Bool :=
  ts.all (fun t => match t with
    | .lane l =>
      let d := s.dyn k
      d.pend (.laneIn l.toNat) == 0 && decide (d.used (.laneIn l.toNat) + (ts.filter (fun u => u == t)).length ≤ 40)
    | _ => true)

/-- The lanes that a word's targets name have room. -/
def laneRoom (s : State) (k : PageKey) (w : Blk) : Bool := s.targetRoom k [w.t1, w.t2]

/-- The rank entry that a REDUCE holds when its contribution's turn has not come (R156). -/
def rankEntry (a : ActorState) (b i : Nat) (w : Blk) (f : Firing) : List EntryName :=
  let st := a.instrSt i f.tag
  match if w.ri then some (Val.plain (immWord w.ty w.imm)) else f.slot i .right with
  | some v =>
    let r := v.v.toNat % 2 ^ 31
    if st.next < r ∧ r < st.next + 32 ∧ (lookup r st.held).isNone then [⟨f.tag, b, 0, i, 4 + r⟩] else []
  | none => []

/-- The entries that an instruction needs when it operates: the slots that its targets name, those of the next serial for
NEXTI, its own state of the tag, and the rank that it holds (R135, R156, R159). -/
def newEntries (p : Page) (h : Header) (b i : Nat) (w : Blk) (a : ActorState) (f : Firing) : List EntryName :=
  let ins := p.ins? h i
  let serial := match ins with
    | some (.nexti _) => (f.serial + 1) % 4096
    | _ => f.serial
  [w.t1, w.t2].filterMap (slotEntry f.tag b serial) ++
    (if keepsEntry ins && !a.instrs.any (fun x => x.1 == i && x.2.tag == f.tag) then [⟨f.tag, b, 0, i, 3⟩] else []) ++
    (match ins with
      | some (.reduce _) => rankEntry a b i w f
      | _ => [])

/-- The predicate's value has come and keeps the instruction from operating (R56). -/
def idles (f : Firing) (i : Nat) (w : Blk) : Bool :=
  match f.slot i .pred with
  | some v => w.pm != .always && !predHolds w.pm v.v
  | none => false

/-- An instruction that would exceed the block's allotment waits until an entry frees (R135). DEDUCED (log 27), unsafe. -/
def matchRoom (s : State) (k : PageKey) (b i : Nat) (w : Blk) (f : Firing) : Bool :=
  match s.page? k, s.header? k b with
  | some p, some h =>
    let a := p.dyn.actor b
    idles f i w || decide ((blockEntries p h b a).length + (newEntries p h b i w a f).length ≤ 16 * h.msa)
  | _, _ => false

/-- The entries of an instruction's firing that have to spill and have no place in the overflow table yet (R135). -/
def spills (s : State) (k : PageKey) (b i : Nat) (w : Blk) (f : Firing) : List EntryName :=
  match s.page? k, s.header? k b with
  | some p, some h =>
    let a := p.dyn.actor b
    let new := if idles f i w then [] else (newEntries p h b i w a f).filter (fun n => !a.spilled.any (fun y => y.1 == n))
    let l := p.region.getD 0
    let held := s.tileEntries (l / 4)
    if held.length + new.length ≤ 8 then []
    else spillsIn (64 * (l % 4) + h.chan) (held.map (fun x => setOf x.1 x.2)) new
  | _, _ => []

/-- Every new entry of the instruction has its place: in the store, or in the overflow table and probed (R135). -/
def entriesPlaced (s : State) (k : PageKey) (b i : Nat) (w : Blk) (f : Firing) : Bool :=
  match s.page? k, s.header? k b with
  | some p, some h =>
    let a := p.dyn.actor b
    (a.spilled.isEmpty || (newEntries p h b i w a f).all (fun n => !a.spilled.contains (n, false))) && (s.spills k b i w f).isEmpty
  | _, _ => false

/-- The instruction may fire as far as its block goes: its firing runs on a resident page, no record stops the block, it has
not fired and waits for nothing, its lanes have room, and so has the block's matching-store allotment. -/
def blockFree (s : State) (k : PageKey) (b i : Nat) (w : Blk) (f : Firing) : Bool :=
  let pageOk := match s.page? k with
    | some p => p.placed || p.st == .stopping
    | none => false
  pageOk && !((s.dyn k).actor b).stopped && !f.fired.contains i && !(f.waits.any (fun x => x.1 == i)) &&
    s.laneRoom k w && s.matchRoom k b i w f

/-- The instruction may fire: its block lets it, and its matching-store entries have their places. -/
def blockGate (s : State) (k : PageKey) (b i : Nat) (w : Blk) : Option Firing :=
  match s.firing? k b with
  | none => none
  | some f => if s.blockFree k b i w f && s.entriesPlaced k b i w f then some f else none

/-- The half of a block constant that four bits and two bits of X name (R95, R125). -/
def blockConst (s : State) (k : PageKey) (b : Nat) (idx half : Nat) : Word :=
  match s.page? k with
  | none => 0
  | some p =>
    match p.header? b with
    | none => 0
    | some h => let c := p.const h idx; if half = 1 then c.extractLsb' 32 32 else c.extractLsb' 0 32

end State

/-- The operands of a block instruction that reads the named slots: its slots, or IMM16 where RI is set (R59, R95);
none while a slot that it reads is not filled. -/
def blockArgs (w : Blk) (left right : Bool) (third : Word) (i : Nat) (f : Firing) : Option (Args × Word) :=
  let l := if left then f.slot i .left else some (Val.plain 0)
  let r := if w.ri then some (Val.plain (immWord w.ty w.imm)) else if right then f.slot i .right else some (Val.plain 0)
  let p := if w.pm = .always then some (Val.plain 0) else f.slot i .pred
  match l, r, p with
  | some a, some b, some q =>
    some ({ a := { a with dep := a.dep.join q.dep }, b := b, c := Val.plain third, tag := f.tag }, q.v)
  | _, _, _ => none

/-- An instruction whose new entries find their sets full spills them (R135). -/
def State.spillFor (s : State) (k : PageKey) (b i : Nat) (w : Blk) (f : Firing) : State :=
  match s.spills k b i w f with
  | [] => s
  | ns => s.spillInto k ns.length (.actor k b i) f.tag (fun x =>
      x.modDyn k (fun d => d.modActor b (fun a => { a with spilled := a.spilled ++ ns.map (fun m => (m, false)) })))

/-- A block instruction that may not fire: one that has its operands and lacks only places for its entries spills them. -/
def State.blockWaits (left right : Bool) (third : Word) (w : Blk) (k : PageKey) (b i : Nat) (s : State) : State :=
  match s.firing? k b with
  | none => s
  | some f =>
    match blockArgs w left right third i f with
    | none => s
    | some _ => if s.blockFree k b i w f then s.spillFor k b i w f else s

/-- A block instruction fires once the slots that it reads are filled (R132); `data` is its effect, which also marks
it fired or waiting. -/
def fireBlock (left right : Bool) (third : Word) (data : Args → State → State)
    (w : Blk) (k : PageKey) (b i : Nat) (s : State) : State :=
  match s.blockGate k b i w with
  | none => s.blockWaits left right third w k b i
  | some f =>
    match blockArgs w left right third i f with
    | none => s
    | some (g, p) => if predHolds w.pm p then data g s else s.giveNone k b i

/-- What the firing rule of a block needs to know of an instruction: the slots it reads, its targets, whether it fills
slots of the next firing (R159), whether either of two slots suffices (R144), and the LDX whose position, or also whose value, it
takes (R175, R178). -/
structure InsInfo where
  left : Bool
  right : Bool
  pred : Bool
  targets : List Target
  next : Bool
  either : Bool
  pair : Option (Nat × Bool) := none
  deriving DecidableEq, Repr

/-- The instructions of a block as the firing rule sees them. -/
def insTable (p : Page) (h : Header) : List InsInfo :=
  (List.range h.nins).map (fun i =>
    let ins := p.ins? h i
    let rd := (ins.map slotsRead).getD (false, false, false)
    { left := rd.1
      right := rd.2.1
      pred := rd.2.2
      targets := p.targets h i
      next := match ins with
        | some (.nexti _) => true
        | _ => false
      either := match ins with
        | some (.merge _) => true
        | some (.cmerge _) => true
        | some (.omerge _) => true
        | _ => false
      pair := match ins with
        | some (.stx w) => some (bitsOf w.x.toNat 3 7, false)
        | some (.acasD w) => some (bitsOf w.x.toNat 4 6, true)
        | _ => none })

/-- A slot of a firing that is not filled and that no instruction still to fire can fill (R132): `over` are the
instructions that have fired or can no longer fire. -/
def slotOver (tab : List InsInfo) (f : Firing) (past : List Nat) (i : Nat) (sd : Side) : Bool :=
  (f.slot i sd).isNone && tab.zipIdx.all (fun x => x.1.next || past.contains x.2 || !(x.1.targets.any (fun t => t.names i sd)))

/-- The LDX that an instruction names is past, and has left it no position, or no value (R175, R178). -/
def pairOver (f : Firing) (past : List Nat) (x : InsInfo) : Bool :=
  match x.pair with
  | none => false
  | some (j, value) => past.contains j && !f.ldx.any (fun l => l.1 == j && (!value || l.2.2.isSome))

/-- The instructions that can no longer be filled, found by repeating the test over the block (R132, R144, R175). -/
def deadIns (tab : List InsInfo) (f : Firing) : Nat → List Nat
  | 0 => []
  | n + 1 =>
    let dead := deadIns tab f n
    let past := f.fired ++ dead
    (tab.zipIdx.filter (fun x =>
      let o (sd : Side) := slotOver tab f past x.2 sd
      !f.fired.contains x.2 && !(f.waits.any (fun w => w.1 == x.2)) &&
        (pairOver f past x.1 || (x.1.pred && o .pred) ||
          (if x.1.either then o .left && o .right else (x.1.left && o .left) || (x.1.right && o .right))))).map (·.2)

/-- Every instruction of the firing has fired or can no longer be filled (R132). -/
def firingOver (tab : List InsInfo) (f : Firing) : Bool :=
  let dead := deadIns tab f tab.length
  f.waits.isEmpty && (List.range tab.length).all (fun i => f.fired.contains i || dead.contains i)

/-- The island's sequencer behind the instruction at its program counter: the next index, or the first of the innermost
loop's body while iterations remain (R209). -/
def IslandState.advance (x : IslandState) : IslandState :=
  match x.loops with
  | [] => { x with pc := x.pc + 1 }
  | l :: rest =>
    if x.pc + 1 = l.first + l.len then
      (if 1 < l.left then { x with pc := l.first, loops := { l with left := l.left - 1 } :: rest }
       else { x with pc := x.pc + 1, loops := rest })
    else { x with pc := x.pc + 1 }

namespace State

/-- The island issues an instruction: its section runs, it is neither stopped nor waiting for a trap's acceptance, and the
debugger lets it, or does not step it (R211, R212). -/
def islandRuns (s : State) (k : PageKey) : Bool :=
  match s.page? k with
  | none => false
  | some p =>
    let x := p.dyn.island
    (s.pageRuns k || s.pageReleased k) && x.phase == .running && !x.stopped && !x.trap &&
      ((!p.islandHeader.step && !(s.ctx k.ctx).frozen) || s.dbgAllows k.ctx ((Party.island k).identity s) x.tag)

end State

/-- The party whose turn it is holds the word: an element form in an element, a block form in a block (R86). -/
def runForm (f : Form) (s : State) (elem : Ecw → PageKey → Nat → State) (block : Blk → PageKey → Nat → Nat → State) : Out :=
  match s.cur, f with
  | some (.party (.elem k n)), .elem e => .next (elem e k n)
  | some (.party (.actor k b i)), .block w => .next (block w k b i)
  | _, _ => .fault .noParty

/-- A block-only word in the block whose turn it is. -/
def runBlk (s : State) (block : PageKey → Nat → Nat → State) : Out :=
  match s.cur with
  | some (.party (.actor k b i)) => .next (block k b i)
  | _ => .fault .noParty

/-- An element-only word in the element whose turn it is. -/
def runEcw (s : State) (elem : PageKey → Nat → State) : Out :=
  match s.cur with
  | some (.party (.elem k n)) => .next (elem k n)
  | _ => .fault .noParty

/-- The constant of R95 that X[3:0] and X[9:8] name. -/
def thirdOf (w : Blk) (k : PageKey) (b : Nat) (s : State) : Word :=
  s.blockConst k b (bitsOf w.x.toNat 0 4) (bitsOf w.x.toNat 8 2)

/-- A stateless opcode of `n` operands (04): the result with the SC of its operands in both targets, then its flags
(R31, R96, R98, R99). In a block the third operand, and the value of a LIT without an immediate (`n` = 0), is the
constant that X names (R95, R111). -/
def scalar (f : Form) (n : Nat) (op : Args → Res) (s : State) : Out :=
  runForm f s
    (fun e k x => fireElem (n == 3) (fun _ _ => none)
      (fun g t => (t.emitBoth k x e g.tag (g.val n (op g).1)).raiseFlags (op g).2 (.elem k x) g.tag (op g).1) e k x s)
    (fun w k b i => fireBlock true (2 ≤ n) (if n = 3 ∨ n = 0 then thirdOf w k b s else 0)
      (fun g t => (t.give k b i w g.tag (g.val n (op g).1)).raiseFlags (op g).2 (.actor k b i) g.tag (op g).1) w k b i s)

end Sys2Proof.Machine
end

