-- ==== Sys2Proof/Machine/Memory.lean ====
section
/-!
DEFINITION. Location consistency (R291 to R312): homes and home buffers, the views of memory, the candidates of a read,
performed reads and writes, the undo records they leave, and the acquire and release of fences.
-/
namespace Sys2Proof.Machine

/-- Who performs an access: its context (none for an engine, a core or the host), round, region and tag, and what is ordered
before it. -/
structure Who where
  ctx : CtxId
  round : Nat
  region : Nat
  tag : Tag := 0xFFF
  dep : Dep := {}
  /-- A read that waited by R185 sees the home's newest value. -/
  newest : Bool := false
  deriving DecidableEq, Repr

/-- The aligned 4-byte words that a range touches (R300). -/
def wordsOf (a n : Nat) : List Nat := (List.range ((a + n + 3) / 4 - a / 4)).map (fun i => (a / 4 + i) * 4)

/-- Two ranges overlap. -/
def overlaps (a n b m : Nat) : Bool := a < b + m && b < a + n

/-- The home of an address (R179, R297, R328). -/
def homeOf (sp : Space) (a : Nat) : Home :=
  match sp with
  | .sram => .tile (a / 2 ^ 21)
  | .dram => .mse (a / 4096 % 24)
  | .host => .mse (a / 4096 % 64 % 12)

/-- The granule index of a fabric SRAM address (R292). -/
def granuleIndex (a : Nat) : Nat := a / 2 ^ 21 % 2 * 2 ^ 11 + a / 2 ^ 22 % 64 * 32 + a / 2 ^ 16 % 32

namespace State

/-- The granule's table entry. -/
def granule (s : State) (g : Nat) : Nat := ((lookup g s.granules).getD 0).toNat

/-- The granule of an address is granted to the context (R292). -/
def granted (s : State) (c : CtxId) (a : Nat) : Bool :=
  let g := s.granule (granuleIndex a)
  bitsOf g 31 1 == 1 && bitsOf g 23 1 == 1 && bitsOf g 28 3 == c.part &&
    (bitsOf g 27 1 == 1 || (bitsOf g 26 1 == 1 && bitsOf g 24 2 == c.guest) || (bitsOf g 24 2 == c.guest && bitsOf g 0 16 == c.num))

/-! ### Views of memory -/

/-- A held write covers a byte and is visible to a reader: committed, or the reader's own context's (R302). -/
def sees (sp : Space) (c : Option CtxId) (a : Nat) (w : HomeWrite) : Bool :=
  w.space == sp && w.addr ≤ a && a < w.addr + w.bytes.length && (w.committed || some w.ctx == c)

/-- The byte that a home serves to a reader of a context, or to a core, an engine or the host (R297, R311). -/
def byteAt (s : State) (sp : Space) (c : Option CtxId) (a : Nat) : Byte :=
  match s.homeWrites.reverse.find? (sees sp c a) with
  | some w => (w.bytes[a - w.addr]?).getD 0
  | none => Memory.read (s.mem sp) a

/-- `n` bytes of a view, lowest first. -/
def viewBytes (s : State) (sp : Space) (c : Option CtxId) (a n : Nat) : List Byte :=
  (List.range n).map (fun i => s.byteAt sp c (a + i))

/-- The little-endian number of a view. -/
def viewNat (s : State) (sp : Space) (c : Option CtxId) (a n : Nat) : Nat := wordOfBytes (s.viewBytes sp c a n)

/-- Another context's uncommitted atomic holds a location of the range (R185). -/
def heldByOther (s : State) (c : CtxId) (sp : Space) (a n : Nat) : Bool :=
  s.homeWrites.any (fun w => w.atomic && !w.committed && w.ctx != c && w.space == sp &&
    overlaps (a / 4 * 4) ((a + n + 3) / 4 * 4 - a / 4 * 4) w.addr w.bytes.length)

/-- The accesses that wait for the atomics of a context's entries, when these commit or are voided (R185). -/
def endHolds (s : State) (c : CtxId) (mine : HomeWrite → Bool) : State :=
  let ws := s.homeWrites.filter (fun w => w.atomic && !w.committed && mine w)
  if ws.isEmpty then s
  else { s with reqs := s.reqs.map (fun r =>
    if r.phase == .queued && r.ctx != c && ws.any (fun w => w.space == r.space &&
        overlaps (r.addr / 4 * 4) ((r.addr + r.size + 3) / 4 * 4 - r.addr / 4 * 4) w.addr w.bytes.length)
    then { r with waited := true } else r) }

/-- The 4-cycle window of an earlier atomic still holds a word of the range (R179). -/
def windowHolds (s : State) (sp : Space) (a n : Nat) : Bool :=
  s.windows.any (fun w => w.space == sp && (wordsOf a n).contains w.addr && s.cycle.toNat < w.until_.toNat)

/-! ### Home buffers -/

/-- The 64-byte lines that a context, or every context, holds at a home for a round's parity (R310). -/
def bufferLines (s : State) (h : Home) (par : Nat) (p : HomeWrite → Bool) : List (CtxId × Space × Nat) :=
  ((s.homeWrites.filter (fun w => w.home == h && !w.atomic && w.round % 2 == par && p w)).map (fun w => (w.ctx, w.space, w.addr / 64))).eraseDups

/-- The lines available at a home to a context (R298, R310). -/
def bufferCap (s : State) (h : Home) (c : CtxId) : Nat :=
  match h with
  | .tile _ => 512
  | .mse _ =>
    let own := (s.part c.part).rbAllow
    if own = 0 then 4096 / max 1 (s.parts.filter Partition.exist).length else own

/-- A store finds an entry for its line, or a free one (R310). -/
def bufferRoom (s : State) (c : CtxId) (round : Nat) (sp : Space) (a n : Nat) : Bool :=
  let h := homeOf sp a
  let inScope (w : HomeWrite) : Bool := match h with
    | .tile _ => true
    | .mse _ => w.ctx.part == c.part
  let own := s.bufferLines h (round % 2) (fun w => w.ctx == c && w.round == round)
  let have_ := s.bufferLines h (round % 2) inScope
  let need := ((wordsOf a n).map (· / 64)).eraseDups.filter (fun l => !own.contains (c, sp, l))
  decide (have_.length + need.length ≤ s.bufferCap h c) &&
    !(s.homeWrites.any (fun w => w.home == h && w.ctx == c && w.round + 2 ≤ round))

end State

/-- A performed write is visible to a reader of a context, or of none (R302). -/
def WriteRec.visible (w : WriteRec) (c : Option CtxId) : Bool := w.committed || (c.isSome && w.ctx == c)

/-- The region byte of a party without a context: an engine, or a core or the host (R303). -/
def engineRegion : Nat := 0xFF
def coreRegion : Nat := 0xFE

/-- A scope of the first party contains the second (R303). A party without a context is an engine, or a core or the host,
whose fences have SYSTEM scope (R305). -/
def scopeContains (sc : Scope) (c : Option CtxId) (region : Nat) (d : Option CtxId) (region' : Nat) : Bool :=
  match sc, c, d with
  | .region, some x, some e => x == e && region == region'
  | .partition, some x, some e => x.part == e.part
  | .device, _, some _ => true
  | .device, _, none => region' != coreRegion
  | .system, _, _ => true
  | _, _, _ => false

namespace State

/-! ### Candidates -/

/-- The writes performed to a word. -/
def writesTo (s : State) (sp : Space) (a : Nat) : List WriteRec := s.hist.filter (fun w => w.space == sp && w.addr == a)

/-- K of an access with this ordering (R300). -/
def knows (d : Dep) (id : Nat) : Bool := d.know.contains id || d.rounds.contains id || d.reads.any (fun r => r.1 == id)

/-- A write is superseded for an access: a later-ordered write to its word is in the access's knowledge (R300). -/
def superseded (ws : List WriteRec) (d : Dep) (w : WriteRec) : Bool :=
  ws.any (fun x => knows d x.id && x.before.contains w.id)

/-- The candidates of a read of one word (R301). DEDUCED (log 45), safe. -/
def candidates (s : State) (c : Option CtxId) (d : Dep) (sp : Space) (a : Nat) : List WriteRec :=
  let ws := s.writesTo sp a
  ws.filter (fun w => w.visible c && !superseded ws d w)

/-- What a read chooses from: the candidates, or the newest alone for a read that waited by R185. -/
def choices (s : State) (c : Option CtxId) (d : Dep) (newest : Bool) (sp : Space) (a : Nat) : List WriteRec :=
  let cs := s.candidates c d sp a
  if newest then cs.getLast?.toList else cs

/-- One candidate taken: the only one, or an open choice (R301). -/
def pick (s : State) (ws : List WriteRec) : Option WriteRec × State :=
  match ws with
  | [] => (none, s)
  | [w] => (some w, s)
  | _ => let r := s.choose ws.length; (ws[r.1]?, r.2)

/-- One write laid over the bytes of a word. -/
def overlay (bs : List Byte) (w : WriteRec) : List Byte := bs.zipWith (fun b o => o.getD b) w.bytes

/-- The bytes of a word that a read returns when it takes a candidate (R301, R304): the word as it stood once the candidate
had been performed, and under the candidate's own bytes the later writes that the read knows. With no candidate, the home's
bytes. DEDUCED (log 128), safe. -/
def wordAs (s : State) (c : Option CtxId) (d : Dep) (sp : Space) (a : Nat) (x : Option WriteRec) : List Byte :=
  match x with
  | none => s.viewBytes sp c a 4
  | some x =>
    let ws := (s.writesTo sp a).filter (fun y => y.visible c)
    let upTo := (ws.filter (fun y => decide (y.id ≤ x.id))).foldl overlay (List.replicate 4 0)
    overlay ((ws.filter (fun y => decide (x.id < y.id) && knows d y.id)).foldl overlay upTo) x

/-- What a read that returned these writes is ordered before (R300). -/
def readDep (w : Who) (ids : List Nat) : Dep := { w.dep with reads := unionOf w.dep.reads (ids.map (fun i => (i, w.region))) }

/-- A read of `n` bytes within one word, at its home (R301), by a party of a context or of none with this ordering: the value
and the write that it returned. -/
def readAs (s : State) (c : Option CtxId) (d : Dep) (newest : Bool) (sp : Space) (a n : Nat) : Nat × Option Nat × State :=
  let base := a / 4 * 4
  let r := s.pick (s.choices c d newest sp base)
  let bs := s.wordAs c d sp base r.1
  (wordOfBytes ((bs.drop (a % 4)).take n), r.1.map WriteRec.id, r.2)

/-- Committed bytes of words read one after the other at their homes by a party of no context (R301, R320). -/
def readMany (s : State) (d : Dep) (sp : Space) (pa n : Nat) : List Nat → List Byte × State
  | [] => ([], s)
  | w :: ws =>
    let lo := max pa w
    let q := s.readAs none d false sp lo (min (pa + n) (w + 4) - lo)
    let r := q.2.2.readMany d sp pa n ws
    (bytesOfWord (min (pa + n) (w + 4) - lo) q.1 ++ r.1, r.2)

/-- A read of `n` bytes within one word by a party of a context. -/
def readWord (s : State) (w : Who) (sp : Space) (a n : Nat) : Nat × Option Nat × State :=
  s.readAs (some w.ctx) w.dep w.newest sp a n

/-- Two candidates of neighbouring words tear no 8-byte write: a half that the other word's candidate was written with
is returned too, or a later write (R304). -/
def untorn (l h : WriteRec) : Bool :=
  (match l.twin with
    | some t => decide (t ≤ h.id)
    | none => true) &&
  (match h.twin with
    | some t => decide (t ≤ l.id)
    | none => true)

/-- A single-copy-atomic read of 8 bytes (R175, R304). -/
def readPair (s : State) (w : Who) (sp : Space) (a : Nat) : DWord × List Nat × State :=
  let ls := s.choices (some w.ctx) w.dep w.newest sp a
  let hs := s.choices (some w.ctx) w.dep w.newest sp (a + 4)
  let pairs := ls.flatMap (fun l => (hs.filter (untorn l)).map (fun h => (l, h)))
  let both (l h : Option WriteRec) : DWord := BitVec.ofNat 64 (wordOfBytes (s.wordAs (some w.ctx) w.dep sp a l ++ s.wordAs (some w.ctx) w.dep sp (a + 4) h))
  match pairs with
  | [] =>
    let l := s.pick ls
    let h := l.2.pick hs
    (both l.1 h.1,
      (l.1.map WriteRec.id).toList ++ (h.1.map WriteRec.id).toList, h.2)
  | _ =>
    let r := if pairs.length = 1 then (0, s) else s.choose pairs.length
    match pairs[r.1]? with
    | some (l, h) => (both (some l) (some h), [l.id, h.id], r.2)
    | none => (both none none, [], r.2)

/-! ### Performed writes -/

/-- The initial value of a word joins the history before its first write (R300). -/
def initialRec (s : State) (sp : Space) (a : Nat) : State :=
  if (s.writesTo sp a).isEmpty then
    { s with
      nextId := s.nextId + 1
      hist := s.hist ++ [{ id := s.nextId, space := sp, addr := a, bytes := (s.viewBytes sp none a 4).map some, ctx := none,
                           round := 0, committed := true, region := 0xFF, before := [], rels := [] }] }
  else s

/-- The bytes that a write of a range leaves in one word. -/
def wordPart (a : Nat) (bs : List Byte) (base : Nat) : List (Option Byte) :=
  (List.range 4).map (fun i => if a ≤ base + i then bs[base + i - a]? else none)

/-- One performed write joins the history of a word (R300). -/
def recordWord (s : State) (w : Who) (ctx : Option CtxId) (committed : Bool) (sp : Space) (a : Nat) (bs : List Byte) (base : Nat) : Nat × State :=
  let s1 := s.initialRec sp base
  let first := (s1.writesTo sp base).head?.map WriteRec.id
  (s1.nextId, { s1 with
    nextId := s1.nextId + 1
    hist := s1.hist ++ [{ id := s1.nextId, space := sp, addr := base, bytes := wordPart a bs base, ctx := ctx, round := w.round,
                          committed := committed, region := w.region, before := unionNat w.dep.know first.toList,
                          rels := w.dep.rels }] })

/-- The words of a write recorded one after the other. -/
def recordWords (s : State) (w : Who) (ctx : Option CtxId) (committed : Bool) (sp : Space) (a : Nat) (bs : List Byte) : List Nat → List Nat × State
  | [] => ([], s)
  | b :: rest =>
    let r := s.recordWord w ctx committed sp a bs b
    let q := r.2.recordWords w ctx committed sp a bs rest
    (r.1 :: q.1, q.2)

/-- An 8-byte write's two halves name each other (R304). -/
def twinPair (s : State) (ids : List Nat) : State :=
  match ids with
  | [l, h] => { s with hist := s.hist.map (fun w =>
      if w.id = l then { w with twin := some h } else if w.id = h then { w with twin := some l } else w) }
  | _ => s

/-- A read of SRAM meets a word that a retirement marked poisoned (R357). -/
def wordLost (s : State) (sp : Space) (a n : Nat) : Bool :=
  sp == .sram && s.dev.poisonedWords.any (fun w => decide (a < 4 * w + 4 ∧ 4 * w < a + n))

/-- The arbiter's number in the Logbook (R367). -/
def arbOf : Home → Nat
  | .tile n => 0x2000 + n
  | .mse n => 0x4000 + n

/-- The partition that holds an address: its quad, or its block (R4, R339). -/
def homePart (s : State) (sp : Space) (a : Nat) : Option Nat :=
  match sp with
  | .sram => (s.parts.find? (fun p => p.exist && bitsOf p.quads (a / 2 ^ 24) 1 == 1)).map Partition.num
  | .dram => match (s.dev.blocks[a / 2 ^ 31]? : Option BlockState) with
    | some (.granted p) => some p
    | _ => none
  | .host => none

/-- A transient condition: logged, and counted for the partition (R350, R356). -/
def noteTransient (s : State) (part : Option Nat) (arb cause : Nat) : State :=
  let t := match part with
    | some n => s.modPart n (fun p => { p with health := assign cause ((lookup cause p.health).getD 0 + 1) p.health })
    | none => s
  (t.healthIrq cause).noteCause 0x15 arb cause 0xFFFFFFFF

/-- A line found sound at a second attempt, or by a store of the whole of it: 0x59 (R356). -/
def eccTransient (s : State) (sp : Space) (a : Nat) : State := s.noteTransient (s.homePart sp a) (arbOf (homeOf sp a)) 0x59

/-- A write that covers a poisoned word, or a whole suspect line, leaves it sound (R356). -/
def soundWords (s : State) (sp : Space) (a n : Nat) : State :=
  let t : State := if sp = .sram ∧ !s.dev.poisonedWords.isEmpty then
      { s with dev := { s.dev with poisonedWords := s.dev.poisonedWords.filter (fun w => !(decide (a ≤ 4 * w ∧ 4 * w + 4 ≤ a + n))) } }
    else s
  if t.dev.suspect.isEmpty then t
  else
    let whole (x : Space × Nat) : Bool := x.1 == sp && decide (a ≤ 64 * x.2 ∧ 64 * x.2 + 64 ≤ a + n)
    (t.dev.suspect.filter whole).foldl (fun u x => u.eccTransient sp (64 * x.2))
      { t with dev := { t.dev with suspect := t.dev.suspect.filter (fun x => !whole x) } }

/-- The frame whose store stands at an address (R222). -/
def frameOf (s : State) (sp : Space) (a : Nat) : Nat :=
  ((s.understudies.find? (fun u => u.space == sp && u.store == a / 4096)).map Understudy.frame).getD (a / 4096)

/-- A write performed in a frame of an enabled ring marks its queue dirty, and its records are the latest of the eight that the
Prompter's record cache keeps: the MSEs forward it (R402, R424). -/
def markRing (s : State) (sp : Space) (a n : Nat) : State :=
  let mark (q : Queue) : Queue :=
    match q.pages.findIdx? (fun x => x == some (sp, s.frameOf sp a)) with
    | none => q
    | some i =>
      let base := q.base.toNat / 64 * 64
      let va := base / 4096 * 4096 + i * 4096 + a % 4096
      let slots := ((List.range ((va + n + 63) / 64 - va / 64)).map (fun j => va / 64 + j)).filterMap (fun l => if base / 64 ≤ l then some (l - base / 64) else none)
      { q with dirty := q.dirty ||| 0x40000000, cache := (slots ++ q.cache.filter (fun x => !slots.contains x)).take 8 }
  if sp = .sram then s else { s with guests := s.guests.map (fun g => { g with queues := g.queues.map mark }) }

/-- A write performed into the home buffer, or an atomic performed with its old value kept (R184, R310): what later
accesses ordered after it know. -/
def performWrite (s : State) (w : Who) (sp : Space) (a va : Nat) (bs : List Byte) (atomic committed : Bool) : Dep × State :=
  let old := s.viewBytes sp (some w.ctx) a bs.length
  let r := s.recordWords w (some w.ctx) committed sp a bs (wordsOf a bs.length)
  let s1 := if bs.length = 8 then r.2.twinPair r.1 else r.2
  let h : HomeWrite :=
    { writeId := (r.1.head?).getD 0
      ctx := w.ctx
      round := w.round
      space := sp
      addr := a
      va := va
      bytes := bs
      old := old
      atomic := atomic
      committed := committed
      home := homeOf sp a }
  let t : State := { s1 with homeWrites := s1.homeWrites ++ [h] }
  ({ w.dep with know := unionNat w.dep.know r.1 }, (t.markRing sp a bs.length).soundWords sp a bs.length)

/-- The twin of a duplicated frame (R337). -/
def twinOf (s : State) (frame : Nat) : Option Nat :=
  s.parts.findSome? (fun p => (p.replicas.find? (fun r => r.1 == frame)).map Prod.snd)

/-- Bytes that reach memory: those of a duplicated frame go into both copies (R337). -/
def land (s : State) (sp : Space) (a : Nat) (bs : List Byte) : State :=
  let t := s.setMem sp (Memory.writeBytes (s.mem sp) a bs)
  match sp, s.twinOf (s.frameOf sp a) with
  | .dram, some w => t.setMem .dram (Memory.writeBytes t.dram (w * 4096 + a % 4096) bs)
  | _, _ => t

/-- The home that serves an access which an MSE translates: a read of a duplicated frame at an MSE of the twin's die is served from
the twin (R337). -/
def servedBy (s : State) (mse : Nat) (sp : Space) (a : Nat) (write : Bool) : Home :=
  match sp, s.twinOf (s.frameOf sp a) with
  | .dram, some w => if !write && w % 24 / 12 == mse / 12 then .mse (w % 24) else homeOf sp a
  | _, _ => homeOf sp a

/-- Every committed entry written back, in commit order (R311). DEDUCED (log 50), safe. -/
def writeBackAll (s : State) : State :=
  let go (t : State) (w : HomeWrite) : State := t.land w.space w.addr w.bytes
  let t := (s.homeWrites.filter HomeWrite.committed).foldl go s
  { t with homeWrites := t.homeWrites.filter (fun w => !w.committed) }

/-- A write of a party without a context, committed when performed (R302, R305, R320): it joins the histories of these words. -/
def writeBy (s : State) (region : Nat) (d : Dep) (words : List Nat) (sp : Space) (a : Nat) (bs : List Byte) : List Nat × State :=
  let w : Who := { ctx := ⟨0, 0, 0⟩, round := 0, region := region, dep := d }
  let r := s.writeBackAll.recordWords w none true sp a bs words
  (r.1, ((r.2.setMem sp (Memory.writeBytes (r.2.mem sp) a bs)).markRing sp a bs.length).soundWords sp a bs.length)

/-- A write of an engine or of the device itself: committed when performed (R302, R320). A word that no access has written has
no history that it could join. -/
def writeNow (s : State) (sp : Space) (a : Nat) (bs : List Byte) : State :=
  (s.writeBy engineRegion {} ((wordsOf a bs.length).filter (fun b => !(s.writesTo sp b).isEmpty)) sp a bs).2

/-- A number written at once, little-endian (R6). -/
def writeNatNow (s : State) (sp : Space) (a n v : Nat) : State := s.writeNow sp a (bytesOfWord n v)

/-- A range written with zeros at once, its history dropped (R339, R422, R439). -/
def zeroRange (s : State) (sp : Space) (lo hi : Nat) : State :=
  let s0 := s.writeBackAll
  let inside (a : Nat) : Bool := lo ≤ a && a < hi
  let t := (s0.setMem sp (Memory.clear (s0.mem sp) lo hi)).soundWords sp lo (hi - lo)
  { t with
    hist := t.hist.filter (fun w => !(w.space == sp && inside w.addr))
    homeWrites := t.homeWrites.filter (fun w => !(w.space == sp && inside w.addr)) }

/-! ### Fences (R182, R302) -/

/-- The writes of an ordering, those of the firing's accesses that have been performed since among them (R182). -/
def full (s : State) (d : Dep) : Dep :=
  (s.lateDeps.filter (fun x => d.pend.contains x.1)).foldl (fun e x => e.join x.2) d

/-- A release fence: its token is ordered after it, and it remembers the writes ordered before it. -/
def release (s : State) (w : Who) (sc : Scope) : Dep × State :=
  ({ w.dep with rels := unionNat w.dep.rels [s.nextId] },
   { s with
     nextId := s.nextId + 1
     releases := s.releases ++ [{ id := s.nextId, scope := sc, ctx := some w.ctx, region := w.region, know := w.dep.know }] })

/-- What an acquire fence of a party adds to an ordering (R182, R302): the writes ordered before every release that a
returned write is ordered after, when the release's scope contains the reader's party and the acquire's scope the writer's,
become ordered before what follows; the rounds of returned committed writes join its knowledge. -/
def acquireOf (s : State) (c : Option CtxId) (region : Nat) (sc : Scope) (d : Dep) : Dep :=
  let seen := d.reads.flatMap (fun r => (s.hist.filter (fun x => x.id == r.1)).map (fun x => (x, r.2)))
  let linked (x : WriteRec) (reader : Nat) (f : Release) : Bool :=
    x.rels.contains f.id && scopeContains f.scope f.ctx f.region c reader && scopeContains sc c region x.ctx x.region
  let fromFences := seen.flatMap (fun x => (s.releases.filter (linked x.1 x.2)).flatMap Release.know)
  let wide (e : CtxId) : Bool := match sc with
    | .region => false
    | .partition => c.any (fun x => x.part == e.part)
    | _ => true
  let fromRounds := (seen.map Prod.fst).flatMap (fun x => match x.ctx with
    | some c => if x.committed && wide c then
        (s.hist.filter (fun y => y.ctx == some c && y.round ≤ x.round)).map WriteRec.id else []
    | none => [])
  { d with know := unionOf d.know fromFences.eraseDups, rounds := unionOf d.rounds fromRounds.eraseDups }

/-- An acquire fence of a context's party. -/
def acquire (s : State) (w : Who) (sc : Scope) : Dep := s.acquireOf (some w.ctx) w.region sc w.dep

end State

end Sys2Proof.Machine
end

