-- ==== Sys2Proof/Machine/Translate.lean ====
section
/-!
DEFINITION. Translation (R323 to R334): the table format, the walk one table entry at a time, permissions, the TLB, the
reports of translation faults, and invalidation by drain tokens; the voiding faults' way to the round controller (R313).
-/
namespace Sys2Proof.Machine

/-- Lower boundary of a NEXT code (R324). -/
def boundary (c : Nat) : Nat := ([12, 16, 21, 25, 30, 34, 44, 54][c]?).getD 54

/-- NEXT code of a table's lower boundary, 0xFF at the root (R324, R332). -/
def levelOf (upper lower : Nat) : Nat := if upper = 64 then 0xFF else [12, 16, 21, 25, 30, 34, 44, 54].idxOf lower

/-- What a table entry is (R324, R325): invalid, malformed, the next table with its boundaries, or a leaf. -/
inductive TableEntry where
  | invalid
  | malformed
  | table (base upper lower : Nat)
  | leaf (raw size : Nat)
  deriving DecidableEq, Repr

/-- An entry of a table whose lower boundary is `lower` (R324, R325). -/
def tableEntry (stage1 : Bool) (lower e : Nat) : TableEntry :=
  if bitsOf e 0 1 = 0 then .invalid
  else if bitsOf e 1 1 = 1 then
    let nb := boundary (bitsOf e 3 3)
    let base := e / 64 * 64
    if bitsOf e 2 1 = 1 ∨ lower ≤ nb ∨ base % (8 * 2 ^ (lower - nb)) ≠ 0 then .malformed else .table base lower nb
  else if bitsOf e 6 4 ≠ 0 ∨ (stage1 ∧ bitsOf e 10 1 = 1) ∨ 44 ≤ lower ∨ e / 4096 * 4096 % 2 ^ lower ≠ 0 then .malformed
  else .leaf e (2 ^ lower)

/-- A translation fault before it is reported (R325, R326, R332). -/
structure XFault where
  cause : Nat
  stage2 : Bool
  walk : Bool := false
  gpa : Nat := 0
  level : Nat := 0xFF
  /-- No fault: the access waits for this frame (R338, R340, R436). -/
  pull : Option Nat := none
  deriving DecidableEq, Repr

/-- A complete translation (R323, R326). -/
structure Xl where
  space : Space
  pa : Nat
  gpa : Nat
  leaf1 : Nat
  leaf2 : Nat
  size : Nat
  level1 : Nat := 0xFF
  level2 : Nat
  deriving DecidableEq, Repr

/-- A step of a walk. -/
inductive WalkRes where
  | more (w : Walk)
  | done (x : Xl)
  | fault (f : XFault)
  deriving DecidableEq, Repr

/-- Leaf bits R, W, AT and CFG all set: what stage 1 permits while it does not walk (R323). -/
def openLeaf : Nat := 0x3C

/-- The leaf bits that a kind of access needs (R326). -/
def WalkFor.needs : WalkFor → Nat
  | .read | .engineRead => 0x04
  | .write | .engineWrite => 0x08
  | .atomic => 0x1C
  | .config => 0x20

/-- The access code of R332. -/
def WalkFor.code : WalkFor → Nat
  | .read => 0
  | .write => 1
  | .atomic => 2
  | .config => 3
  | .engineRead => 4
  | .engineWrite => 5

/-- The permission fault of a translation, stage 1 first (R326). -/
def permFault (u : WalkFor) (x : Xl) : Option XFault :=
  let ok (l : Nat) : Bool := Nat.land l u.needs == u.needs
  if !ok x.leaf1 then some { cause := 0x21, stage2 := false, level := x.level1 }
  else if !ok x.leaf2 then some { cause := 0x25, stage2 := true, gpa := x.gpa, level := x.level2 }
  else none

namespace State

/-- An output address that stage 2 may not name, for an access of this number (R326, R328, R339): a block that is being removed still
serves the accesses ahead of its drain tokens. -/
def addressBad (s : State) (part r : Nat) (host : Bool) (pa : Nat) : Bool :=
  if host then !(s.part part).s2root.getLsbD 1
  else
    match (s.dev.blocks[pa / 2 ^ 31]? : Option BlockState) with
    | some (BlockState.granted p) => p != part
    | some (BlockState.removing p _) => p != part || !s.invals.any (fun v => v.block == some (pa / 2 ^ 31) && decide (r < v.id))
    | _ => true

/-! ### Backings (R222) -/

/-- A publication's drain token is ahead of a request at an MSE (R222). -/
def passed (s : State) (id m r : Nat) : Bool :=
  s.invals.any (fun v => v.id == id && v.reached.any (fun x => x.1 == m && decide (x.2 ≤ r)))

/-- The store that a frame's accesses reach at an MSE: behind the drain token of a publication the new one, before it
the store visible so far (R222). Accesses without an MSE reach the visible one. DEDUCED (log 122), unsafe. -/
def storeOf (s : State) (at_ : Option (Nat × Nat)) (sp : Space) (frame : Nat) : Nat :=
  let of := s.understudies.filter (fun u => u.space == sp && u.frame == frame)
  let new (u : Understudy) : Bool := match u.publish, at_ with
    | some id, some (m, r) => s.passed id m r
    | _, _ => false
  match of.find? new with
  | some u => u.store
  | none => match of.find? (fun u => u.state == .visible) with
    | some u => u.store
    | none => frame

/-- The address at which the visible backing of a physical address stands, for a request of this number at an MSE (R222). -/
def backedFor (s : State) (r m : Nat) (sp : Space) (pa : Nat) : Nat :=
  s.storeOf (some (m, r)) sp (pa / 4096) * 4096 + pa % 4096

/-- The same for an access that an MSE makes now, or for one of the device itself. DEDUCED (log 74), unsafe. -/
def backed (s : State) (mse : Option Nat) (sp : Space) (pa : Nat) : Nat :=
  s.storeOf (mse.map (fun m => (m, s.nextId))) sp (pa / 4096) * 4096 + pa % 4096

/-! ### Replicas, images and missing frames at the home -/

/-- The frame stands in the image of a resident graph of the partition, and is read-only (R74). -/
def imageFrame (s : State) (frame : Nat) : Bool := s.graphs.any (fun g => g.frames.contains frame)

/-- A write to this address would alter the image of a resident graph (R74). -/
def imageAt (s : State) (sp : Space) (a : Nat) : Bool := sp == .dram && s.imageFrame (s.frameOf sp a)

/-- The frame is duplicated, or its collapse is in progress (R337, R338). DEDUCED (log 86), unsafe. -/
def replicated (s : State) (part frame : Nat) : Bool := (s.part part).replicas.any (fun r => r.1 == frame)
def collapsing (s : State) (part frame : Nat) : Bool := (s.part part).collapsing.any (fun r => r.1 == frame)

/-- The same of the frame at an address, which is one of device memory, as is every frame with a pull bit (R338, R340). -/
def replicaAt (s : State) (part : Nat) (sp : Space) (a : Nat) : Bool := sp == .dram && s.replicated part (s.frameOf sp a)
def collapseAt (s : State) (part : Nat) (sp : Space) (a : Nat) : Bool := sp == .dram && s.collapsing part (s.frameOf sp a)
def pullAt (s : State) (part : Nat) (sp : Space) (a : Nat) : Bool := sp == .dram && (s.part part).pullBits.contains (s.frameOf sp a)

/-- An access of the device itself, or of a walk, that has to wait at its home: for a frame still to be pulled, for a link that
retrains, for a collapse (R338, R340, R436). The cause says for which. -/
def awaited (s : State) (part : Nat) (sp : Space) (a : Nat) (write : Bool) : Option XFault :=
  let wait (c : Nat) : Option XFault := some { cause := c, stage2 := true, gpa := a, pull := some (s.frameOf sp a) }
  if s.pullAt part sp a then wait 0x28
  else if (match homeOf sp a with
      | .mse m => s.dev.retraining.contains m
      | .tile _ => false) then wait 0x5A
  else if write && (s.replicaAt part sp a || s.collapseAt part sp a) then wait 0x27
  else none

/-- What stops a write of the device itself: what it has to wait for, or a resident image (R74). -/
def writeStop (s : State) (part : Nat) (x : Xl) : Option XFault :=
  if s.imageAt x.space x.pa then some { cause := 0x25, stage2 := true, gpa := x.gpa, level := x.level2 } else s.awaited part x.space x.pa true

/-! ### Table entries and the walk cache (R325, R327) -/

/-- An invalidation's drain token is on its way to an MSE ahead of a request, or of an access made now: what the MSE holds of the
translations that it concerns serves neither (R334). -/
def draining (s : State) (m r : Nat) (part : Nat) (hits : Inval → Bool) : Bool :=
  s.invals.any (fun v => !v.publish && v.part == part && v.pending.contains m && decide (v.id < r) && hits v)

/-- The invalidation concerns translations of the context (R334): a context's, or the whole partition's. -/
def invalHits (v : Inval) (c : CtxId) : Bool := match v.ctx with
  | some x => x == c
  | none => v.part == c.part

/-- The walk-cache entries that an invalidation drops (R334). -/
def cacheDrops (v : Inval) (e : WalkEntry) : Bool := match v.ctx with
  | some x => e.ctx == some x
  | none => v.part == e.part

/-- The place of the table entry that a walk reads next, and whose it is: a context's of stage 1, or the partition's of stage 2
(R325). -/
def tableAt (w : Walk) : Option (Option CtxId × Space × Nat) :=
  match w.pos with
  | .start => none
  | .stage2 gpa base upper lower => some (none, .dram, base + 8 * (gpa / 2 ^ lower % 2 ^ (upper - lower)))
  | .entry pa host => some (some w.ctx, if host then .host else .dram, pa)

/-- The walk-cache entry that serves a walk of an MSE (R327). -/
def cached? (s : State) (w : Walk) : Option WalkEntry :=
  match w.root2, tableAt w with
  | some _, some (c, sp, a) =>
    s.walkCache.find? (fun e => e.mse == w.mse && e.part == w.ctx.part && e.ctx == c && e.space == sp && e.addr == a &&
      !s.draining w.mse w.id w.ctx.part (fun v => cacheDrops v e))
  | _, _ => none

/-- The entry that a walk reads, from the walk cache or from the committed values of the page's visible backing (R222, R302,
R325). -/
def tableWord (s : State) (w : Walk) : Nat :=
  match s.cached? w with
  | some e => e.value
  | none => match tableAt w with
    | some (_, sp, a) => s.viewNat sp none (if w.root2.isSome then s.backedFor w.id w.mse sp a else s.backed none sp a) 8
    | none => 0

/-- The entry that an MSE's walk has read joins its cache of 1,024, where an open choice makes room (R327); an entry that is
invalid or malformed does not. -/
def cacheTable (s : State) (w : Walk) : State :=
  match w.root2, tableAt w with
  | some _, some (c, sp, a) =>
    let e : WalkEntry := { mse := w.mse, part := w.ctx.part, ctx := c, space := sp, addr := a, value := s.tableWord w }
    let mine := s.walkCache.filter (fun x => x.mse == w.mse)
    if !w.cached || bitsOf e.value 0 1 == 0 || s.walkCache.contains e then s
    else if mine.length < 1024 then { s with walkCache := s.walkCache ++ [e] }
    else
      let q := s.choose mine.length
      let l := match mine[q.1]? with
        | some x => s.walkCache.erase x
        | none => s.walkCache
      { q.2 with walkCache := l ++ [e] }
  | _, _ => s

/-! ### Walks -/

/-- Stage 2 begins for a guest-physical address (R323, R325). -/
def stage2Start (s : State) (w : Walk) (gpa : Nat) : WalkRes :=
  let r := (w.root2.getD (s.part w.ctx.part).s2root).toNat
  if r % 2 = 0 then .fault { cause := 0x24, stage2 := true, walk := w.table.isSome, gpa := gpa }
  else .more { w with pos := .stage2 gpa (r / 8192 * 8192) 64 54 }

/-- What the next table entry of a walk has to wait for; an entry that the walk cache holds waits for nothing (R340, R436). -/
def tableAwaited (s : State) (w : Walk) : Option XFault :=
  match s.cached? w, tableAt w with
  | none, some (_, sp, a) => s.awaited w.ctx.part sp a false
  | _, _ => none

/-- A walk advanced by one table entry (R325). Tables are read at SYSTEM scope, committed values only. DEDUCED (log 40), unsafe. -/
def walkStep (s : State) (w : Walk) : WalkRes :=
  match s.tableAwaited w with
  | some f => .fault f
  | none =>
  match w.pos with
  | .start =>
    let r := (w.root1.getD (s.ctx w.ctx).s1root).toNat
    if r % 2 = 1 then
      let base := r / 8192 * 8192
      s.stage2Start { w with table := some (base, 64, 54) } (base + 8 * (w.va / 2 ^ 54))
    else s.stage2Start { w with leaf1 := some (openLeaf, 2 ^ 34), table := none } w.va
  | .stage2 gpa _ upper lower =>
    let e := s.tableWord w
    let level := match w.table with
      | some (_, u, b) => levelOf u b
      | none => levelOf upper lower
    let bad (c : Nat) : WalkRes := .fault { cause := c, stage2 := true, walk := w.table.isSome, gpa := gpa, level := level }
    match tableEntry false lower e with
    | .invalid => bad 0x24
    | .malformed => bad 0x23
    | .table b u l => .more { w with pos := .stage2 gpa b u l }
    | .leaf raw size =>
      let pa := raw / 4096 * 4096 + gpa % size
      let host := bitsOf raw 10 1 == 1
      if s.addressBad w.ctx.part w.id host pa then bad 0x26
      else if w.table.isSome then .more { w with pos := .entry pa host }
      else
        let l1 := w.leaf1.getD (openLeaf, 2 ^ 34)
        .done { space := if host then .host else .dram, pa := pa, gpa := gpa, leaf1 := l1.1, leaf2 := raw % 4096,
                size := min l1.2 size, level1 := w.level1, level2 := levelOf upper lower }
  | .entry _ _ =>
    match w.table with
    | none => .more w
    | some (_, u, b) =>
      match tableEntry true b (s.tableWord w) with
      | .invalid => .fault { cause := 0x22, stage2 := false, level := levelOf u b }
      | .malformed => .fault { cause := 0x20, stage2 := false, level := levelOf u b }
      | .table base u' b' => s.stage2Start { w with table := some (base, u', b') } (base + 8 * (w.va / 2 ^ b' % 2 ^ (u' - b')))
      | .leaf raw size =>
        s.stage2Start { w with table := none, leaf1 := some (raw % 4096, size), level1 := levelOf u b } (raw / 4096 * 4096 + w.va % size)

/-- A walk run to its end: at most 128 steps, since boundaries fall strictly (R324, R325). -/
def walkAll (s : State) (w : Walk) : Nat → Except XFault Xl
  | 0 => .error { cause := 0x24, stage2 := true }
  | n + 1 =>
    match s.walkStep w with
    | .more w' => s.walkAll w' n
    | .done x => .ok x
    | .fault f => .error f

/-- A complete walk with its permission check. -/
def translate (s : State) (c : CtxId) (u : WalkFor) (va : Nat) : Except XFault Xl :=
  match s.walkAll { id := s.nextId, ctx := c, va := va, use := u } 128 with
  | .error f => .error f
  | .ok x => match permFault u x with
    | some f => .error f
    | none => .ok x

/-- A guest-physical address of a partition translated at stage 2 alone: rings, queues, blocks and logs. -/
def stage2 (s : State) (part : Nat) (gpa : Nat) : Except XFault Xl :=
  match s.stage2Start { id := s.nextId, ctx := ⟨part, 0, 0⟩, va := gpa, use := .write, leaf1 := some (openLeaf, 2 ^ 34) } gpa with
  | .more w => s.walkAll w 64
  | .done x => .ok x
  | .fault f => .error f

/-! ### Guest-physical and device memory as the device itself reads and writes it -/

/-- A number written to guest-physical memory, committed at once; the fault of a failed write, or what it has to wait for. A resident
image is read-only to the device as well (R74, R338, R340). -/
def writeGpa (s : State) (part gpa n v : Nat) : Except XFault State :=
  match s.stage2 part gpa with
  | .ok x => match s.writeStop part x with
    | some f => .error f
    | none => .ok (s.writeNatNow x.space (s.backed none x.space x.pa) n v)
  | .error f => .error f

/-- Bytes of a context's virtual memory read by the Prompter with this ordering (R301, R302, R402). -/
def readVa (s : State) (c : CtxId) (d : Dep) (va n : Nat) : Except XFault (Nat × State) :=
  match s.translate c .engineRead va with
  | .ok x => match s.awaited c.part x.space x.pa false with
    | some f => .error f
    | none =>
      let a := s.backed none x.space x.pa
      let r := s.readMany d x.space a n (wordsOf a n)
      .ok (wordOfBytes r.1, r.2)
  | .error f => .error f

/-- Bytes of a configuration image in a context's virtual memory, 4 KiB at a time, with the device-memory frames that hold
them; the fault, or the wait, of a page, with its address (R74, R326, R340). -/
def readImage (s : State) (c : CtxId) (va : Nat) : Nat → Except (XFault × Nat) (List Byte × List Nat)
  | 0 => .ok ([], [])
  | n + 1 =>
    match s.translate c .config va with
    | .error f => .error (f, va)
    | .ok x => match s.awaited c.part x.space x.pa false with
      | some f => .error (f, va)
      | none => match s.readImage c (va + 4096) n with
        | .error f => .error f
        | .ok r => .ok (s.viewBytes x.space none (s.backed none x.space x.pa) 4096 ++ r.1,
            if x.space = .dram then (x.pa / 4096) :: r.2 else r.2)

/-! ### Rings of launch queues (R402) -/

/-- The frames of a queue's ring, translated through its context; a page that does not translate has none. -/
def ringFrames (s : State) (g : GuestId) (q : Queue) : List (Option (Space × Nat)) :=
  let c : CtxId := { part := g.part, guest := g.slot, num := bitsOf q.ctl.toNat 0 16 }
  let base := q.base.toNat / 64 * 64
  (List.range ((base % 4096 + 64 * 2 ^ bitsOf q.ctl.toNat 23 4 + 4095) / 4096)).map (fun i =>
    match s.translate c .engineRead (base / 4096 * 4096 + 4096 * i) with
    | .ok x => some (x.space, x.pa / 4096)
    | .error _ => none)

/-- The Prompter translates the rings of a partition's enabled queues again: those that an invalidation covers (R402). -/
def retranslate (s : State) (part : Nat) (covers : GuestId → Queue → Bool) : State :=
  { s with guests := s.guests.map (fun g => if g.id.part = part then
      { g with queues := g.queues.map (fun q => if q.ctl.getLsbD 31 && covers g.id q then { q with pages := s.ringFrames g.id q } else q) } else g) }

/-- An invalidation covers a queue's ring: the whole partition's, or one of its context whose range meets the ring (R334, R402). -/
def coversRing (v : Inval) (g : GuestId) (q : Queue) : Bool :=
  match v.ctx with
  | none => true
  | some c =>
    c == { part := g.part, guest := g.slot, num := bitsOf q.ctl.toNat 0 16 } &&
      (!v.stage1 || overlaps v.lo (v.hi - v.lo) (q.base.toNat / 64 * 64) (64 * 2 ^ bitsOf q.ctl.toNat 23 4))

/-! ### Faults and voids -/

/-- A void asked for from a round on; a committed round is never voided (R313, R316). -/
def requestVoid (s : State) (c : CtxId) (round : Nat) : State :=
  if round < (s.ctx c).round then s
  else (s.modCtx c (fun x =>
    if x.voidFrom.all (fun v => decide (round < v)) then
      { x with voidFrom := some round, voidMade := some (s.dev.made.filter (fun z => z.ctx == some c)).length }
    else x)).noteChoice (0xA000 + c.num % 2 ^ 13) 8

/-- A voiding record posted, and its void asked for (R313, R346). -/
def postVoid (s : State) (r : RingId) (f : FaultRec) : State :=
  match f.ctx with
  | some c => (s.post r { f with voids := true }).requestVoid c f.round
  | none => s.post r f

/-- The record of a translation fault (R332). -/
def xlRec (c : CtxId) (va : Nat) (u : WalkFor) (f : XFault) (mse : Nat) (tag : Tag) (round : Nat) (window : Bool) : FaultRec :=
  { cause := f.cause
    info0 := BitVec.ofNat 64 va
    info1 := BitVec.ofNat 64 (if f.stage2 then f.gpa else 0)
    flags := (if f.stage2 then 1 else 0) + (if f.walk then 2 else 0) + u.code * 4 + (if window then 32 else 0)
    orig := f.level
    lreg := mse
    ctxid := ctxWord c
    tag := tag
    round := round
    ctx := some c }

/-- The ring of a translation cause's owner (R331, R333). -/
def xlRing (c : CtxId) (f : XFault) : RingId := if f.stage2 then .hypervisor c.part else guestRing c

/-- The MSE holds an unresolved fault of the page already (R332). -/
def faultHeld (s : State) (mse : Nat) (c : CtxId) (stage2 : Bool) (va : Nat) : Bool :=
  s.heldFaults.contains { mse := mse, ctx := c, stage2 := stage2, page := va / 4096 }

/-- An access that waits for a pulled frame, noted against the frame's loss (R313, R340). -/
def waitPull (s : State) (part frame : Nat) (r : FaultRec) : State :=
  if (s.part part).pullWaits.any (fun x => x.1 == frame && x.2.ctx == r.ctx && x.2.round == r.round) then s
  else s.modPart part (fun p => { p with pullWaits := p.pullWaits ++ [(frame, r)] })

/-- The MSE that translates an access of the device's own units: the manual names none (R332). -/
def deviceMse (va : Nat) : Nat := Config.imageMse (va / 4096) % 24

/-- A translation fault of the fabric: one record for each MSE, context, stage and page, and the round voided (R331 to
R333). -/
def xlFault (s : State) (c : CtxId) (va : Nat) (u : WalkFor) (f : XFault) (mse : Nat) (tag : Tag) (round : Nat) (window : Bool) : State :=
  if s.faultHeld mse c f.stage2 va then s
  else
    let s1 : State := { s with heldFaults := s.heldFaults ++ [{ mse := mse, ctx := c, stage2 := f.stage2, page := va / 4096 }] }
    s1.postVoid (xlRing c f) (xlRec c va u f mse tag round window)

/-! ### The TLB (R327) -/

/-- The entries of one MSE that an invalidation drops (R334). -/
def invalDrops (v : Inval) (e : TlbEntry) : Bool :=
  invalHits v e.ctx && (!v.stage1 || overlaps e.va e.size v.lo (v.hi - v.lo))

/-- The TLB entry of an MSE that translates an address of a context, for a request of this number: none that a drain token ahead
of the request is about to drop (R323, R334). -/
def tlbFind (s : State) (mse : Nat) (c : CtxId) (r va : Nat) : Option TlbEntry :=
  s.tlb.find? (fun e => e.mse == mse && e.ctx == c && e.va ≤ va && va < e.va + e.size && !s.draining mse r c.part (fun v => invalDrops v e))

/-- A TLB entry as a translation of one address. -/
def ofTlb (e : TlbEntry) (va : Nat) : Xl :=
  { space := if e.host then .host else .dram, pa := e.pa + (va - e.va), gpa := e.gpa + (va - e.va), leaf1 := e.leaf1,
    leaf2 := e.leaf2, size := e.size, level1 := e.level1, level2 := e.level2 }

/-- The set of the TLB that an entry stands in: 512 sets of 8 ways (R327). -/
def tlbSetOf (e : TlbEntry) : Nat := Config.tlbSet (ctxWord e.ctx).toNat e.va % 512

/-- A completed translation cached (R327): in a full set an open choice makes room, among the entries of its own partition and those
of partitions that hold more than their 128. -/
def tlbFill (s : State) (mse : Nat) (c : CtxId) (va : Nat) (x : Xl) : State :=
  let off := va % x.size
  let e : TlbEntry :=
    { mse := mse, ctx := c, va := va - off, size := x.size, pa := x.pa - off, host := x.space == .host, leaf1 := x.leaf1,
      leaf2 := x.leaf2, gpa := x.gpa - off, level1 := x.level1, level2 := x.level2 }
  let mine := s.tlb.filter (fun y => y.mse == mse)
  let full := mine.filter (fun y => tlbSetOf y == tlbSetOf e)
  if full.length < 8 then { s with tlb := s.tlb ++ [e] }
  else
    let old := full.filter (fun y => y.ctx.part == c.part || decide (128 < (mine.filter (fun z => z.ctx.part == y.ctx.part)).length))
    let q := s.choose old.length
    match old[q.1]? with
    | some y => { q.2 with tlb := s.tlb.erase y ++ [e] }
    | none => s

/-- Each access's own output address is checked, whatever translated it (R326). Arguments: context, number of the access, kind. -/
def checkXl (s : State) (c : CtxId) (r : Nat) (u : WalkFor) (x : Xl) : Option XFault :=
  match permFault u x with
  | some f => some f
  | none =>
    if s.addressBad c.part r (x.space == .host) x.pa then some { cause := 0x26, stage2 := true, gpa := x.gpa, level := x.level2 } else none

/-- A translation at an MSE at once, through its TLB (R327): the windows of generators, and the write nodes. DEDUCED (log 42), safe. -/
def translateAt (s : State) (mse : Nat) (c : CtxId) (u : WalkFor) (va : Nat) : Except XFault (Xl × State) :=
  match s.tlbFind mse c s.nextId va with
  | some e => match s.checkXl c s.nextId u (ofTlb e va) with
    | some f => .error f
    | none => .ok (ofTlb e va, s)
  | none => match s.translate c u va with
    | .ok x => .ok (x, s.tlbFill mse c va x)
    | .error f => .error f

/-- The MSE to which a stream port of a page's region is wired (R327). -/
def mseOf (s : State) (k : PageKey) (port : Nat) : Nat :=
  let l := ((s.page? k).bind Page.region).getD 0
  let q := l / 4
  12 * (q / 8) + 3 * (q % 8 % 4) + (port + l % 4) % 3

/-! ### Collapses and records of the home -/

/-- A collapse of a duplicated frame begins: its entry is cleared and drain tokens leave for every MSE (R338). -/
def startCollapse (s : State) (part frame : Nat) : State :=
  let s1 := s.modPart part (fun p => { p with
    replicas := p.replicas.filter (fun r => r.1 != frame)
    collapsing := p.collapsing ++ p.replicas.filter (fun r => r.1 == frame) })
  { s1 with
    nextId := s1.nextId + 1
    invals := s1.invals ++ [{ id := s1.nextId, part := part, ctx := none, stage1 := false, lo := frame * 4096,
                              hi := frame * 4096 + 4096, drains := drainAll s1.nextId, collapse := some frame }] }

/-- An access of the device itself waits: a duplicated frame that it would write begins to collapse (R338, R340, R436). -/
def waitOn (s : State) (part : Nat) (f : XFault) : State :=
  match f.pull with
  | some frame => if f.cause = 0x27 ∧ s.replicated part frame then s.startCollapse part frame else s
  | none => s

/-- An access of the Prompter or the loader that cannot be made: a fault goes to its owner's ring once, without a void, and the access is
made again when it has been resolved; a duplicated frame begins to collapse (R231, R331, R332, R338). DEDUCED (log 84), unsafe. -/
def deviceFault (s : State) (c : CtxId) (va : Nat) (u : WalkFor) (f : XFault) : State :=
  match f.pull with
  | some frame => if f.cause = 0x27 ∧ s.replicated c.part frame then s.startCollapse c.part frame else s
  | none =>
    if s.faultHeld (deviceMse va) c f.stage2 va then s
    else
      ({ s with heldFaults := s.heldFaults ++ [{ mse := deviceMse va, ctx := c, stage2 := f.stage2, page := va / 4096 }] } : State).post (xlRing c f)
        (xlRec c va u f (deviceMse va) 0xFFF ((s.ctx c).round % 2 ^ 32) false)

/-- A write to a duplicated frame counted for the hypervisor, and offered to the Logbook's triggers (R331, R350, R368). -/
def noteReplica (s : State) (c : CtxId) (arb : Nat) : State :=
  (s.modPart c.part (fun p => { p with health := assign 0x27 ((lookup 0x27 p.health).getD 0 + 1) p.health })).noteCause 0x15 arb 0x27 (ctxWord c)

/-- The record of an access that the host's bus could not complete (R350, R431). -/
def hostRec (c : CtxId) (va addr : Nat) (tag : Tag) (round lreg : Nat) : FaultRec :=
  { cause := 0x2A, info0 := BitVec.ofNat 64 va, info1 := BitVec.ofNat 64 addr, flags := 0x40, ctxid := ctxWord c, tag := tag, round := round,
    ctx := some c, lreg := lreg }

/-! ### Invalidation (R334) -/

/-- An invalidation begun: drain tokens to every MSE. -/
def startInval (s : State) (v : Inval) : Nat × State :=
  (s.nextId, { s with nextId := s.nextId + 1, invals := s.invals ++ [{ v with id := s.nextId, drains := drainAll s.nextId }] })

/-- The invalidation of a whole context (R236, R323). -/
def invalAllOf (c : CtxId) : Inval :=
  { id := 0, part := c.part, ctx := some c, stage1 := true, lo := 0, hi := 2 ^ 64 }

/-- An invalidation of a partition's stage 2 (R323, R334). -/
def invalPart (part : Nat) : Inval :=
  { id := 0, part := part, ctx := none, stage1 := false, lo := 0, hi := 2 ^ 64 }

end State

end Sys2Proof.Machine
end

