-- ==== Sys2Proof/Machine/Undo.lean ====
section
/-!
DEFINITION. The undo log (R358 to R362): records, windows, the log's image in guest-physical memory, and sealing.
-/
namespace Sys2Proof.Machine

/-- The records of one performed write: one for each word, the old value in the low bytes (R184, R359). -/
def undoRecsOf (window : Nat) (w : HomeWrite) : List UndoRec :=
  let sram := w.space == .sram
  let base := if sram then w.addr else w.va
  let n := w.old.length
  let one (off len : Nat) : UndoRec :=
    { kind := 0
      wid := if len = 1 then 0 else if len = 2 then 1 else 2
      space := if sram then 0 else 1
      addr := base + off
      old := BitVec.ofNat 32 (wordOfBytes ((w.old.drop off).take len))
      round := w.round
      window := window }
  if n ≤ 4 then [one 0 n] else (List.range (n / 4)).map (fun i => one (4 * i) 4)

/-- A record's 128 bits (R359). -/
def UndoRec.bits (r : UndoRec) : Nat :=
  r.addr % 2 ^ 64 + r.old.toNat * 2 ^ 64 + r.round % 2 ^ 24 * 2 ^ 96 + r.space * 2 ^ 123 + r.wid * 2 ^ 124 + r.kind * 2 ^ 126

/-- A window's 32-byte table entry (R358). -/
def UndoWindow.bits (w : UndoWindow) : Nat :=
  w.num % 2 ^ 32 + w.first % 2 ^ 32 * 2 ^ 32 + w.count % 2 ^ 32 * 2 ^ 64 +
    (1 + (if w.sealed then 2 else 0) + (if w.truncated then 4 else 0)) * 2 ^ 96 + w.round % 2 ^ 64 * 2 ^ 128 +
    (Config.snapshotHandle w.num).toNat * 2 ^ 192

namespace UndoLog

/-- Records that the log's space holds: its units without the window table, 16 bytes each (R358). -/
def capacity (l : UndoLog) : Nat := (l.units * 2 ^ 21 - 2 ^ 16) / 16
/-- The open window. -/
def window? (l : UndoLog) : Option UndoWindow := l.windows.getLast?
/-- The log or its window table has no room for `n` more records (R361). -/
def full (l : UndoLog) (n : Nat) : Bool := decide (l.capacity < l.records.length + n) || decide (2048 ≤ l.windows.length)
/-- The oldest window's records, entry and snapshot freed (R361). -/
def dropOldest (l : UndoLog) : UndoLog :=
  match l.windows with
  | [] => l
  | w :: rest => { l with windows := rest, records := l.records.filter (fun r => r.window != w.num) }
/-- Room made for `n` records under the default full mode (R361). -/
def makeRoom (l : UndoLog) (n : Nat) : Nat → UndoLog
  | 0 => l
  | k + 1 =>
    if l.capacity < l.records.length + n then
      if l.windows.length ≤ 1 then
        let m : UndoLog := { l with records := l.records.drop 1, windows := l.windows.map (fun w => { w with truncated := true, first := (w.first + 1) % max 1 l.capacity, count := w.count - 1 }) }
        m.makeRoom n k
      else l.dropOldest.makeRoom n k
    else l
/-- The open window changed. -/
def modOpen (l : UndoLog) (f : UndoWindow → UndoWindow) : UndoLog :=
  match l.windows.getLast? with
  | none => l
  | some w => { l with windows := l.windows.dropLast ++ [f w] }

end UndoLog

namespace State

/-- The undo log of a context changed. -/
def modUndo (s : State) (c : CtxId) (f : UndoLog → UndoLog) : State := s.modCtx c (fun x => { x with undo := f x.undo })

/-- What the log's next writes have to wait for: those of `n` records and of the window table (R338, R340, R358, R436). -/
def logHeld (s : State) (c : CtxId) (n : Nat) : Option XFault :=
  let l := (s.ctx c).undo
  let recs := (List.range n).map (fun i => l.base + 2 ^ 16 + 16 * ((l.total + i) % max 1 l.capacity))
  let wins := (l.nextWindow :: l.windows.map UndoWindow.num).map (fun w => l.base + 32 * (w % 2048))
  if !l.on then none
  else (((recs ++ wins).map (· / 4096)).eraseDups).findSome? (fun p => match s.writeGpa c.part (p * 4096) 1 0 with
    | .error f => if f.pull.isSome then some f else none
    | .ok _ => none)

/-- Bytes of the log written at stage 2; a failed write is 0x33 by path H, and the context stops at its next close
(R350, R358). -/
def logWrite (s : State) (c : CtxId) (gpa n v : Nat) : State :=
  match s.writeGpa c.part gpa n v with
  | .ok t => t
  | .error f => (s.tellHyp c.part 0x33 (BitVec.ofNat 64 gpa) (BitVec.ofNat 64 f.cause) (some c)).modUndo c (fun l => { l with failed := true })

/-- The open window's table entry written (R358). DEDUCED (log 52), unsafe. -/
def writeWindow (s : State) (c : CtxId) : State :=
  let l := (s.ctx c).undo
  match l.window? with
  | none => s
  | some w => s.logWrite c (l.base + 32 * (w.num % 2048)) 32 w.bits

/-- The entries of windows that have left the log, freed in its table (R361, R363). -/
def freeEntries (s : State) (c : CtxId) (old : List UndoWindow) : State :=
  let l := (s.ctx c).undo
  (old.filter (fun w => !l.windows.any (fun x => x.num == w.num))).foldl (fun t w => t.logWrite c (l.base + 32 * (w.num % 2048)) 32 0) s

/-- Records appended to the open window, room made as the full mode says; none ahead of window 0 (R184, R358, R361). -/
def appendUndo (s : State) (c : CtxId) (rs : List UndoRec) : State :=
  let l := (s.ctx c).undo
  if !l.on || l.windows.isEmpty || rs.isEmpty then s
  else
    let l1 := if l.full rs.length then l.makeRoom rs.length (l.records.length + l.windows.length) else l
    let num := (l1.window?.map UndoWindow.num).getD 0
    let own := rs.map (fun r => { r with window := num })
    let s1 := own.zipIdx.foldl (fun t r => t.logWrite c (l.base + 2 ^ 16 + 16 * ((l.total + r.2) % max 1 l.capacity)) 16 r.1.bits) s
    let fail := (s1.ctx c).undo.failed
    ((s1.modUndo c (fun _ =>
      { (l1.modOpen (fun w => { w with first := if w.count = 0 then l.total % max 1 l.capacity else w.first, count := w.count + rs.length })) with
        records := l1.records ++ own
        total := l.total + rs.length
        failed := fail })).freeEntries c l.windows).writeWindow c

/-- The open window sealed (R362). -/
def sealOpen (s : State) (c : CtxId) : State :=
  let l := (s.ctx c).undo
  if !l.on then s
  else
    match l.window? with
    | none => s
    | some w => if w.sealed then s else
        ((s.modUndo c (fun l => l.modOpen (fun w => { w with sealed := true }))).writeWindow c).logEvent 0x19 (0xA000 + c.num % 2 ^ 13) w.num

/-- A window opened at a commit point: its snapshot is the cut that begins the next round (R360), and it keeps that
cut's save frames (R353). -/
def openWindow (s : State) (c : CtxId) (round : Nat) : State :=
  let x := s.ctx c
  let l0 := if x.undo.full 0 then x.undo.dropOldest else x.undo
  let pages := (s.pages.filter (fun p => p.key.ctx == c)).map (fun p => (p.key, (lookup round p.cuts).getD p.dyn))
  let g := s.guest ⟨c.part, c.guest⟩
  let frames := (s.pages.filter (fun p => p.key.ctx == c)).flatMap (fun p => (p.cutUse.filter (fun u => u.1 == round)).flatMap Prod.snd)
  let w : UndoWindow :=
    { num := l0.nextWindow
      round := round
      first := l0.total % max 1 l0.capacity
      pages := pages
      heads := g.queues.map (fun q => (q.num, q.head))
      tags := (s.frames.filter (fun f => f.ctx == c)).map (fun f => f.key.tag)
      walks := (s.frames.filter (fun f => f.ctx == c)).filterMap (fun f => (f.cuts.find? (fun z => z.round == round)).map (fun z => (f.key.tag, z)))
      frames := frames }
  ((s.modUndo c (fun _ => { l0 with windows := l0.windows ++ [w], nextWindow := l0.nextWindow + 1 })).freeEntries c x.undo.windows).writeWindow c

end State

end Sys2Proof.Machine
end

