-- ==== Sys2Proof/Machine/Home.lean ====
section
/-!
DEFINITION. The way of an access (R164 to R187, R294, R295): the address checks, its issue, the home arbiter that
performs it, and the delivery of its response; the events of homes, walks and write-back.
-/
namespace Sys2Proof

/-- The party as one whole: a firing's instructions are one party (R181). -/
def Party.whole : Party → Party
  | .actor p b _ => .actor p b 0
  | p => p

end Sys2Proof

namespace Sys2Proof.Machine

namespace State

/-- The region byte of a page, the region of R303. -/
def regionOf (s : State) (k : PageKey) : Nat := s.regionByte k

/-- The party is behind its cut of the round in progress (R309). -/
def behindCut (s : State) (p : Party) : Bool :=
  ((s.page? p.page).map Page.reported).getD false ||
    match p with
    | .elem k n => ((s.dyn k).elem n).cut
    | .actor k b _ => ((s.dyn k).actor b).cut
    | .island k => (s.dyn k).island.cut
    | .node k n => ((s.dyn k).node n).cut
    | .infill k => (s.ctx k.ctx).close.isSome

/-- The party as one that performs accesses. -/
def who (s : State) (p : Party) (tag : Tag) (dep : Dep) : Who :=
  { ctx := p.page.ctx, round := s.roundOf p.page.ctx (s.behindCut p), region := s.regionOf p.page, tag := tag, dep := s.full dep }

/-- The base that a memory node's slots give: one, and the next one for a virtual address (R164). -/
def baseIn (args : List Word) (d : Desc) : Nat :=
  let slot (i : Nat) : Nat := ((args[i]?).getD 0).toNat
  if d.nkind = 1 then slot d.slot else slot d.slot + slot (d.slot + 1) * 2 ^ 32

/-- The base of a memory node for what takes its turn. -/
def nodeBase (s : State) (k : PageKey) (d : Desc) : Nat := baseIn (s.turnArgs k) d

/-- The address checks of R169 up to translation: the address, or the cause. -/
def checkAccess (s : State) (k : PageKey) (n pos size : Nat) : Except Nat Nat :=
  match s.page? k with
  | none => .error 0x2C
  | some p =>
    let d := p.desc n
    let a := s.nodeBase k d + pos
    if pos < d.low ∨ d.limit < pos + size then .error 0x2C
    else if a % size ≠ 0 then .error 0x2D
    else if d.nkind = 1 then (if 2 ^ 28 < a + size ∨ !s.granted k.ctx a then .error 0x2E else .ok a)
    else if 2 ^ 64 < a + size then .error 0x2C
    else .ok a

/-- Requests of a node between issue and delivery: at most 32 (R295). -/
def nodeRoom (s : State) (k : PageKey) (n : Nat) : Bool :=
  decide ((s.reqs.filter (fun r => r.issuer.page == k && r.node == n && r.closing.isNone && r.phase != .given)).length < 32)

/-! ### Issue -/

/-- The scope of an atomic. -/
def opScope : MemOp → Option Scope
  | .atomic _ _ sc | .cas sc | .fadd _ sc _ | .cas8 sc => some sc
  | _ => none

/-- What an operation needs of translation (R326). -/
def opUse : MemOp → WalkFor
  | .load _ | .load8 => .read
  | .store | .store8 => .write
  | _ => .atomic

/-- The operation may write. -/
def opWrites : MemOp → Bool
  | .load _ | .load8 | .fence _ _ _ => false
  | _ => true

/-- The port queue of a home that a party's requests enter (R294): at a memory tile the island's 0, the element mesh's 1, the
actor tile's 2 or the remote mesh's 3; at an MSE the stream of the party's region. -/
def portOf (p : Party) (h : Home) (region : Nat) : Nat :=
  match h with
  | .tile t =>
    if t / 2 ≠ region then 3
    else match p with
      | .island _ => 0
      | .actor _ _ _ => 2
      | _ => 1
  | .mse _ => region

/-- An ordered AFADD: its rank, not its issue, says when it is added (R180). -/
def isRanked : MemOp → Bool
  | .fadd _ _ (some _) => true
  | _ => false

/-- A request between its issue and its performance. -/
def inFlight (r : Req) : Bool := r.closing.isNone && r.phase != .done && r.phase != .given

/-- The requests that stand in a port queue of a home, in issue order. -/
def queueOf (s : State) (h : Home) (q : Nat) : List Req :=
  s.reqs.filter (fun r => r.home == h && r.port == q && r.phase == .queued && r.closing.isNone)

/-- An earlier access that an access must be performed behind (R181, R182): one of the same party, or one that a fence of its
firing put before it, when both touch the same bytes; one whose physical address is not known yet may touch them. A contribution that
its window holds does not hold one of another rank back (R180). -/
def mustFollow (r q : Req) : Bool :=
  inFlight q && !(q.phase == .held && isRanked r.op) && ((decide (q.id < r.id) && q.issuer.whole == r.issuer.whole) || r.dep.pend.contains q.id) &&
    (match q.phase with
      | .translating _ => r.space != .sram
      | _ => q.space == r.space && overlaps q.addr q.size r.addr r.size)

/-- An access that a request must follow has not reached its own queue yet: the request stays out of its queue, ahead of which it would
stand otherwise (R181). -/
def behindUnqueued (s : State) (r : Req) : Bool :=
  s.reqs.any (fun q => (mustFollow r q || r.after.contains q.id) && (match q.phase with
    | .translating _ | .entering => true
    | _ => false))

/-- Every access that a fence put before a token, though it was still to be performed, has been performed (R182). -/
def pendOver (s : State) (d : Dep) : Bool := !s.reqs.any (fun q => d.pend.contains q.id && inFlight q)

/-- A resource of the memory edge has an entry for a partition (R298): of its reserve, or a shared one, of which a partition may
be limited to `most`. -/
def shareRoom (use : Nat → Nat) (part reserve pool : Nat) (most : Option Nat) : Bool :=
  decide (use part < reserve) ||
    (most.all (fun m => decide (use part < reserve + m)) &&
      decide (((List.range 8).map (fun p => use p - reserve)).foldl (· + ·) 0 < pool))

/-- A request that waits at its home for another context's atomic (R185): it stands beside its queue and holds up none behind it.
DEDUCED (log 159), unsafe. -/
def aside (s : State) (r : Req) : Bool := s.heldByOther r.ctx r.space r.addr r.size

/-- A port queue takes one more request (R294, R298): 16 stand in a queue of a memory tile; an MSE's 512 entries are divided
among the partitions. -/
def queueRoom (s : State) (h : Home) (q part : Nat) : Bool :=
  match h with
  | .tile _ => decide (((s.queueOf h q).filter (fun r => !s.aside r)).length < 16)
  | .mse _ =>
    shareRoom (fun p => (s.reqs.filter (fun r => r.home == h && r.phase == .queued && r.closing.isNone && r.ctx.part == p && !s.aside r)).length)
      part 32 256 (some 128)

/-- A request reaches its port queue: it enters when there is room and none waits ahead of it (R249, R294). -/
def enterQueue (s : State) (id : Nat) : State :=
  match s.reqs.find? (fun r => r.id == id) with
  | none => s
  | some r =>
    let ahead := s.reqs.any (fun q => q.home == r.home && q.port == r.port && q.phase == .entering)
    if !ahead && !s.behindUnqueued r && s.queueRoom r.home r.port r.ctx.part then s.modReq id (fun r => { r with phase := .queued, entered := s.cycle })
    else s.modReq id (fun r => { r with phase := .entering })

/-- The first request that waits for a port queue, and follows no access that is still on its way, enters it when there is room. -/
def letIn (s : State) (h : Home) (q : Nat) : State :=
  match s.reqs.find? (fun r => r.home == h && r.port == q && r.phase == .entering && !s.behindUnqueued r) with
  | some r => if s.queueRoom h q r.ctx.part then s.modReq r.id (fun r => { r with phase := .queued, entered := s.cycle }) else s
  | none => s

/-- The MSE that translates a request. -/
def mseOfReq (s : State) (r : Req) : Nat :=
  s.mseOf r.issuer.page (((s.page? r.issuer.page).map (fun g => (g.desc r.node).sport)).getD 0)

/-- A request whose physical address is known asks for the close it needs, or goes to its port queue (R184, R294). -/
def enterHome (s : State) (id : Nat) (sp : Space) (pa : Nat) : State :=
  match s.reqs.find? (fun r => r.id == id) with
  | none => s
  | some r =>
    let h := s.servedBy (s.mseOfReq r) sp pa (opWrites r.op)
    let s1 := s.modReq id (fun r => { r with space := sp, addr := pa, home := h, port := portOf r.issuer h (s.regionOf r.issuer.page) })
    if r.needClose then (s1.modReq id (fun r => { r with phase := .waitClose r.round })).requestClose r.ctx 4
    else s1.enterQueue id

/-- An MSE has room for one more outstanding walk of a partition (R298, R327). -/
def walkRoom (s : State) (mse part : Nat) : Bool :=
  shareRoom (fun p => (s.walks.filter (fun w => w.mse == mse && w.ctx.part == p)).length) part 32 256 none

/-- The roots that a request's walk begins with: ahead of the drain token of a root write at its MSE the replaced one, else the
register's (R323). DEDUCED (log 111), unsafe. -/
def rootsOf (s : State) (r : Req) (mse : Nat) : DWord × DWord :=
  let behind (f : Inval → Option DWord) : Option DWord :=
    s.invals.findSome? (fun v => if v.pending.contains mse && decide (r.id < v.id) && invalHits v r.ctx then f v else none)
  ((behind Inval.root1).getD (s.ctx r.ctx).s1root, (behind Inval.root2).getD (s.part r.ctx.part).s2root)

/-- A walk begun for a request when its MSE has room for one (R298, R325, R327); else the request waits. -/
def beginWalk (s : State) (r : Req) (mse : Nat) : State :=
  let roots := s.rootsOf r mse
  if !s.walkRoom mse r.ctx.part then s
  else { s with walks := s.walks ++ [{ id := r.id, mse := mse, ctx := r.ctx, va := r.va, use := opUse r.op, round := r.round, tag := r.tag,
                                       root1 := some roots.1, root2 := some roots.2 }] }

/-- What its node's order mask names holds back a new access (R181): the requests it waits for. -/
def heldBehind (s : State) (r : Req) (mask : Nat) : List Nat :=
  (s.reqs.filter (fun q => inFlight q && q.issuer.page == r.issuer.page && q.tag == r.tag && bitsOf mask q.node 1 == 1)).map Req.id

/-- What the accesses of the nodes of a mask so far order before one of this tag (R181). -/
def maskDep (s : State) (k : PageKey) (mask : Nat) (tag : Tag) : Dep :=
  (s.nodeDeps.filter (fun x => x.page == k && x.tag == tag && bitsOf mask x.node 1 == 1)).foldl (fun d x => d.join x.dep) {}

/-- An access issued: its identity and the state with the request on its way. -/
def issue (s : State) (p : Party) (n : Nat) (op : MemOp) (tag : Tag) (va size : Nat) (a b : DWord) (dep : Dep) (keep : Bool) : Nat × State :=
  let k := p.page
  let id := s.nextId
  let d : Desc := match s.page? k with
    | some g => g.desc n
    | none => ⟨0, 0, 0, 0, 0, 0, 0, []⟩
  let close := match opScope op with
    | some .device => true
    | some .system => true
    | _ => false
  let r0 : Req :=
    { id := id
      issuer := p
      ctx := k.ctx
      round := s.roundOf k.ctx (s.behindCut p)
      tag := tag
      op := op
      node := n
      va := va
      space := .sram
      addr := va
      size := size
      home := homeOf .sram va
      port := 0
      a := a
      b := b
      phase := .translating (s.mseOf k d.sport)
      needClose := close
      keep := keep
      dep := dep.join (s.maskDep k d.order tag) }
  let r := { r0 with after := s.heldBehind r0 d.order }
  let s1 : State := { s with nextId := s.nextId + 1, reqs := s.reqs ++ [r] }
  if d.nkind = 1 then (id, s1.enterHome id .sram va)
  else
    let m := s.mseOf k d.sport
    match s1.tlbFind m k.ctx id va with
    | some e =>
      match s1.checkXl k.ctx id (opUse op) (ofTlb e va) with
      | none => let x := ofTlb e va; (id, s1.enterHome id x.space (s1.backedFor id m x.space x.pa))
      | some _ => (id, s1.beginWalk r m)
    | none => (id, s1.beginWalk r m)

/-- A closing token or a strike that leaves behind the results of the accesses before it (R173). -/
def queueClosing (s : State) (p : Party) (t : Token) : State :=
  let k := p.page
  { s with
    nextId := s.nextId + 1
    reqs := s.reqs ++ [{ id := s.nextId, issuer := p, ctx := k.ctx, round := s.roundOf k.ctx (s.behindCut p), tag := t.tag,
                         op := .load false, node := 8, va := 0, space := .sram, addr := 0, size := 0, home := .tile 128, port := 0,
                         phase := .done, closing := some t }] }

/-- A fence that waits for the commit point of its round, the close requested (R182). -/
def queueFence (s : State) (p : Party) (tag : Tag) (rel acq : Bool) (sc : Scope) (v : Val) (keep : Bool) : Nat × State :=
  let k := p.page
  let rd := s.roundOf k.ctx (s.behindCut p)
  let s1 : State :=
    { s with
      nextId := s.nextId + 1
      reqs := s.reqs ++ [{ id := s.nextId, issuer := p, ctx := k.ctx, round := rd, tag := tag, op := .fence rel acq sc, node := 8, va := 0,
                           space := .sram, addr := 0, size := 0, home := .tile 128, port := 0, phase := .waitClose rd, needClose := true,
                           value := v.v.setWidth 64, sc := v.sc, dep := v.dep, keep := keep }] }
  (s.nextId, s1.requestClose k.ctx 3)

/-! ### At the home -/

/-- The new value of an atomic and its flags (R177). -/
def atomicValue (op : Nat) (ty : Ty) (old b : Word) : Res :=
  match op with
  | 0 => lanes2 ty (fun x y => plain (wrapw ty.width ((x : Int) + (y : Int)))) old b
  | 1 => lanes2 ty (fun x y => satw ty.width true (signedNat ty.width x + signedNat ty.width y)) old b
  | 2 => lanes2 ty (fun x y => plain (if signedNat ty.width y < signedNat ty.width x then y else x)) old b
  | 3 => lanes2 ty (fun x y => plain (if signedNat ty.width x < signedNat ty.width y then y else x)) old b
  | 4 => lanes2 ty (fun x y => plain (min x y)) old b
  | 5 => lanes2 ty (fun x y => plain (max x y)) old b
  | 6 => (old &&& b, Flags.none)
  | 7 => (old ||| b, Flags.none)
  | 8 => (old ^^^ b, Flags.none)
  | 9 => (b, Flags.none)
  | _ => (if b.toNat ≤ old.toNat then 0 else old + 1, Flags.none)

/-- AFADD's new value: each lane rounded to nearest, ties to even (R16, R177). -/
def afaddValue (ty : Ty) (old b : Word) : Res := lanes2 ty (faddLane (Fmt.ofTy ty) 0) old b

/-- What a party has seen of a range so far (R181, R300). -/
def seenDep (s : State) (p : Party) (sp : Space) (a n : Nat) : Dep :=
  (s.seen.filter (fun x => x.party == p.whole && x.space == sp && (wordsOf a n).contains x.addr)).foldl (fun d x => d.join x.dep) {}

/-- What an access of a party in a round orders before the party's next access to the range. DEDUCED (log 46), safe. -/
def addSeen (s : State) (p : Party) (round : Nat) (sp : Space) (a n : Nat) (d : Dep) : State :=
  let q := p.whole
  let one (l : List Seen) (w : Nat) : List Seen :=
    update (fun x => x.party == q && x.round == round && x.space == sp && x.addr == w) (fun x => { x with dep := x.dep.join d })
      (some { party := q, space := sp, addr := w, round := round, dep := d }) l
  { s with seen := (wordsOf a n).foldl one s.seen }

/-- What an access of a node in a round orders before those of nodes that name it (R181). -/
def addNodeDep (s : State) (k : PageKey) (n : Nat) (tag : Tag) (round : Nat) (d : Dep) : State :=
  let l := update (fun x => x.page == k && x.node == n && x.tag == tag && x.round == round) (fun x => { x with dep := x.dep.join d })
    (some { page := k, node := n, tag := tag, round := round, dep := d }) s.nodeDeps
  { s with nodeDeps := l }

/-- What a performed access of a firing orders before what follows it (R182). -/
def addLate (s : State) (r : Req) (d : Dep) : State :=
  match r.issuer with
  | .actor _ _ _ => { s with lateDeps := s.lateDeps ++ [(r.id, d)] }
  | _ => s

/-- A performed or abandoned access lets those behind it go, with what it orders before them (R181). -/
def releaseBehind (s : State) (id : Nat) (d : Dep) : State :=
  { s with reqs := s.reqs.map (fun r => if r.after.contains id then { r with after := r.after.erase id, dep := r.dep.join d } else r) }

/-- A request given up: no result comes. -/
def dropReq (s : State) (id : Nat) : State :=
  let t := s.releaseBehind id {}
  { t with reqs := t.reqs.filter (fun r => r.id != id), walks := t.walks.filter (fun w => w.id != id) }

/-- An access has been performed: its value, flags and ordering stand in the request until delivery. -/
def finish (s : State) (r : Req) (v : DWord) (fl : BitVec 6) (d : Dep) : State :=
  let s1 := s.modReq r.id (fun q => { q with phase := .done, value := v, flags := fl, dep := d })
  let s2 := (((s1.addSeen r.issuer r.round r.space r.addr r.size d).addNodeDep r.issuer.page r.node r.tag r.round d).addLate r d).releaseBehind r.id d
  s2.modFrame ⟨r.ctx.part, r.tag⟩ (fun f => { f with lastFire := s.cycle })

/-- The newest write to each word of a range that a context's view shows: what an atomic returns (R301). DEDUCED (log 47), safe. -/
def newestOf (s : State) (c : CtxId) (sp : Space) (a n : Nat) : List Nat :=
  (wordsOf a n).flatMap (fun b => (((s.writesTo sp b).filter (fun w => w.visible c)).getLast?.map WriteRec.id).toList)

/-- The 4-cycle window behind an atomic (R179). -/
def openWindowAt (s : State) (sp : Space) (a n : Nat) : State :=
  let live := s.windows.filter (fun w => s.cycle.toNat < w.until_.toNat)
  { s with windows := live ++ (wordsOf a n).map (fun b => { space := sp, addr := b, until_ := s.cycle + 4 }) }

/-- A write at the home. An atomic's old value is kept until its round commits; behind the commit point that it waited for, a
write is committed at once, with its undo record and the seal that SYSTEM scope takes (R184, R362). -/
def writeReq (s : State) (r : Req) (w : Who) (atomic : Bool) (bs : List Byte) : Dep × State :=
  let q := s.performWrite w r.space r.addr r.va bs atomic r.needClose
  let s1 := if atomic then q.2.openWindowAt r.space r.addr r.size else q.2
  if r.needClose then
    let s2 := (s1.modCtx r.ctx (fun x => { x with stalled := false })).appendUndo r.ctx ((s1.homeWrites.getLast?.map (undoRecsOf 0)).getD [])
    (q.1, if opScope r.op = some .system ∨ r.space = .host then s2.sealOpen r.ctx else s2)
  else (q.1, s1)

/-- A write behind its commit point finds a full log in stall mode, or log memory that has to be waited for, and waits (R184, R361, R436). -/
def undoStalls (s : State) (r : Req) : Bool :=
  let l := (s.ctx r.ctx).undo
  r.needClose && opWrites r.op &&
    ((l.on && l.stall && !l.windows.isEmpty && l.full (if r.size = 8 then 2 else 1)) || (s.logHeld r.ctx 2).isSome)

/-- 0x30 of a log that holds a write back, once (R350, R361). -/
def tellStall (s : State) (c : CtxId) : State :=
  let x := s.ctx c
  if x.stalled then s
  else (s.modCtx c (fun y => { y with stalled := true })).tellDebug c 0x30
    (BitVec.ofNat 64 ((x.undo.windows.head?.map UndoWindow.num).getD 0)) (BitVec.ofNat 64 ((x.undo.window?.map UndoWindow.num).getD 0))

/-- The ordered-AFADD window of a request's frame and location (R180). -/
def faddWindow? (s : State) (r : Req) : Option FaddWindow :=
  s.fadds.find? (fun w => w.frame == ⟨r.ctx.part, r.tag⟩ && w.space == r.space && w.addr == r.addr)

/-- That window changed; its first contribution opens it. -/
def modFadd (s : State) (r : Req) (f : FaddWindow → FaddWindow) : State :=
  let l := update (fun w => w.frame == ⟨r.ctx.part, r.tag⟩ && w.space == r.space && w.addr == r.addr) f
    (some (f { frame := ⟨r.ctx.part, r.tag⟩, space := r.space, addr := r.addr, home := r.home })) s.fadds
  { s with fadds := l }

/-- The lane type of an AFADD. -/
def faddTy : MemOp → Ty
  | .fadd ty _ _ => ty
  | _ => .f32

/-- One AFADD contribution added at the home (R177, R180). DEDUCED (log 44), unsafe. -/
def addContribution (s : State) (r : Req) : State :=
  let w := s.who r.issuer r.tag (r.dep.join (s.seenDep r.issuer r.space r.addr r.size))
  let w1 : Who := { w with round := r.round }
  let old := BitVec.ofNat 32 (s.viewNat r.space (some r.ctx) r.addr 4)
  let d := readDep w1 (s.newestOf r.ctx r.space r.addr 4)
  let v := afaddValue (faddTy r.op) old (r.b.setWidth 32)
  let q := s.writeReq r { w1 with dep := d } true (bytesOfWord 4 v.1.toNat)
  q.2.finish r (old.setWidth 64) v.2.bits q.1

/-- The held contribution of rank `next` is added, and `next` increments (R180). -/
def foldNext (s : State) (r : Req) : State :=
  (s.addContribution r).modFadd r (fun x =>
    { x with
      starts := if (lookup r.round x.starts).isSome then x.starts else x.starts ++ [(r.round, x.next)]
      next := x.next + 1
      held := x.held.filter (fun h => h.2 != r.id) })

/-- The held contributions of a home whose turn has come, and whose location no atomic window and no other context's atomic
holds (R179, R180, R185). -/
def foldable (s : State) (h : Home) : List Req :=
  (s.fadds.filter (fun w => w.home == h)).filterMap (fun w =>
    match w.held.find? (fun x => x.1 == w.next) with
    | none => none
    | some x => (s.reqs.find? (fun q => q.id == x.2)).filter (fun r =>
        r.phase == .held && !s.windowHolds r.space r.addr r.size && !s.heldByOther r.ctx r.space r.addr r.size))

/-- A cause of path P found at the home (R180): the contribution is discarded, its party stops with its later heads in
place; in a block the firing completes without the instruction. -/
def homeFaultP (s : State) (r : Req) (cause : Nat) (value : Word) : State :=
  let s1 := s.dropReq r.id
  match r.issuer with
  | .actor k b i => s1.faultPast cause k b i r.tag (value.setWidth 64) 0
  | _ => s1.faultP cause r.issuer r.tag value 0


/-- A voiding cause found at the home (R180, R331, R332): the request goes with its round. -/
def homeFaultV (s : State) (r : Req) (f : XFault) : State :=
  (s.dropReq r.id).xlFault r.ctx r.va (opUse r.op) f (s.mseOfReq r) r.tag r.round false

/-- A write whose translation reaches a duplicated frame (R338): the round is voided, the collapse begins, and the
hypervisor's count rises. -/
def replicaFault (s : State) (r : Req) (frame : Nat) : State :=
  let s1 := ((s.dropReq r.id).requestVoid r.ctx r.round).startCollapse r.ctx.part frame
  s1.noteReplica r.ctx (arbOf r.home)

/-- A line whose read was uncorrectable is marked suspect, and 0x29 is logged (R356). -/
def markSuspect (s : State) (who : Word) (sp : Space) (a : Nat) : State :=
  let d := s.dev
  let t : State := { s with dev := { d with
    failing := d.failing.filter (fun x => x != (sp, a / 64))
    suspect := d.suspect ++ [(sp, a / 64)] } }
  t.noteCause 0x15 (arbOf (homeOf sp a)) 0x29 who

/-- The first uncorrectable read of a line by a context (R356): the round is voided. -/
def firstFailure (s : State) (c : CtxId) (round : Nat) (sp : Space) (a : Nat) : State :=
  (s.markSuspect (ctxWord c) sp a).requestVoid c round

/-- The second attempt at a suspect line (R356): it clears the mark and logs 0x59, or the loss is lasting: the tile's
region is to retire, or the frame is poisoned, and the hypervisor is told. -/
def secondTry (s : State) (part : Nat) (c : Option CtxId) (sp : Space) (a : Nat) : Bool × State :=
  let ok := Config.retrySucceeds s.free
  let d := s.dev
  let s1 : State := { s with free := s.free + 1, dev := { d with
    suspect := d.suspect.filter (fun x => x != (sp, a / 64))
    failing := d.failing.filter (fun x => x != (sp, a / 64)) } }
  if ok then (true, s1.eccTransient sp a)
  else
    let s2 : State := match homeOf sp a with
      | .tile t => let d := s1.dev
        { s1 with dev := { d with
            retiring := if d.retiring.contains (t / 2) then d.retiring else d.retiring ++ [t / 2]
            poisonedWords := d.poisonedWords ++ (List.range 16).map (fun i => a / 64 * 16 + i) } }
      | .mse _ => { s1 with dev := { s1.dev with poisoned := s1.dev.poisoned ++ [a / 4096] } }
    let unit := match homeOf sp a with
      | .tile t => t
      | .mse m => m
    (false, s2.tellHyp part 0x50 (BitVec.ofNat 64 a) (BitVec.ofNat 64 unit) c)

/-- The second attempt of a request. -/
def secondAttempt (s : State) (r : Req) : Bool × State :=
  let q := s.secondTry r.ctx.part (some r.ctx) r.space r.addr
  if q.1 then q else (false, q.2.homeFaultP r 0x50 (BitVec.ofNat 32 r.addr))

/-- An access performed by its kind (R174, R175, R177, R178, R180). -/
def performOp (s : State) (r : Req) : State :=
  let w0 := s.who r.issuer r.tag (r.dep.join (s.seenDep r.issuer r.space r.addr r.size))
  let w : Who := { w0 with round := r.round, newest := r.waited }
  match r.op with
  | .load sg =>
    let q := s.readWord w r.space r.addr r.size
    let v : Nat := if r.size < 4 ∧ sg then wrapw 32 (signedNat (8 * r.size) q.1) else q.1
    q.2.2.finish r (BitVec.ofNat 64 v) 0 (readDep w q.2.1.toList)
  | .store =>
    let q := s.writeReq r w false (bytesOfWord r.size r.b.toNat)
    q.2.finish r 0 0 q.1
  | .atomic op ty _ =>
    let old := BitVec.ofNat 32 (s.viewNat r.space (some r.ctx) r.addr 4)
    let v := atomicValue op ty old (r.b.setWidth 32)
    let q := s.writeReq r { w with dep := readDep w (s.newestOf r.ctx r.space r.addr 4) } true (bytesOfWord 4 v.1.toNat)
    q.2.finish r (old.setWidth 64) v.2.bits q.1
  | .cas _ =>
    let old := BitVec.ofNat 32 (s.viewNat r.space (some r.ctx) r.addr 4)
    let d := readDep w (s.newestOf r.ctx r.space r.addr 4)
    if old = r.a.setWidth 32 then
      let q := s.writeReq r { w with dep := d } true (bytesOfWord 4 (r.b.setWidth 32 : Word).toNat)
      q.2.finish r (old.setWidth 64) 0 q.1
    else (s.openWindowAt r.space r.addr r.size).finish r (old.setWidth 64) 0 d
  | .fadd _ _ none => s.addContribution r
  | .fadd _ _ (some p) =>
    let next := ((s.faddWindow? r).map FaddWindow.next).getD 0
    let held := ((s.faddWindow? r).map FaddWindow.held).getD []
    if p < next ∨ held.any (fun h => h.1 == p) then s.homeFaultP r 0x38 (BitVec.ofNat 32 p)
    else
      let s1 := (s.modReq r.id (fun q => { q with phase := .held })).modFadd r (fun x => { x with held := x.held ++ [(p, r.id)] })
      if p = next then s1.foldNext r else s1
  | .load8 =>
    let q := s.readPair w r.space r.addr
    q.2.2.finish r q.1 0 (readDep w q.2.1)
  | .store8 =>
    let q := s.writeReq r w false (bytesOfWord 8 r.b.toNat)
    q.2.finish r 0 0 q.1
  | .cas8 _ =>
    let old := BitVec.ofNat 64 (s.viewNat r.space (some r.ctx) r.addr 8)
    let d := readDep w (s.newestOf r.ctx r.space r.addr 8)
    if old = r.a then
      let q := s.writeReq r { w with dep := d } true (bytesOfWord 8 r.b.toNat)
      q.2.finish r old 0 q.1
    else (s.openWindowAt r.space r.addr r.size).finish r old 0 d
  | .fence _ _ _ => s

/-- A request at the head of its queue may be performed (R179 to R181, R185, R294, R310, R332, R338, R340, R436). -/
def performable (s : State) (r : Req) : Bool :=
  r.after.isEmpty && !s.reqs.any (mustFollow r) && !s.windowHolds r.space r.addr r.size && !s.heldByOther r.ctx r.space r.addr r.size &&
  !(opWrites r.op && s.collapseAt r.ctx.part r.space r.addr) && !s.pullAt r.ctx.part r.space r.addr &&
  !(opWrites r.op && s.imageAt r.space r.addr && s.faultHeld (s.mseOfReq r) r.ctx true r.va) && !s.undoStalls r &&
  !(match r.home with
    | .mse m => s.dev.retraining.contains m
    | .tile _ => false) &&
  (match r.op with
    | .store | .store8 => s.bufferRoom r.ctx r.round r.space r.addr r.size
    | .fadd _ _ (some p) =>
      match s.faddWindow? r with
      | some x => decide (p < x.next + 32)
      | none => decide (p < 32 ∧ (s.fadds.filter (fun x => x.home == r.home)).length < 64)
    | _ => true)

/-- A request taken by its home's arbiter: performed, or a cause found at the home. -/
def performReq (s : State) (r : Req) : State :=
  if r.phase = .held then s.foldNext r else
  let x : XFault :=
    match s.translate r.ctx (opUse r.op) r.va with
    | .ok t => { cause := 0x25, stage2 := true, gpa := t.gpa, level := t.level2 }
    | .error _ => { cause := 0x25, stage2 := true }
  if r.space == .host && !s.dev.pcieUp then
    (s.dropReq r.id).postVoid (.hypervisor r.ctx.part) (hostRec r.ctx r.va r.addr r.tag r.round (s.regionOf r.issuer.page))
  else if r.space == .dram && s.dev.poisoned.contains (r.addr / 4096) then
    (s.dropReq r.id).postVoid (.hypervisor r.ctx.part)
      { cause := 0x2B, info0 := BitVec.ofNat 64 r.va, info1 := BitVec.ofNat 64 r.addr, flags := 0x40, ctxid := ctxWord r.ctx, tag := r.tag,
        round := r.round, ctx := some r.ctx, lreg := s.regionOf r.issuer.page }
  else if opWrites r.op && s.imageAt r.space r.addr then s.homeFaultV r x
  else if opWrites r.op && s.replicaAt r.ctx.part r.space r.addr then s.replicaFault r (s.frameOf r.space r.addr)
  else if !(match r.op with
      | .store | .store8 => true
      | _ => false) && s.wordLost r.space r.addr r.size then
    (s.tellHyp r.ctx.part 0x50 (BitVec.ofNat 64 r.addr) (BitVec.ofNat 64 (r.addr / 2 ^ 21)) (some r.ctx)).homeFaultP r 0x50 (BitVec.ofNat 32 r.addr)
  else if !(match r.op with
      | .store | .store8 => true
      | _ => false) && s.dev.failing.contains (r.space, r.addr / 64) then
    (s.dropReq r.id).firstFailure r.ctx r.round r.space r.addr
  else if !(match r.op with
      | .store | .store8 => true
      | _ => false) && s.dev.suspect.contains (r.space, r.addr / 64) then
    let q := s.secondAttempt r
    if q.1 then q.2.performOp r else q.2
  else
    let t := s.performOp r
    let used := (t.bufferLines r.home (r.round % 2) (fun w => w.ctx == r.ctx && w.round == r.round)).length
    if t.bufferCap r.home r.ctx * 3 ≤ used * 4 then t.requestClose r.ctx 1 else t

/-- Requests in the order in which they entered their queue. -/
def byEntry (l : List Req) : List Req :=
  l.foldr (fun r acc =>
    acc.takeWhile (fun q => decide (q.entered.toNat < r.entered.toNat)) ++ r :: acc.dropWhile (fun q => decide (q.entered.toNat < r.entered.toNat))) []

/-- What stands at the head of a queue: the first request that no other context's atomic keeps waiting at the home (R185, R294). -/
def front (s : State) (l : List Req) : Option Req := (byEntry l).find? (fun r => !s.aside r)

/-- The heads of a home's port queues that may be performed now, and the held contributions whose turn has come. DESIGN CHOICE (log 39), safe. -/
def readyHeads (s : State) (h : Home) : List Req :=
  let waiting := s.reqs.filter (fun r => r.home == h && r.phase == .queued && r.closing.isNone)
  let ports := (waiting.map Req.port).eraseDups
  s.foldable h ++ (ports.filterMap (fun q => s.front (waiting.filter (fun r => r.port == q)))).filter s.performable

/-- A request taken and performed; the Logbook records the port queue that it came from (R179, R306, R367). -/
def takeReq (s : State) (h : Home) (r : Req) : State :=
  (if r.phase = .held then s else (s.decideBy (arbOf h) r.ctx r.round r.port).2).performReq r

/-- A replay of the arbiter's choices lets the request be taken (R315, R364). -/
def replayLets (s : State) (h : Home) (r : Req) : Bool :=
  r.phase == .held || (s.replayInput (arbOf h) r.ctx).all (fun q => q == r.port)

/-- One request taken by a home's arbiter: the oldest that may be performed; among those that entered in one cycle an
open choice; in a replay, of a context's requests the one whose turn the Logbook recorded. A replay that STEP-ROUNDS makes
stops where the recorded choice cannot be taken (R294, R306, R315, R364). -/
def arbitrate (s : State) (h : Home) : State :=
  let all := s.readyHeads h
  let rs := all.filter (s.replayLets h)
  let oldest := rs.foldl (fun m r => min m r.entered.toNat) (2 ^ 64)
  match rs.filter (fun r => r.entered.toNat == oldest) with
  | [] =>
    match all.find? (fun r => (s.ctx r.ctx).stepsLeft.isSome) with
    | none => s
    | some r => let c := s.choose 2; if c.1 = 0 then c.2 else c.2.diverge r.ctx (arbOf h)
  | [r] => s.takeReq h r
  | r :: more =>
    let c := s.choose (more.length + 1)
    match (r :: more)[c.1]? with
    | some q => c.2.takeReq h q
    | none => c.2.takeReq h r

/-- Requests that have to follow an access which waits for a close wait for it too, and are performed behind the commit point
as that one is (R181, R184). -/
def joinClose (s : State) (h : Home) : State :=
  { s with reqs := s.reqs.map (fun r =>
    if r.home = h ∧ (r.phase = .queued ∨ r.phase = .entering) ∧ r.closing = none then
      match s.reqs.find? (fun q => mustFollow r q && (match q.phase with
        | .waitClose _ => true
        | _ => false)) with
      | some q => { r with phase := q.phase, needClose := true }
      | none => r
    else r) }

end State

/-- HOME_ARBITRATE (R294): a request that waits for a port queue with room enters it, and the home's arbiter takes a request
from the queues. -/
def execHomeArbitrate (s : State) : Out :=
  match s.cur with
  | some (.home h q) =>
    let t := (s.letIn h q).joinClose h
    .next (match t.reqs.find? (fun r => r.home == h && r.phase == .queued && t.undoStalls r) with
      | some r => (t.tellStall r.ctx).arbitrate h
      | none => t.arbitrate h)
  | _ => .fault .noParty

/-- WRITE_BACK (R294, R311): the home writes its oldest committed entry, the head of its write-back queue, back to memory once no
atomic window holds a word of it; the arbiter's choice is recorded (R306). -/
def execWriteBack (s : State) : Out :=
  match s.cur with
  | some (.home h _) =>
    .next (match s.homeWrites.find? (fun w => w.committed && w.home == h) with
      | none => s
      | some w =>
        if s.windowHolds w.space w.addr w.bytes.length then s
        else ({ s.land w.space w.addr w.bytes with homeWrites := s.homeWrites.erase w } : State).noteChoice
          (State.arbOf w.home) 4)
  | _ => .fault .noParty

/-! ### Responses -/

namespace State

/-- A delivered request leaves the reorder buffer; one that waited for a commit point stays until the round of its
delivery commits. -/
def deliverDone (s : State) (r : Req) : State :=
  if r.needClose then s.modReq r.id (fun q => { q with phase := .given })
  else { s with reqs := s.reqs.filter (fun q => q.id != r.id) }

/-- The flags of a response, as AFLG bits (R29, R177). -/
def flagsOfBits (b : BitVec 6) : Flags :=
  { iv := b.getLsbD 0, dz := b.getLsbD 1, ofl := b.getLsbD 2, uf := b.getLsbD 3, nx := b.getLsbD 4, sat := b.getLsbD 5 }

/-- The oldest access of an element delivered: its result on every route, or the closing token behind the results
(R79, R173, R177). -/
def respondElem (s : State) (k : PageKey) (n : Nat) (e : Ecw) (r : Req) : State :=
  if !(s.dyn k).outFree n e then s
  else
    match r.closing with
    | some t =>
      let s1 := s.deliverDone r
      if t.kind = .strike then s1.sendBoth k n e t
      else if t.kind = .eor then s1.modDyn k (fun d => d.forward n e t)
      else s1.forwardEnd k n e t
    | none =>
      if r.phase != .done then s
      else
        let v : Val := { v := r.value.setWidth 32, sc := r.sc, dep := r.dep }
        let s1 := s.deliverDone r
        let s2 := if r.keep then s1.sendBoth k n e (v.token r.tag) else s1
        s2.raiseFlags (flagsOfBits r.flags) (.elem k n) r.tag v.v

/-- A response in a firing: its instruction's targets take it; LDX and ACAS.D give the low word to T1 and the high word
to T2 (R172, R175, R178). -/
def respondBlock (s : State) (k : PageKey) (b i : Nat) (r : Req) : State :=
  match s.page? k, s.firing? k b, s.header? k b with
  | some p, some f, some h =>
    if r.phase != .done then s
    else if !(f.waits.contains (i, .access r.id)) then s.deliverDone r
    else
      let ts := p.targets h i
      let t1 := (ts[0]?).getD .none
      let t2 := (ts[1]?).getD .none
      if !s.targetRoom k [t1, t2] then s
      else
        let wide := r.op == .load8 || (match r.op with
          | .cas8 _ => true
          | _ => false)
        let lo : Val := { v := r.value.setWidth 32, sc := r.sc, dep := r.dep }
        let hi : Val := if wide then { v := r.value.extractLsb' 32 32, sc := r.sc, dep := r.dep } else lo
        let s1 := (s.deliverDone r).modFiring k b (fun f =>
          let g := f.didFire i
          if r.op = .load8 then { g with ldx := g.ldx.map (fun x => if x.1 = i then (x.1, x.2.1, some r.value) else x) } else g)
        let s2 := (s1.deliverTo k b i false t1 .data r.tag lo).deliverTo k b i true t2 .data r.tag hi
        s2.raiseFlags (flagsOfBits r.flags) (.actor k b i) r.tag lo.v
  | _, _, _ => s.deliverDone r

end State

/-- The region quad of a page's actor tile. -/
def State.quadOf (s : State) (k : PageKey) : Nat := s.regionByte k / 4

/-- Two requests share a reorder buffer: that of an actor tile's memory port, or of a memory node (R295). -/
def State.sameBuffer (s : State) (r q : Req) : Bool :=
  decide (r.node < 8 ∧ q.node < 8) && match r.issuer, q.issuer with
  | .actor k _ _, .actor l _ _ => s.quadOf k == s.quadOf l
  | .actor _ _ _, _ => false
  | _, .actor _ _ _ => false
  | p, x => p.page == x.page && r.node == q.node

/-- No earlier response of its reorder buffer is still to be delivered before a request's. An access that waits for the close
it has requested holds no other response back (R184, R295). -/
def State.atHead (s : State) (r : Req) : Bool :=
  !s.reqs.any (fun q => decide (q.id < r.id) && q.phase != .given && !State.waitsClose q && s.sameBuffer r q)

/-- ACCESS_RESPONSE (R295): the oldest response of an issuer, delivered in the issue order of its reorder buffer. -/
def execAccessResponse (s : State) : Out :=
  match s.cur with
  | some (.party p) =>
    .next (match s.reqs.find? (fun r => r.issuer == p && r.phase != .given) with
      | none => s
      | some r =>
        if !s.atHead r then s
        else match p with
        | .elem k n => match s.page? k with
          | some g => s.respondElem k n (g.ecw n) r
          | none => s.deliverDone r
        | .actor k b i => s.respondBlock k b i r
        | _ => if r.phase = .done then s.deliverDone r else s)
  | _ => .fault .noParty

/-! ### Walks and drain tokens -/

/-- TLB_WALK_STEP (R298, R325): a walk reads one table entry and continues, completes or faults; a request that found no room
for its walk begins it. -/
def execTlbWalkStep (s : State) : Out :=
  match s.cur with
  | some (.unit id) =>
    .next (match s.walks.find? (fun w => w.id == id) with
      | none => match s.reqs.find? (fun r => r.id == id) with
        | some r => match r.phase with
          | .translating m => s.beginWalk r m
          | _ => s
        | none => s
      | some w =>
        let drop (t : State) : State := { t with walks := t.walks.filter (fun x => x.id != id) }
        let restart : State := { s with walks := update (fun x => x.id == id) (fun x => { x with pos := .start, table := none, leaf1 := none, level1 := 0xFF }) none s.walks }
        let fault (f : XFault) : State :=
          if s.faultHeld w.mse w.ctx f.stage2 w.va then restart
          else ((drop s).dropReq id).xlFault w.ctx w.va w.use f w.mse w.tag w.round w.window
        match s.walkStep w with
        | .fault { pull := some q, cause, stage2, walk, gpa, level } =>
          if cause = 0x28 then
            s.waitPull w.ctx.part q (State.xlRec w.ctx w.va w.use { cause := cause, stage2 := stage2, walk := walk, gpa := gpa, level := level } w.mse w.tag w.round w.window)
          else s
        | .more w' => { s.cacheTable w with walks := update (fun x => x.id == id) (fun _ => w') none s.walks }
        | .fault f => fault f
        | .done x =>
          match permFault w.use x with
          | some f => fault f
          | none =>
            let s1 := if w.cached then ((drop s).cacheTable w).tlbFill w.mse w.ctx w.va x else drop s
            s1.enterHome id x.space (s1.backedFor id w.mse x.space x.pa))
  | _ => .fault .noParty

namespace State

/-- A record of the engines, appended at the close of the round in which it is performed (R230). DEDUCED (log 77), safe. -/
def engineRecord (s : State) (c : CtxId) (r : UndoRec) : State :=
  if (s.ctx c).undo.on then s.modUndo c (fun l => { l with engine := l.engine ++ [r] }) else s

/-- A mapping record: the page's address and zero; its width is not stated (R230, R359). -/
def swapRecord (s : State) (c : CtxId) (va : Nat) : State :=
  let r : UndoRec :=
    { kind := 1, wid := (Config.freeWord s.free).toNat % 4, space := 1, addr := va, old := 0, round := (s.ctx c).round, window := 0 }
  ({ s with free := s.free + 1 } : State).engineRecord c r

/-- An invalidation whose last acknowledgement is in (R222, R334, R338, R339): a publication's stores become the
visible ones, a removed block begins its scrub; an INVAL that waits for it gives 0 in its own turn (R236). -/
def invalDone (s : State) (v : Inval) : State :=
  let s0 : State := { s with invals := s.invals.filter (fun x => x.id != v.id) }
  let s1 : State :=
    if v.publish then
      let news := s0.understudies.filter (fun u => u.publish == some v.id)
      let isNew (u : Understudy) : Bool := news.any (fun x => x.space == u.space && x.frame == u.frame)
      let olds := news.filterMap (fun n =>
        if s0.understudies.any (fun u => u.state == .visible && u.space == n.space && u.frame == n.frame) then none
        else some { n with store := n.frame, state := .former, publish := none, since := v.id, maker := none })
      let kept (u : Understudy) : Bool := u.state != .former || u.since != v.id || ((v.ctx.map (fun c => (s0.ctx c).undo.on)).getD false)
      let t : State := { s0 with understudies := ((s0.understudies.map (fun u =>
          if u.publish = some v.id then { u with state := .visible, publish := none }
          else if u.state = .visible ∧ isNew u then { u with state := .former, since := v.id } else u)) ++ olds).filter kept }
      match v.ctx with
      | some c => news.foldl (fun x u => x.swapRecord c u.va) t
      | none => t
    else s0
  let s4 : State := match v.block with
    | some b => { s1 with dev := { s1.dev with blocks := s1.dev.blocks.zipIdx.map (fun x =>
        if x.2 = b then (match x.1 with
          | BlockState.removing _ dst => BlockState.scrubbing dst
          | y => y) else x.1) } }
    | none => s1
  let s5 := if v.publish then s4 else s4.retranslate v.part (coversRing v)
  if v.hcmd then { s5 with dev := { s5.dev with hbusy := false, hcause := 0, irqs := s5.dev.irqs ++ [8] } } else s5

end State

/-- DRAIN_ACK (R222, R334): the drain token of an invalidation reaches an MSE once everything ahead of it has been translated; the
MSE drops what matches and acknowledges; the last acknowledgement completes it. Ahead of a publication's token is what was issued
before the token's arrival, whoever issued it. At most 8 invalidations of a partition are in progress. The cores (24) and the host
(25) acknowledge a PUBLISH under .SYSTEM for their own cached translations. -/
def execDrainAck (s : State) : Out :=
  match s.cur with
  | some (.units id m) =>
    .next (if 24 ≤ m then { s with msgs := s.msgs.map (fun x => if x.waits = some id then { x with acks := x.acks.erase m } else x) }
      else match s.invals.find? (fun v => v.id == id) with
      | none => s
      | some v =>
        let ahead := (s.invals.takeWhile (fun x => x.id != id)).filter (fun x => x.part == v.part)
        if 8 ≤ ahead.length || !v.pending.contains m then s
        else
          let v1 : Inval := if v.publish && !v.reached.any (fun x => x.1 == m) then { v with reached := v.reached ++ [(m, s.nextId)] } else v
          let first := if v.publish then (lookup m v1.reached).getD 0 else id
          let concerned (c : CtxId) : Bool := v.publish || State.invalHits v c
          let walking := s.walks.any (fun w => w.mse == m && decide (w.id < first) && concerned w.ctx) ||
            s.reqs.any (fun r => r.phase == .translating m && decide (r.id < first) && concerned r.ctx)
          let v' : Inval := if walking then v1 else { v1 with drains := v1.drains.filter (fun d => d.1 != m) }
          let s0 : State := { s with invals := update (fun x => x.id == id) (fun _ => v') none s.invals }
          if walking then s0 else
          let s1 : State := { s0 with
            tlb := if v.publish then s.tlb else s.tlb.filter (fun e => !(e.mse == m && State.invalDrops v e))
            walkCache := if v.publish then s.walkCache else s.walkCache.filter (fun e => !(e.mse == m && State.cacheDrops v e))
            walks := s.walks.map (fun w => if w.mse = m ∧ State.invalHits v w.ctx then { w with cached := false } else w) }
          if v'.pending.isEmpty then s1.invalDone v' else s1)
  | _ => .fault .noParty

end Sys2Proof.Machine
end

