-- ==== Sys2Proof/Machine/Direct.lean ====
section
/-!
DEFINITION. Accesses that generators and islands make word by word in their own turn (R166, R198, R304): the address
checked and translated, the conditions of its home, and the words read and written.
-/
namespace Sys2Proof.Machine

/-- How far an access in the issuer's own turn comes. -/
inductive Reach where
  /-- Its home, an earlier access or a full buffer holds it back. -/
  | wait (t : State)
  /-- A cause of path P. -/
  | stop (cause : Nat) (t : State)
  /-- The round is voided. -/
  | gone (t : State)
  /-- The address at which it is performed. -/
  | ready (sp : Space) (pa : Nat) (t : State)
  deriving DecidableEq

namespace State

/-- The record of an access to a poisoned frame (R350, R357). -/
def poisonRec (s : State) (k : PageKey) (va pa : Nat) (tag : Tag) (round : Nat) : FaultRec :=
  { cause := 0x2B, info0 := BitVec.ofNat 64 va, info1 := BitVec.ofNat 64 pa, flags := 0x40, ctxid := ctxWord k.ctx, tag := tag,
    round := round, ctx := some k.ctx, lreg := s.regionOf k }

/-- The home holds an access back (R179, R185, R310, R338, R340, R436). -/
def homeHolds (s : State) (h : Home) (c : CtxId) (round : Nat) (sp : Space) (pa size : Nat) (write : Bool) : Bool :=
  s.windowHolds sp pa size || s.heldByOther c sp pa size ||
    s.pullAt c.part sp pa || (write && s.collapseAt c.part sp pa) ||
    (match h with
      | .mse m => s.dev.retraining.contains m
      | .tile _ => false) ||
    (write && !s.bufferRoom c round sp pa size)

/-- An access that enters a port queue of its home now would not be taken at once (R294, R315): the queue's head is held, a
request that entered before it and may be performed touches the same words, or a replay has another input's turn. -/
def portHolds (s : State) (h : Home) (p : Party) (sp : Space) (pa size : Nat) : Bool :=
  let q := portOf p h (s.regionOf p.page)
  (s.front (s.queueOf h q)).any (fun r => !s.performable r) ||
    (s.readyHeads h).any (fun r => r.space == sp && overlaps (r.addr / 4 * 4) ((r.addr + r.size + 3) / 4 * 4 - r.addr / 4 * 4) pa size) ||
    !(s.replayInput (arbOf h) p.page.ctx).all (fun x => x == q)

/-- The arbiter takes an access that its port queue passes at once; the Logbook records the queue (R294, R306, R367). -/
def takeDirect (s : State) (h : Home) (p : Party) (round : Nat) : State :=
  (s.decideBy (arbOf h) p.page.ctx round (portOf p h (s.regionOf p.page))).2

/-- The record of an access whose frame is lost: 0x28, in the layout of the translation causes (R332, R340, R350). -/
def lostRec (s : State) (c : CtxId) (use : WalkFor) (va mse : Nat) (tag : Tag) (round : Nat) (window : Bool) : FaultRec :=
  let f : XFault := match s.translate c use va with
    | .ok x => { cause := 0x28, stage2 := true, gpa := x.gpa, level := x.level2 }
    | .error _ => { cause := 0x28, stage2 := true }
  xlRec c va use f mse tag round window

/-- An access of a party to an address of a memory node or of a gathered table: translated, then checked at its home. DEDUCED (log 168), safe. -/
def reachAt (s : State) (p : Party) (mse : Nat) (sram : Bool) (a size : Nat) (write window : Bool) (tag : Tag) (round : Nat) : Reach :=
  let k := p.page
  let use : WalkFor := if write then .write else .read
  let found : Except XFault (Space × Nat × State) :=
    if sram then .ok (.sram, a, s)
    else match s.translateAt mse k.ctx use a with
      | .ok (x, t) => .ok (x.space, t.backed (some mse) x.space x.pa, t)
      | .error f => .error f
  match found with
  | .error f =>
    match f.pull with
    | some w => .wait (if f.cause = 0x28 then s.waitPull k.ctx.part w (xlRec k.ctx a use f mse tag round window) else s)
    | none => .gone (s.xlFault k.ctx a use f mse tag round window)
  | .ok (sp, pa, t) =>
    let h := if sram then homeOf sp pa else t.servedBy mse sp pa write
    let ready (u : State) : Reach := .ready sp pa (u.takeDirect h p round)
    if t.pullAt k.ctx.part sp pa then .wait (t.waitPull k.ctx.part (t.frameOf sp pa) (t.lostRec k.ctx use a mse tag round window))
    else if t.homeHolds h k.ctx round sp pa size write || t.portHolds h p sp pa size then .wait t
    else if sp = .host ∧ !t.dev.pcieUp then .gone (t.postVoid (.hypervisor k.ctx.part) (hostRec k.ctx a pa tag round (t.regionOf k)))
    else if sp = .dram ∧ t.dev.poisoned.contains (pa / 4096) then
      .gone (t.postVoid (.hypervisor k.ctx.part) (t.poisonRec k a pa tag round))
    else if write ∧ t.imageAt sp pa then
      let at_ : Nat × Nat := match t.translate k.ctx use a with
        | .ok x => (x.gpa, x.level2)
        | .error _ => (0, 0)
      .gone (t.xlFault k.ctx a use { cause := 0x25, stage2 := true, gpa := at_.1, level := at_.2 } mse tag round window)
    else if write ∧ t.replicaAt k.ctx.part sp pa then
      .gone (((t.requestVoid k.ctx round).startCollapse k.ctx.part (t.frameOf sp pa)).noteReplica k.ctx (arbOf h))
    else if !write ∧ t.wordLost sp pa size then
      .stop 0x50 (t.tellHyp k.ctx.part 0x50 (BitVec.ofNat 64 pa) (BitVec.ofNat 64 (pa / 2 ^ 21)) (some k.ctx))
    else if !write ∧ t.dev.failing.contains (sp, pa / 64) then .gone (t.firstFailure k.ctx round sp pa)
    else if !write ∧ t.dev.suspect.contains (sp, pa / 64) then
      let q := t.secondTry k.ctx.part (some k.ctx) sp pa
      if q.1 then ready q.2 else .stop 0x50 q.2
    else ready t

/-- Earlier accesses of the nodes that a node names in its order mask hold back one of this tag (R181). -/
def maskHolds (s : State) (k : PageKey) (mask : Nat) (tag : Tag) : Bool :=
  s.reqs.any (fun q => q.closing.isNone && q.phase != .done && q.phase != .given && q.issuer.page == k && q.tag == tag && bitsOf mask q.node 1 == 1)

/-- An access to a position of a memory node: the checks of R169 and those of its home. -/
def reachNode (s : State) (y : Party) (n : Nat) (pos : Int) (size : Nat) (write window : Bool) (tag : Tag) (round : Nat) : Reach :=
  let k := y.page
  match s.page? k with
  | none => .wait s
  | some p =>
    let d := p.desc n
    if pos < 0 then .stop 0x2C s
    else match s.checkAccess k n pos.toNat size with
      | .error c => .stop c s
      | .ok a => if s.maskHolds k d.order tag then .wait s else s.reachAt y (s.mseOf k d.sport) (d.nkind == 1) a size write window tag round

/-- `n` words read one after the other, lowest first, with the writes that they returned. -/
def readRow (s : State) (w : Who) (sp : Space) (a : Nat) : Nat → List Word × List Nat × State
  | 0 => ([], [], s)
  | n + 1 =>
    let q := s.readWord w sp a 4
    let r := q.2.2.readRow w sp (a + 4) n
    (BitVec.ofNat 32 q.1 :: r.1, q.2.1.toList ++ r.2.1, r.2.2)

/-- An element of 1, 2 or 4 bytes, or a row of 64, read: its words, zero-extended, and the ordering that its value
carries. -/
def readElem (s : State) (w : Who) (sp : Space) (a size : Nat) : List Word × Dep × State :=
  if size < 4 then
    let q := s.readWord w sp a size
    ([BitVec.ofNat 32 q.1], readDep w q.2.1.toList, q.2.2)
  else
    let q := s.readRow w sp a (size / 4)
    (q.1, readDep w q.2.1, q.2.2)

/-- Bytes stored, with the close that a home buffer three quarters full asks for (R308, R310). -/
def storeElem (s : State) (w : Who) (sp : Space) (a va : Nat) (bs : List Byte) : Dep × State :=
  let q := s.performWrite w sp a va bs false false
  let h := homeOf sp a
  let used := (q.2.bufferLines h (w.round % 2) (fun x => x.ctx == w.ctx && x.round == w.round)).length
  (q.1, if q.2.bufferCap h w.ctx * 3 ≤ used * 4 then q.2.requestClose w.ctx 1 else q.2)

/-- The words of a row as one beat. -/
def rowOf (ws : List Word) : BitVec 512 := BitVec.ofNat 512 (wordOfBytes (ws.flatMap (fun w => bytesOfWord 4 w.toNat)))

/-- The bytes of a beat, lowest first. -/
def rowBytes (r : BitVec 512) : List Byte := bytesOfWord 64 r.toNat

end State

end Sys2Proof.Machine
end

