-- ==== Sys2Proof/Machine/Steering.lean ====
section
/-!
DEFINITION. The meanings of the steering, merging, stream-end, strike, counting, folding and tag opcodes (05).
-/
namespace Sys2Proof.Machine

/-- A token that closes or cuts a stream. -/
def Token.ends (t : Token) : Bool := t.kind == .eor || t.kind == .eos || t.kind == .cue

/-- The level of an EOR (R47). -/
def Token.level (t : Token) : Nat := t.pay.toNat % 8

/-- An EOR of at least this level, or an EOS; `only` leaves the EOS alone (R147, R150, R152). -/
def Token.closes (t : Token) (level : Nat) (only : Bool) : Bool :=
  t.kind == .eos || (t.kind == .eor && !only && level ≤ t.level)

namespace State

/-- Per-tag state of an instruction of a block (R135). -/
def insSt (s : State) (k : PageKey) (b i : Nat) (t : Tag) : TagState := ((s.dyn k).actor b).instrSt i t
/-- Per-tag state of an instruction of a block replaced. -/
def setInsSt (s : State) (k : PageKey) (b i : Nat) (st : TagState) : State :=
  s.modDyn k (fun d => d.modActor b (fun a => a.setInstr i st))
/-- A taken head of any kind passed on both routes, data as a result. -/
def passBoth (s : State) (k : PageKey) (n : Nat) (e : Ecw) (t : Token) : State :=
  if t.kind = .data then s.emitBoth k n e t.tag t.val else s.sendBoth k n e t
/-- A taken head of any kind passed on ROUTE0 alone. -/
def passFirst (s : State) (k : PageKey) (n : Nat) (e : Ecw) (t : Token) : State :=
  if t.kind = .data then s.emitOn k n e false t.tag t.val else s.sendTok k n e false t
/-- A result in one of the two targets of an instruction that has fired (R142, R153). -/
def giveOne (s : State) (k : PageKey) (b i : Nat) (w : Blk) (second : Bool) (tag : Tag) (v : Val) : State :=
  (s.giveNone k b i).deliverTo k b i second (if second then w.t2 else w.t1) .data tag v

end State

/-- STEER (R142): the value on ROUTE0 (T1) when the condition is nonzero, on ROUTE1 (T2) otherwise; closing tokens go on
both routes, each EOS with the route's own count. -/
def execSteer (f : Form) (s : State) : Out :=
  runForm f s
    (fun e k n => fireWith
      { stdRule false e k n with
        closing := fun t x => (x.takeAll k n e t).modDyn k (fun d => ((d.sendClose n e false t).sendClose n e true t).endTag n t) }
      (fun _ _ => none) (fun g t => t.emitOn k n e (g.b.v == 0) g.tag (g.val 2 g.a.v)) e k n s)
    (fun w k b i => fireBlock true true 0 (fun g t => t.giveOne k b i w (g.b.v == 0) g.tag (g.val 2 g.a.v)) w k b i s)

/-- The block form of the merges (R144): the left slot's value as soon as it fills; the right slot's once the left
slot's producer has completed without filling it. -/
def mergeBlock (w : Blk) (k : PageKey) (b i : Nat) (s : State) : State :=
  match s.firing? k b, s.page? k with
  | some f, some p =>
    match p.header? b with
    | none => s
    | some h =>
      let q := if w.pm = .always then some (Val.plain 0) else f.slot i .pred
      let tab := insTable p h
      let past := f.fired ++ deadIns tab f tab.length
      let v := match f.slot i .left with
        | some v => some v
        | none => if slotOver tab f past i .left then f.slot i .right else none
      match q, v with
      | some c, some x =>
        match s.blockGate k b i w with
        | none => if s.blockFree k b i w f then s.spillFor k b i w f else s
        | some _ => if predHolds w.pm c.v then s.give k b i w f.tag { x with dep := x.dep.join c.dep } else s.giveNone k b i
      | _, _ => s
  | _, _ => s

/-- The end of a merge (R143): both heads end the stream; of one kind and tag they are consumed and one is forwarded,
else neither can be matched. Cues wait for those of the other fed queues. -/
def mergeEnds (e : Ecw) (k : PageKey) (n : Nat) (a b : Token) (s : State) : State :=
  if a.kind = .cue ∧ b.kind = .cue ∧ a.pay = b.pay then s
  else if a.kind = b.kind ∧ a.tag = b.tag ∧ a.kind ≠ .cue then takePair (fun x => x.forwardEnd k n e a) e k n a s
  else if s.elemFree k n e a.tag then s.faultP 0x36 (.elem k n) a.tag a.pay 0
  else s

/-- The two merges of R143 that choose between present heads: `pick` names the queue and records the choice, which is
made once the head can be taken; `solo` says whether a lone head may be taken while the other queue is empty. -/
def mergeElem (solo : Token → Bool) (pick : Token → Token → State → QueueName × State)
    (e : Ecw) (k : PageKey) (n : Nat) (s : State) : State :=
  let take (q : QueueName) (s : State) : State :=
    takeHead q (fun t x => (x.modDyn k (fun d => d.modElem n (fun y => { y with last := some q }))).passBoth k n e t) e k n s
  match s.fedCue k n e with
  | some t => if s.elemFree k n e t.tag then s.cueElem k n e true t else s
  | none =>
    match (s.dyn k).qhead n .L, (s.dyn k).qhead n .R with
    | none, none => s
    | some a, none => if a.ends || !solo a then s else take .L s
    | none, some b => if b.ends || !solo b then s else take .R s
    | some a, some b =>
      if a.ends && b.ends then mergeEnds e k n a b s
      else if a.ends then take .R s
      else if b.ends then take .L s
      else
        let r := pick a b s
        if s.headFree r.1 e k n then take r.1 r.2 else take r.1 s

/-- MERGE (R143): alternates between present heads; the Logbook records the choice. -/
def execMerge (f : Form) (s : State) : Out :=
  runForm f s
    (fun e k n => mergeElem (fun _ => true) (fun _ _ t =>
      let alt := if ((t.dyn k).elem n).last = some .L then 1 else 0
      let r := t.decideBy (t.regionByte k * 128 + n) k.ctx (t.roundOf k.ctx ((t.dyn k).elem n).cut) alt
      (if r.1 = 0 then .L else .R, r.2)) e k n s)
    (fun w k b i => mergeBlock w k b i s)

/-- OMERGE (R143): the smaller head, L on a tie; a strike goes before any data. -/
def execOmerge (f : Form) (s : State) : Out :=
  let key (v : Word) : Int := if f.md = 1 then (v.toNat : Int) else v.toInt
  runForm f s
    (fun e k n => mergeElem (fun t => t.kind == .strike) (fun a b t =>
      (if a.kind = .strike then .L else if b.kind = .strike then .R
       else if key a.pay ≤ key b.pay then .L else .R, t)) e k n s)
    (fun w k b i => mergeBlock w k b i s)

/-- CMERGE in an element (R143): the condition on R selects L or P; closing tokens of all three leave as one. DESIGN CHOICE (log 135), unsafe. -/
def cmergeElem (e : Ecw) (k : PageKey) (n : Nat) (s : State) : State :=
  match s.fedCue k n e with
  | some t => if s.elemFree k n e t.tag then s.cueElem k n e true t else s
  | none =>
    match (s.dyn k).qhead n .R with
    | none => s
    | some c =>
      if !s.elemGate k n e c.tag then s.elemWaits k n e c.tag
      else if c.kind = .data then
        let q : QueueName := if c.pay = 0 then .P else .L
        match (s.dyn k).qhead n q with
        | none => s
        | some t =>
          if t.ends then s
          else match (s.dyn k).qheads n (auxQueues e) with
            | none => s
            | some us =>
              if !us.all (fun u => u.tag == t.tag && u.kind == t.kind) then s.faultP 0x36 (.elem k n) t.tag t.pay 0
              else if e.sckr.fails c.sc || (q == .L && t.kind == .data && e.sckl.fails t.sc) then s.faultP 0x34 (.elem k n) c.tag t.pay 0
              else
                let s1 := (s.touch k t.tag).modDyn k (fun d => (d.popAll n ([.R, q] ++ auxQueues e)).countFiring n e t.tag)
                let v : Val := { v := t.pay, sc := t.sc || c.sc, dep := us.foldl (fun (x : Dep) (u : Token) => x.join u.dep) (t.dep.join c.dep) }
                if t.kind = .data then s1.emitBoth k n e t.tag v else s1.sendBoth k n e t
      else
        match (s.dyn k).qheads n ([.L, .R, .P] ++ auxQueues e) with
        | none => s
        | some ts =>
          if ts.all (fun t => t.kind == c.kind && t.tag == c.tag) then
            let l := (ts.head?).getD c
            let s1 := (s.touch k c.tag).modDyn k (fun d => d.popAll n ([.L, .R, .P] ++ auxQueues e))
            if c.kind = .strike then s1.sendBoth k n e l else s1.forwardEnd k n e l
          else s.faultP 0x36 (.elem k n) c.tag c.pay 0

/-- CMERGE (R143, R144). -/
def execCmerge (f : Form) (s : State) : Out :=
  runForm f s (fun e k n => cmergeElem e k n s) (fun w k b i => mergeBlock w k b i s)

/-- GATE in an element (R145): L passes under the tag's credit, R adds credit or is absorbed. -/
def gateElem (e : Ecw) (k : PageKey) (n : Nat) (s : State) : State :=
  match s.fedCue k n e with
  | some t => if s.elemFree k n e t.tag then s.cueElem k n e true t else s
  | none =>
    let l : Option Token := (s.dyn k).qhead n .L
    let passes : Bool := match l with
      | some t => t.kind != .cue && (t.kind != .data || 0 < (s.tagSt k n t.tag).count)
      | none => false
    if passes then
      takeHead .L (fun t x =>
        if t.kind = .data then (x.modTag k n t.tag (fun st => { st with count := st.count - 1 })).emitBoth k n e t.tag t.val
        else if t.kind = .strike then x.sendBoth k n e t
        else x.forwardEnd k n e t) e k n s
    else
      match (s.dyn k).qhead n .R with
      | none => s
      | some r =>
        if r.kind = .cue then s
        else if !s.elemGate k n e r.tag then s.elemWaits k n e r.tag
        else if r.kind = .data ∧ e.sckr.fails r.sc then s.faultP 0x34 (.elem k n) r.tag r.pay 0
        else
          let s1 := (s.touch k r.tag).modDyn k (fun d => d.pop (.queue n .R))
          if r.kind = .data then s1.modTag k n r.tag (fun st => { st with count := Nat.min (st.count + r.pay.toNat) (2 ^ 32 - 1) })
          else s1

/-- GATE (R145): in a block, the left operand when the right one is nonzero. -/
def execGate (f : Form) (s : State) : Out :=
  runForm f s (fun e k n => gateElem e k n s)
    (fun w k b i => fireBlock true true 0 (fun g t =>
      if g.b.v = 0 then t.giveNone k b i else t.give k b i w g.tag (g.val 2 g.a.v)) w k b i s)

/-- DUP (R146): every head of L on both routes with its payload unchanged; the left operand in both targets. -/
def execDup (f : Form) (s : State) : Out :=
  runForm f s
    (fun e k n => fireWith
      { strikes := fun t x => (x.takeAll k n e t).sendBoth k n e t
        closing := fun t x => ((x.takeAll k n e t).sendBoth k n e t).modDyn k (fun d => d.endTag n t) }
      (fun _ _ => none) (fun g t => t.emitBoth k n e g.tag (g.val 1 g.a.v)) e k n s)
    (fun w k b i => fireBlock true false 0 (fun g t => t.give k b i w g.tag (g.val 1 g.a.v)) w k b i s)

/-- DROP (R146): data and strikes consumed without output; closing tokens by EOSP, an EOS with payload 0. -/
def execDrop (f : Form) (s : State) : Out :=
  runForm f s
    (fun e k n => fireWith
      { strikes := fun t x => x.takeAll k n e t, closing := fun t x => x.closeElem k n e t }
      (fun _ _ => none) (fun _ t => t) e k n s)
    (fun w k b i => fireBlock true false 0 (fun _ t => t.giveNone k b i) w k b i s)

/-- REPEAT's replay: the next stored token of the pass; behind the last pass, a waiting EOS may leave (R147). -/
def repeatReplay (e : Ecw) (k : PageKey) (n : Nat) (t : Tag) (s : State) : State :=
  let st := s.tagSt k n t
  match st.seg[st.replay]? with
  | some x =>
    let last := st.replay + 1 == st.seg.length
    let st' : TagState :=
      if last then (if st.passes ≤ 1 then { st with seg := [], replay := 0, passes := 0 } else { st with replay := 0, passes := st.passes - 1 })
      else { st with replay := st.replay + 1 }
    ((s.touch k t).modTag k n t (fun _ => st')).sendBoth k n e x
  | none => s.modTag k n t (fun y => { y with seg := [], replay := 0, passes := 0 })

/-- REPEAT (R147): a segment of L emitted as it arrives and then replayed by the count that R gives. DESIGN CHOICE (log 136), unsafe. -/
def repeatElem (e : Ecw) (k : PageKey) (n : Nat) (s : State) : State :=
  let x := (s.dyn k).elem n
  let lev := e.x.toNat % 8
  let only := bitsOf e.x.toNat 3 1 == 1
  match x.tags.find? (fun st => 0 < st.passes && x.openTag.isNone) with
  | some st => if s.elemGate k n e st.tag then repeatReplay e k n st.tag s else s.elemWaits k n e st.tag
  | none =>
    match s.fedCue k n e with
    | some t => if s.elemFree k n e t.tag then s.cueElem k n e true t else s
    | none =>
      match (s.dyn k).qhead n .L with
      | none => s
      | some t =>
        if t.kind = .cue then s
        else if !s.elemGate k n e t.tag then s.elemWaits k n e t.tag
        else match x.openTag with
          | none =>
            match (s.dyn k).qhead n .R with
            | none => s
            | some r =>
              if r.tag ≠ t.tag then s.faultP 0x36 (.elem k n) t.tag t.pay 0
              else if r.kind = .data ∧ e.sckr.fails r.sc then s.faultP 0x34 (.elem k n) r.tag r.pay 0
              else if r.kind = .data then
                (((s.touch k t.tag).modDyn k (fun d => d.pop (.queue n .R))).modTag k n t.tag (fun st => { st with need := some r.pay.toNat, seg := [], replay := 0, passes := 0, count := 0 })).modDyn k
                  (fun d => d.modElem n (fun y => { y with openTag := some t.tag }))
              else if t.kind = .eos ∧ r.kind = .eos then takePair (fun y => y.forwardEnd k n e t) e k n t s
              else if r.kind = .strike ∨ r.kind = .eor then (s.touch k r.tag).modDyn k (fun d => d.pop (.queue n .R))
              else if r.kind = .cue then s
              else s.faultP 0x36 (.elem k n) t.tag t.pay 0
          | some o =>
            if t.tag ≠ o then s
            else
              let st := s.tagSt k n o
              let c := st.need.getD 0
              if t.kind = .eos then
                (s.modTag k n o (fun y => { y with need := none, replay := 0, passes := c - 1, seg := if c ≤ 1 then [] else y.seg })).modDyn k
                  (fun d => d.modElem n (fun y => { y with openTag := none }))
              else if t.kind = .data ∧ 64 ≤ st.count then s.faultP 0x39 (.elem k n) t.tag t.pay 0
              else
                let ends := t.closes lev only
                takeHead .L (fun t y =>
                  let y1 := y.modTag k n o (fun st => { st with
                    seg := st.seg ++ [t]
                    count := if t.kind = .data then st.count + 1 else st.count
                    ctr := if t.kind = .eor then 0 else st.ctr })
                  let y2 := if c = 0 ∧ !ends then y1 else y1.sendBoth k n e t
                  if ends then
                    (y2.modTag k n o (fun st => { st with need := none, replay := 0, passes := c - 1, seg := if c ≤ 1 then [] else st.seg })).modDyn k
                      (fun d => d.modElem n (fun z => { z with openTag := none }))
                  else y2) e k n s

/-- REPEAT (R147). -/
def execRepeatSeg (e : Ecw) (s : State) : Out := runEcw s (fun k n => repeatElem e k n s)

/-- What a counter keeps of the tokens it counts: the OR of their SC, and their order (R38, R181). -/
def counted (acc : Option Val) (sc : Bool) (dep : Dep) : Val :=
  let a := acc.getD (Val.plain 0)
  { a with sc := a.sc || sc, dep := a.dep.join dep }

/-- COUNT (R152): in an element, the tag's data tokens counted and emitted at the closing tokens that X selects; in a
block, the number of earlier firings for the tag. DESIGN CHOICE (log 137), unsafe. -/
def execCount (f : Form) (s : State) : Out :=
  let lev := f.x % 8
  let only := bitsOf f.x 3 1 == 1
  let fwd := bitsOf f.x 4 1 == 1
  runForm f s
    (fun e k n => fireWith
      { strikes := fun t x => if fwd then (x.takeAll k n e t).sendTok k n e true t else x.strikeElem k n e t
        closing := fun t x =>
          let y := x.takeAll k n e t
          let st := y.tagSt k n t.tag
          let seen := st.acc.getD (Val.plain 0)
          let y1 := if t.closes lev only then
              (y.sendTok k n e false { kind := .data, sc := seen.sc, tag := t.tag, pay := BitVec.ofNat 32 st.count, dep := t.dep.join seen.dep }).modTag k n t.tag (fun z => { z with count := 0, acc := none })
            else y
          y1.forwardEnd k n e t }
      (fun _ _ => none)
      (fun g t =>
        let t1 := t.modTag k n g.tag (fun st => { st with count := st.count + 1, acc := some (counted st.acc g.a.sc g.dep) })
        if fwd then t1.emitOn k n e true g.tag (g.val 1 g.a.v) else t1) e k n s)
    (fun w k b i => fireBlock true true 0 (fun g t =>
      let st := t.insSt k b i g.tag
      (t.setInsSt k b i { st with count := if g.b.v = 0 then (st.count + 1) % 2 ^ 32 else 0 }).give k b i w g.tag
        (g.val 2 (BitVec.ofNat 32 st.count))) w k b i s)

/-- A word as an integer of the type's signedness. -/
def wordInt (t : Ty) (v : Word) : Int := if t.signed then v.toInt else (v.toNat : Int)

/-- One emission of ITER's running series, and the EOR behind the last (R153). -/
def iterStep (e : Ecw) (k : PageKey) (n : Nat) (t : Tag) (s : State) : State :=
  let st := s.tagSt k n t
  match st.acc with
  | some v =>
    let x := wordInt e.ty v.v
    let nx := x + wordInt e.ty (BitVec.ofNat 32 st.count)
    let lim := wordInt e.ty (BitVec.ofNat 32 (st.need.getD 0))
    let more := nx ≤ laneMax 32 e.ty.signed && x < nx && nx < lim
    (s.modTag k n t (fun y => { y with
      acc := if more then some { v with v := BitVec.ofInt 32 nx } else none
      ended := !more && bitsOf e.x.toNat 3 1 == 0 })).emitBoth k n e t v
  | none =>
    (s.modTag k n t (fun y => { y with ended := false })).sendBoth k n e
      { kind := .eor, tag := t, pay := BitVec.ofNat 32 (e.x.toNat % 8) }

/-- ITER (R153): in an element, the indices from a start token below the limit by the step, then an EOR; in a block,
the sum to T1 when it is below the third operand, to T2 otherwise. -/
def execIter (f : Form) (s : State) : Out :=
  runForm f s
    (fun e k n =>
      match ((s.dyn k).elem n).tags.find? (fun st => st.acc.isSome || st.ended) with
      | some st => if s.elemGate k n e st.tag then iterStep e k n st.tag (s.touch k st.tag) else s.elemWaits k n e st.tag
      | none => fireElem false (fun _ _ => none) (fun g t =>
          let go := decide (wordInt e.ty g.a.v < wordInt e.ty g.b.v)
          let t1 := t.modTag k n g.tag (fun y => { y with
            acc := if go then some (g.val 2 g.a.v) else none
            need := some g.b.v.toNat
            count := g.c.v.toNat
            ended := !go && bitsOf e.x.toNat 3 1 == 0 })
          if go || bitsOf e.x.toNat 3 1 == 0 then iterStep e k n g.tag t1 else t1) e k n s)
    (fun w k b i => fireBlock true true (thirdOf w k b s) (fun g t =>
      let v := g.a.v + g.b.v
      t.giveOne k b i w (!decide (wordInt w.ty v < wordInt w.ty g.c.v)) g.tag (g.val 3 v)) w k b i s)

/-- STRIKE.MAKE (R150): each data token becomes a strike whose key is its payload. -/
def execStrikeMake (f : Form) (s : State) : Out :=
  runForm f s
    (fun e k n => fireElem false (fun _ _ => none)
      (fun g t => t.sendBoth k n e { kind := .strike, tag := g.tag, pay := g.a.v, dep := g.dep }) e k n s)
    (fun w k b i => fireBlock true false 0
      (fun g t => t.giveAs k b i w .strike g.tag { v := g.a.v, dep := g.dep }) w k b i s)

/-- STRIKE.ANNUL's treatment of a head of L that passes on ROUTE0 (R150, R343). -/
def annulPass (e : Ecw) (k : PageKey) (n : Nat) (s : State) : State :=
  takeHead .L (fun t y =>
    if t.kind = .data then (y.modTag k n t.tag (fun st => { st with count := st.count + 1 })).passFirst k n e t
    else if t.kind = .strike then y.sendTok k n e false t
    else
      let y1 := y.modDyn k (fun d => d.sendClose n e false t)
      (y1.modDyn k (fun d => d.endTag n t)).modTag k n t.tag (fun st =>
        if t.kind = .eor ∧ bitsOf e.x.toNat 1 3 ≤ t.level then { st with count := 0 } else st)) e k n s

/-- STRIKE.ANNUL (R150, R343): the data tokens of L at the positions that strikes on R name are removed. -/
def annulElem (e : Ecw) (k : PageKey) (n : Nat) (s : State) : State :=
  let fwd := bitsOf e.x.toNat 0 1 == 1
  match s.fedCue k n e with
  | some t => if s.elemFree k n e t.tag then s.cueElem k n e fwd t else s
  | none =>
    match (s.dyn k).qhead n .L, (s.dyn k).qhead n .R with
    | _, none => s
    | none, some r => if r.kind = .data ∧ s.elemGate k n e r.tag then s.faultP 0x37 (.elem k n) r.tag r.pay 0 else s
    | some l, some r =>
      let q := (s.tagSt k n l.tag).count
      if !s.elemGate k n e l.tag then s.elemWaits k n e l.tag
      else if r.kind = .data then s.faultP 0x37 (.elem k n) r.tag r.pay 0
      else if l.kind = .strike then annulPass e k n s
      else if r.kind ≠ .cue ∧ l.kind ≠ .cue ∧ l.tag ≠ r.tag then s.faultP 0x36 (.elem k n) l.tag l.pay 0
      else if r.kind = .strike then
        if r.pay.toNat < q ∨ l.kind = .eor ∨ l.kind = .eos then s.faultP 0x37 (.elem k n) r.tag r.pay 0
        else if l.kind = .cue then s
        else if q < r.pay.toNat then annulPass e k n s
        else
          takeHead .L (fun t y =>
            let y1 := (y.modDyn k (fun d => d.pop (.queue n .R))).modTag k n t.tag (fun st => { st with count := st.count + 1 })
            if fwd then y1.sendTok k n e true r else y1) e k n s
      else if r.kind = .cue then (if l.kind = .data ∨ l.kind = .eor then annulPass e k n s else s)
      else if l.kind = .cue then s
      else if l.kind = r.kind then
        takePair (fun y =>
          let y1 := if e.eosp = .absorb then y
            else y.modDyn k (fun d => if fwd && e.eosp == .forward then (d.sendClose n e false l).sendClose n e true l else d.sendClose n e false l)
          let y2 := y1.modTag k n l.tag (fun st => if l.kind = .eor ∧ bitsOf e.x.toNat 1 3 ≤ l.level then { st with count := 0 } else st)
          let y3 := y2.modDyn k (fun d => d.endTag n l)
          if l.kind = .eos ∧ e.eosp = .absorb then y3.sinkEos k n l.tag else y3) e k n l s
      else annulPass e k n s

/-- STRIKE.ANNUL (R150). -/
def execStrikeAnnul (e : Ecw) (s : State) : Out := runEcw s (fun k n => annulElem e k n s)

/-- JOIN in an element (R154): one head of L or R at a time, counted when X selects its kind. DEDUCED (log 31), unsafe. -/
def joinHead (e : Ecw) (q : QueueName) (k : PageKey) (n : Nat) (s : State) : State :=
  takeHead q (fun t y =>
    let sel := match t.kind with
      | .data => bitsOf e.x.toNat 0 1 == 1
      | .eor => bitsOf e.x.toNat 1 1 == 1
      | .eos => bitsOf e.x.toNat 2 1 == 1
      | _ => false
    if sel then
      let need := Nat.max 1 ((s.dyn k).cValue n e t.tag).toNat
      let st := y.tagSt k n t.tag
      let c := st.count + 1
      let seen := counted st.acc t.sc t.dep
      let y1 := if t.kind = .eor then y.modDyn k (fun d => d.endTag n t) else y
      if need ≤ c then
        (y1.modTag k n t.tag (fun z => { z with count := 0, acc := none })).emitBoth k n e t.tag { seen with v := BitVec.ofNat 32 c }
      else y1.modTag k n t.tag (fun z => { z with count := c, acc := some seen })
    else if t.kind = .eor ∨ t.kind = .eos then
      let y1 := y.modDyn k (fun d => d.forward n e t)
      let y2 := if t.kind = .eos then
          (if e.qR && (y.tagSt k n t.tag).eosSeen == 0 then y1.modTag k n t.tag (fun st => { st with eosSeen := 1 }) else y1.modDyn k (fun d => d.endTag n t))
        else y1.modDyn k (fun d => d.endTag n t)
      if t.kind = .eos ∧ e.eosp = .absorb then y2.sinkEos k n t.tag else y2
    else y) e k n s

/-- JOIN (R154): a counting barrier; in a block, one per firing of the instruction for the tag. -/
def execJoin (f : Form) (s : State) : Out :=
  runForm f s
    (fun e k n =>
      match s.fedCue k n e with
      | some t => if s.elemFree k n e t.tag then s.cueElem k n e true t else s
      | none =>
        let live (q : QueueName) : Bool := match (s.dyn k).qhead n q with
          | some t => t.kind != .cue
          | none => false
        if live .L then joinHead e .L k n s else if e.qR && live .R then joinHead e .R k n s else s)
    (fun w k b i => fireBlock true true 0 (fun g t =>
      let st := t.insSt k b i g.tag
      let need := Nat.max 1 g.b.v.toNat
      if need ≤ st.count + 1 then
        (t.setInsSt k b i { st with count := 0 }).give k b i w g.tag (g.val 2 (BitVec.ofNat 32 need))
      else (t.setInsSt k b i { st with count := st.count + 1 }).giveNone k b i) w k b i s)

/-- One step of a fold: .ADD, .MIN or .MAX (R155). -/
def foldOp (t : Ty) (md x : Nat) (a v : Word) : Res :=
  if t.isFloat then
    match x % 4 with
    | 0 => lanes2 t (faddLane (Fmt.ofTy t) md) a v
    | 1 => lanes2 t (fminLane (Fmt.ofTy t) false false) a v
    | _ => lanes2 t (fminLane (Fmt.ofTy t) true false) a v
  else
    match x % 4 with
    | 0 => if md = 1 then satOp t (fun p q => p + q) a v else wrapOp t (fun p q => p + q) a v
    | 1 => wrapOp t (fun p q => min p q) a v
    | _ => wrapOp t (fun p q => max p q) a v

/-- A contribution folded into an accumulator; the first one starts the fold (R42). -/
def foldIn (t : Ty) (md x : Nat) (acc : Option Val) (v : Val) : Val × Flags :=
  match acc with
  | none => (v, Flags.none)
  | some a => let r := foldOp t md x a.v v.v; ({ v := r.1, sc := a.sc || v.sc, dep := a.dep.join v.dep }, r.2)

/-- Contributions folded in order. -/
def foldAll (t : Ty) (md x : Nat) : Option Val → List Val → Option Val × Flags
  | acc, [] => (acc, Flags.none)
  | acc, v :: vs =>
    let r := foldIn t md x acc v
    let q := foldAll t md x (some r.1) vs
    (q.1, r.2.union q.2)

/-- The held ranks that follow on without a gap, in order, and what stays held (R155). DEDUCED (log 35), unsafe. -/
def takeRanks (next : Nat) (held : List (Nat × Option Val)) : Nat → Nat × List Val × List (Nat × Option Val)
  | 0 => (next, [], held)
  | f + 1 =>
    match lookup next held with
    | none => (next, [], held)
    | some v =>
      let r := takeRanks (next + 1) (held.filter (fun h => h.1 != next)) f
      (r.1, v.toList ++ r.2.1, r.2.2)

/-- A rank (or its absence) held in the window, and whatever can be folded then (R155, R156). -/
def holdRank (t : Ty) (md x : Nat) (st : TagState) (p : Nat) (v : Option Val) : TagState × Flags :=
  let held := st.held ++ [(p, v)]
  let r := takeRanks st.next held held.length
  let q := foldAll t md x st.acc r.2.1
  ({ st with next := r.1, held := r.2.2, acc := q.1 }, q.2)

/-- The window's next rank is past this one, or it is held already (R137, R155). -/
def rankBad (st : TagState) (p : Nat) : Bool := p < st.next || (lookup p st.held).isSome

/-- The closing tokens on which REDUCE and SCANP close their window (R57). -/
def windowCloses (e : Ecw) (t : Token) : Bool := t.closes e.rwin.toNat (6 ≤ e.rwin.toNat)

/-- Held contributions in ascending rank. -/
def insertRank (h : Nat × Option Val) : List (Nat × Option Val) → List (Nat × Option Val)
  | [] => [h]
  | x :: xs => if h.1 ≤ x.1 then h :: x :: xs else x :: insertRank h xs

/-- REDUCE in an element (R155). DESIGN CHOICE (log 138), unsafe. -/
def reduceElem (e : Ecw) (k : PageKey) (n : Nat) (s : State) : State :=
  let unord := bitsOf e.x.toNat 2 1 == 1
  let md := e.md.toNat
  let x := e.x.toNat
  fireWith
    { ready := fun g t => unord || rankBad (t.tagSt k n g.tag) g.b.v.toNat || g.b.v.toNat < (t.tagSt k n g.tag).next + 32
      strikes := fun t y =>
        if unord then y.takeAll k n e t
        else
          let st := y.tagSt k n t.tag
          let p := t.pay.toNat
          if rankBad st p then y.faultP 0x38 (.elem k n) t.tag t.pay 0
          else if st.next + 32 ≤ p then y
          else
            let r := holdRank e.ty md x st p none
            ((y.takeAll k n e t).modTag k n t.tag (fun _ => r.1)).raiseFlags r.2 (.elem k n) t.tag ((r.1.acc.map Val.v).getD 0)
      closing := fun t y =>
        let y1 := y.takeAll k n e t
        if windowCloses e t then
          let st := y.tagSt k n t.tag
          let rest := (st.held.foldr insertRank []).filterMap (·.2)
          let r := foldAll e.ty md x st.acc rest
          let y2 := y1.modTag k n t.tag (fun z => { z with acc := none, next := 0, held := [] })
          match r.1 with
          | some v => ((y2.sendBoth k n e (v.token t.tag)).forwardEnd k n e t).raiseFlags r.2 (.elem k n) t.tag v.v
          | none => y2.forwardEnd k n e t
        else y1.forwardEnd k n e t }
    (fun g t => if !unord && rankBad (t.tagSt k n g.tag) g.b.v.toNat then some (0x38, g.b.v, 0) else none)
    (fun g t =>
      let st := t.tagSt k n g.tag
      let v : Val := { v := g.a.v, sc := g.a.sc, dep := g.dep }
      if unord then
        let r := foldIn e.ty md x st.acc v
        (t.modTag k n g.tag (fun z => { z with acc := some r.1 })).raiseFlags r.2 (.elem k n) g.tag r.1.v
      else
        let r := holdRank e.ty md x st g.b.v.toNat (some v)
        (t.modTag k n g.tag (fun _ => r.1)).raiseFlags r.2 (.elem k n) g.tag ((r.1.acc.map Val.v).getD 0)) e k n s

/-- REDUCE (R155, R156): a fold of the window's contributions, by rank or in arrival order. -/
def execReduce (f : Form) (s : State) : Out :=
  runForm f s (fun e k n => reduceElem e k n s)
    (fun w k b i => fireBlock true true 0 (fun g t =>
      let st := t.insSt k b i g.tag
      let p := g.b.v.toNat % 2 ^ 31
      if rankBad st p || st.next + 32 ≤ p then t.faultP 0x38 (.actor k b i) g.tag g.b.v 0
      else
        let r := holdRank w.ty w.md.toNat w.x.toNat st p (some { v := g.a.v, sc := g.a.sc || g.b.sc, dep := g.dep })
        let last := if g.b.v.getLsbD 31 then some p else st.need
        let st' : TagState := { r.1 with need := last }
        let t1 := match last, r.1.acc with
          | some l, some v => if l < r.1.next then (t.setInsSt k b i { tag := g.tag }).give k b i w g.tag v
                              else (t.setInsSt k b i st').giveNone k b i
          | _, _ => (t.setInsSt k b i st').giveNone k b i
        t1.raiseFlags r.2 (.actor k b i) g.tag ((r.1.acc.map Val.v).getD 0)) w k b i s)

/-- One contribution to a running fold, and what is emitted: the fold after it, or before it under X[3] (R157). DEDUCED (log 33), unsafe. -/
def scanStep (t : Ty) (md x : Nat) (before v : Val) : Val × Val × Flags :=
  let r := foldIn t md x (some before) v
  (r.1, if bitsOf x 3 1 = 1 then { r.1 with v := before.v } else r.1, r.2)

/-- SCANP (R157): a running fold per tag, reset at the window's close or by a nonzero right operand. -/
def execScanp (f : Form) (s : State) : Out :=
  runForm f s
    (fun e k n => fireWith
      { strikes := fun t x => x.strikeElem k n e t
        closing := fun t x =>
          let y := x.takeAll k n e t
          (if windowCloses e t then y.modTag k n t.tag (fun st => { st with acc := none }) else y).forwardEnd k n e t }
      (fun _ _ => none)
      (fun g t =>
        let before := ((t.tagSt k n g.tag).acc).getD g.c
        let r := scanStep e.ty e.md.toNat e.x.toNat before { v := g.a.v, sc := g.a.sc, dep := g.dep }
        ((t.modTag k n g.tag (fun st => { st with acc := some r.1 })).emitBoth k n e g.tag r.2.1).raiseFlags r.2.2 (.elem k n) g.tag r.2.1.v) e k n s)
    (fun w k b i =>
      let x := w.x.toNat
      fireBlock true true (s.blockConst k b (bitsOf x 4 4) (bitsOf x 8 2)) (fun g t =>
        let st := t.insSt k b i g.tag
        let r := scanStep w.ty w.md.toNat (x % 16) (st.acc.getD g.c) { v := g.a.v, sc := g.a.sc || g.b.sc, dep := g.dep }
        ((t.setInsSt k b i { st with acc := if g.b.v = 0 then some r.1 else none }).give k b i w g.tag r.2.1).raiseFlags r.2.2 (.actor k b i) g.tag r.2.1.v) w k b i s)

/-- MKEOS's own closing token: an EOS of payload n, or an EOR after which the next count is taken (R148). -/
def mkeosOwn (e : Ecw) (k : PageKey) (n : Nat) (t : Tag) (count : Nat) (s : State) : State :=
  if e.md = 1 then
    (s.modTag k n t (fun st => { st with need := none, count := 0 })).sendBoth k n e
      { kind := .eor, tag := t, pay := BitVec.ofNat 32 (e.x.toNat % 8) }
  else
    (s.modTag k n t (fun st => { st with ended := true })).sendBoth k n e { kind := .eos, tag := t, pay := BitVec.ofNat 32 count }

/-- MKEOS in an element (R148). -/
def mkeosElem (e : Ecw) (k : PageKey) (n : Nat) (s : State) : State :=
  match s.fedCue k n e with
  | some t => if s.elemFree k n e t.tag then s.cueElem k n e true t else s
  | none =>
    let takeR (r : Token) : Bool :=
      let st := s.tagSt k n r.tag
      r.kind == .eor || r.kind == .eos || r.kind == .strike || (r.kind == .data && st.need.isNone && !st.ended)
    match (s.dyn k).qhead n .L, (s.dyn k).qhead n .R with
    | _, some r =>
      if takeR r then
        if !s.elemGate k n e r.tag then s.elemWaits k n e r.tag
        else if r.kind = .data ∧ e.sckr.fails r.sc then s.faultP 0x34 (.elem k n) r.tag r.pay 0
        else
          let s1 := (s.touch k r.tag).modDyn k (fun d => d.pop (.queue n .R))
          if r.kind = .data then
            let s2 := s1.modTag k n r.tag (fun st => { st with need := some r.pay.toNat, count := 0 })
            if r.pay = 0 then mkeosOwn e k n r.tag 0 s2 else s2
          else if r.kind = .eos then
            if (s.tagSt k n r.tag).eosSeen = 2 then s1.modDyn k (fun d => d.modElem n (fun x => x.freeTag r.tag))
            else s1.modTag k n r.tag (fun st => { st with eosSeen := 1 })
          else s1
      else mkeosLeft e k n s
    | _, none => mkeosLeft e k n s
where
  /-- A closing token of L has left: behind an EOS the tag's state goes, once R's own EOS has been absorbed too (R126). -/
  mkeosEnd (e : Ecw) (k : PageKey) (n : Nat) (t : Token) (seen : Nat) (s : State) : State :=
    if t.kind = .eos ∧ e.qR ∧ seen = 0 then s.modTag k n t.tag (fun st => { st with eosSeen := 2 }) else s
  /-- The head of L: data passes under the count; a closing token waits for the count of R, or for R's end, and comes
  behind MKEOS's own. -/
  mkeosLeft (e : Ecw) (k : PageKey) (n : Nat) (s : State) : State :=
    match (s.dyn k).qhead n .L with
    | none => s
    | some l =>
      let st := s.tagSt k n l.tag
      let uncounted : Bool := st.need.isNone && !st.ended
      if l.kind = .cue ∨ (l.kind = .data ∧ uncounted) ∨ ((l.kind = .eor ∨ l.kind = .eos) ∧ uncounted ∧ e.qR ∧ st.eosSeen = 0) then s
      else
        takeHead .L (fun t y =>
          if t.kind = .data then
            let c := st.count + 1
            let y1 := (y.modTag k n t.tag (fun z => { z with count := c })).emitBoth k n e t.tag t.val
            if st.need = some c ∧ !st.ended then mkeosOwn e k n t.tag c y1 else y1
          else if t.kind = .strike then y.sendBoth k n e t
          else if st.ended ∧ t.kind = .eos then mkeosEnd e k n t st.eosSeen (y.modDyn k (fun d => d.endTag n t))
          else
            let y1 := if st.need.isSome ∧ !st.ended then mkeosOwn e k n t.tag (st.need.getD 0) y else y
            mkeosEnd e k n t st.eosSeen ((y1.modTag k n t.tag (fun z => { z with need := none })).forwardEnd k n e t)) e k n s

/-- MKEOS (R148): in a block, an EOS of the left operand or an EOR at the emit port that T1 names. -/
def execMkeos (f : Form) (s : State) : Out :=
  runForm f s (fun e k n => mkeosElem e k n s)
    (fun w k b i => fireBlock true false 0 (fun g t =>
      if w.md = 1 then t.giveAs k b i w .eor g.tag { v := BitVec.ofNat 32 (w.x.toNat % 8), dep := g.dep }
      else t.giveAs k b i w .eos g.tag { v := g.a.v, dep := g.dep }) w k b i s)

/-- TAGR (R158): the tag of the left token or of the firing. -/
def execTagr (f : Form) (s : State) : Out := scalar f 1 (fun g => (g.tag.setWidth 32, Flags.none)) s

/-- A tag is that of a live frame of the context (R158). -/
def State.liveTag (s : State) (c : CtxId) (t : Tag) : Bool := s.frames.any (fun f => f.key == ⟨c.part, t⟩ && f.ctx == c)

/-- TAGW (R158): the left data token under another live tag of the context; any other tag is 0x3B. -/
def execTagw (f : Form) (s : State) : Out :=
  let tagOf (g : Args) : Tag := g.b.v.setWidth 12
  runForm f s
    (fun e k n => fireElem false
      (fun g t => if t.liveTag k.ctx (tagOf g) then none else some (0x3B, g.b.v, 0))
      (fun g t => t.modDyn k (fun d =>
        if d.keeps n e g.tag then d.sendBoth n e ((g.val 1 g.a.v).token (tagOf g)) else d)) e k n s)
    (fun w k b i => fireBlock true true 0 (fun g t =>
      if t.liveTag k.ctx (tagOf g) then t.giveAs k b i w .data (tagOf g) (g.val 1 g.a.v)
      else t.faultP 0x3B (.actor k b i) g.tag g.b.v 0) w k b i s)

/-- NEXTI (R159): in an element, L delayed by one token per tag, the C operand first; in a block, the slots that T1
and T2 name are filled in the actor's next firing of the tag. DESIGN CHOICE (log 140), unsafe. -/
def execNexti (f : Form) (s : State) : Out :=
  runForm f s
    (fun e k n => fireElem false (fun _ _ => none)
      (fun g t =>
        let out := ((t.tagSt k n g.tag).acc).getD g.c
        (t.modTag k n g.tag (fun st => { st with acc := some { v := g.a.v, sc := g.a.sc, dep := g.dep } })).emitBoth k n e g.tag
          { out with dep := out.dep.join g.dep }) e k n s)
    (fun w k b i => fireBlock true false 0
      (fun g t =>
        let v := g.val 1 g.a.v
        let put (x : Target) : List (Tag × Nat × Side × Val) := match x with
          | .left j => [(g.tag, j.toNat, .left, v)]
          | .right j => [(g.tag, j.toNat, .right, v)]
          | .pred j => [(g.tag, j.toNat, .pred, v)]
          | _ => []
        (t.giveNone k b i).modDyn k (fun d => d.modActor b (fun a => { a with nexts := a.nexts ++ put w.t1 ++ put w.t2 }))) w k b i s)

/-- ARG (R161): the value of an argument slot of the page. -/
def execArg (f : Form) (s : State) : Out :=
  let v : Word := match s.cur with
    | some (.party p) => ((s.turnArgs p.page)[f.x % 32]?).getD 0
    | _ => 0
  scalar f 0 (fun _ => (v, Flags.none)) s

/-- RCLOSE (R163): the left operand, and a request to close the context's round. -/
def execRclose (f : Form) (s : State) : Out :=
  runForm f s
    (fun e k n => fireElem false (fun _ _ => none)
      (fun g t => (t.emitBoth k n e g.tag (g.val 1 g.a.v)).requestClose k.ctx 2) e k n s)
    (fun w k b i => fireBlock true false 0
      (fun g t => (t.give k b i w g.tag (g.val 1 g.a.v)).requestClose k.ctx 2) w k b i s)

end Sys2Proof.Machine
end

