-- ==== Sys2Proof/Machine/Buffers.lean ====
section
/-!
DEFINITION. The circular buffers of actors (R128 to R134) and the meanings of the instructions that read and write them.
-/
namespace Sys2Proof.Machine

namespace Cb

/-- Filled slots ahead of the first cue mark (R130, R136, R141). -/
def visible (c : Cb) : List Slot :=
  match c.marks.find? (fun m => m.2.kind == .cue) with
  | none => c.slots
  | some m => c.slots.take m.1

/-- One more slot filled (R129). -/
def put (c : Cb) (slots : Nat) (x : Slot) : Cb := { c with slots := c.slots ++ [x], wp := (c.wp + 1) % slots }

/-- Slots given up at the read pointer; marks move with them (R132, R136). -/
def drop (c : Cb) (slots n : Nat) : Cb :=
  { c with slots := c.slots.drop n, rp := (c.rp + n) % slots, marks := c.marks.map (fun m => (m.1 - n, m.2)) }

end Cb

namespace Slot

/-- A word of the slot; the words of a 4-byte slot beyond the first are absent. -/
def word (x : Slot) (i : Nat) : Word := (x.words[i]?).getD 0
/-- A word of the slot as an operand, with the slot's SC (R138). -/
def val (x : Slot) (i : Nat) : Val := { v := x.word i, sc := x.sc, dep := x.dep }

end Slot

namespace State

/-- The CB of a handle. -/
def cb (s : State) (k : PageKey) (b h : Nat) : Cb := ((s.dyn k).actor b).cb h
/-- A CB changed. -/
def modCb (s : State) (k : PageKey) (b h : Nat) (f : Cb → Cb) : State := s.modDyn k (fun d => d.modActor b (fun a => a.modCb h f))
/-- The table entry of a handle (R128). -/
def cbEntry? (s : State) (k : PageKey) (b h : Nat) : Option CbEntry :=
  match s.page? k with
  | none => none
  | some p => (p.header? b).bind (fun x => if h < x.nlis + x.nemi then some (p.cbEntry x h) else none)
/-- Slot count of a handle's CB (R128). -/
def cbSlots (s : State) (k : PageKey) (b h : Nat) : Nat := 2 ^ ((s.cbEntry? k b h).map CbEntry.slog).getD 0
/-- The slot at a read position of a listen CB (R129). -/
def slotAt (s : State) (k : PageKey) (b h pos : Nat) : Option Slot := (s.cb k b h).visible[pos]?

end State

/-- The handle and the offset that X names (R138). -/
def handleOf (w : Blk) : Nat := bitsOf w.x.toNat 6 4
def offsetOf (w : Blk) : Nat := bitsOf w.x.toNat 0 6

/-- RECV (R138): a word of the slot at a static read position. -/
def execRecv (w : Blk) (s : State) : Out :=
  runBlk s (fun k b i => fireBlock false false 0 (fun g t =>
    match t.slotAt k b (handleOf w) (offsetOf w) with
    | none => t
    | some x => t.give k b i w g.tag (x.val (bitsOf w.imm.toNat 0 4))) w k b i s)

/-- PEEK (R134, R138): RECV at a position that the right operand moves; it waits for a slot not yet filled, and a
position at or beyond the slot count is 0x3C. -/
def execPeek (w : Blk) (s : State) : Out :=
  runBlk s (fun k b i => fireBlock false true 0 (fun g t =>
    let wide := ((t.cbEntry? k b (handleOf w)).map CbEntry.wide).getD false
    let d := g.b.v.toNat
    let pos := offsetOf w + (if wide then d / 16 else d)
    if t.cbSlots k b (handleOf w) ≤ pos then t.faultP 0x3C (.actor k b i) g.tag g.b.v 0
    else
      match t.slotAt k b (handleOf w) pos with
      | none => t
      | some x =>
        let v := x.val (if wide then d % 16 else 0)
        t.give k b i w g.tag { v with dep := v.dep.join g.dep }) w k b i s)

/-- The kind that EMIT's MD names (R139). -/
def emitKind (md : Nat) : Kind :=
  match md with
  | 1 => .eor
  | 2 => .eos
  | 3 => .strike
  | _ => .data

/-- EMIT (R139): one slot, or one word of a 64-byte slot, at a write position of an emit CB. -/
def execEmit (w : Blk) (s : State) : Out :=
  runBlk s (fun k b i => fireBlock true false 0 (fun g t =>
    let kind := emitKind w.md.toNat
    let x : SlotWrite :=
      { handle := handleOf w
        pos := offsetOf w
        word := bitsOf w.imm.toNat 0 4
        wide := ((t.cbEntry? k b (handleOf w)).map CbEntry.wide).getD false
        instr := i
        kind := kind
        sc := kind == .data && g.a.sc
        tag := g.tag
        value := if kind = .eor then BitVec.ofNat 32 (bitsOf w.imm.toNat 4 3) else g.a.v
        dep := g.dep }
    (t.giveNone k b i).modFiring k b (fun f => { f with writes := f.writes ++ [x] })) w k b i s)

/-- An advance counted for the firing's completion (R132, R140). -/
def advance (w : Blk) (s : State) : Out :=
  runBlk s (fun k b i => fireBlock (!w.ri) false 0 (fun g t =>
    let n := if w.ri then w.imm.toNat else g.a.v.toNat
    (t.giveNone k b i).modFiring k b (fun f => { f with advances := f.advances ++ [(handleOf w, n)] })) w k b i s)

/-- ADVR (R140). -/
def execAdvr (w : Blk) (s : State) : Out := advance w s
/-- ADVW (R140). -/
def execAdvw (w : Blk) (s : State) : Out := advance w s

/-- The write that holds a position written more than once: that of the highest instruction index (R133). -/
def lastWrite (l : List SlotWrite) : Option SlotWrite :=
  l.foldl (fun best x => match best with
    | some y => if y.instr ≤ x.instr then some x else best
    | none => some x) none

/-- The code of a token kind (R47). -/
def kindCode : Kind → Nat
  | .data => 0
  | .eor => 1
  | .eos => 2
  | .strike => 3
  | .cue => 4
  | .drain => 5
  | .census => 6
  | .control => 7

/-- CBQ's kind word: KIND, SC and TAG of a position, all ones when it is empty (R141). -/
def kindWord (x : Option (Kind × Bool × Tag)) : Word :=
  match x with
  | none => 0xFFFFFFFF
  | some (k, sc, t) => BitVec.ofNat 32 (kindCode k + (if sc then 8 else 0) + t.toNat * 16)

/-- CBQ (R141): a counter, a pointer or a slot's kind. -/
def execCbq (w : Blk) (s : State) : Out :=
  runBlk s (fun k b i => fireBlock true false 0 (fun g t =>
    let h := handleOf w
    let c := t.cb k b h
    let n := t.cbSlots k b h
    let out := ((t.cbEntry? k b h).map CbEntry.out).getD false
    let pos := w.imm.toNat
    let kind := if out then
        ((t.firing? k b).bind (fun f => lastWrite (f.writes.filter (fun x => x.handle == h && x.pos == pos)))).map (fun x => (x.kind, x.sc, x.tag))
      else (t.slotAt k b h pos).map (fun x => (x.kind, x.sc, x.tag))
    let v : Word := match bitsOf w.x.toNat 3 3 with
      | 0 => BitVec.ofNat 32 c.visible.length
      | 1 => BitVec.ofNat 32 (n - c.slots.length)
      | 2 => kindWord kind
      | 3 => BitVec.ofNat 32 n
      | 4 => BitVec.ofNat 32 c.rp
      | _ => BitVec.ofNat 32 c.wp
    t.give k b i w g.tag { v := v, dep := g.dep }) w k b i s)

/-- ONEOS (R149): in an element, a matching end becomes data on ROUTE1 and passes on ROUTE0; in a block, all ones when
the slot at the listen position holds a selected kind. -/
def execOneos (f : Form) (s : State) : Out :=
  let sel (x : Kind) : Bool := (x == .eos && f.md != 1) || (x == .eor && f.md != 0)
  runForm f s
    (fun e k n => fireWith
      { strikes := fun t x => (x.takeAll k n e t).sendTok k n e false t
        closing := fun t x =>
          let y := x.takeAll k n e t
          let y1 := if sel t.kind then y.sendTok k n e true { kind := .data, tag := t.tag, pay := t.pay, dep := t.dep } else y
          let absorbs : Bool := e.eosp == .absorb && sel t.kind
          let y2 := if absorbs then y1 else y1.modDyn k (fun d => d.sendClose n e false t)
          let y3 := y2.modDyn k (fun d => d.endTag n t)
          if t.kind = .eos ∧ absorbs then y3.sinkEos k n t.tag else y3 }
      (fun _ _ => none)
      (fun g t => if bitsOf e.x.toNat 0 1 = 1 then t else t.emitOn k n e false g.tag (g.val 1 g.a.v)) e k n s)
    (fun w k b i => fireBlock false false 0 (fun g t =>
      match t.slotAt k b (handleOf w) (offsetOf w) with
      | none => t
      | some x => t.give k b i w g.tag { v := if sel x.kind then 0xFFFFFFFF else 0, dep := x.dep }) w k b i s)

/-! ### FX4 blocks in buffers (R124) -/

/-- The writes of one 64-byte slot at the emit port that T1 names. -/
def blockSlot (s : State) (k : PageKey) (b i : Nat) (w : Blk) (pos : Nat) (tag : Tag) (sc : Bool) (dep : Dep) (ws : List Word) : List SlotWrite :=
  match w.t1, s.page? k with
  | .emit port, some p =>
    match (p.header? b).bind (fun h => p.emitEntry? h port.toNat) with
    | none => []
    | some c => ws.zipIdx.map (fun x =>
        { handle := c.handle, pos := pos, word := x.2, wide := true, instr := i, kind := .data, sc := sc, tag := tag, value := x.1, dep := dep })
  | _, _ => []

/-- The 32 FP32 codes of two consecutive listen slots. -/
def fxSource (s : State) (k : PageKey) (b : Nat) (w : Blk) : Option (List Nat × Bool × Dep) :=
  match s.slotAt k b (handleOf w) (offsetOf w), s.slotAt k b (handleOf w) (offsetOf w + 1) with
  | some x, some y =>
    some (((List.range 16).map (fun j => (x.word j).toNat)) ++ ((List.range 16).map (fun j => (y.word j).toNat)),
      x.sc || y.sc, x.dep.join y.dep)
  | _, _ => none

/-- A block slot's words: the code plane, the metadata word, zeros (R124). -/
def fxWords (meta_ : Nat) (codes : List Nat) : List Word :=
  Fx4.packCodes codes ++ [BitVec.ofNat 32 meta_] ++ List.replicate 11 0

/-- The writes of an FX4 instruction and its flags, the instruction having fired. DESIGN CHOICE (log 134), unsafe. -/
def fxWrite (s : State) (k : PageKey) (b i : Nat) (tag : Tag) (ws : List SlotWrite) (fl : Flags) : State :=
  let v := ((ws.head?).map SlotWrite.value).getD 0
  ((s.giveNone k b i).modFiring k b (fun f => { f with writes := f.writes ++ ws })).raiseFlags fl (.actor k b i) tag v

/-- FXPK (R22, R23, R124): 32 FP32 values encoded into one block slot. -/
def execFxpk (w : Blk) (s : State) : Out :=
  runBlk s (fun k b i => fireBlock false false 0 (fun g t =>
    match fxSource t k b w with
    | none => t
    | some (xs, sc, dep) =>
      let r := Fx4.encode xs
      fxWrite t k b i g.tag (blockSlot t k b i w (bitsOf w.imm.toNat 0 6) g.tag sc dep (fxWords r.1 r.2.1)) r.2.2) w k b i s)

/-- FXSC (R24, R124): as FXPK, with the metadata of the right slot. -/
def execFxsc (w : Blk) (s : State) : Out :=
  runBlk s (fun k b i => fireBlock false true 0 (fun g t =>
    match fxSource t k b w with
    | none => t
    | some (xs, sc, dep) =>
      let r := Fx4.encodeWith (bitsOf g.b.v.toNat 0 16) xs
      fxWrite t k b i g.tag (blockSlot t k b i w (bitsOf w.imm.toNat 0 6) g.tag (sc || g.b.sc) (dep.join g.dep) (fxWords r.1 r.2.1)) r.2.2) w k b i s)

/-- FXUN (R20, R21, R124): a block slot decoded into two slots of 16 FP32 values. -/
def execFxun (w : Blk) (s : State) : Out :=
  runBlk s (fun k b i => fireBlock false false 0 (fun g t =>
    match t.slotAt k b (handleOf w) (offsetOf w) with
    | none => t
    | some x =>
      let meta_ := bitsOf (x.word 4).toNat 0 16
      let ys := (Fx4.unpackCodes (x.words.take 4)).map (Fx4.decodeElem meta_)
      let ws := ys.map (fun y => BitVec.ofNat 32 y.1)
      let j := bitsOf w.imm.toNat 0 6
      let put (pos : Nat) (l : List Word) := blockSlot t k b i w pos g.tag x.sc x.dep l
      fxWrite t k b i g.tag (put j (ws.take 16) ++ put (j + 1) (ws.drop 16)) (unionAll ys)) w k b i s)

end Sys2Proof.Machine
end

