-- ==== Sys2Proof/Machine/Tokens.lean ====
section
/-!
DEFINITION. The movement of tokens and beats (R48, R72, R249, R251, R278): hops, channels, emit ports, egress ports and
wings, cue marks and census tokens; the events of the actor tile (R129 to R136).
-/
namespace Sys2Proof.Machine

/-! ### Switches (R72) -/

/-- The neighbour of a PE in a direction (R72). -/
def neighbour (n : Nat) (d : Dir) : Option Nat :=
  match d with
  | .N => if 16 ≤ n then some (n - 16) else none
  | .S => if n + 16 < 128 then some (n + 16) else none
  | .W => if n % 16 = 0 then none else some (n - 1)
  | .E => if n % 16 = 15 then none else some (n + 1)

/-- The selector code of what enters a PE that a token reaches by this direction. -/
def enterCode : Dir → Nat
  | .N => 3
  | .E => 4
  | .S => 1
  | .W => 2

/-- The switch outputs and queues of a PE that select an input (R72). -/
def selectedBy (p : Page) (n code : Nat) : List Place :=
  let sel := p.switchSel n
  let dirs : List (Dir × Nat) := [(.N, 28), (.E, 24), (.S, 20), (.W, 16)]
  let qs : List (QueueName × Nat) := [(.L, 12), (.R, 8), (.P, 4), (.O, 0)]
  (dirs.filter (fun x => bitsOf sel x.2 4 == code)).map (fun x => Place.switch n x.1) ++
    (qs.filter (fun x => bitsOf sel x.2 4 == code)).map (fun x => Place.queue n x.1)

/-- The place that a route other than a channel names, seen from the boundary crossbar (R55, R70). -/
def routePlace : Route → Option Place
  | .pe c r q => some (.queue (Page.elemOf c r) q)
  | .egress p => some (.egress p.toNat)
  | .lane l => some (.laneIn l.toNat)
  | .node n p => some (.node n.toNat p.toNat)
  | _ => none

/-- The route that a place's head takes, when one is set for it. -/
def routeFrom (p : Page) : Place → Route
  | .out n second => (p.ecw n).route second
  | .ingress q => p.iroute q
  | .laneOut l => match p.lanes.find? (fun x => x.out && x.lane == l) with
    | some x => x.dest
    | none => .none
  | _ => .none

/-- Where the head of a place goes next (R55, R72). -/
def nextPlaces (p : Page) (src : Place) : List Place :=
  match src with
  | .switch n d => match neighbour n d with
    | some m => selectedBy p m (enterCode d)
    | none => []
  | .out n second => match (p.ecw n).route second with
    | .pe _ _ _ => selectedBy p n (if second then 6 else 5)
    | r => (routePlace r).toList
  | _ => (routePlace (routeFrom p src)).toList

namespace State

/-- The tag of an item entering an ingress port: an island without input lanes notes it in its arm queue, and
generators with AUTO start for it (R165, R274). False when the arm queue is full. -/
def noteTag (s : State) (k : PageKey) (tag : Tag) : Option State :=
  match s.page? k with
  | none => some s
  | some p =>
    let x := p.dyn.island
    let lanesIn := p.lanes.any (fun l => !l.out)
    let arms := p.hasIsland && !lanesIn && !x.armSeen.contains tag
    let start (t : State) (n : Nat) : State :=
      if (p.desc n).ndim ≠ 0 ∧ (p.desc n).auto then
        t.modDyn k (fun d => if (d.node n).gens.any (fun g => g.tag == tag) then d
          else d.modNode n (fun y => { y with gens := y.gens ++ [{ tag := tag, off := 0 }] }))
      else t
    if arms && 16 ≤ x.armq.length then none
    else
      let s1 := if arms then s.modDyn k (fun d =>
        { d with island := { d.island with armq := d.island.armq ++ [tag], armSeen := d.island.armSeen ++ [tag] } }) else s
      some ((List.range p.nmem).foldl start s1)

/-- The item may enter by an ingress port, its tag noted. -/
def noteItem (s : State) (k : PageKey) (i : Item) : Option State :=
  match i.tag? with
  | some t => if i.weightless then some s else s.noteTag k t
  | none => some s

/-- A cue that its party no longer waits for: another producer's cue of the round has been taken, or the round has
committed. It is consumed on arrival. -/
def staleCue (s : State) (k : PageKey) (q : Place) (i : Item) : Bool :=
  match i with
  | .tok t =>
    t.kind == .cue &&
      (t.pay != BitVec.ofNat 32 (s.ctx k.ctx).round ||
        (match q with
          | .queue n _ => ((s.dyn k).elem n).cut
          | .laneIn _ => (s.dyn k).island.cut
          | .node n q => ((s.dyn k).node n).cut && !((s.dyn k).node n).open_.contains q
          | _ => false))
  | _ => false

/-- The element whose unordered REDUCE folds what enters a place in the order of its arrival (R44, R155). -/
def unordReducer (p : Page) : Place → Option Nat
  | .queue n .L => if p.ecwOp n = 0x7C ∧ bitsOf (p.ecw n).x.toNat 2 1 = 1 then some n else none
  | _ => none

/-- By which input of a reducer's arbiter the head of a place, or what the unit in turn sends, arrives: a mesh direction, the
element's own output, an ingress port, a lane, an emit port or a node. -/
def sourceInput (s : State) : Option Place → Nat
  | some (.switch _ d) => enterCode d
  | some (.out _ second) => if second then 6 else 5
  | some (.ingress q) => 16 + q
  | some (.laneOut l) => 32 + l
  | _ => match s.cur with
    | some (.emitPort _ b j) => 64 + 16 * b + j
    | some (.part _ n) => 48 + n
    | _ => 63

/-- A data token enters an unordered reducer's queue: the Logbook records the input, and a replay lets in only the one whose turn it
recorded (R44). -/
def foldArrival (s : State) (k : PageKey) (src : Option Place) (q : Place) (i : Item) : Option State :=
  match i, (s.page? k).bind (fun p => unordReducer p q) with
  | .tok t, some n =>
    if t.kind ≠ .data then some s
    else
      let arb := s.regionByte k * 128 + n
      let input := s.sourceInput src
      if !(s.replayInput arb k.ctx).all (fun x => x == input) then none
      else some (s.decideBy arb k.ctx (s.roundOf k.ctx ((s.dyn k).elem n).cut) input).2
  | _, _ => some s

/-- The head of a place moves one hop when everything that takes it has room (R72, R249, R278). -/
def hop (s : State) (k : PageKey) (src : Place) : State :=
  match s.page? k with
  | none => s
  | some p =>
    match p.dyn.fifo src with
    | [] => s
    | i :: _ =>
      let all := nextPlaces p src
      let next := all.filter (fun q => !s.staleCue k q i)
      if !s.pageRuns k || all.isEmpty || !(next.all (fun q => p.dyn.takes q i)) then s
      else
        let go (t : State) : State := (next.foldl (fun (x : Option State) q => x.bind (fun y => y.foldArrival k (some src) q i)) (some t)).elim s
          (fun y => y.modDyn k (fun d => next.foldl (fun d q => d.enter q i) (d.leave src)))
        match src with
        | .ingress _ => match s.noteItem k i with
          | some t => go t
          | none => s
        | _ => go s

end State

namespace State

/-! ### Channels (R64, R129, R289) -/

/-- The listen port of the page on a page channel: block, header and table entry (R62, R64). -/
def listener? (s : State) (k : PageKey) (chan : Nat) : Option (Nat × Header × CbEntry) :=
  match s.page? k with
  | none => none
  | some p =>
    match p.headers.zipIdx.find? (fun h => h.1.chan ≤ chan && chan < h.1.chan + h.1.nlis) with
    | some (h, b) => (p.listenEntry? h (chan - h.chan)).map (fun c => (b, h, c))
    | none => none

/-- The listen ports of a block that its cut takes into account (R136, R445). -/
def fedPorts (p : Page) (h : Header) : List Nat := (List.range h.nlis).filter (fun j => p.fedChan (h.chan + j))

/-- A slot entering a listen CB when one is free (R129). -/
def fillSlot (s : State) (k : PageKey) (b : Nat) (c : CbEntry) (x : Slot) : Option State :=
  let n := 2 ^ c.slog
  if (s.cb k b c.handle).slots.length < n then some (s.modCb k b c.handle (fun y => y.put n x)) else none

/-- The slot of a token; a 64-byte slot takes its payload as word 0 (R129). DEDUCED (log 25), unsafe. -/
def slotOf (wide : Bool) (t : Token) : Slot :=
  { kind := t.kind, sc := t.sc, tag := t.tag, words := if wide then t.pay :: List.replicate 15 0 else [t.pay], dep := t.dep }

/-- The words of a 64-byte row. -/
def rowWords (r : BitVec 512) : List Word := (List.range 16).map (fun i => r.extractLsb' (32 * i) 32)

/-- A token at a page channel: it fills a slot, while a cue or a census token becomes a mark behind the slots already filled
and takes none (R81, R129, R136). None while it has to wait. -/
def arrive (s : State) (k : PageKey) (chan : Nat) (t : Token) : Option State :=
  match s.listener? k chan with
  | none => none
  | some (b, _, c) =>
    if t.kind = .cue then
      if t.pay ≠ BitVec.ofNat 32 (s.ctx k.ctx).round ∨ ((s.dyn k).actor b).cut then some s
      else some (s.modCb k b c.handle (fun y => { y with marks := y.marks ++ [(y.slots.length, t)] }))
    else if t.kind = .census then some (s.modCb k b c.handle (fun y => { y with marks := y.marks ++ [(y.slots.length, t)] }))
    else s.fillSlot k b c (slotOf c.wide t)

/-- A token towards a route from a unit of the boundary: into its place, or onto its channel (R55). None while it has to
wait; a route of kind 000 takes nothing. -/
def sendRoute (s : State) (k : PageKey) (r : Route) (t : Token) : Option State :=
  match r with
  | .none => some s
  | .chan c => s.arrive k c.toNat t
  | _ => match routePlace r with
    | some q =>
      if s.staleCue k q (.tok t) then some s
      else if (s.dyn k).takes q (.tok t) then (s.foldArrival k none q (.tok t)).map (fun x => x.modDyn k (fun d => d.enter q (.tok t)))
      else none
    | none => none

/-! ### Wings (R251, R259, R261, R279) -/

end State

/-- A token's 48 bits (R46). -/
def Token.bits (t : Token) : Nat :=
  kindCode t.kind * 2 ^ 45 + (if t.sc then 2 ^ 44 else 0) + t.tag.toNat * 2 ^ 32 + t.pay.toNat

/-- The place belongs to the element array: eviction moves its tokens to the page's internal wing (R49, R260). -/
def innerPlace : Place → Bool
  | .queue _ _ | .switch _ _ | .out _ _ => true
  | _ => false

/-- The key of a wing entry (R49): element and queue in the internal wing, bit 57 for a switch buffer, and zero in the
external wing of an edge. -/
def wingKey : Place → Nat
  | .queue n q => n % 128 + (match q with
    | .L => 0
    | .R => 1
    | .P => 2
    | .O => 3) * 2 ^ 7
  | .switch n _ | .out n _ => n % 128 + 2 ^ 9
  | _ => 0

/-- A wing entry (R49). -/
def wingEntry (p : Place) (t : Token) : DWord := BitVec.ofNat 64 (wingKey p * 2 ^ 48 + t.bits)

/-- The internal wing that an eviction writes: what stands in element queues and switch buffers (R49, R260). -/
def internalWing (d : PageDyn) : List DWord :=
  (d.fifos.filter (fun f => innerPlace f.1)).flatMap (fun f => f.2.filterMap (fun i => match i with
    | .tok t => some (wingEntry f.1 t)
    | _ => none))

namespace State

/-- Chunks of the wing pool that the wings of a page hold: eight tokens or one beat each (R261, R279). -/
def chunksOf (d : PageDyn) : Nat :=
  (d.fifos.map (fun f => match f.1 with
    | .wing _ | .reply =>
      ((f.2.filter (fun i => i.wingCost == 1)).length + 7) / 8 + (f.2.filter (fun i => i.wingCost != 1)).length
    | _ => 0)).foldl (· + ·) 0

/-- Chunks of a partition's pool in use. -/
def wingUsed (s : State) (part : Nat) : Nat :=
  ((s.pages.filter (fun p => p.key.ctx.part == part)).map (fun p => chunksOf p.dyn)).foldl (· + ·) 0

/-- An external wing takes an item: within the edge's allowance and the partition's pool (R261, R279). -/
def wingRoom (s : State) (p : Page) (port : Nat) (i : Item) : Bool :=
  let l := p.dyn.fifo (.wing port)
  let n := (l.map Item.wingCost).foldl (· + ·) 0
  let d' := p.dyn.push (.wing port) i
  let part := p.key.ctx.part
  decide (n + i.wingCost ≤ p.wing port) &&
    decide (s.wingUsed part + (chunksOf d' - chunksOf p.dyn) ≤ (s.part part).wingChunks)

/-- The pages that one eviction takes: a folded region's members all together (R266). -/
def evictGroup (p : Page) : List PageKey :=
  match p.fold with
  | some f => f.members.map (fun m => { p.key with lpn := m })
  | none => [p.key]

/-- A page placed on the pending list; a folded region's members stand there as one request (R253, R266). -/
def makePending (s : State) (k : PageKey) : State :=
  let group := ((s.page? k).map evictGroup).getD [k]
  let t := group.foldl (fun t m => t.modPage m (fun p => if p.st = .absent then { p with st := .pending } else p)) s
  t.modPart k.ctx.part (fun x =>
    { x with pending := if x.pending.any (fun y => group.contains y) then x.pending else x.pending ++ [k] })

/-- A token for an absent page signals the Stagehand once, with the logical region of the page that signals (R80), which the
Logbook records (R267); a page in Stopping enters the pending list at once, and a pending one is marked as faulted without a
second signal (R244, R252, R253, R257). DEDUCED (log 80), unsafe. -/
def signal (s : State) (k : PageKey) (by_ : Nat) : State :=
  match s.page? k with
  | none => s
  | some p =>
    match p.st with
    | .absent =>
      if (s.part k.ctx.part).signals.contains k then s
      else
        let operand := k.lpn + by_ % 64 * 2 ^ 12
        ((s.modPart k.ctx.part (fun x => { x with signals := x.signals ++ [k] })).sendCtl
          { code := 0x04, operand := operand, page := some k, part := k.ctx.part }).logEvent 0x17 0xC001 (operand + 2 ^ 20)
    | .stopping => (s.modPage k (fun p => { p with signalled := true })).makePending k
    | .pending => s.modPage k (fun p => { p with signalled := true })
    | _ => s

/-- A row that enters the wing although its header went to the port buffer: the rest of the packet follows it there (R278, R279). -/
def splitPacket (d : PageDyn) (port : Nat) (i : Item) : PageDyn :=
  match i with
  | .row _ =>
    if d.pend (.wing port) = 0 then { d with pends := assign (.wing port) (d.pend (.ingress port)) (assign (.ingress port) 0 d.pends) } else d
  | _ => d

/-- The wing pool has given a chunk: an advisory where few are left free (R261, R350). -/
def wingPoolNote (s : State) (c : CtxId) : State :=
  let t : State := { s with free := s.free + 1 }
  if Config.wingPoolLow s.free then t.advise c 0x41 (BitVec.ofNat 64 ((s.part c.part).wingChunks - s.wingUsed c.part)) 0 0xFFF else t

/-- An item at the tail of an edge's external wing (R251); a cue or a census token alone does not bring a page back (R81,
R268). -/
def intoWing (s : State) (p : Page) (port : Nat) (i : Item) : State :=
  let k := p.key
  let from_ : Nat := if p.peer port = 0xFFF then 0 else s.regionByte { k with lpn := p.peer port }
  let s0 := s.modDyn k (fun d => (splitPacket d port i).enter (.wing port) i)
  let s1 := if chunksOf (p.dyn.push (.wing port) i) ≤ chunksOf p.dyn then s0 else s0.wingPoolNote k.ctx
  if i.weightless then s1 else s1.signal k from_

/-- An item delivered at an ingress port of a page: into the port buffer of a page in its region whose wing on that edge is
empty, else into the wing (R251). The row beats of a packet follow its header, whose lookup decides for all of them (R278).
`force` lets an eviction's egress tokens exceed the allowance (R260, R261). -/
def deliverAt (s : State) (k : PageKey) (port : Nat) (i : Item) (force : Bool) : Option State :=
  match s.page? k with
  | none => none
  | some p =>
    let row := match i with
      | .row _ => true
      | _ => false
    let wings := row && p.dyn.pend (.wing port) != 0
    if p.placed && p.hasTurn && !wings && (row || (p.dyn.fifo (.wing port)).isEmpty) then
      if p.dyn.takes (.ingress port) i then
        let s1 := (s.noteItem k i).getD s
        some (s1.modDyn k (fun d => d.enter (.ingress port) i))
      else if force then some (s.intoWing p port i)
      else none
    else if force || s.wingRoom p port i then some (s.intoWing p port i)
    else none

/-- A token that a unit injects at an ingress port, between packets and where there is room (R249, R261, R278). -/
def injectAt (s : State) (k : PageKey) (port : Nat) (t : Token) : Option State :=
  if (s.dyn k).pend (.ingress port) = 0 ∧ (s.dyn k).pend (.wing port) = 0 then s.deliverAt k port (.tok t) false else none

/-- The head of an egress port sent to its consumer (R70, R251). -/
def sendEgress (s : State) (k : PageKey) (port : Nat) (force : Bool) : Option State :=
  match s.page? k with
  | none => none
  | some p =>
    match p.dyn.fifo (.egress port) with
    | [] => none
    | i :: _ =>
      let dst : PageKey := { k with lpn := p.peer (16 + port) }
      ((s.modDyn k (fun d => d.pop (.egress port))).deliverAt dst (p.pport (16 + port)) i force)

end State

/-! ### Census (R81, R238, R407) -/

namespace PageDyn

/-- Tokens of a tag in a place: a packet counts once. -/
def countIn (l : List Item) (tag : Tag) : Nat :=
  (l.filter (fun i => match i with
    | .tok t => t.tag == tag && (t.kind == .data || t.kind == .eor || t.kind == .eos || t.kind == .strike)
    | .head h _ => h.extractLsb' 32 12 == tag
    | .row _ => false)).length

/-- Tokens of a tag in the places that a test names. -/
def countPlaces (d : PageDyn) (p : Place → Bool) (tag : Tag) : Nat :=
  ((d.fifos.filter (fun f => p f.1)).map (fun f => countIn f.2 tag)).foldl (· + ·) 0

/-- Tokens of a tag in the CBs of a block and in its matching-store entries: the slots of its firing, the values of NEXTI
for the next one, and the ranks that REDUCE holds (R81, R135, R156, R159). -/
def countCbs (a : ActorState) (tag : Tag) : Nat :=
  (a.cbs.map (fun c => (c.slots.filter (fun x => x.tag == tag)).length)).foldl (· + ·) 0 +
    (match a.firing with
      | some f => if f.tag = tag then (f.slots.filter (fun x => !f.fired.contains x.1)).length else 0
      | none => 0) +
    (a.nexts.filter (fun x => x.1 == tag)).length +
    (a.instrs.map (fun x => if x.2.tag = tag then x.2.held.length else 0)).foldl (· + ·) 0

/-- Tokens of a tag anywhere in a page: places, CBs, matching stores, wings (R81, R229). -/
def countTag (d : PageDyn) (tag : Tag) : Nat :=
  d.countPlaces (fun _ => true) tag + (d.actors.map (fun a => countCbs a tag)).foldl (· + ·) 0 +
    (d.elems.map (fun e => (e.tags.map (fun t => if t.tag = tag then t.held.length + t.seg.length else 0)).foldl (· + ·) 0)).foldl (· + ·) 0

/-- Data tokens sent for a tag by the elements of a page: what two sweeps compare (R238). -/
def sentTag (d : PageDyn) (tag : Tag) : Nat :=
  (d.elems.map (fun e => (e.tags.map (fun t => if t.tag = tag then t.sent0 + t.sent1 else 0)).foldl (· + ·) 0)).foldl (· + ·) 0

end PageDyn

namespace State

/-- A census token (R47, R81): its payload is the sequence number. -/
def censusTok (seq : Word) (tag : Tag) : Token := { kind := .census, tag := tag, pay := seq }

/-- The party has removed a census token of this number before, or does so now. -/
def censusSeen (d : PageDyn) (at_ : CensusAt) (seq : Word) : Bool :=
  match at_ with
  | .elem n => (d.elem n).census.contains seq
  | .block b => (d.actor b).census.contains seq
  | .island => d.island.census.contains seq
  | .node n => (d.node n).census.contains seq

/-- The party remembers the number. -/
def censusMark (d : PageDyn) (at_ : CensusAt) (seq : Word) : PageDyn :=
  match at_ with
  | .elem n => d.modElem n (fun x => { x with census := x.census ++ [seq] })
  | .block b => d.modActor b (fun x => { x with census := x.census ++ [seq] })
  | .island => { d with island := { d.island with census := d.island.census ++ [seq] } }
  | .node n => d.modNode n (fun x => { x with census := x.census ++ [seq] })

/-- The party's count and send count for the tag (R81). -/
def censusCount (p : Page) (at_ : CensusAt) (tag : Tag) : Nat × Nat :=
  let d := p.dyn
  match at_ with
  | .elem n => (d.countPlaces (fun q => match q with
      | .queue m _ => m == n
      | .out m _ => m == n
      | .switch m _ => m == n
      | _ => false) tag + (((d.elem n).tagSt tag).held.length + ((d.elem n).tagSt tag).seg.length),
      ((d.elem n).tagSt tag).sent0 + ((d.elem n).tagSt tag).sent1)
  | .block b => (PageDyn.countCbs (d.actor b) tag,
      (((d.actor b).sends.filter (fun x => x.1.1 == tag)).map Prod.snd).foldl (· + ·) 0)
  | .island => (d.countPlaces (fun q => match q with
      | .laneIn _ | .laneOut _ => true
      | _ => false) tag, (d.island.sent.map Prod.snd).foldl (· + ·) 0)
  | .node n => (d.countPlaces (fun q => match q with
      | .node m _ => m == n
      | _ => false) tag, ((d.node n).gens.map (fun g => if g.tag = tag then g.sent else 0)).foldl (· + ·) 0)

/-- There is room for the party's copies: output registers, lanes between packets, the place of a node's route (R81, R249). -/
def censusCan (s : State) (k : PageKey) (p : Page) (at_ : CensusAt) (t : Token) : Bool :=
  match at_ with
  | .elem n => p.dyn.outFree n (p.ecw n)
  | .block _ => true
  | .island => p.lanes.all (fun l => !l.out || p.dyn.takes (.laneOut l.lane) (.tok t))
  | .node n => (s.sendRoute k (p.desc n).outRoute t).isSome

/-- One copy on each of the party's routes, emit ports and output lanes (R81). -/
def censusForward (s : State) (k : PageKey) (p : Page) (at_ : CensusAt) (t : Token) : State :=
  match at_ with
  | .elem n => s.modDyn k (fun d => d.sendBoth n (p.ecw n) t)
  | .block b => match p.header? b with
    | some h => (p.cbEntries h).foldl (fun x c =>
        if c.out then x.modCb k b c.handle (fun y => { y with marks := y.marks ++ [(y.slots.length, t)] }) else x) s
    | none => s
  | .island => p.lanes.foldl (fun x l => if l.out then x.modDyn k (fun d => d.push (.laneOut l.lane) (.tok t)) else x) s
  | .node n => (s.sendRoute k (p.desc n).outRoute t).getD s

/-- A census changed. -/
def modCensus (s : State) (seq : Word) (f : Census → Census) : State :=
  { s with censuses := update (fun c => c.seq == seq) f none s.censuses }

/-- A party counts itself once for a census and forwards one copy of its token (R81). -/
def censusVisit (s : State) (k : PageKey) (at_ : CensusAt) (t : Token) : State :=
  match s.page? k with
  | none => s
  | some p =>
    if censusSeen p.dyn at_ t.pay then s
    else
      let c := censusCount p at_ t.tag
      let s1 := s.modDyn k (fun d => censusMark d at_ t.pay)
      (s1.modCensus t.pay (fun x => { x with count := x.count + c.1, sends := x.sends + c.2 })).censusForward k p at_ t

/-- The parties of a page that a census counts. -/
def censusParties (p : Page) : List CensusAt :=
  p.elements.map (fun e => .elem e.1) ++ (List.range p.nact).map .block ++ (if p.hasIsland then [.island] else []) ++
    ((List.range p.nmem).filter (fun n => (p.desc n).ndim != 0)).map .node

/-- A party that no token edge of its page feeds is a source of a census itself (R445). -/
def censusSource (p : Page) (at_ : CensusAt) : Bool :=
  match at_ with
  | .elem n => ((p.ecw n).queues.filter (p.fedQueue n)).isEmpty
  | .block b => match p.header? b with
    | some h => (fedPorts p h).isEmpty
    | none => false
  | .island => !p.lanes.any (fun l => !l.out && p.fedLane l.lane)
  | .node n => !p.routes.any (fun r => match r with
    | .node m _ => m.toNat == n
    | _ => false)

/-- The pages that a census of a tag concerns: those of its frame's context, or of the partition. -/
def censusPages (s : State) (part : Nat) (tag : Tag) : List Page :=
  let ctx := (s.frame? ⟨part, tag⟩).map Frame.ctx
  s.pages.filter (fun p => p.key.ctx.part == part && (match ctx with
    | some c => p.key.ctx == c
    | none => true))

/-- The party has room for a census token's copies, or needs none: it has removed one of that number before. -/
def censusTakes (s : State) (k : PageKey) (p : Page) (at_ : CensusAt) (t : Token) : Bool := censusSeen p.dyn at_ t.pay || s.censusCan k p at_ t

/-- A source's census token: injected at a port behind the tokens of its buffer or wing, or sent by a party. None while it has to wait
for room. -/
def censusSend (s : State) (k : PageKey) (x : CensusFrom) (t : Token) : Option State :=
  match x, s.page? k with
  | .port q, some _ => s.injectAt k q t
  | .party a, some p => if s.censusTakes k p a t then some (s.censusVisit k a t) else none
  | _, none => some s

/-- The sources of a sweep on one page whose token waits, tried again (R81, R249). -/
def censusLate (s : State) (k : PageKey) : State :=
  s.censuses.foldl (fun x c => (c.todo.filter (fun z => z.1 == k)).foldl (fun y z =>
    match y.censusSend k z.2 (censusTok c.seq c.tag) with
    | some w => w.modCensus c.seq (fun v => { v with todo := v.todo.erase z })
    | none => y) x) s

/-- What no census token reached is counted at the end of its sweep: the parties of pages that do not run, those behind
tokens that stay, and what stands in port buffers and wings (R81, R238). -/
def censusRest (s : State) (c : Census) : State :=
  (s.censusPages c.part c.tag).foldl (fun x p =>
    let own := p.elements.map Prod.fst
    let outside := p.dyn.countPlaces (fun q => match q with
      | .ingress _ | .egress _ | .wing _ | .reply => true
      | .switch m _ => !own.contains m
      | _ => false) c.tag
    let more := ((censusParties p).filter (fun a => !censusSeen p.dyn a c.seq)).map (fun a => censusCount p a c.tag)
    x.modCensus c.seq (fun y => { y with
      count := y.count + outside + (more.map Prod.fst).foldl (· + ·) 0
      sends := y.sends + (more.map Prod.snd).foldl (· + ·) 0 })) s

/-- The item is a census token of a number. -/
def isCensus (seq : Word) (i : Item) : Bool :=
  match i with
  | .tok t => t.kind == .census && t.pay == seq
  | _ => false

/-- The place has room for what stands at the head of another one. -/
def censusMoves (s : State) (p : Page) (src : Place) (i : Item) : Bool :=
  let can (a : CensusAt) : Bool := match i with
    | .tok t => s.censusTakes p.key p a t
    | _ => true
  match src with
  | .wing q => p.dyn.takes (.ingress q) i
  | .queue n _ => can (.elem n)
  | .laneIn _ => can .island
  | .node n _ => can (.node n)
  | .egress q => (s.deliverAt { p.key with lpn := p.peer (16 + q) } (p.pport (16 + q)) i false).isSome
  | _ => (nextPlaces p src).all (fun q => p.dyn.takes q i)

/-- Census tokens of a number can still move in running pages. One that stands behind other tokens waits with them, as at
an absent page: tokens left over for good do not keep a sweep from ending (R407). -/
def censusLive (s : State) (seq : Word) : Bool :=
  s.censuses.any (fun c => c.seq == seq && c.todo.any (fun z => s.pageRuns z.1 && (s.censusSend z.1 z.2 (censusTok c.seq c.tag)).isSome)) ||
  (s.pages.filter (fun p => s.pageRuns p.key)).any (fun p =>
    p.dyn.fifos.any (fun f => match f.2 with
      | i :: _ => isCensus seq i && s.censusMoves p f.1 i
      | [] => false) ||
    p.headers.zipIdx.any (fun h => (p.cbEntries h.1).any (fun c => match (s.cb p.key h.2 c.handle).marks with
      | m :: _ => m.1 == 0 && m.2.kind == .census && m.2.pay == seq && (!c.out || (s.sendRoute p.key c.dest m.2).isSome)
      | [] => false)))

/-- The census tokens of a number that a sweep's end finds still waiting in running pages are collected (R238). -/
def censusCollect (s : State) (seq : Word) : State :=
  (s.pages.filter (fun p => s.pageRuns p.key)).foldl (fun s p =>
    let stuck := p.dyn.fifos.filter (fun f => f.2.any (isCensus seq))
    let late := p.dyn.actors.any (fun a => a.cbs.any (fun c => c.marks.any (fun m => m.2.kind == .census && m.2.pay == seq)))
    if stuck.isEmpty && !late then s
    else s.modDyn p.key (fun d =>
      let d1 := stuck.foldl (fun d f => d.setFifo f.1 (f.2.filter (fun i => !isCensus seq i))) d
      { d1 with actors := d1.actors.map (fun a =>
          { a with cbs := a.cbs.map (fun c => { c with marks := c.marks.filter (fun m => !(m.2.kind == .census && m.2.pay == seq)) }) }) })) s

/-- A sweep begins: census tokens at every source of the tag in the partition, which are the edges of running pages that no
running page drives and the parties that no edge feeds (R238). DEDUCED (log 21), unsafe. -/
def censusStart (s : State) (part : Nat) (seq : Word) (tag : Tag) : State :=
  let t := censusTok seq tag
  let visit (x : State) (p : Page) : State :=
    let k := p.key
    let ports := (List.range 16).filter (fun q => p.portValid q && (p.peer q == 0xFFF || !s.pageRuns { k with lpn := p.peer q }))
    let from_ := ports.map CensusFrom.port ++ ((censusParties p).filter (censusSource p)).map CensusFrom.party
    from_.foldl (fun y z => (y.censusSend k z t).getD (y.modCensus seq (fun v => { v with todo := v.todo ++ [(k, z)] }))) x
  ((s.censusPages part tag).filter (fun p => s.pageRuns p.key)).foldl visit s

end State

/-! ### Events of token movement -/

/-- TOKEN_HOP (R249): a token or beat moves one hop into a place that has room. -/
def execTokenHop (s : State) : Out :=
  match s.cur with
  | some (.place k src) => .next (s.hop k src)
  | _ => .fault .noParty

/-- EGRESS_LOOKUP (R251): the head of an egress port goes to its consumer's port buffer or to the edge's wing. -/
def execEgressLookup (s : State) : Out :=
  match s.cur with
  | some (.part k q) => .next (if s.pageRuns k then (s.sendEgress k q false).getD s else s)
  | _ => .fault .noParty

/-- LISTEN_ARRIVAL (R129): the head of a place whose route is a page channel fills a slot of the listen CB. -/
def execListenArrival (s : State) : Out :=
  match s.cur with
  | some (.place k src) =>
    .next (match s.page? k with
      | none => s
      | some p =>
        match routeFrom p src, p.dyn.headTok src with
        | .chan c, some t =>
          if t.kind = .cue ∨ t.kind = .census ∨ !s.pageRuns k then s
          else
            let s0 := match src with
              | .ingress _ => s.noteItem k (.tok t)
              | _ => some s
            match s0.bind (fun x => x.arrive k c.toNat t) with
            | some x => (x.modDyn k (fun d => d.leave src)).noteChoice (0x6000 + s.regionByte k / 4) (s.regionByte k % 4)
            | none => s
        | _, _ => s)
  | _ => .fault .noParty

/-- EMIT_FORWARD (R129): the first published slot of an emit port leaves as a token towards DEST, or a cue or census
token that stands before it; a 64-byte slot enters a 64-byte CB whole. -/
def execEmitForward (s : State) : Out :=
  match s.cur with
  | some (.emitPort k b j) =>
    .next (match s.page? k, s.header? k b with
      | some p, some h =>
        match p.emitEntry? h j with
        | none => s
        | some c =>
          let cb := s.cb k b c.handle
          let gone (t : State) : State :=
            let t1 : State := match cb.slots with
              | x :: _ => if x.kind == Kind.data then t.countSend k b x.tag j else t
              | [] => t
            t1.modCb k b c.handle (fun y =>
              { y with slots := y.slots.drop 1, rp := (y.rp + 1) % 2 ^ c.slog, marks := y.marks.map (fun m => (m.1 - 1, m.2)) })
          if !s.pageRuns k then s
          else
            match cb.marks with
            | (0, t) :: rest =>
              match s.sendRoute k c.dest t with
              | some x => x.modCb k b c.handle (fun y => { y with marks := rest })
              | none => s
            | _ =>
              match cb.slots with
              | [] => s
              | x :: _ =>
                let whole : Option State := match c.dest with
                  | .chan ch => if !c.wide then none else match s.listener? k ch.toNat with
                    | some (b', _, e) => if e.wide then s.fillSlot k b' e x else none
                    | none => none
                  | _ => none
                let toWide : Bool := match c.dest with
                  | .chan ch => c.wide && (((s.listener? k ch.toNat).map (fun y => y.2.2.wide)).getD false)
                  | _ => false
                if toWide then
                  match whole with
                  | some y => gone y
                  | none => s
                else
                  let pay := if c.wide then Config.wideSlotToken s.free else (x.words[0]?).getD 0
                  let s1 : State := if c.wide then { s with free := s.free + 1 } else s
                  match s1.sendRoute k c.dest { kind := x.kind, sc := x.sc, tag := x.tag, pay := pay, dep := x.dep } with
                  | some y => gone y
                  | none => s
      | _, _ => s)
  | _ => .fault .noParty

/-- WING_DRAIN (R219, R259): the reply wing first, then each external wing in arrival order into its port buffer. -/
def execWingDrain (s : State) : Out :=
  match s.cur with
  | some (.place k src) =>
    .next (if !s.pageRuns k then s else
      match src with
      | .reply =>
        match (s.dyn k).headTok .reply, (s.dyn k).replies with
        | some t, (true, port) :: rest =>
          if (s.dyn k).takes (.ingress port) (.tok t) then
            ((s.noteItem k (.tok t)).getD s).modDyn k (fun d => let x := (d.pop .reply).enter (.ingress port) (.tok t); { x with replies := rest })
          else s
        | some t, (false, ch) :: rest =>
          match s.arrive k ch t with
          | some x => x.modDyn k (fun d => let y := d.pop .reply; { y with replies := rest })
          | none => s
        | _, _ => s
      | .wing port =>
        if !((s.dyn k).fifo .reply).isEmpty then s
        else
          match (s.dyn k).fifo (.wing port) with
          | [] => s
          | i :: _ =>
            if (s.dyn k).takes (.ingress port) i then
              let s1 := (s.noteItem k i).getD s
              s1.modDyn k (fun d => (d.pop (.wing port)).enter (.ingress port) i)
            else s
      | _ => s)
  | _ => .fault .noParty

/-- CENSUS_TOKEN (R81): a census token at the head of an input of a party is counted for, removed and forwarded once; on a
path it moves like any token, and onto a channel as a mark. -/
def execCensusToken (s : State) : Out :=
  match s.cur with
  | some (.place k src) =>
    .next (match s.page? k, (s.dyn k).headTok src with
      | some p, some t =>
        if t.kind ≠ .census ∨ !s.pageRuns k then s
        else
          let gone := s.modDyn k (fun d => d.pop src)
          let visit (a : CensusAt) : State := if s.censusTakes k p a t then gone.censusVisit k a t else s
          match src with
          | .queue n _ => visit (.elem n)
          | .laneIn _ => visit .island
          | .node n _ => visit (.node n)
          | _ => match routeFrom p src with
            | .chan c => match s.arrive k c.toNat t with
              | some x => x.modDyn k (fun d => d.pop src)
              | none => s
            | _ => s
      | _, _ => s)
  | some (.part k b) =>
    .next (match s.page? k, s.header? k b with
      | some p, some h =>
        if !s.pageRuns k then s
        else (p.cbEntries h).foldl (fun x c =>
          if c.out then x
          else match (x.cb k b c.handle).marks with
            | (0, t) :: rest =>
              if t.kind = .census then (x.modCb k b c.handle (fun y => { y with marks := rest })).censusVisit k (.block b) t else x
            | _ => x) s
      | _, _ => s)
  | some (.page k) => .next (if s.pageRuns k then s.censusLate k else s)
  | _ => .fault .noParty

/-! ### Actors -/

namespace State

/-- A firing in flight may stand across a cut when it waits for the close itself, which cannot come without the cut: a release
or an atomic at DEVICE or SYSTEM scope (R182, R184). -/
def atBoundary (f : Option Firing) (s : State) : Bool :=
  match f with
  | none => true
  | some f => f.waits.any (fun w => match w.2 with
    | .access id => s.reqs.any (fun r => r.id == id && (match r.phase with
      | .waitClose _ => true
      | _ => false))
    | .commit _ => true
    | _ => false)

/-- The accesses of a block have been performed, but for those that wait for the close (R183). -/
def blockQuiet (s : State) (k : PageKey) (b : Nat) : Bool :=
  !s.reqs.any (fun r => r.issuer.whole == .actor k b 0 && (match r.phase with
    | .waitClose _ => false
    | .given => false
    | _ => true))

/-- The cue at which a block's cut is due: at the marks of every fed listen port, or from the round controller. -/
def blockCue (p : Page) (h : Header) (a : ActorState) : Option Token :=
  match fedPorts p h with
  | [] => a.cueDue
  | ports =>
    let marks := ports.map (fun j => match p.listenEntry? h j with
      | some c => ((a.cb c.handle).marks.find? (fun m => m.2.kind == .cue)).map Prod.snd
      | none => none)
    if marks.all Option.isSome then (marks.head?.bind id) else none

/-- A block's cut (R136): CBs up to the marks, pointers, counters and serials recorded, the marks removed, a cue behind
the published slots of each emit port. Slots published ahead of that cue belong to the closing round: their takers hold them at
their own cuts. -/
def cutBlock (s : State) (k : PageKey) (b : Nat) (t : Token) : State :=
  match s.page? k, s.header? k b with
  | some p, some h =>
    let r := (s.ctx k.ctx).round + 1
    let a := p.dyn.actor b
    let outs := (p.cbEntries h).filter CbEntry.out
    let isOut (c : Cb) : Bool := outs.any (fun e => e.handle == c.handle)
    let snap : ActorState := { a with
      cbs := a.cbs.map (fun c => if isOut c then { c with slots := [], marks := [], rp := c.wp } else
        { c with slots := c.visible, marks := [], wp := (c.rp + c.visible.length) % s.cbSlots k b c.handle })
      cueDue := none }
    let clear (c : Cb) : Cb := { c with marks := c.marks.filter (fun m => m.2.kind != .cue) }
    let live : ActorState := { a with cbs := a.cbs.map (fun c => if isOut c then c else clear c), cueDue := none, cut := true }
    let s1 := s.modPage k (fun q =>
      let d := (lookup r q.cuts).getD PageDyn.empty
      { q with dyn := q.dyn.modActor b (fun _ => live), cuts := assign r (d.modActor b (fun _ => snap)) q.cuts })
    outs.foldl (fun x c => x.modCb k b c.handle (fun y => { y with marks := y.marks ++ [(y.slots.length, t)] })) s1
  | _, _ => s

end State

/-- A block's cut is due and not yet recorded: its page selects no firing meanwhile (R132, R136). -/
def State.cutDue (p : Page) : Bool :=
  p.headers.zipIdx.any (fun h => h.1.bkind != 0xA3 && !(p.dyn.actor h.2).cut && (State.blockCue p h.1 (p.dyn.actor h.2)).isSome)

/-- CUE_MARK (R136): a cue on a listen port's channel becomes a mark; once every fed port of an actor holds one, its cut
is recorded at a firing boundary of the page and the cue goes on. -/
def execCueMark (s : State) : Out :=
  match s.cur with
  | some (.place k src) =>
    .next (match s.page? k with
      | none => s
      | some p =>
        match routeFrom p src, p.dyn.headTok src with
        | .chan c, some t =>
          if t.kind ≠ .cue ∨ !s.pageRuns k then s
          else match s.arrive k c.toNat t with
            | some x => x.modDyn k (fun d => d.pop src)
            | none => s
        | _, _ => s)
  | some (.part k b) =>
    .next (match s.page? k, s.header? k b with
      | some p, some h =>
        let a := p.dyn.actor b
        if h.bkind = 0xA3 ∨ a.cut ∨ !s.pageRuns k ∨ !p.dyn.actors.all (fun x => State.atBoundary x.firing s) ∨ !s.blockQuiet k b then s
        else match State.blockCue p h a with
          | some t => s.cutBlock k b t
          | none => s
      | _, _ => s)
  | _ => .fault .noParty

namespace State

/-- Free slots of an emit CB. -/
def freeSlots (s : State) (k : PageKey) (b : Nat) (c : CbEntry) : Nat := 2 ^ c.slog - (s.cb k b c.handle).slots.length

/-- The lowest-numbered listen port with a nonzero rate (R130). -/
def leadPort (h : Header) : Option Nat := (List.range h.nlis).find? (fun j => h.lrate j != 0)

/-- A block's rates are met (R130). -/
def ratesMet (s : State) (k : PageKey) (p : Page) (b : Nat) (h : Header) : Bool :=
  (List.range h.nlis).all (fun j => match p.listenEntry? h j with
    | some c => decide (h.lrate j ≤ (s.cb k b c.handle).visible.length)
    | none => h.lrate j == 0) &&
  (List.range h.nemi).all (fun j => match p.emitEntry? h j with
    | some c => decide (h.erate j ≤ s.freeSlots k b c)
    | none => h.erate j == 0)

/-- The tag of the next firing (R130). -/
def firingTag (s : State) (k : PageKey) (p : Page) (b : Nat) (h : Header) : Tag :=
  match leadPort h with
  | some j => match p.listenEntry? h j with
    | some c => (((s.cb k b c.handle).visible[0]?).map Slot.tag).getD 0
    | none => 0
  | none => 0

/-- A slot below its port's rate of another tag (R130). -/
def tagSkew (s : State) (k : PageKey) (p : Page) (b : Nat) (h : Header) (tag : Tag) : Bool :=
  (List.range h.nlis).any (fun j => match p.listenEntry? h j with
    | some c => ((s.cb k b c.handle).visible.take (h.lrate j)).any (fun x => x.tag != tag)
    | none => false)

/-- A section is armed on the page (R212). -/
def armed (p : Page) : Bool := p.dyn.island.phase != .idle

/-- The turn of a folded region's running member is over: it has lasted 1,024 cycles, or the member has not fired for 64; a
member with an armed section runs on (R265). -/
def turnOver (s : State) (p : Page) : Bool :=
  match p.fold with
  | none => false
  | some f =>
    let now := s.cycle.toNat
    !armed p && decide (f.since.toNat + 1024 ≤ now ∨ max f.since.toNat p.lastFire.toNat + 64 ≤ now)

/-- A cut, a fold or the end of a fold turn waits for the page's firings in flight, and no new one is selected (R132). An
eviction and a void keep the page from running as a whole. -/
def firingsHeld (s : State) (p : Page) : Bool := cutDue p || p.foldDue || s.turnOver p

/-- The handler is runnable (R130, R131). -/
def runnable (s : State) (k : PageKey) (p : Page) (b : Nat) (h : Header) : Bool :=
  let a := p.dyn.actor b
  s.pageRuns k && a.firing.isNone && !a.trap && !a.stopped && !a.held && !s.firingsHeld p &&
    s.dbgAllows k.ctx ((Party.actor k b 0).identity s) (s.firingTag k p b h) && s.stepAllows k.ctx h.step && s.ratesMet k p b h

/-- The operand slots that the tag's earlier firing, or in the first firing a constant, fills (R159). -/
def nextSlots (s : State) (k : PageKey) (p : Page) (b : Nat) (h : Header) (tag : Tag) : List (Nat × Side × Val) :=
  let a := p.dyn.actor b
  let held := (a.nexts.filter (fun x => x.1 == tag)).map (fun x => (x.2.1, x.2.2.1, x.2.2.2))
  if (lookup tag a.serials).isSome then held
  else
    (List.range h.nins).flatMap (fun i =>
      let w := p.insWord h i
      if bitsOf w.toNat 56 8 = 0x82 then
        let v := Val.plain (s.blockConst k b (bitsOf w.toNat 16 4) (bitsOf w.toNat 24 2))
        (p.targets h i).filterMap (fun t => match t with
          | .left j => some (j.toNat, Side.left, v)
          | .right j => some (j.toNat, Side.right, v)
          | .pred j => some (j.toNat, Side.pred, v)
          | _ => none)
      else [])

/-- A selected handler's firing begins (R130, R131, R159). -/
def beginFiring (s : State) (k : PageKey) (p : Page) (b : Nat) (h : Header) : State :=
  let tag := s.firingTag k p b h
  if s.tagSkew k p b h tag then s.faultP 0x36 (.actor k b 0) tag 0 0
  else
    let a := p.dyn.actor b
    let f : Firing := { tag := tag, serial := (lookup tag a.serials).getD 0, slots := s.nextSlots k p b h tag }
    (s.touch k tag).modDyn k (fun d => d.modActor b (fun a =>
      { a with firing := some f, nexts := a.nexts.filter (fun x => x.1 != tag) }))

/-- Firings in flight in a quad's actor tile. -/
def tileFirings (s : State) (quad : Nat) : Nat :=
  ((s.pages.filter (fun p => (p.region.map (fun l => l / 4)) == some quad)).map (fun p =>
    (p.dyn.actors.filter (fun a => a.firing.isSome)).length)).foldl (· + ·) 0

/-- The runnable handlers of a quad: page, block, header, priority and tile channel (R64, R131); none while the tile runs 32
firings (R1, R131). -/
def candidatesOf (s : State) (quad : Nat) : List (PageKey × Page × Nat × Header × Nat) :=
  if 32 ≤ s.tileFirings quad then []
  else s.pages.flatMap (fun p =>
    match p.region with
    | some l =>
      if l / 4 = quad then
        p.headers.zipIdx.filterMap (fun x =>
          if s.runnable p.key p x.2 x.1 then some (p.key, p, x.2, x.1, 64 * (l % 4) + x.1.chan) else none)
      else []
    | none => [])

end State

/-- ACTOR_SELECT (R131): the highest priority among runnable handlers, and within it the next channel after the last
selected one; its firing begins. -/
def execActorSelect (s : State) : Out :=
  match s.cur with
  | some (.unit quad) =>
    .next (
      let all := s.candidatesOf quad
      let cs := all.filter (fun c => (s.replayInput (0x6000 + quad) c.1.ctx).all (fun x => x == c.2.2.2.2))
      let top := cs.foldl (fun m c => max m c.2.2.2.1.prio) 0
      let at_ := cs.filter (fun c => c.2.2.2.1.prio == top)
      let last := ((s.rr.find? (fun x => x.1 == quad && x.2.1 == top)).map (fun x => x.2.2)).getD 255
      let dist (c : PageKey × Page × Nat × Header × Nat) : Nat := (c.2.2.2.2 + 256 - (last + 1)) % 256
      let best := at_.foldl (fun m c => min m (dist c)) 256
      match at_.find? (fun c => dist c == best) with
      | none =>
        match all.find? (fun c => (s.ctx c.1.ctx).stepsLeft.isSome) with
        | none => s
        | some c => let z := s.choose 2; if z.1 = 0 then z.2 else z.2.diverge c.1.ctx (0x6000 + quad)
      | some (k, p, b, h, ch) =>
        let l := update (fun x => x.1 == quad && x.2.1 == top) (fun _ => (quad, top, ch)) (some (quad, top, ch)) s.rr
        let s1 : State := (({ s with rr := l } : State).decideBy (0x6000 + quad) k.ctx (s.ctx k.ctx).round ch).2
        let s2 := s1.modCtx k.ctx (fun x => if x.stepParty = some 0 then { x with stepParty := some (State.partyWord ((Party.actor k b 0).identity s)), stepOnly := true } else x)
        s2.beginFiring k p b h)
  | _ => .fault .noParty

/-- MATCH_OVERFLOW_PROBE (R135): the probes of a partition's spilled entries complete, and their instructions go on. -/
def execMatchOverflowProbe (s : State) : Out :=
  match s.cur with
  | some (.unit part) =>
    .next { s with pages := s.pages.map (fun p =>
      if p.key.ctx.part = part then
        { p with dyn := { p.dyn with
            actors := p.dyn.actors.map (fun a => { a with spilled := a.spilled.map (fun x => (x.1, true)) })
            elems := p.dyn.elems.map (fun a => { a with spilled := a.spilled.map (fun x => (x.1, true)) }) } }
      else p) }
  | _ => .fault .noParty

namespace State

/-- An opcode of the block names a handle (R132, R140). -/
def namesHandle (p : Page) (h : Header) (op handle : Nat) : Bool :=
  (List.range h.nins).any (fun i => let w := (p.insWord h i).toNat; bitsOf w 56 8 == op && bitsOf w 22 4 == handle)

/-- The advance of a handle that the firing's instructions added up (R140). -/
def advanceOf (f : Firing) (handle : Nat) : Nat := ((f.advances.filter (fun x => x.1 == handle)).map Prod.snd).foldl (· + ·) 0

/-- The slot at a write position: the write of highest index decides a 4-byte slot and a slot's token; the words of a
64-byte slot that nothing writes are zero (R139). -/
def composeSlot (f : Firing) (c : CbEntry) (pos : Nat) : Option Slot :=
  let ws := f.writes.filter (fun w => w.handle == c.handle && w.pos == pos)
  let last := ws.foldl (fun (m : Option SlotWrite) w => match m with
    | some x => if x.instr ≤ w.instr then some w else m
    | none => some w) none
  match last with
  | none => none
  | some w =>
    let word (j : Nat) : Word := ((ws.filter (fun x => x.word == j)).foldl (fun (m : Option SlotWrite) x => match m with
      | some y => if y.instr ≤ x.instr then some x else m
      | none => some x) none).map SlotWrite.value |>.getD 0
    some { kind := w.kind, sc := w.sc, tag := w.tag, words := if c.wide then (List.range 16).map word else [w.value],
           dep := ws.foldl (fun d x => d.join x.dep) {} }

/-- The slots that an emit port publishes at completion: written positions compacted, or positions 0 to n − 1 with
absent ones as zero data (R132). -/
def published (p : Page) (h : Header) (f : Firing) (c : CbEntry) : List Slot :=
  if namesHandle p h 0x94 c.handle then
    (List.range (advanceOf f c.handle)).map (fun j => (composeSlot f c j).getD
      { kind := .data, sc := false, tag := f.tag, words := if c.wide then List.replicate 16 0 else [0] })
  else (List.range (2 ^ c.slog)).filterMap (composeSlot f c)

/-- How far a listen port's read pointer advances (R132). -/
def readAdvance (p : Page) (h : Header) (f : Firing) (c : CbEntry) : Nat :=
  if namesHandle p h 0x93 c.handle then advanceOf f c.handle else h.lrate c.port

end State

/-- FIRING_COMPLETE (R132): once every instruction has fired or can no longer be filled, and every advance can be made,
pointers advance, emit slots are published and the serial advances, at one instant. -/
def execFiringComplete (s : State) : Out :=
  match s.cur with
  | some (.part k b) =>
    .next (match s.page? k, s.header? k b, s.firing? k b with
      | some p, some h, some f =>
        let es := p.cbEntries h
        let a := p.dyn.actor b
        let fits := es.all (fun c =>
          if c.out then decide ((State.published p h f c).length ≤ s.freeSlots k b c)
          else decide (State.readAdvance p h f c ≤ (s.cb k b c.handle).visible.length))
        if a.stopped || !firingOver (insTable p h) f || !fits then s
        else
          let one (t : State) (c : CbEntry) : State :=
            let n := 2 ^ c.slog
            if c.out then t.modCb k b c.handle (fun y => (State.published p h f c).foldl (fun y x => y.put n x) y)
            else t.modCb k b c.handle (fun y => y.drop n (State.readAdvance p h f c))
          let s1 := (es.foldl one s).modDyn k (fun d => d.modActor b (fun a =>
            let a1 : ActorState := { a with firing := none, serials := assign f.tag ((f.serial + 1) % 4096) a.serials }
            let kept := State.blockEntries p h b a1
            { a1 with spilled := a1.spilled.filter (fun x => kept.contains x.1) }))
          let s2 : State := { s1 with seen := s1.seen.filter (fun x => x.party != .actor k b 0) }
          (s2.touch k f.tag).countStep (.actor k b 0) f.tag
      | _, _, _ => s)
  | _ => .fault .noParty

/-! ### Traps (R351, R352) -/

/-- TRAP_DELIVER (R352): the four tokens of the page's oldest waiting trap fill four slots of the handler's CB, and an
accepted trap is reported. -/
def execTrapDeliver (s : State) : Out :=
  match s.cur with
  | some (.page k) =>
    .next (match s.traps.find? (fun t => t.page == k) with
      | none => s
      | some t =>
        match s.listener? k 0x3F with
        | none => s
        | some (b, _, c) =>
          if 2 ^ c.slog < (s.cb k b c.handle).slots.length + 4 then s
          else
            let put (x : State) (w : Word) : State := x.modCb k b c.handle (fun y =>
              y.put (2 ^ c.slog) { kind := .data, sc := false, tag := t.tag, words := [w], dep := t.dep })
            let r := (s.ctx k.ctx).round + (if ((s.page? k).map Page.reported).getD false then 1 else 0)
            let s1 : State := ({ t.words.foldl put s with traps := s.traps.erase t } : State).modPage k (fun p =>
              { p with trapRounds := p.trapRounds ++ List.replicate t.words.length r })
            match t.accepts, t.party with
            | true, some p =>
              let w := (p.identity s).toNat
              s1.sendCtl { code := 0x09, tag := t.tag, operand := bitsOf w 0 7 + bitsOf w 13 5 * 2 ^ 7 + bitsOf w 18 2 * 2 ^ 12, page := some k, part := k.ctx.part }
            | _, _ => s1)
  | _ => .fault .noParty

/-- The first control token of a code, and the state without it. -/
def State.takeCtl (s : State) (code : Nat) : Option (Ctl × State) :=
  (s.ctl.find? (fun c => c.code == code)).map (fun c => (c, { s with ctl := s.ctl.erase c }))

/-- TRAP_ACCEPT (R31, R80): a trap has been accepted, and the party that the token names may fire again. -/
def execTrapAccept (s : State) : Out :=
  match s.cur with
  | some .device =>
    .next (match s.takeCtl 0x09 with
      | none => s
      | some (c, t) =>
        match c.page with
        | none => t
        | some k =>
          let i := bitsOf c.operand 0 7
          let b := bitsOf c.operand 7 5
          let who : Party := match bitsOf c.operand 12 2 with
            | 0 => .elem k i
            | 2 => .island k
            | _ => .actor k b i
          let more := t.traps.any (fun x => x.accepts && x.party.map Party.whole == some who.whole)
          let u := t.setTrap who more
          u.modFiring k b (fun f => if who == .actor k b i && f.waits.contains (i, .trap) then { f with waits := f.waits.erase (i, .trap) } else f))
  | _ => .fault .noParty

/-- UNKNOWN_CONTROL_CODE (R80): a control token with a code that no unit knows is discarded and logged. -/
def execUnknownControlCode (s : State) : Out :=
  match s.cur with
  | some .device =>
    .next (match s.ctl.find? (fun c => c.code == 0 || 0x0C < c.code) with
      | none => s
      | some c => let t : State := { s with ctl := s.ctl.erase c }; t.logEvent 0x10 0xC002 (c.code * 2 ^ 24 + c.operand))
  | _ => .fault .noParty

end Sys2Proof.Machine
end

