-- ==== Sys2Proof/Machine/Paging.lean ====
section
/-!
DEFINITION. The Stagehand (R243, R244, R251 to R269): argument values, the stage map, regions and quotas, victims, loads
and evictions, save frames, folds, and their events.
-/
namespace Sys2Proof.Machine

/-! ### CRC-32C (R68) -/

/-- One bit of the reflected CRC-32C. -/
def crcBit (c : Nat) : Nat := if c % 2 = 1 then Nat.xor (c / 2) 0x82F63B78 else c / 2

/-- One byte of the CRC. -/
def crcByte (c : Nat) (b : Byte) : Nat :=
  crcBit (crcBit (crcBit (crcBit (crcBit (crcBit (crcBit (crcBit (Nat.xor c b.toNat))))))))

/-- CRC-32C of bytes: polynomial 0x1EDC6F41, initial value and final XOR all ones (R68). -/
def crc32c (bs : List Byte) : Nat := Nat.xor (bs.foldl crcByte 0xFFFFFFFF) 0xFFFFFFFF

/-- The CRC of a page image with its CRC field taken as zero equals the field (R68). -/
def pageCrcOk (img : List Host.Cell) : Bool :=
  let m := Memory.writeNat img 0x3C 4 0
  crc32c (Memory.readBytes m 0 0x8000) == imgNat img 0x3C 4

namespace State

/-! ### Argument values (R71) -/

/-- The 32 argument slots of a page as its bindings give them from these values (R71). -/
def bindArgs (vs : List (Word × Nat × DWord)) (g : Word) (img : List Host.Cell) : List Word :=
  (List.range 32).map (fun i =>
    let b := imgNat img (0x340 + 4 * i) 4
    if bitsOf b 31 1 = 0 then 0
    else
      let v := ((vs.find? (fun x => x.1 == g && x.2.1 == bitsOf b 0 8)).map (fun x => x.2.2)).getD 0
      if bitsOf b 29 2 = 2 then v.extractLsb' 32 32 else v.extractLsb' 0 32)

/-- The argument slots of a page in its context's open round (R71). -/
def boundArgs (s : State) (c : CtxId) (g : Word) (img : List Host.Cell) : List Word := bindArgs (s.ctx c).args g img

/-- The argument slots of a page in the round behind the close in progress (R71, R309). -/
def boundNext (s : State) (c : CtxId) (g : Word) (img : List Host.Cell) : List Word := bindArgs (s.ctx c).nextArgs g img

/-- The arguments as the network holds them. -/
def networkArgs (s : State) (part : Nat) : List (Word × Nat × DWord) :=
  (s.graphs.filter (fun g => g.part == part)).flatMap (fun g => g.args.map (fun a => (g.gid, a.1, a.2)))

/-- A graph argument rewritten in the network (R161). DESIGN CHOICE (log 141), unsafe. -/
def setArg (s : State) (part : Nat) (g : Word) (a half : Nat) (v : Word) : State :=
  s.modGraph part g (fun x =>
    let old := (lookup a x.args).getD 0
    let new : DWord := match half with
      | 1 => old.extractLsb' 32 32 ++ v
      | 2 => v ++ old.extractLsb' 0 32
      | _ => v.setWidth 64
    { x with args := assign a new x.args })

/-- The values that a round's parties see behind their cuts: the network's as the close begins, with the context's own rewrites
that leave at it; its pages' slots follow (R71, R161, R309). DEDUCED (log 155), unsafe. -/
def fixArgs (s : State) (c : CtxId) (round : Nat) : State :=
  let own := (s.ctx c).atClose.filter (fun a => a.1 ≤ round)
  let t := own.foldl (fun (t : State) a => match a.2 with
    | .arg g n half v => t.setArg c.part g n half v
    | _ => t) s
  let next := t.networkArgs c.part
  let s1 := s.modCtx c (fun x => { x with nextArgs := next })
  { s1 with pages := s1.pages.map (fun p =>
      if p.key.ctx = c then { p with dyn := { p.dyn with argsNext := bindArgs next p.key.graph p.image } } else p) }

/-- The context's view becomes that of the round behind the close, and its pages' slots follow (R71). -/
def refreshArgs (s : State) (c : CtxId) : State :=
  let s1 := s.modCtx c (fun x => { x with args := x.nextArgs })
  { s1 with pages := s1.pages.map (fun p =>
      if p.key.ctx = c then { p with dyn := { p.dyn with args := s1.boundArgs c p.key.graph p.image } } else p) }

/-! ### The stage map (R251) -/

/-- A page as the stage map first holds it: absent, its state the initial one, its cut the open round's (R251, R309). -/
def freshPage (s : State) (k : PageKey) (img : List Host.Cell) : Page :=
  let d : PageDyn := { PageDyn.empty with args := s.boundArgs k.ctx k.graph img, argsNext := s.boundNext k.ctx k.graph img }
  let x := s.ctx k.ctx
  { key := k, image := img, dyn := d, cuts := [(x.round, d)], reported := x.close.isSome }

/-- The entries of a graph's pages for a context, made when they are not there. Fold variants are no pages of their own. -/
def mapGraph (s : State) (c : CtxId) (g : Graph) : State :=
  let add (t : State) (x : Nat × List Host.Cell) : State :=
    let k : PageKey := { ctx := c, graph := g.gid, lpn := x.1 }
    if (t.page? k).isSome || imgNat x.2 0 1 != 1 then t else { t with pages := t.pages ++ [t.freshPage k x.2] }
  g.pages.foldl add s

/-! ### Regions and quotas (R254, R262) -/

/-- The entry of the cast map for a logical region is valid (R254). -/
def backedRegion (s : State) (l : Nat) : Bool := (((s.dev.cast[l]?).getD 0)).getLsbD 31

/-- The partition's backed regions. -/
def regionsOf (s : State) (part : Nat) : List Nat :=
  (List.range 64).filter (fun l => bitsOf (s.part part).quads (l / 4) 1 == 1 && s.backedRegion l)

/-- A scan holds the region (R228, R394). -/
def scanned (s : State) (l : Nat) : Bool := s.scans.any (fun c => c.quad == l / 4 && c.held.contains l)

/-- Some page holds the region. -/
def regionUsed (s : State) (l : Nat) : Bool := s.pages.any (fun p => p.region == some l)

/-- Free regions of the partition, lowest first; one that is to be retired stays held until its rewrite (R396). -/
def freeRegions (s : State) (part : Nat) : List Nat := (s.regionsOf part).filter (fun l => !s.regionUsed l && !s.scanned l && !s.dev.retiring.contains l)

/-- Regions that a context holds, from Loading until Stopping ends (R252). -/
def regionCount (s : State) (c : CtxId) : Nat := ((s.pages.filter (fun p => p.key.ctx == c)).filterMap Page.region).eraseDups.length

/-- Maximum and minimum of a context's quota (R239, R262). -/
def quotaMax (s : State) (c : CtxId) : Nat := bitsOf (s.ctx c).quota.toNat 8 8
def quotaMin (s : State) (c : CtxId) : Nat := bitsOf (s.ctx c).quota.toNat 0 8

/-- Travel hops between two regions (R247, R250). -/
def regionHops (a b : Nat) : Nat :=
  let qa := a / 4
  let qb := b / 4
  let row (q : Nat) : Nat := q % 8 / 4
  let col (q : Nat) : Nat := q % 8 % 4
  let diff (x y : Nat) : Nat := (x - y) + (y - x)
  if qa / 8 = qb / 8 then 2 * (diff (row qa) (row qb) + diff (col qa) (col qb))
  else if qa / 8 = 0 then 24 + 2 * (diff (row qa) (row qb) + (3 - col qa) + col qb)
  else 24 + 2 * (diff (row qa) (row qb) + col qa + (3 - col qb))

/-- The summed travel to the memory tiles of the page's valid AFFINITY granules: a local tile is 6 cycles, a remote one
10 and its hops (R250, R256). -/
def affinityCost (img : List Host.Cell) (l : Nat) : Nat :=
  ((List.range 4).map (fun i =>
    let e := imgNat img (0x10 + 2 * i) 2
    let r := bitsOf e 5 6
    if bitsOf e 15 1 = 0 then 0 else if r = l then 6 else 10 + regionHops l r)).foldl (· + ·) 0

/-- The free region that a page loads into: the least summed travel, then the lowest number (R256). -/
def bestRegion (s : State) (p : Page) : Option Nat :=
  let rs := s.freeRegions p.key.ctx.part
  let cost := affinityCost p.image
  let least := rs.foldl (fun m l => min m (cost l)) (2 ^ 32)
  rs.find? (fun l => cost l == least)

/-! ### Victims (R244, R256) -/

/-- The last-fire unit of a page (R243). -/
def fireUnit (p : Page) : Nat := p.lastFire.toNat / 1024

/-- The pages of a folded region, or the page alone (R266). -/
def groupPages (s : State) (p : Page) : List Page := (evictGroup p).filterMap s.page?

/-- A section is armed on some page of the region: nothing takes the region away (R212, R276, R277). -/
def groupArmed (s : State) (p : Page) : Bool := (s.groupPages p).any armed

/-- A page may be chosen as a victim; a folded region counts as one page (R256, R266, R277). DESIGN CHOICE (log 57), unsafe. -/
def eligible (s : State) (p : Page) : Bool :=
  p.placed && p.leads && decide (p.since.toNat + 2 * Config.cyclesPerMicrosecond ≤ s.cycle.toNat) && !s.groupArmed p &&
    !(s.groupPages p).any (fun m => m.foldDue) && !(s.ctx p.key.ctx).frozen

/-- The last-fire unit of a region's page: the latest of its members' under a fold (R243, R266). -/
def regionUnit (s : State) (p : Page) : Nat := (s.groupPages p).foldl (fun m q => max m (fireUnit q)) (fireUnit p)

/-- The victim among pages: the oldest last-fire unit, then the lowest page number (R243, R256, R266). -/
def victim (s : State) (ps : List Page) : Option Page :=
  ps.foldl (fun m p => match m with
    | some x =>
      if s.regionUnit p < s.regionUnit x ∨ (s.regionUnit p = s.regionUnit x ∧ p.key.lpn < x.key.lpn) then some p else m
    | none => some p) none

/-! ### Save frames (R353, R354) -/

/-- Save frames that a page's state, its cut records and its fold store hold. -/
def pageFrames (p : Page) : List SaveFrame :=
  p.frames ++ p.cutUse.flatMap Prod.snd ++ ((p.fold.map FoldInfo.frames).getD [])

/-- Save frames in use by a partition: those of its pages, and of the snapshots of its contexts' undo windows. A frame is free again
when nothing holds it (R353). -/
def framesHeld (s : State) (part : Nat) : List SaveFrame :=
  ((s.pages.filter (fun p => p.key.ctx.part == part)).flatMap pageFrames ++
    (s.ctxs.filter (fun x => x.id.part == part)).flatMap (fun x => x.undo.windows.flatMap UndoWindow.frames)).eraseDups

/-- The shadow frame of a die that a save frame is, if it is one. -/
def shadowOf (die : Nat) : SaveFrame → Option Nat
  | .shadow d n => if d = die then some n else none
  | .donated _ => none

/-- The shadow frames of a die that no partition uses. -/
def freeShadow (s : State) (die : Nat) : List SaveFrame :=
  let used := s.parts.flatMap (fun p => (s.framesHeld p.num).filterMap (shadowOf die))
  ((List.range 2048).filter (fun n => !used.contains n)).map (SaveFrame.shadow die)

/-- The save frames that a request of a page on a die draws from, in order (R353): shadow frames of that die and of the other one
within the partition's allowance, then donated frames. -/
def framePool (s : State) (part die : Nat) : List SaveFrame :=
  let held := s.framesHeld part
  let own := (held.filterMap (shadowOf 0)).length + (held.filterMap (shadowOf 1)).length
  (s.freeShadow die ++ s.freeShadow (1 - die)).take ((s.part part).saveAllow - own) ++
    ((s.part part).donated.map SaveFrame.donated).filter (fun f => !held.contains f)

/-- How many save frames a partition can still draw. -/
def framesFree (s : State) (part : Nat) : Nat := (s.framePool part 0).length

/-- Donated frames in use (R353). -/
def donatedUsed (s : State) (part : Nat) : List Nat :=
  (s.part part).donated.filter (fun f => (s.framesHeld part).contains (.donated f))

/-- The context of a request for save frames. -/
def saveReqCtx : SaveReq → CtxId
  | .evict k | .cut k | .fold k => k.ctx
  | .save c => c

/-- Save frames for a request; none, and 0x44 once for it, while the pool is short (R353, R354). -/
def takeFrames (s : State) (die n : Nat) (r : SaveReq) : Option (List SaveFrame) × State :=
  let c := saveReqCtx r
  let pool := s.framePool c.part die
  let waits := (s.part c.part).saveWaits.any (fun w => w.1 == r)
  if n ≤ pool.length then
    (some (pool.take n), if waits then s.modPart c.part (fun p => { p with saveWaits := p.saveWaits.filter (fun w => w.1 != r) }) else s)
  else if waits then (none, s)
  else (none, (s.modPart c.part (fun p => { p with saveWaits := p.saveWaits ++ [(r, n)] })).tellHyp c.part 0x44 (BitVec.ofNat 64 n) 0 (some c))

/-- Save frames dealt out to holders that need so many each. -/
def sliceFrames : List SaveFrame → List Nat → List (List SaveFrame)
  | _, [] => []
  | fs, n :: ns => fs.take n :: sliceFrames (fs.drop n) ns

/-- The die of a page's region, for its save frames (R353). -/
def pageDie (p : Page) : Nat := p.region.getD 0 / 32 % 2

/-- Items that a snapshot of a page stores, the entries of its internal wing among them (R49, R260). DEDUCED (log 19), unsafe. -/
def stored (d : PageDyn) : Nat :=
  (internalWing d).length + (d.fifos.map (fun f => if innerPlace f.1 then 0 else f.2.length)).foldl (· + ·) 0 +
    (d.actors.map (fun a => (a.cbs.map (fun c => c.slots.length)).foldl (· + ·) 0)).foldl (· + ·) 0

/-- The conditions of R257; a cue or a census token in a wing waits there without calling the page back (R81, R268). DEDUCED (log 20), unsafe. -/
def staysPending (p : Page) : Bool :=
  p.dyn.nodes.any (fun n => n.gens.any (fun g => !g.done)) ||
    p.dyn.fifos.any (fun f => (match f.1 with
      | .wing _ | .reply => true
      | _ => false) && f.2.any (fun i => !i.weightless)) || p.signalled

/-- A page chosen as a victim enters Stopping, and the pending list when R257 holds already (R252, R253). When the save pool
cannot supply its frames the eviction does not begin (R260, R354). -/
def evict (s : State) (p : Page) : State :=
  let ms := s.groupPages p
  let need (m : Page) : Nat := Config.snapshotFrames (stored m.dyn)
  let r := s.takeFrames (pageDie p) ((ms.map need).foldl (· + ·) 0) (.evict p.key)
  match r.1 with
  | none => r.2
  | some fs =>
    let t := (ms.zip (sliceFrames fs (ms.map need))).foldl (fun t m =>
      (t.modPage m.1.key (fun x => { x with st := .stopping, frames := x.frames ++ m.2 })).logEvent 0x17 0xC001 m.1.key.lpn) r.2
    ms.foldl (fun t m => if staysPending m then t.makePending m.key else t) t

/-- An eviction whose freed region goes to another context: the one that steals it, or for which it is shrunk (R258, R416). -/
def evictFor (s : State) (p : Page) (dst : CtxId) : State :=
  (evictGroup p).foldl (fun t k => t.modPage k (fun x => if x.st = .stopping then { x with giveTo := some dst } else x)) (s.evict p)

/-- No member of the page's folded region is still being saved. -/
def groupReady (s : State) (p : Page) : Bool :=
  (evictGroup p).all (fun m => ((s.page? m).map (fun q => q.st != .stopping)).getD true)

/-- A region assigned to a pending page, which begins to load (R244, R252). -/
def assignRegion (s : State) (k : PageKey) (l : Nat) : State :=
  let group := ((s.page? k).map evictGroup).getD [k]
  let t := group.foldl (fun t m => t.modPage m (fun p => { p with st := .loading, region := some l, signalled := false })) s
  (t.modPart k.ctx.part (fun x => { x with pending := x.pending.filter (fun y => !group.contains y) })).logEvent 0x17 0xC001 (k.lpn + l * 2 ^ 12)

/-- Pending pages of a context, oldest first. -/
def pendingOf (s : State) (c : CtxId) : List PageKey := (s.part c.part).pending.filter (fun k => k.ctx == c)

/-- The page of a context's requests that the next region goes to: the oldest that is not still being saved; none while an
unfold that waits for regions stands ahead of it (R244, R253, R266). -/
def nextPending (s : State) (c : CtxId) : Option PageKey :=
  match (s.pendingOf c).find? (fun k => ((s.page? k).map s.groupReady).getD false) with
  | some k => if ((s.page? k).map Page.st) = some .pending then some k else none
  | none => none

/-- Regions of a context on their way back. -/
def stoppingOf (s : State) (c : CtxId) : Nat :=
  ((s.pages.filter (fun p => p.key.ctx == c && p.st == .stopping)).filterMap Page.region).eraseDups.length

/-- The context's victim, when one is to be chosen for its pending pages: one for each page that a fault has named; whether a
page that is pending by R257 alone, or a region on its way already, calls for a further one is open (R244, R256).
DEDUCED (log 127), safe. -/
def ownVictim (s : State) (c : CtxId) : Option Page × State :=
  let wait := (s.pendingOf c).filterMap (fun k => (s.page? k).bind (fun p => if p.st = .pending then some p else none))
  let v := s.victim (s.pages.filter (fun q => q.key.ctx == c && s.eligible q))
  if s.stoppingOf c < (wait.filter Page.signalled).length then (v, s)
  else if wait.isEmpty then (none, s)
  else (if Config.furtherVictim s.free then v else none, { s with free := s.free + 1 })

/-- Regions that come to a context when an eviction for it ends: stolen, or freed by a shrink (R263, R416). -/
def incoming (s : State) (c : CtxId) : Nat :=
  ((s.pages.filter (fun p => p.st == .stopping && p.giveTo == some c)).filterMap Page.region).eraseDups.length

/-- Regions that a context holds and is not about to lose (R263). -/
def keeps (s : State) (c : CtxId) : Nat :=
  ((s.pages.filter (fun p => p.key.ctx == c && !(p.st == .stopping && p.giveTo.isSome))).filterMap Page.region).eraseDups.length

/-- The page that a context below its minimum steals a region from; a region already on its way to another context counts
no more (R263). -/
def lender (s : State) (c : CtxId) : Option Page :=
  let above (x : CtxId) : Nat := s.keeps x - s.quotaMin x
  let idle (p : Page) : Bool := s.eligible p && decide (p.lastFire.toNat + 2 * Config.cyclesPerMicrosecond ≤ s.cycle.toNat)
  let lenders := (s.ctxs.map Context.id).filter (fun x => x != c && x.part == c.part && x.guest == c.guest && decide (s.quotaMin x < s.keeps x))
  let best := lenders.foldl (fun (m : Option CtxId) x => match m with
    | some y => if above y < above x ∨ (above y = above x ∧ x.num < y.num) then some x else m
    | none => some x) none
  match best with
  | some x => s.victim (s.pages.filter (fun p => p.key.ctx == x && idle p))
  | none => none

/-- The Stagehand chooses for a pending page: a free region within quota; below the minimum with no free region a stolen one, unless
enough are on their way, or it waits; else a victim of the context's own (R256, R263). -/
def chooseFor (s : State) (k : PageKey) : State :=
  match s.page? k with
  | none => s
  | some p =>
    let c := k.ctx
    if !s.groupReady p || !s.ctxServed c then s
    else
    match (if s.regionCount c < s.quotaMax c then s.bestRegion p else none) with
    | some l => s.assignRegion k l
    | none =>
      if s.regionCount c < s.quotaMin c ∧ (s.freeRegions c.part).isEmpty then
        if s.quotaMin c ≤ s.regionCount c + s.incoming c then s
        else match s.lender c with
          | some v => s.evictFor v c
          | none => s
      else
        match s.ownVictim c with
        | (some v, t) => t.evict v
        | (none, t) => t

/-! ### Leaving Stopping (R257, R260) -/

/-- Ingress buffers returned to the heads of their wings (R260); the rows of a packet that were still to come enter the wing
behind it (R279). -/
def ingressToWings (d : PageDyn) : PageDyn :=
  (List.range 16).foldl (fun d i =>
    let l := d.fifo (.ingress i)
    let rows := if d.pend (.wing i) = 0 then d.pend (.ingress i) else d.pend (.wing i)
    let d1 := { d with pends := assign (.wing i) rows (assign (.ingress i) 0 d.pends) }
    if l.isEmpty then d1 else (d1.setFifo (.wing i) (l ++ d.fifo (.wing i))).setFifo (.ingress i) []) d

/-- Every egress token goes on to its consumer, beyond allowances if need be (R260). -/
def flushEgress (s : State) (k : PageKey) : Nat → State
  | 0 => s
  | n + 1 =>
    match (List.range 16).find? (fun q => !((s.dyn k).fifo (.egress q)).isEmpty) with
    | none => s
    | some q => match s.sendEgress k q true with
      | some t => t.flushEgress k n
      | none => s

/-- A page's eviction completed: its state saved, its region freed for the oldest pending page of its context, or of the
context that the region was taken for (R244, R257, R258, R260). A region that is to be retired goes to none (R255). -/
def finishEviction (s : State) (k : PageKey) : State :=
  let s1 := (s.modDyn k ingressToWings).flushEgress k 128
  match s1.page? k with
  | none => s1
  | some p =>
    let s2 := s1.modPage k (fun p => { p with st := .absent, region := none, evict := none, giveTo := none })
    let queued := (s2.part k.ctx.part).pending.any (fun y => (evictGroup p).contains y)
    let s3 := if staysPending p || queued then s2.makePending k else s2
    let s4 := s3.logEvent 0x17 0xC001 k.lpn
    let dst := p.giveTo.getD k.ctx
    match p.region, s4.nextPending dst with
    | some l, some q =>
      if (s4.freeRegions k.ctx.part).contains l && s4.ctxServed dst && decide (s4.regionCount dst < s4.quotaMax dst) then s4.assignRegion q l else s4
    | _, _ => s4

/-! ### Folds (R264 to R266) -/

/-- The members of the fold group that a page begins, at a level: FOLDSET of its variant (R264). -/
def foldMembers (g : Graph) (lpn level : Nat) : List Nat :=
  match g.pages.find? (fun x => imgNat x.2 0 1 == 2 && imgNat x.2 1 1 == level && bitsOf (imgNat x.2 0x20 2) 15 1 == 1 && bitsOf (imgNat x.2 0x20 2) 0 12 == lpn) with
  | some v => sortBy (fun a b => decide (a ≤ b)) ((List.range 4).filterMap (fun i =>
      let e := imgNat v.2 (0x20 + 2 * i) 2
      if bitsOf e 15 1 = 1 then some (bitsOf e 0 12) else none))
  | none => []

/-- The variant image of a member at a level; level 0 is the member's own page (R264). -/
def foldImage (g : Graph) (lpn level : Nat) : Option (List Host.Cell) :=
  if level = 0 then (g.pages.find? (fun x => imgNat x.2 0 1 == 1 && x.1 == lpn)).map Prod.snd
  else (g.pages.find? (fun x => imgNat x.2 0 1 == 2 && imgNat x.2 1 1 == level && bitsOf (imgNat x.2 0x20 2) 0 12 == lpn)).map Prod.snd

/-- A page's firings in flight have completed (R132). -/
def settled (p : Page) : Bool := p.dyn.actors.all (fun a => a.firing.isNone)

/-- The level at which a page is folded; 0 when it is not. -/
def foldLevel (p : Page) : Nat := (p.fold.map FoldInfo.level).getD 0

/-- The groups that a fold or an unfold of the group of a page makes: one group of the deeper variant, or the parts into
which the group falls at the lower level (R264, R266). -/
def foldGroups (g : Graph) (lpn now level : Nat) (old : List Nat) : List (List Nat) :=
  if now < level then [foldMembers g lpn level]
  else if level = 0 then old.map (fun m => [m])
  else (old.map (fun m => let x := foldMembers g m level; if x.isEmpty then [m] else x)).eraseDups

/-- One new group at a region, or at none while its members are absent: the members' state goes unchanged into the
images of the level (R264, R266). -/
def setGroup (s : State) (g : Graph) (key : Nat → PageKey) (level : Nat) (region : Option Nat) (store : List SaveFrame) (ms : List Nat) : State :=
  let info : Option FoldInfo := if level = 0 ∨ ms.length ≤ 1 then none
    else some { level := level, members := ms, running := ms.headD 0, since := s.cycle, frames := store }
  ms.foldl (fun t m => t.modPage (key m) (fun p =>
    { p with
      fold := info
      st := if region.isSome then (if info.isSome then .folded else .resident) else p.st
      foldDue := false
      region := region
      since := if region.isSome then s.cycle else p.since
      frames := if region.isSome then [] else p.frames
      image := (foldImage g m (if info.isSome then level else 0)).getD p.image })) s

/-- A fold or an unfold at a round close (R266): members' state goes into the images of the new level. False when it has
to wait, for an armed section, a firing, a page on its way, regions or save frames. DEDUCED (log 87), unsafe. -/
def foldNow (s : State) (c : CtxId) (graph : Word) (lpn level : Nat) : Bool × State :=
  match s.graph? c.part graph with
  | none => (true, s)
  | some g =>
    let key (m : Nat) : PageKey := { ctx := c, graph := graph, lpn := m }
    let now := ((s.page? (key lpn)).map foldLevel).getD 0
    let old := (((s.page? (key lpn)).bind Page.fold).map FoldInfo.members).getD [lpn]
    let groups := foldGroups g lpn now level old
    let pages := groups.flatten.filterMap (fun m => s.page? (key m))
    if level = now ∨ groups.flatten.isEmpty then (true, s)
    else if pages.any (fun p => (now < level && level ≤ foldLevel p) || armed p || (!p.placed && p.st != .absent)) then (false, s)
    else if !pages.all settled then
      (false, pages.foldl (fun t p => t.modPage p.key (fun x => { x with foldDue := true })) s)
    else
      let regions := (pages.filterMap Page.region).eraseDups
      let kept := if regions.isEmpty then [] else regions.take groups.length
      let extra := if regions.isEmpty then [] else (s.freeRegions c.part).take (groups.length - kept.length)
      let homes := kept ++ extra
      if !regions.isEmpty && (decide (homes.length < groups.length) || decide (s.quotaMax c + regions.length < s.regionCount c + groups.length)) then (false, s)
      else
        let needOf (ms : List Nat) : Nat :=
          if level = 0 ∨ ms.length ≤ 1 then 0
          else Config.snapshotFrames (((ms.filterMap (fun m => s.page? (key m))).map (fun p => stored p.dyn)).foldl (· + ·) 0)
        let got := s.takeFrames (regions.headD 0 / 32 % 2) ((groups.map needOf).foldl (· + ·) 0) (.fold (key lpn))
        match got.1 with
        | none => (false, got.2)
        | some fs =>
          let t := (groups.zip (sliceFrames fs (groups.map needOf))).zipIdx.foldl (fun t x => t.setGroup g key level homes[x.2]? x.1.2 x.1.1) got.2
          (true, t.logEvent 0x17 0xC001 lpn)

end State

/-! ### Events -/

/-- PAGE_SIGNAL (R237, R253, R256, R267): the Stagehand takes a signal, or a page that PGLD or PRE names, whose signal is recorded
here; the page becomes pending and a region is chosen for it. -/
def execPageSignal (s : State) : Out :=
  match s.cur with
  | some (.unit part) =>
    let x := s.part part
    .next (match x.signals ++ x.asked.map Prod.fst with
      | [] => s
      | k :: _ =>
        let s0 := s.modPart part (fun p => { p with
          signals := p.signals.drop 1
          asked := if p.signals.isEmpty then p.asked.drop 1 else p.asked })
        let s1 := if x.signals.isEmpty then s0.logEvent 0x17 0xC001 (k.lpn + 2 ^ 20) else s0
        let s2 : State := ({ s1 with ctl := s1.ctl.filter (fun c => !(c.code == 0x04 && c.page == some k)) } : State).noteChoice 0xC001 (s1.regionByte k)
        match s2.page? k with
        | none => s2
        | some p =>
          if p.st = .absent ∨ p.st = .pending then ((s2.modPage k (fun x => { x with signalled := true })).makePending k).chooseFor k
          else if p.st = .stopping then (s2.modPage k (fun x => { x with signalled := true })).makePending k
          else s2)
  | _ => .fault .noParty

/-- The image of a page as the Stagehand fetches it: through the translation of the graph's owner (R408), at the place of the
page that the image in force is one of, a variant's under a fold; a graph without an address keeps its image. DEDUCED (log 79), unsafe. -/
def State.fetchImage (s : State) (p : Page) : Except (XFault × Nat) (List Host.Cell) :=
  match s.graph? p.key.ctx.part p.key.graph with
  | some g =>
    if g.base = 0 then .ok p.image
    else match s.readImage g.owner (g.base.toNat + 0x8000 * (imgNat p.image 2 2 + 1)) 8 with
      | .ok r => .ok (Memory.ofBytes r.1)
      | .error f => .error f
  | none => .ok p.image

namespace State

/-- A cached image is the one of these keys. -/
def isImage (die part : Nat) (graph : Word) (lpn : Nat) (e : CachedImage) : Bool :=
  e.die == die && e.part == part && e.graph == graph && e.lpn == lpn

/-- A cached image may be displaced: no page of its graph that stands in a region of its die runs it, and no preload of it
is younger than 1 ms (R259). -/
def displaceable (s : State) (e : CachedImage) : Bool :=
  !s.pages.any (fun p => p.placed && p.key.ctx.part == e.part && p.key.graph == e.graph && imgNat p.image 2 2 == e.lpn &&
      p.region.map (fun l => l / 32) == some e.die) &&
    (match e.preload with
      | some t => decide (t.toNat + 1000 * Config.cyclesPerMicrosecond ≤ s.cycle.toNat)
      | none => true)

/-- An image used from a die's configuration cache of 256 pages, or entered in it, displacing the least recently used one
that may be displaced; with none, it is not entered (R1, R226, R259). -/
def cacheImage (s : State) (die part : Nat) (graph : Word) (lpn : Nat) (preload : Bool) : State :=
  let l := s.dev.configCache
  let pre : Option (BitVec 64) := if preload then some s.cycle else none
  let new : CachedImage := { die := die, part := part, graph := graph, lpn := lpn, used := s.cycle, preload := pre }
  let set (c : List CachedImage) : State := { s with dev := { s.dev with configCache := c } }
  if l.any (isImage die part graph lpn) then
    set (l.map (fun e => if isImage die part graph lpn e then { e with used := s.cycle, preload := pre.orElse (fun _ => e.preload) } else e))
  else if (l.filter (fun e => e.die == die)).length < 256 then set (l ++ [new])
  else
    let out := (l.filter (fun e => e.die == die && s.displaceable e)).foldl (fun (m : Option CachedImage) e => match m with
      | some x => if e.used.toNat < x.used.toNat then some e else m
      | none => some e) none
    match out with
    | some e => set (l.erase e ++ [new])
    | none => s

end State

/-- A generator's prefetch after a reload: the data fetched ahead has been discarded, and the window at its position is
requested again (R186, R259). -/
def rewindow (d : Desc) (g : Gen) : Gen :=
  let n := min g.returned (g.k / max 1 d.winsz)
  { g with requested := n, returned := n }

/-- PAGE_LOAD_DONE (R74, R252, R259): the configuration and any saved state are in place. An image that the configuration
cache of the region's die holds is taken from it; another one is fetched and checked: a CRC mismatch is retried once and
then leaves the page unloaded with 0x00, and an image that does not translate is fetched again when its fault has been
resolved. The generators request their windows again (R186). -/
def execPageLoadDone (s : State) : Out :=
  match s.cur with
  | some (.page k) =>
    .next (match s.page? k with
      | none => s
      | some p =>
        if p.st ≠ .loading ∨ (s.ctx k.ctx).frozen then s
        else
          let die := p.region.getD 0 / 32
          let lpn := imgNat p.image 2 2
          let hit := s.dev.configCache.any (State.isImage die k.ctx.part k.graph lpn)
          match (if hit then .ok p.image else s.fetchImage p) with
          | .error (f, va) => match s.graph? k.ctx.part k.graph with
            | some g => s.deviceFault g.owner va .config f
            | none => s
          | .ok img =>
            if !hit && !pageCrcOk img then
              if !p.crcTried then s.modPage k (fun x => { x with crcTried := true })
              else
                let r : FaultRec :=
                  { cause := 0x00, info0 := BitVec.ofNat 64 k.lpn, info1 := k.graph.setWidth 64, ctxid := State.ctxWord k.ctx,
                    round := (s.ctx k.ctx).round % 2 ^ 32, ctx := some k.ctx }
                (s.modPage k (fun x => { x with st := .absent, region := none, crcTried := false })).post (State.guestRing k.ctx) r
            else
              ((s.modPage k (fun x => { x with
                  st := if x.fold.isSome then .folded else .resident
                  since := s.cycle
                  crcTried := false
                  frames := []
                  image := img
                  dyn := { x.dyn with
                    args := s.boundArgs k.ctx k.graph img
                    argsNext := s.boundNext k.ctx k.graph img
                    nodes := x.dyn.nodes.map (fun n => { n with gens := n.gens.map (rewindow ({ x with image := img }.desc n.node)) }) } })).cacheImage die k.ctx.part k.graph lpn false).logEvent 0x17 0xC001 k.lpn)
  | _ => .fault .noParty

/-- EVICTION_SAVE (R260): a page in Stopping whose firings have completed saves its state to the save frames that the eviction
took when it began. A frozen context's regions stay with it (R269). -/
def execEvictionSave (s : State) : Out :=
  match s.cur with
  | some (.page k) =>
    .next (match s.page? k with
      | none => s
      | some p =>
        if p.st ≠ .stopping ∨ !State.settled p ∨ (s.ctx k.ctx).frozen then s else s.finishEviction k)
  | _ => .fault .noParty

/-- The page of the context of least pass, then of the lowest number, among pages (R411). -/
def State.leastPass (s : State) (ks : List PageKey) : Option PageKey :=
  let lower (a b : CtxId) : Bool := decide ((s.ctx a).pass < (s.ctx b).pass) || ((s.ctx a).pass == (s.ctx b).pass && decide (a.num < b.num))
  ks.foldl (fun (m : Option PageKey) k => match m with
    | some y => if lower k.ctx y.ctx then some k else m
    | none => some k) none

/-- REGION_ASSIGN (R258, R411): a free region goes to a pending page of a context below its minimum, of the context of least pass
where there are several, then to the oldest page of those below their maximum. -/
def execRegionAssign (s : State) : Out :=
  match s.cur with
  | some (.unit part) =>
    .next (
      let ps := (s.part part).pending
      let below (f : CtxId → Nat) (k : PageKey) : Bool := decide (s.regionCount k.ctx < f k.ctx) && s.ctxServed k.ctx
      let ready := ps.filter (fun k => s.nextPending k.ctx == some k)
      match (s.leastPass (ready.filter (below s.quotaMin))).orElse (fun _ => ready.find? (below s.quotaMax)) with
      | none => s
      | some k => match (s.page? k).bind s.bestRegion with
        | some l => s.assignRegion k l
        | none => s)
  | _ => .fault .noParty

/-- A request for save frames still stands: its page, or its context, has something to save. -/
def State.saveStands (s : State) (r : SaveReq) : Bool :=
  match r with
  | .evict k => ((s.page? k).map Page.placed).getD false
  | .cut k => (s.ctx k.ctx).close.isSome
  | .fold k => (s.page? k).isSome
  | .save c => s.pages.any (fun p => p.key.ctx == c && p.region.isSome)

/-- SAVE_POOL_WAIT_END (R354): a waiting request proceeds, in its own turn, when save frames are available, and keeps its place until
it has drawn them, so that it raises 0x44 once; one whose subject is gone waits no more. -/
def execSavePoolWaitEnd (s : State) : Out :=
  match s.cur with
  | some (.unit part) =>
    .next (s.modPart part (fun p => { p with saveWaits := p.saveWaits.filter (fun w => s.saveStands w.1) }))
  | _ => .fault .noParty

/-- FOLD_TURN_END (R265): the running member of a folded region has had 1,024 cycles, or has not fired for 64: at a
firing boundary the next member's turn begins. -/
def execFoldTurnEnd (s : State) : Out :=
  match s.cur with
  | some (.unit l) =>
    .next (match s.pages.find? (fun p => p.region == some l && (match p.fold with
        | some f => f.running == p.key.lpn
        | none => false)) with
      | none => s
      | some p =>
        match p.fold with
        | none => s
        | some f =>
          if !s.turnOver p || !State.settled p then s
          else
            let i := f.members.idxOf f.running
            let next := ((f.members[i + 1]?).getD (f.members.headD f.running))
            f.members.foldl (fun t m => t.modPage { p.key with lpn := m } (fun x => { x with fold := some { f with running := next, since := s.cycle } })) s)
  | _ => .fault .noParty

/-- PAGE_BECOMES_ELIGIBLE (R237, R244, R262, R394): an eligible resident page lets the Stagehand choose again for a pending
page of its context, or evict for a lowered quota; a page of a region that a TEST vacates leaves, and one that PGEV names
leaves once no section of it is armed. -/
def execPageBecomesEligible (s : State) : Out :=
  match s.cur with
  | some (.page k) =>
    .next (match s.page? k with
      | none => s
      | some p =>
        let c := k.ctx
        let vacate := match p.region with
          | some l => s.scans.any (fun x => x.phase == 0 && x.held.contains l)
          | none => false
        if (s.ctx c).frozen then s
        else if p.evict.isSome && p.placed && !s.groupArmed p then s.evict p
        else if !s.eligible p then s
        else if vacate then s.evict p
        else if s.quotaMax c < s.regionCount c ∧ s.stoppingOf c = 0 then
          match s.victim (s.pages.filter (fun q => q.key.ctx == c && s.eligible q)) with
          | some v => s.evict v
          | none => s
        else
          match s.nextPending c with
          | none => s
          | some q => s.chooseFor q)
  | _ => .fault .noParty

end Sys2Proof.Machine
end

