-- ==== Sys2Proof/Machine/Frames.lean ====
section
/-!
DEFINITION. Frames as a whole (R400 to R408): the launch entries of a graph, what a cut holds of a frame, the completion
word, the end of a frame with everything of its tag, the pages and graphs that leave, the saving of a context's pages
(R415, R418), and what a region shrink takes (R416).
-/
namespace Sys2Proof.Machine

/-! ### Graphs -/

/-- The pages of a graph that are no fold variants, in LPN order. -/
def Graph.mainPages (g : Graph) : List (Nat × List Host.Cell) :=
  sortBy (fun a b => decide (a.1 ≤ b.1)) (g.pages.filter (fun x => imgNat x.2 0 1 == 1))

/-- The launch entries of a graph: ingress entries with PEER 0xFFF in ascending LPN and then port order (R399). -/
def Graph.launchEntries (g : Graph) : List (Nat × Nat) :=
  g.mainPages.flatMap (fun x =>
    ((List.range 16).filter (fun q => let e := imgNat x.2 (0x240 + 8 * q) 8; bitsOf e 63 1 == 1 && bitsOf e 48 12 == 0xFFF)).map
      (fun q => (x.1, q)))

/-- NPAGE, NGARG and COVCEIL of a graph (R73). -/
def Graph.npage (g : Graph) : Nat := Memory.readNat g.header 4 2
def Graph.ngarg (g : Graph) : Nat := Memory.readNat g.header 6 2
def Graph.covCeil (g : Graph) : Nat := Memory.readNat g.header 9 1

/-- The first LPNs of the phases behind phase 0 (R408). -/
def Graph.phaseStarts (g : Graph) : List Nat :=
  ((List.range 16).map (fun k => Memory.readNat g.header (0x60 + 2 * k) 2)).takeWhile (fun e => bitsOf e 15 1 == 1)
    |>.map (fun e => bitsOf e 0 12)

/-- The phase of a page (R408, R413). -/
def Graph.phaseOfPage (g : Graph) (lpn : Nat) : Nat := (g.phaseStarts.filter (fun f => f ≤ lpn)).length

/-! ### Cuts of frames (R373, R380, R413) -/

/-- What the cut that begins a round holds of a frame. -/
def Frame.cutAt (f : Frame) (round : Nat) : FrameCut :=
  { round := round, pos := f.pos, sent := f.sent, skip := f.skip, eor := f.eor, walk := f.walk, phase := f.phase, infill := f.infill }

/-- The walk of a frame that a cut restores: the stages before the walker's start are not repeated. -/
def walkBack (now cut : WalkPhase) : WalkPhase :=
  match cut, now with
  | .running, _ => .running
  | .done, _ => .done
  | _, .running => .running
  | _, .done => .running
  | _, w => w

/-- A frame restored from the cut that began a round; one launched since then starts again (R314, R380). It is held no more: it has
to reach an interval again (R413, R414, R423). -/
def Frame.restore (f : Frame) (v : Nat) : Frame :=
  let c := (f.cuts.find? (fun u => u.round == v)).getD
    { round := v, pos := f.lrec.start, sent := 0, skip := 0, eor := none, walk := if f.placer then .placing else .running, phase := 0,
      infill := { pos := f.lrec.start } }
  { f with
    pos := c.pos
    sent := c.sent
    skip := c.skip
    eor := c.eor
    walk := walkBack f.walk c.walk
    phase := c.phase
    infill := { c.infill with stopped := false }
    phaseOf := .live
    held := false
    censusSame := 0
    cuts := f.cuts.filter (fun u => u.round ≤ v) }

namespace State

/-- The context has a live frame of the graph. -/
def liveGraph (s : State) (c : CtxId) (g : Word) : Bool := s.frames.any (fun f => f.ctx == c && f.graph == g)

/-- The sink entries that a frame's pages have counted (R407). DEDUCED (log 85), unsafe. -/
def sinksOf (s : State) (f : Frame) : List Nat :=
  let hdr := ((s.graph? f.ctx.part f.graph).map Graph.header).getD []
  ((sinkEntries hdr).filter (fun e =>
    decide (e.2.2 ≤ sunkIn (s.dyn { ctx := f.ctx, graph := f.graph, lpn := e.2.1 }) f.key.tag))).map (fun e => e.1)

/-- Every sink entry of the frame's graph has counted (R407). -/
def allCounted (s : State) (f : Frame) : Bool :=
  (sinkEntries (((s.graph? f.ctx.part f.graph).map Graph.header).getD [])).all (fun e => f.sinks.contains e.1)

/-! ### Pages and graphs that leave -/

/-- Pages that leave for good: their regions, save frames and places in the Stagehand's lists (R408, R422, R428). -/
def dropPages (s : State) (gone : PageKey → Bool) : State :=
  let t : State := { s with
    pages := s.pages.filter (fun p => !gone p.key)
    traps := s.traps.filter (fun x => !gone x.page)
    callReplies := s.callReplies.filter (fun x => !gone x.page)
    nodeDeps := s.nodeDeps.filter (fun x => !gone x.page)
    ctl := s.ctl.filter (fun z => !((z.page.map gone).getD false)) }
  { t with parts := t.parts.map (fun p => { p with
      pending := p.pending.filter (fun k => !gone k)
      signals := p.signals.filter (fun k => !gone k)
      asked := p.asked.filter (fun a => !gone a.1) }) }

/-- A graph leaves residency with its pages and what contexts keep for it (R392, R408). -/
def dropGraph (s : State) (part : Nat) (gid : Word) : State :=
  let t := s.dropPages (fun k => k.ctx.part == part && k.graph == gid)
  { t with
    graphs := t.graphs.filter (fun g => !(g.part == part && g.gid == gid))
    ctxs := t.ctxs.map (fun x => if x.id.part = part then
      { x with
        covers := x.covers.filter (fun v => v.graph != gid)
        placed := x.placed.filter (fun g => g != gid)
        placing := x.placing.filter (fun g => g.1 != gid)
        shrunk := x.shrunk.filter (fun g => g.1 != gid)
        args := x.args.filter (fun a => a.1 != gid)
        nextArgs := x.nextArgs.filter (fun a => a.1 != gid) } else x) }

/-- Released graphs to which no live frame refers leave residency (R408). -/
def dropReleased (s : State) (part : Nat) : State :=
  let out := s.graphs.filter (fun g => g.part == part && g.released && !s.frames.any (fun f => f.key.part == part && f.graph == g.gid))
  out.foldl (fun t g => t.dropGraph part g.gid) s

/-! ### The end of a frame (R401, R407) -/

/-- A completion word (R401). -/
def completionWord (cause : Nat) (tag : Tag) (cval : Word) : Nat :=
  (if cause = 0 then 0 else 2 ^ 63 + cause * 2 ^ 56) + tag.toNat * 2 ^ 32 + cval.toNat

/-- A SYSTEM-scope release behind every write of the context's rounds so far: what follows it is ordered after them (R182, R407). -/
def releaseRounds (s : State) (c : CtxId) (region round : Nat) (tag : Tag) : Dep × State :=
  let own := (s.hist.filter (fun w => w.ctx == some c && w.round ≤ round)).map WriteRec.id
  s.release { ctx := c, round := round, region := region, tag := tag, dep := { know := own } } .system

/-- An 8-byte word stored at a virtual address by a SYSTEM-scope release: committed, and ordered after it (R182, R401). Its fault, or what
it has to wait for: a resident image is read-only, a duplicated frame collapses first (R74, R326, R338, R340). -/
def storeReleased (s : State) (c : CtxId) (region round : Nat) (tag : Tag) (va v : Nat) : Except XFault (Dep × State) :=
  match s.translate c .write va with
  | .error f => .error f
  | .ok x =>
    match s.writeStop c.part x with
    | some f => .error f
    | none =>
    let r := s.releaseRounds c region round tag
    let w : Who := { ctx := c, round := round, region := region, tag := tag, dep := r.1 }
    .ok (r.1, (r.2.performWrite w x.space (s.backed none x.space x.pa) va (bytesOfWord 8 v) false true).2)

/-- What a page keeps for a tag, dropped when its frame ends (R126, R274, R406). -/
def purgeTag (d : PageDyn) (tag : Tag) : PageDyn :=
  { d with
    elems := d.elems.map (fun e => { e with tags := e.tags.filter (fun t => t.tag != tag), sunk := e.sunk.filter (fun x => x.1 != tag) })
    actors := d.actors.map (fun a => { a with
      serials := a.serials.filter (fun x => x.1 != tag)
      sends := a.sends.filter (fun x => x.1.1 != tag)
      instrs := a.instrs.filter (fun x => x.2.tag != tag)
      nexts := a.nexts.filter (fun x => x.1 != tag) })
    island := { d.island with armSeen := d.island.armSeen.filter (fun t => t != tag), armq := d.island.armq.filter (fun t => t != tag) }
    nodes := d.nodes.map (fun n => { n with gens := n.gens.filter (fun g => g.tag != tag) }) }

/-- A frame leaves: its tag returns to the pool as the one free the shortest, and nothing of the tag stays (R406). -/
def endFrame (s : State) (f : Frame) : State :=
  let k := f.key
  let t : State := { s with
    frames := s.frames.filter (fun x => x.key != k)
    fadds := s.fadds.filter (fun w => w.frame != k)
    nodeDeps := s.nodeDeps.filter (fun x => !(x.page.ctx == f.ctx && x.tag == k.tag))
    censuses := s.censuses.filter (fun x => x.frame != some k)
    ctl := s.ctl.filter (fun z => !(z.code == 0x0C && z.ctx == some f.ctx && z.tag == k.tag))
    pages := s.pages.map (fun p => if p.key.ctx = f.ctx then
      { p with dyn := purgeTag p.dyn k.tag, cuts := p.cuts.map (fun u => (u.1, purgeTag u.2 k.tag)) } else p) }
  t.modPart k.part (fun p => { p with tags := p.tags ++ [k.tag] })

/-- A CALL's reply token is on its way to the calling page (R162). -/
def callReply (s : State) (k : PageKey) (chan : Nat) (t : Token) : State :=
  { s with callReplies := s.callReplies ++ [{ page := k, chan := chan, tok := t }] }

/-- A reply token at a page: at its page channel or ingress port when the page is in its region and no earlier reply waits,
else in the reply wing, which holds 16 tokens of the partition's pool and calls the page back (R162, R219, R261). None while
it has to wait. DEDUCED (log 89), unsafe. -/
def deliverReply (s : State) (k : PageKey) (port : Bool) (n : Nat) (t : Token) (by_ : Nat) : Option State :=
  match s.page? k with
  | none => none
  | some p =>
    if p.placed && p.hasTurn && (p.dyn.fifo .reply).isEmpty then
      if !port then s.arrive k n t
      else
        let q : Place := .ingress (n % 16)
        if p.dyn.takes q (.tok t) then (s.noteItem k (.tok t)).map (fun x => x.modDyn k (fun d => d.enter q (.tok t))) else none
    else
      let d := { p.dyn.push .reply (.tok t) with replies := p.dyn.replies ++ [(port, if port then n % 16 else n)] }
      if p.dyn.takes .reply (.tok t) && decide (s.wingUsed k.ctx.part + (chunksOf d - chunksOf p.dyn) ≤ (s.part k.ctx.part).wingChunks) then
        some ((s.modDyn k (fun _ => d)).signal k by_)
      else none

/-- The round of a page's context in which a token that reaches its reply wing, or a listen port, now is part of the page's state:
the next one where the page's report, or the listening block's cut, of the round in progress is past (R309). -/
def arrivalRound (s : State) (k : PageKey) (chan : Nat) : Nat :=
  let reported := ((s.page? k).map Page.reported).getD false
  let block := match s.listener? k chan with
    | some (b, _, _) => ((s.dyn k).actor b).cut
    | none => false
  s.roundOf k.ctx (reported || block)

/-- The CALL replies on their way, each page's in order, given where they can be (R162); one is kept until the round of its
arrival commits. -/
def giveCallReplies (s : State) : State :=
  let waiting := s.callReplies.filter (fun r => r.given.isNone)
  let firsts := (waiting.map CallReply.page).eraseDups.filterMap (fun k => waiting.find? (fun r => r.page == k))
  firsts.foldl (fun t r => match t.deliverReply r.page false r.chan r.tok 0 with
    | some u => { u with callReplies := update (fun x => x == r) (fun x => { x with given := some (t.arrivalRound r.page r.chan) }) none u.callReplies }
    | none => t) s

/-- A section of the frame is armed, or its tag stands in an arm queue for one (R274, R275). -/
def sectionArmed (s : State) (f : Frame) : Bool :=
  s.pages.any (fun p => p.key.ctx == f.ctx && ((armed p && p.dyn.island.tag == f.key.tag) || p.dyn.island.armq.contains f.key.tag))

/-- The completion of a frame at the commit point that closes its round (R407 steps 4 and 5); a section armed since the census keeps
it live, and so does a completion word that cannot be stored (R275, R331). -/
def completeFrame (s : State) (c : CtxId) (round : Nat) (tag : Tag) : State :=
  match s.frame? ⟨c.part, tag⟩ with
  | none => s
  | some f =>
    if f.phaseOf ≠ .closing round then s
    else if s.sectionArmed f then s.modFrame f.key (fun x => { x with phaseOf := .live, censusSame := 0 })
    else
      let hdr := ((s.graph? c.part f.graph).map Graph.header).getD []
      let sink := ((sinkEntries hdr).find? (fun e => f.sinks.getLast? == some e.1)).map (fun e => e.2.1)
      let region := s.regionByte { ctx := c, graph := f.graph, lpn := sink.getD 0 }
      let stored : Except XFault (Dep × State) := if f.lrec.caddr = 0 then .ok (s.releaseRounds c region round tag)
        else s.storeReleased c region round tag f.lrec.caddr.toNat (completionWord 0 tag f.lrec.cval)
      match stored with
      | .error x => (s.deviceFault c f.lrec.caddr.toNat .write x).modFrame f.key (fun y => { y with phaseOf := .live, censusSame := 0 })
      | .ok r =>
      let s2 := match f.parent with
        | some (k, ch, ptag) => if f.call then r.2.callReply k ch { kind := .data, tag := ptag, pay := f.lrec.cval, dep := r.1 } else r.2
        | none => r.2
      let g : GuestId := ⟨c.part, c.guest⟩
      let irq : Bool := match f.queue with
        | some q => ((s2.guest g).queues.find? (fun x => x.num == q)).any (fun x => x.ctl.getLsbD 29)
        | none => false
      let s3 := if irq then s2.guestIrq g 1 else s2
      (((s3.endFrame f).dropReleased c.part).logEvent 0x12 0xC002 (tag.toNat + (ctxWord c).toNat % 2 ^ 16 * 2 ^ 12))

/-! ### Saving a context (R414, R415, R418) -/

/-- The pages of a context that hold a region. -/
def placedPages (s : State) (c : CtxId) : List Page := s.pages.filter (fun p => p.key.ctx == c && p.region.isSome)

/-- The pages of a context saved and its regions freed; nothing while a section is armed, a firing is in flight or the save
pool is short. The context must not be served any more, so that no region comes back to it. A frozen context's regions stay
with it (R269). -/
def saveContext (s : State) (c : CtxId) : Bool × State :=
  let ps := s.placedPages c
  let need (p : Page) : Nat := if p.placed then Config.snapshotFrames (stored p.dyn) else 0
  if (s.ctx c).frozen then (true, s)
  else if ps.any (fun p => armed p || !settled p) then (false, s)
  else
    let r := s.takeFrames ((ps.head?.map pageDie).getD 0) ((ps.map need).foldl (· + ·) 0) (.save c)
    match r.1 with
    | none => (false, r.2)
    | some fs =>
      let r2 := r.2.modCtx c (fun x => { x with saved := x.saved ++ ps.map Page.key })
      (true, (ps.zip (sliceFrames fs (ps.map need))).foldl (fun t p =>
        if p.1.st = .loading then t.modPage p.1.key (fun x => { x with st := .absent, region := none })
        else (t.modPage p.1.key (fun x => { x with frames := x.frames ++ p.2 })).finishEviction p.1.key) r2)

/-- The pages that a context's saving took back made pending again (R415, R418). -/
def restoreSaved (s : State) (c : CtxId) : State :=
  let ks := (s.ctx c).saved
  (ks.foldl (fun t k => if ((t.page? k).map Page.st) = some .absent then t.makePending k else t) s).modCtx c (fun x => { x with saved := [] })

/-! ### Region shrink (R416, R417) -/

/-- Fold groups of a context that have a deeper variant: graph, lowest member, level now. -/
def deeperGroups (s : State) (c : CtxId) : List (Word × Nat × Nat) :=
  (s.pages.filter (fun p => p.key.ctx == c && p.placed)).filterMap (fun p =>
    match s.graph? c.part p.key.graph with
    | none => none
    | some g =>
      let ms := foldMembers g p.key.lpn (foldLevel p + 1)
      if ms.head? = some p.key.lpn then some (p.key.graph, p.key.lpn, foldLevel p) else none)

/-- The last-fire unit of a fold group: the latest of its members' (R266). -/
def groupUnit (s : State) (c : CtxId) (x : Word × Nat × Nat) : Nat :=
  match s.graph? c.part x.1 with
  | none => 0
  | some g => ((foldMembers g x.2.1 (x.2.2 + 1)).filterMap (fun m => s.page? { ctx := c, graph := x.1, lpn := m })).foldl
      (fun m p => max m (fireUnit p)) 0

/-- A fold one level deeper frees a region: the members stand in more than one, and in none of them is a section armed (R416). -/
def foldFrees (s : State) (c : CtxId) (x : Word × Nat × Nat) : Bool :=
  match s.graph? c.part x.1 with
  | none => false
  | some g =>
    let ps := (foldMembers g x.2.1 (x.2.2 + 1)).filterMap (fun m => s.page? { ctx := c, graph := x.1, lpn := m })
    decide (1 < ((ps.filterMap Page.region).eraseDups).length) && !ps.any armed

/-- The fold group that a shrink folds one level: the one of the oldest last-fire unit (R416). -/
def shrinkFold (s : State) (c : CtxId) : Option (Word × Nat × Nat) :=
  let can := (s.deeperGroups c).filter (s.foldFrees c)
  can.foldl (fun (m : Option (Word × Nat × Nat)) x => match m with
    | some y => if s.groupUnit c x < s.groupUnit c y then some x else m
    | none => some x) none

/-- The page that a shrink evicts: a resident page of no live frame, by the victim rule (R416). -/
def shrinkEvict (s : State) (c : CtxId) : Option Page :=
  s.victim (s.pages.filter (fun p => p.key.ctx == c && p.placed && p.leads && !s.groupArmed p && !s.liveGraph c p.key.graph))

/-- Freed regions given to the oldest pending pages of a context, ahead of R258 (R416). -/
def giveRegions (s : State) (dst : CtxId) (ls : List Nat) : State :=
  ls.foldl (fun t l => match t.nextPending dst with
    | some q =>
      if (t.freeRegions dst.part).contains l && t.ctxServed dst && decide (t.regionCount dst < t.quotaMax dst) then t.assignRegion q l else t
    | none => t) s

/-- One shrink of a context for another, at the former's round close; a fold that a firing in flight holds up is made at the
next one (R266, R416). -/
def shrinkNow (s : State) (c dst : CtxId) : State :=
  let told (t : State) (n : Nat) : State := t.advise c 0x4E (BitVec.ofNat 64 n) 0 0xFFF
  match s.shrinkFold c with
  | some (g, lpn, now) =>
    let before := ((s.placedPages c).filterMap Page.region).eraseDups
    let r := s.foldNow c g lpn (now + 1)
    let t := r.2
    let free := before.filter (fun l => !t.regionUsed l)
    if !r.1 then (t.modCtx c (fun x => { x with atClose := x.atClose ++ [(x.round + 1, .shrink dst)] })).requestClose c 5
    else told ((t.modCtx c (fun x => { x with shrunk := x.shrunk ++ [(g, lpn, now)] })).giveRegions dst free) free.length
  | none =>
    match s.shrinkEvict c with
    | some p =>
      let t := s.evictFor p dst
      if ((t.page? p.key).map Page.st) = some .stopping then told t 1 else t
    | none => s

/-- One shrink-folded group unfolded, where it can be (R417). -/
def unfoldNow (s : State) (c : CtxId) (g : Word) (lpn level : Nat) : State :=
  let r := s.foldNow c g lpn level
  if r.1 then r.2.modCtx c (fun x => { x with shrunk := x.shrunk.filter (fun y => y != (g, lpn, level)) }) else r.2

end State

end Sys2Proof.Machine
end

