-- ==== Sys2Proof/Machine/Rounds.lean ====
section
/-!
DEFINITION. Rounds (R307 to R317): the timer, the close with its cues, cut reports, the commit point, voiding and
freezing, and their events.
-/
namespace Sys2Proof.Machine

namespace State

/-- The cue that closes a round (R47). DEDUCED (log 23), unsafe. -/
def cueTok (round : Nat) : Token := { kind := .cue, tag := 0xFFF, pay := BitVec.ofNat 32 round }

/-- A port of a memory node is fed: 0 DATA, 1 START, 2 STOP. -/
def fedNode (p : Page) (n port : Nat) : Bool :=
  p.routes.any (fun r => match r with
    | .node m q => m.toNat == n && q.toNat == port
    | _ => false)

/-- A generator's cut: its position recorded as the next round begins with it (R166, R309). The fed START and STOP ports
on which no cue has come yet stay open: what comes there ahead of the cue belongs to the closing round. DEDUCED (log 56), unsafe. -/
def cutNode (s : State) (k : PageKey) (n : Nat) : State :=
  let r := (s.ctx k.ctx).round + 1
  s.modPage k (fun p =>
    let d := (lookup r p.cuts).getD PageDyn.empty
    let x := p.dyn.node n
    { p with
      dyn := p.dyn.modNode n (fun y => { y with cut := true, cue := none, open_ := [1, 2].filter (fedNode p n) })
      cuts := assign r (d.modNode n (fun _ => { x with cut := false, cue := none })) p.cuts })

/-- The queues of an element that are fed (R445). -/
def fedQueues (p : Page) (n : Nat) : List QueueName := (p.ecw n).queues.filter (p.fedQueue n)

/-- The island's input lanes that are fed (R445). -/
def fedLanes (p : Page) : List Nat := ((p.lanes.filter (fun l => !l.out)).map LaneEntry.lane).filter p.fedLane

/-- Cues injected at every source of one page (R307, R445). -/
def injectPage (s : State) (k : PageKey) (t : Token) : State :=
  match s.page? k with
  | none => s
  | some p =>
    let port (x : State) (i : Nat) : State :=
      if p.portValid i ∧ p.peer i = 0xFFF then
        (x.injectAt k i t).getD (x.modPage k (fun q => { q with injects := q.injects ++ [i] }))
      else x
    let node (x : State) (n : Nat) : State :=
      if (p.desc n).ndim = 0 then x
      else x.modDyn k (fun y => y.modNode n (fun z => { z with cue := some t }))
    let block (x : State) (b : Nat) : State :=
      match p.header? b with
      | some h => if h.bkind ≠ 0xA3 ∧ (fedPorts p h).isEmpty then x.modDyn k (fun d => d.modActor b (fun a => { a with cueDue := some t })) else x
      | none => x
    let s1 := (List.range 16).foldl port s
    let s2 := (List.range p.nmem).foldl node s1
    let s4 := (List.range p.nact).foldl block s2
    if p.hasIsland ∧ (fedLanes p).isEmpty then s4.modDyn k (fun d => { d with island := { d.island with cueDue := some t } }) else s4

/-- The cues that found no room at their ports go in once there is some (R249, R261). -/
def injectLate (s : State) (k : PageKey) (t : Token) : State :=
  (((s.page? k).map Page.injects).getD []).foldl (fun x i => match x.injectAt k i t with
    | some y => y.modPage k (fun q => { q with injects := q.injects.filter (fun j => j != i) })
    | none => x) s

/-- The round whose close a request of now asks for: the open one, or the one behind a close in progress (R308). -/
def nextClose (s : State) (c : CtxId) : Nat := let x := s.ctx c; if x.close.isSome then x.round + 1 else x.round

/-- The report of a page that has been recorded, on its way to the round controller (R80). -/
def sendReport (s : State) (k : PageKey) : State :=
  s.sendCtl { code := 0x06, operand := k.lpn, ctx := some k.ctx, page := some k, part := k.ctx.part }

/-- A generator's place, and a walker's, at a cut (R319). -/
def genMark (g : Gen) : Nat × Option Nat × Bool := (g.k, g.eor, g.done)
def walkMark (f : Frame) : Nat × Option Nat × Bool := (f.pos, f.eor, f.walk == .done)

/-- Where the sources of a context stand as its round closes. -/
def cutMark (s : State) (c : CtxId) : CutMark :=
  { round := (s.ctx c).round
    gens := (s.pages.filter (fun p => p.key.ctx == c)).flatMap (fun p => p.dyn.nodes.flatMap (fun n =>
      n.gens.map (fun g => ((p.key, n.node, g.tag), genMark g))))
    walks := (s.frames.filter (fun f => f.ctx == c)).map (fun f => (f.key.tag, walkMark f)) }

/-- The close of the open round begins (R308, R309): cues at every source of every live frame's pages; the walkers
record their positions; the pages of graphs without a live frame have their cut as they stand. -/
def beginClose (s : State) (c : CtxId) : State :=
  let x := s.ctx c
  let t := cueTok x.round
  let mark := s.cutMark c
  let s0 := s.modCtx c (fun y => { y with
    wantClose := false
    close := some { round := x.round, injected := true }
    marks := y.marks.filter (fun m => m.round != mark.round) ++ [mark] })
  let s1 : State := ({ s0 with ctl := s0.ctl.filter (fun z => !(z.code == 0x05 && z.ctx == some c)) } : State).fixArgs c x.round
  let keys := (s1.pages.filter (fun p => p.key.ctx == c)).map Page.key
  let one (y : State) (k : PageKey) : State :=
    if s.liveGraph c k.graph then y.injectPage k t
    else (y.modPage k (fun p => { p with
      reported := true
      cuts := assign (x.round + 1) p.dyn p.cuts
      cutUse := p.cutUse ++ ((p.cutUse.getLast?.map (fun u => (x.round + 1, u.2))).toList) })).sendReport k
  let s2 := keys.foldl one s1
  { s2 with frames := s2.frames.map (fun f =>
      if f.ctx = c then { f with cuts := f.cuts.filter (fun z => z.round != x.round + 1) ++ [f.cutAt (x.round + 1)] } else f) }

/-- The mark to which a replay brings the sources of a removed round before it closes it (R319, R364). DEDUCED (log 107), unsafe. -/
def replayMark (s : State) (c : CtxId) : Option CutMark :=
  let x := s.ctx c
  if x.dbg = .stepping ∧ x.stepsLeft.isSome ∧ s.nextClose c < x.removed then x.marks.find? (fun m => m.round == s.nextClose c) else none

/-- A replay holds a generator that stands where the removed round's cut found it, or that had not started then. -/
def genHeld (s : State) (k : PageKey) (n : Nat) (g : Gen) : Bool :=
  (s.replayMark k.ctx).any (fun m => (lookup (k, n, g.tag) m.gens).all (fun z => z == genMark g || decide (z.1 < g.k)))

/-- A replay holds a walker likewise. -/
def walkHeld (s : State) (f : Frame) : Bool :=
  (s.replayMark f.ctx).any (fun m => (lookup f.key.tag m.walks).all (fun z => z == walkMark f || decide (z.1 < f.pos)))

/-- Every source of a mark that is still there stands at its place (R319). -/
def marksReached (s : State) (c : CtxId) (m : CutMark) : Bool :=
  m.gens.all (fun z => ((s.dyn z.1.1).node z.1.2.1).gens.all (fun g => g.tag != z.1.2.2 || s.genHeld z.1.1 z.1.2.1 g)) &&
    s.frames.all (fun f => f.ctx != c || (lookup f.key.tag m.walks).isNone || s.walkHeld f)

/-- Every element, actor, island and generator of a page has recorded its cut (R309). -/
def cutComplete (p : Page) : Bool :=
  let d := p.dyn
  p.elements.all (fun e => (d.elem e.1).cut) &&
  p.headers.zipIdx.all (fun h => h.1.bkind == 0xA3 || (d.actor h.2).cut) &&
  (!p.hasIsland || d.island.cut) &&
  ((List.range p.nmem).filter (fun n => (p.desc n).ndim != 0)).all (fun n => (d.node n).cut && (d.node n).open_.isEmpty)

/-- The page's trap-handler blocks stand at a firing boundary, and their accesses have been performed (R183, R445). -/
def handlersStill (s : State) (p : Page) : Bool :=
  p.headers.zipIdx.all (fun h => h.1.bkind != 0xA3 || (atBoundary (p.dyn.actor h.2).firing s && s.blockQuiet p.key h.2))

/-- What of a page's cut is recorded with its report: the handler block, AFLG, arguments, latches, sink counts and the
reply wing (R309, R445). -/
def sealCut (p : Page) (round : Nat) : Page :=
  let snap := (lookup round p.cuts).getD PageDyn.empty
  let d := p.dyn
  let handlers := (p.headers.zipIdx.filter (fun h => h.1.bkind == 0xA3)).map (·.2)
  let snap1 := handlers.foldl (fun x b => x.modActor b (fun _ => { d.actor b with cut := false })) snap
  let snap2 : PageDyn := { snap1 with
    aflg := d.aflg, args := d.args, cycHi := d.cycHi, timeHi := d.timeHi, replies := d.replies
    fifos := assign .reply (d.fifo .reply) snap1.fifos }
  { p with reported := true, cuts := assign round snap2 p.cuts }

/-- Items ahead of the first cue. -/
def aheadOfCue (l : List Item) : List Item := l.takeWhile (fun i => !i.isKind .cue)

/-- The items without their cues. -/
def withoutCues (l : List Item) : List Item := l.filter (fun i => !i.isKind .cue)

/-- The party that takes the items of a place has recorded its cut. -/
def takerCut (d : PageDyn) : Place → Bool
  | .queue n _ => (d.elem n).cut
  | .laneIn _ => d.island.cut
  | .node n q => (d.node n).cut && !(d.node n).open_.contains q
  | _ => false

/-- A page channel has delivered its cue: its actor has recorded, or holds the mark. -/
def chanCued (s : State) (k : PageKey) (c : Nat) : Bool :=
  match s.listener? k c with
  | some (b, _, e) => ((s.dyn k).actor b).cut || (s.cb k b e.handle).marks.any (fun m => m.2.kind == .cue)
  | none => true

/-- The cue of the close has gone on from a place: its taker has recorded, or the cue stands further on its way. -/
def cuePast (s : State) (p : Page) : Nat → Place → Bool
  | 0, _ => false
  | n + 1, f => takerCut p.dyn f || (match routeFrom p f with
      | .chan c => s.chanCued p.key c.toNat
      | _ => (nextPlaces p f).any (fun g => (p.dyn.fifo g).any (fun i => i.isKind .cue) || s.cuePast p n g))

/-- The items of a place that belong to the closing round: those ahead of its cue, none once the cue has gone on, all while it
is still to come. What a party sends stands behind its cue once the party has recorded. -/
def closingItems (s : State) (p : Page) (f : Place) : List Item :=
  let l := p.dyn.fifo f
  let gone : Bool := match f with
    | .out n _ => (p.dyn.elem n).cut
    | .laneOut _ => p.dyn.island.cut
    | .wing i => s.cuePast p 128 (.ingress i)
    | _ => s.cuePast p 128 f
  if !l.any (fun i => i.isKind .cue) && gone then [] else aheadOfCue l

/-- An actor's part of an absent page's cut: what it recorded, with the slots ahead of the cues of its emit ports, or its state up
to the marks. -/
def closingActor (old a : ActorState) : ActorState :=
  let ahead (c : Cb) : List Slot := if c.marks.any (fun m => m.2.kind == .cue) then c.visible else []
  if a.cut then { old with cbs := old.cbs.map (fun c => match a.cbs.find? (fun x => x.handle == c.handle) with
      | some x => if c.slots.isEmpty ∧ c.rp = c.wp then { c with slots := ahead x, rp := if (ahead x).isEmpty then c.rp else x.rp } else c
      | none => c) }
  else { a with cbs := a.cbs.map (fun c => { c with slots := c.visible, marks := [] }), cueDue := none }

/-- The cut of an absent page (R268), once a cue has entered every external wing: its saved state with what stands ahead of the
cues. Parties that had recorded before the page left its region keep their record. The cue goes on to the consumers of its edges,
all of which have room for it (R261). DEDUCED (log 55), unsafe. -/
def cutAbsent (s : State) (k : PageKey) (round : Nat) : State :=
  match s.page? k with
  | none => s
  | some p =>
    let come (i : Nat) : Bool := (p.dyn.fifo (.wing i)).any (fun x => x.isKind .cue) || s.cuePast p 128 (.ingress i)
    let t := cueTok round
    let on (x : Option State) (q : Nat) : Option State := x.bind (fun y => y.deliverAt { k with lpn := p.peer (16 + q) } (p.pport (16 + q)) (.tok t) false)
    let sent := ((List.range 16).filter (fun q => p.portValid (16 + q))).foldl on (some s)
    match sent with
    | none => s
    | some s0 =>
    if !((List.range 16).filter p.portValid).all come then s
    else
      let d := p.dyn
      let old := (lookup (round + 1) p.cuts).getD PageDyn.empty
      let fifos := ((old.fifos.map Prod.fst) ++ (d.fifos.map Prod.fst)).eraseDups.map (fun f => (f, old.fifo f ++ s.closingItems p f))
      let snap : PageDyn := { d with
        fifos := fifos
        elems := d.elems.map (fun e => if e.cut then old.elem e.elem else e)
        actors := d.actors.map (fun a => closingActor (old.actor a.block) a)
        island := if d.island.cut then old.island else { d.island with cueDue := none }
        nodes := d.nodes.map (fun n => if n.cut then old.node n.node else { n with cue := none }) }
      let all : PageDyn := p.elements.foldl (fun x e => x.modElem e.1 (fun y => { y with cut := true }))
        ((List.range p.nact).foldl (fun x b => x.modActor b (fun y => { y with cut := true })) ((List.range p.nmem).foldl (fun x n => x.modNode n (fun y =>
          { y with cut := true, cue := none, open_ := [] })) d))
      let clear (c : Cb) : Cb := { c with marks := c.marks.filter (fun m => m.2.kind != .cue) }
      let live : PageDyn := { all with
        fifos := all.fifos.map (fun f => (f.1, withoutCues f.2))
        actors := all.actors.map (fun a => { a with cueDue := none, cbs := a.cbs.map clear })
        island := { all.island with cueDue := none, cut := true } }
      (s0.modPage k (fun q => { q with
        dyn := live
        reported := true
        cuts := assign (round + 1) snap q.cuts
        cutUse := q.cutUse ++ [(round + 1, q.frames)] })).sendReport k

/-- Elements of a page that have no fed input record their cut and send the cue (R307). -/
def cutUnfed (s : State) (k : PageKey) (round : Nat) : State :=
  match s.page? k with
  | none => s
  | some p =>
    p.elements.foldl (fun x e =>
      if (fedQueues p e.1).isEmpty && !((x.dyn k).elem e.1).cut && (x.dyn k).outFree e.1 e.2 then
        (x.cutElem k e.1).modDyn k (fun d => d.sendBoth e.1 e.2 (cueTok round))
      else x) s

/-- One page's report, when it is due and save frames for its cut record are to be had: it shares those of the record before it whose
contents have not changed (R309, R353, R354). -/
def reportPage (s : State) (k : PageKey) (round : Nat) : State :=
  match s.page? k with
  | none => s
  | some p =>
    if p.reported then s
    else if p.placed ∨ p.st = .stopping then
      if !cutComplete p || !s.handlersStill p then s
      else
        let q := sealCut p (round + 1)
        let need := Config.snapshotFrames (stored p.dyn)
        let before := (p.cutUse.getLast?.map Prod.snd).getD []
        let same := lookup (round + 1) q.cuts == (p.cuts.filter (fun u => u.1 ≤ round)).getLast?.map Prod.snd
        let shared := if same then before.take need else before.take (min need (Config.cutShared s.free))
        let r := ({ s with free := s.free + 1 } : State).takeFrames (pageDie p) (need - shared.length) (.cut k)
        match r.1 with
        | some fs => (r.2.modPage k (fun _ => { q with cutUse := p.cutUse ++ [(round + 1, shared ++ fs)] })).sendReport k
        | none => r.2
    else s.cutAbsent k round

/-! ### Void -/

/-- The home side of a void (R314 step 2): entries and atomics of the voided rounds leave the homes, with their place in
every history; ordered-AFADD windows return to their round-start state. -/
def voidHomes (s : State) (c : CtxId) (v : Nat) : State :=
  let gone (r : Req) : Bool := r.ctx == c && decide (v ≤ r.round)
  let ids := (s.reqs.filter gone).map Req.id
  let s0 := ids.foldl (fun t id => t.dropReq id) s
  let s1 := s0.endHolds c (fun w => w.ctx == c && decide (v ≤ w.round))
  { s1 with
    homeWrites := s1.homeWrites.filter (fun w => !(w.ctx == c && !w.committed && decide (v ≤ w.round)))
    hist := s1.hist.filter (fun w => !(w.ctx == some c && !w.committed && decide (v ≤ w.round)))
    reqs := s1.reqs.map (fun r => if r.ctx = c ∧ r.phase = .given then { r with phase := .done } else r)
    fadds := s1.fadds.map (fun w =>
      if w.frame.part = c.part ∧ (s1.frame? w.frame).any (fun f => f.ctx == c) then
        let back := (w.starts.filter (fun x => v ≤ x.1)).map Prod.snd
        { w with
          next := back.foldl min w.next
          starts := w.starts.filter (fun x => !(v ≤ x.1))
          held := w.held.filter (fun h => !ids.contains h.2) }
      else w)
    seen := s1.seen.filter (fun x => !(x.party.page.ctx == c && decide (v ≤ x.round)))
    nodeDeps := s1.nodeDeps.filter (fun x => !(x.page.ctx == c && decide (v ≤ x.round))) }

/-- The parties of a page wait for acceptance exactly of the traps that are still to be delivered (R31, R314). -/
def trapsOf (ts : List TrapMsg) (k : PageKey) (d : PageDyn) : PageDyn :=
  let due (p : Party) : Bool := ts.any (fun t => t.accepts && t.party.map Party.whole == some p.whole)
  { d with
    elems := d.elems.map (fun x => { x with trap := due (.elem k x.elem) })
    actors := d.actors.map (fun x => { x with trap := due (.actor k x.block 0) })
    island := { d.island with trap := due (.island k) } }

/-- A page's state restored from the cut that began a round (R309, R314). -/
def restorePage (s : State) (v : Nat) (p : Page) : Page :=
  let d0 : PageDyn := { PageDyn.empty with args := s.boundArgs p.key.ctx p.key.graph p.image }
  let d := (lookup v p.cuts).getD d0
  { p with dyn := trapsOf s.traps p.key d, reported := false, injects := [], trapRounds := p.trapRounds.filter (fun r => r < v)
           cuts := [(v, d)], cutUse := p.cutUse.filter (fun u => u.1 ≤ v)
           foldDue := false, evict := p.evict.filter (fun r => r < v) }

/-- The trap tokens that a page's handler has received since the cut that began a round and has not consumed: a void leaves them
delivered, so they stand for delivery again ahead of every other (R32, R314, R352). DEDUCED (log 156), unsafe. -/
def keptTraps (s : State) (v : Nat) (p : Page) : List TrapMsg :=
  match s.listener? p.key 0x3F with
  | none => []
  | some (b, _, c) =>
    let l := (s.cb p.key b c.handle).slots
    let n := min l.length (p.trapRounds.filter (fun r => v ≤ r)).length
    (l.drop (l.length - n)).map (fun x => { page := p.key, words := x.words, tag := x.tag, party := none, accepts := false, round := v, dep := x.dep })

/-- The choices that a context's parties take again behind a void from a round on (R315, R364): of the rounds that a REWIND has
removed, every one, those not yet taken behind those taken; of the others, those at the merges and the homes up to the faulting
access. -/
def replayOf (s : State) (c : CtxId) (v : Nat) : List Choice :=
  let x := s.ctx c
  let mine := s.dev.made.filter (fun z => z.ctx == some c)
  let kept := mine.take (x.voidMade.getD mine.length)
  let old := fun (z : Choice) => decide (z.round < x.removed)
  (mine.filter (fun z => decide (v ≤ z.round) && (old z || (decide (z.arb < 0x6000) && kept.contains z)))) ++
    s.dev.choices.filter (fun z => z.ctx == some c && old z)

/-- The void of a context's rounds from `v` on (R314). -/
def voidRounds (s : State) (c : CtxId) (v : Nat) : State :=
  let s1 := s.voidHomes c v
  let kept := (s.pages.filter (fun p => p.key.ctx == c)).flatMap (s.keptTraps v)
  let late (f : Frame) : Bool := f.ctx == c && (match f.launchedIn with
    | some r => decide (v ≤ r)
    | none => false)
  let tags := (s1.frames.filter late).map (fun f => f.key.tag)
  let d := s1.dev
  let s1 : State := { s1 with traps := kept ++ s1.traps }
  let t1 : State := { s1 with pages := s1.pages.map (fun p => if p.key.ctx = c then s1.restorePage v p else p) }
  let mine (k : FrameKey) : Bool := ((s1.frame? k).map Frame.ctx) == some c
  let s2 : State := { t1 with
    frames := (t1.frames.filter (fun f => !late f)).map (fun f => if f.ctx = c then { f.restore v with sinks := t1.sinksOf f } else f)
    censuses := t1.censuses.filter (fun x => !((x.frame.map mine).getD false))
    msgs := (s1.msgs.filter (fun m => !(m.ctx == c && m.phase == 0 && decide (v ≤ m.round)))).map (fun m =>
      if m.ctx = c ∧ v ≤ m.round then { m with voided := true } else m)
    callReplies := s1.callReplies.map (fun r => if r.page.ctx = c ∧ (r.given.any (fun g => v ≤ g)) then { r with given := none } else r)
    rings := s1.rings.map (fun r =>
      let own (f : FaultRec) : FaultRec := if f.ctx = some c ∧ v ≤ f.round then { f with party := none } else f
      { r with outstanding := r.outstanding.map own, waiting := r.waiting.map own })
    dev := { d with choices := s.replayOf c v ++ d.choices.filter (fun z => z.ctx != some c), made := d.made.filter (fun x => !(x.ctx == some c && decide (v ≤ x.round))) }
    ctl := s1.ctl.filter (fun z => !((z.code == 0x02 || z.code == 0x05 || z.code == 0x06 || z.code == 0x0A || z.code == 0x0C) && z.ctx == some c)) }
  let s3 := (s2.modPart c.part (fun p => { p with
    tags := p.tags ++ tags
    asked := p.asked.filter (fun a => !(a.1.ctx == c && decide (v ≤ a.2)))
    pullWaits := p.pullWaits.filter (fun x => !(x.2.ctx == some c && decide (v ≤ x.2.round))) }))
  let s4 := s3.modCtx c (fun x => { x with
    close := match x.close with
      | some cl => if v ≤ cl.round then none else some cl
      | none => none
    wantClose := x.atClose.any (fun a => a.2 == .watchdog)
    atClose := x.atClose.filterMap (fun a => if a.1 < v then some a else if a.2 = .engineSeal ∨ a.2 = .watchdog then some (v, a.2) else none)
    voidFrom := none
    voidMade := none
    voidSeen := none
    brks := []
    released := []
    voided := some v })
  let s5 := s4.pages.foldl (fun t p => if p.key.ctx = c ∧ (p.st = .absent ∨ p.st = .stopping) ∧ staysPending p then t.makePending p.key else t) s4
  ((s5.dropReleased c.part).sendCtl { code := 0x08, operand := v % 2 ^ 24, ctx := some c, part := c.part }).logEvent 0x14 (0xA000 + c.num % 2 ^ 13) (v % 2 ^ 48)

/-! ### Commit -/

/-- Entries of a round become committed: behind those committed earlier and ahead of every other, in the order in which
the homes performed them (R184, R311). -/
def commitEntries (s : State) (c : CtxId) (round : Nat) : State :=
  let mine (w : HomeWrite) : Bool := w.ctx == c && w.round == round && !w.committed
  let s := s.endHolds c mine
  let old := s.homeWrites.filter HomeWrite.committed
  let new := (s.homeWrites.filter mine).map (fun w => { w with committed := true })
  let rest := s.homeWrites.filter (fun w => !w.committed && !mine w)
  { s with
    homeWrites := old ++ new ++ rest
    hist := s.hist.map (fun w => if w.ctx = some c ∧ w.round ≤ round then { w with committed := true } else w)
    fadds := s.fadds.map (fun w => if (s.frame? w.frame).any (fun f => f.ctx == c) then { w with starts := w.starts.filter (fun x => round < x.1) } else w) }

/-- The undo records of a round's entries, in the order of performance (R184). -/
def roundRecords (s : State) (c : CtxId) (round : Nat) : List UndoRec :=
  (s.homeWrites.filter (fun w => w.ctx == c && w.round == round && !w.committed)).flatMap (undoRecsOf 0) ++
    (s.ctx c).undo.engine.filter (fun r => r.round ≤ round)

/-- One request that takes effect at the close (R161, R235, R237, R239). -/
def applyAtClose (s : State) (c : CtxId) (a : Nat × AtClose) : State :=
  match a.2 with
  | .wmark => s
  | .seal | .engineSeal => s.sealOpen c
  | .fold g lpn level =>
    let key : PageKey := { ctx := c, graph := g, lpn := lpn }
    let r := s.foldNow c g lpn level
    if r.1 then r.2.modPart c.part (fun x => { x with pending := x.pending.filter (fun k => k != key || ((r.2.page? k).map Page.st) == some .pending) })
    else
      let t := r.2.modCtx c (fun x => { x with atClose := x.atClose ++ [(a.1 + 1, .fold g lpn level)] })
      if ((s.page? key).map (fun p => p.placed && decide (level < foldLevel p))).getD false then t.makePending key else t
  | .arg g n half v => (s.setArg c.part g n half v).noteChoice 0xC000 c.num
  | .rtmr v => s.modCtx c (fun x => { x with rtmr := v })
  | .quota v => s.modCtx c (fun x => { x with quota := v })
  | .complete tag => s.completeFrame c a.1 tag
  | .shrink dst => s.shrinkNow c dst
  | .unfold g lpn level => s.unfoldNow c g lpn level
  | .watchdog => s

/-- A request that waited for the commit point of a round goes on (R182, R184). -/
def wakeRequest (s : State) (round : Nat) (r : Req) : State :=
  match r.phase with
  | .waitClose n =>
    if round < n then s
    else
      match r.op with
      | .fence rel acq sc =>
        let w : Who := { s.who r.issuer r.tag r.dep with round := r.round }
        let q := if rel then s.release w sc else (r.dep, s)
        let d := if acq then q.2.acquire { w with dep := q.1 } sc else q.1
        let t := q.2.modReq r.id (fun x => { x with phase := .done, dep := d })
        if rel && sc == .system then t.sealOpen r.ctx else t
      | _ => s.enterQueue r.id
  | _ => s

/-- The slice watchdog's action on a context of which a round has committed (R415): every fold group goes to its deepest
level and the context runs on; or its pages are saved from the cut; or 0x45, by paths P and H. -/
def watchdogAct (s : State) (c : CtxId) : State :=
  let gs := s.deeperGroups c
  if !gs.isEmpty then
    let deepest (t : State) (x : Word × Nat × Nat) : State :=
      let lev := match t.graph? c.part x.1 with
        | some g => if (foldMembers g x.2.1 2).isEmpty then 1 else 2
        | none => 1
      let r := t.foldNow c x.1 x.2.1 lev
      if r.1 then r.2 else r.2.modCtx c (fun y => { y with atClose := y.atClose ++ [(y.round, .fold x.1 x.2.1 lev)] })
    (gs.foldl deepest s).modCtx c (fun y => { y with runsOn := some s.cycle })
  else
    let v := (s.ctx c).round
    let cutOf (p : Page) : PageDyn := (lookup v p.cuts).getD p.dyn
    let need := ((s.placedPages c).map (fun p => Config.snapshotFrames (stored (cutOf p)))).foldl (· + ·) 0
    let calm := (s.placedPages c).all (fun p => !armed p && (cutOf p).actors.all (fun a => a.firing.isNone))
    if calm ∧ need ≤ s.framesFree c.part then
      let t := (s.voidRounds c v).modCtx c (fun y => { y with voided := none, parked := true })
      (t.saveContext c).2
    else
      let past : DWord := BitVec.ofNat 64 ((s.cycle.toNat - (s.part c.part).sliceEnd.toNat) / Config.cyclesPerMicrosecond)
      let slot : DWord := BitVec.ofNat 64 c.guest
      let r : FaultRec := { cause := 0x45, info0 := past, info1 := slot, ctxid := ctxWord c, round := v % 2 ^ 32, ctx := some c }
      (s.post (guestRing c) r).tellHyp c.part 0x45 past slot (some c)

/-- The commit point of the round in progress (R311). -/
def commitRound (s : State) (c : CtxId) (n : Nat) : State :=
  let x := s.ctx c
  let hostWrite := s.homeWrites.any (fun w => w.ctx == c && w.round == n && !w.committed && w.space == .host)
  let recs := s.roundRecords c n
  let s1 := ((s.commitEntries c n).appendUndo c recs).modUndo c (fun l => { l with engine := l.engine.filter (fun r => n < r.round) })
  let s2 := if hostWrite then s1.sealOpen c else s1
  let due := x.atClose.filter (fun a => a.1 ≤ n)
  let s3 := due.foldl (fun t a => t.applyAtClose c a) (s2.modCtx c (fun y => { y with atClose := y.atClose.filter (fun a => !(a.1 ≤ n)) }))
  let s4 := s3.refreshArgs c
  let s5 := s4.modCtx c (fun y => { y with
    round := n + 1
    stalled := false
    commitAt := s.cycle
    close := none
    marks := y.marks.filter (fun m => (y.undo.windows.head?).any (fun w => w.round ≤ m.round))
    free := y.free || (y.stepsLeft.isSome && y.stepsLeft != some 1 && !s4.dev.choices.any (fun z => z.ctx == some c && z.round == n + 1))
    stepsLeft := y.stepsLeft.map (· - 1) })
  let s6 : State := { s5 with
    pages := s5.pages.map (fun p =>
      if p.key.ctx = c then
        { p with
          reported := false
          injects := []
          trapRounds := p.trapRounds.filter (fun r => n < r)
          cutUse := p.cutUse.filter (fun u => n < u.1)
          cuts := (p.cuts.filter (fun u => n < u.1)).map (fun u => (u.1, { u.2 with args := s5.boundArgs c p.key.graph p.image }))
          dyn := { p.dyn with
            elems := p.dyn.elems.map (fun e => { e with cut := false })
            actors := p.dyn.actors.map (fun a => { a with cut := false })
            nodes := p.dyn.nodes.map (fun a => { a with cut := false })
            island := { p.dyn.island with cut := false } } }
      else p)
    frames := s5.frames.map (fun f => if f.ctx = c then
      { f with cuts := f.cuts.filter (fun u => n < u.round), launchedIn := if f.launchedIn = some n then none else f.launchedIn } else f)
    msgs := s5.msgs.map (fun m => if m.ctx = c ∧ m.phase = 0 ∧ m.round ≤ n then { m with phase := 1 } else m)
    callReplies := s5.callReplies.filter (fun r => !(r.page.ctx == c && r.given.any (fun g => g ≤ n)))
    reqs := s5.reqs.filter (fun r => !(r.ctx == c && r.phase == .given && decide (r.round < n))) }
  let mine := s6.reqs.filter (fun r => r.ctx == c)
  let s8 := mine.foldl (fun t r => t.wakeRequest n r) s6
  let marks := due.any (fun a => a.2 == .wmark)
  let first := x.undo.on && x.undo.windows.isEmpty
  let s9 := if x.undo.on && (first || marks || x.undo.every) then s8.openWindow c (n + 1) else s8
  let s11 := (s9.sendCtl { code := 0x07, operand := n % 2 ^ 24, ctx := some c, part := c.part }).logEvent 0x13 (0xA000 + c.num % 2 ^ 13) (n % 2 ^ 48)
  let s10 := if due.any (fun a => a.2 == .watchdog) then s11.watchdogAct c else s11
  let y := s10.ctx c
  let stopsNow := y.undo.failed || y.stepsLeft == some 0
  if stopsNow then
    let t := s10.modCtx c (fun z => { z with dbg := .stopped, stepsLeft := none, res := if y.stepsLeft = some 0 then 0 else z.res, undo := { z.undo with failed := false } })
    if y.stepsLeft = some 0 then t.tellDebug c 0x1E (BitVec.ofNat 64 y.steps) 0 else t.debugIrq c
  else if y.stepsLeft.isSome && decide (y.removed ≤ y.round) then s10.requestClose c 6
  else s10

/-- Voiding records of a context that are not resolved (R349), or a collapse that its write waits for (R338). -/
def voidsPending (s : State) (c : CtxId) : Bool :=
  s.rings.any (fun r => (r.waiting ++ r.outstanding).any (fun f => f.voids && f.ctx == some c)) ||
    !(s.part c.part).collapsing.isEmpty || s.ctl.any (fun z => z.code == 0x0B && z.ctx == some c)

/-- The homes' part of a freeze, and the freeze itself (R317, R349). -/
def freezeCtx (s : State) (c : CtxId) (cause : Nat) : State :=
  let x := s.ctx c
  let s1 := s.voidHomes c x.round
  let s2 := s1.modCtx c (fun y => { y with frozen := true, frozenCause := cause, dbg := if y.dbg = .stopped then .stopped else .frozen, close := none, voidFrom := none, voidMade := none })
  ((s2.advise c 0x4C (BitVec.ofNat 64 cause) 0 0xFFF).debugIrq c).logEvent 0x1A (0xA000 + c.num % 2 ^ 13) cause

/-- The Prompter sends a context's FREEZE (R80): the cause stands in the context, the operand names it. DEDUCED (log 103), unsafe. -/
def askFreeze (s : State) (c : CtxId) (cause : Nat) : State :=
  if (s.ctx c).frozen ∨ s.ctl.any (fun z => z.code == 0x0B && z.ctx == some c) then s
  else (s.modCtx c (fun y => { y with frozenCause := cause })).sendCtl { code := 0x0B, operand := c.num % 2 ^ 16, ctx := some c, part := c.part }

/-- A frozen context let run again from the cut that began its oldest open round (R317). -/
def thaw (s : State) (c : CtxId) : State :=
  (s.modCtx c (fun y => { y with frozen := false, frozenCause := 0 })).voidRounds c (s.ctx c).round

end State

/-! ### Events -/

/-- ROUND_TIMER (R308): RTMR microseconds after the previous commit point a close is requested. -/
def execRoundTimer (s : State) : Out :=
  match s.cur with
  | some (.ctx c) =>
    let x := s.ctx c
    .next (if x.exist && x.close.isNone && !x.wantClose && !x.frozen && x.voided.isNone &&
        decide (x.commitAt.toNat + (bitsOf x.rtmr.toNat 0 7) * Config.cyclesPerMicrosecond ≤ s.cycle.toNat) then s.requestClose c 0 else s)
  | _ => .fault .noParty

/-- CLOSE_REQUEST (R308, R309, R319): the round controller begins the close that has been asked for; a replay closes a removed round
where its cut lay. -/
def execCloseRequest (s : State) : Out :=
  match s.cur with
  | some (.ctx c) =>
    let x := s.ctx c
    let asked := match s.replayMark c with
      | some m => s.marksReached c m
      | none => x.wantClose
    .next (if asked && x.close.isNone && !x.frozen && x.voided.isNone && x.voidFrom.isNone then s.beginClose c else s)
  | _ => .fault .noParty

/-- A context's control tokens of a code have reached their units (R80). -/
def State.takeTokens (s : State) (c : CtxId) (code : Nat) : State :=
  { s with ctl := s.ctl.filter (fun z => !(z.code == code && z.ctx == some c)) }

/-- The round controller takes a context's reports; the Logbook records from which regions, in what order (R306). -/
def State.takeReports (s : State) (c : CtxId) : State :=
  (s.ctl.filter (fun z => z.code == 0x06 && z.ctx == some c)).foldl (fun t z =>
    (t.decideBy (0xA000 + c.num % 2 ^ 13) c (t.ctx c).round ((z.page.map t.regionByte).getD 0)).2) (s.takeTokens c 0x06)

/-- CUT_REPORT (R80, R268, R309): pages whose parties have all recorded report their cuts; the close goes on once the round
controller has taken every page's report. -/
def execCutReport (s : State) : Out :=
  match s.cur with
  | some (.ctx c) =>
    .next (match (s.ctx c).close with
      | none => s
      | some cl =>
        let keys := (s.pages.filter (fun p => p.key.ctx == c)).map Page.key
        let go (x : State) (k : PageKey) : State :=
          let x := x.injectLate k (State.cueTok cl.round)
          let y := if x.pageRuns k && !((x.page? k).map Page.reported).getD false then x.cutUnfed k cl.round else x
          y.reportPage k cl.round
        let t := keys.foldl go (s.takeReports c)
        if (t.pages.filter (fun p => p.key.ctx == c)).all Page.reported && !t.ctl.any (fun z => z.code == 0x06 && z.ctx == some c) then
          t.modCtx c (fun x => { x with close := some { cl with reported := true } })
        else t)
  | _ => .fault .noParty

/-- COMMIT (R80, R311, R361): the commit point of a close whose pages have all reported, with a COMMIT to the homes and the
region controllers; a full undo log in stall mode holds it back with 0x30, and so does memory of the log that has to be waited for. -/
def execCommit (s : State) : Out :=
  match s.cur with
  | some (.ctx c) =>
    let s := s.takeTokens c 0x07
    let x := s.ctx c
    .next (match x.close with
      | none => s
      | some cl =>
        let due := match x.voidFrom with
          | some v => decide (v ≤ cl.round)
          | none => false
        let n := (s.roundRecords c cl.round).length
        if !cl.reported || due || x.dbg == .stopped then s
        else if (s.logHeld c n).isSome then ((s.logHeld c n).map (s.waitOn c.part)).getD s
        else if x.undo.on && x.undo.stall && !x.undo.windows.isEmpty && x.undo.full n then
          s.tellStall c
        else s.commitRound c cl.round)
  | _ => .fault .noParty

/-- What a context's firings in flight have done so far, a response that has come among it; none when there is none (R314). -/
def State.firingWork (s : State) (c : CtxId) : Option Nat :=
  let fs := (s.pages.filter (fun p => p.key.ctx == c)).flatMap (fun p => p.dyn.actors.filterMap ActorState.firing)
  if fs.isEmpty then none else some ((fs.map (fun f => 1 + 2 * f.fired.length + f.waits.length)).foldl (· + ·) 0)

/-- VOID (R80, R313 to R316): a void that has been asked for takes place once no close of an earlier round is in progress and
the context's parties stand at firing boundaries, a firing that waits for what the void discards going no further; a VOID
goes to the homes and the region controllers. The context resumes when every voiding record is resolved. -/
def execVoid (s : State) : Out :=
  match s.cur with
  | some (.ctx c) =>
    let s := s.takeTokens c 0x08
    let x := s.ctx c
    .next (match x.voidFrom with
      | some v =>
        let before := match x.close with
          | some cl => decide (cl.round < v)
          | none => false
        let work := s.firingWork c
        if before then s
        else if work.isNone ∨ work = x.voidSeen then s.voidRounds c v
        else s.modCtx c (fun y => { y with voidSeen := work })
      | none =>
        if x.voided.isSome && !s.voidsPending c then s.modCtx c (fun y => { y with voided := none }) else s)
  | _ => .fault .noParty

/-- FREEZE (R80, R317): a freeze that the Prompter has sent reaches the context's region controllers and homes. -/
def execFreeze (s : State) : Out :=
  match s.cur with
  | some (.ctx c) =>
    .next (match s.ctl.find? (fun z => z.code == 0x0B && z.ctx == some c) with
      | none => s
      | some z =>
        let t : State := { s with ctl := s.ctl.erase z }
        if (s.ctx c).frozen then t else t.freezeCtx c (s.ctx c).frozenCause)
  | _ => .fault .noParty

end Sys2Proof.Machine
end

