-- ==== Sys2Proof/Machine/Generators.lean ====
section
/-!
DEFINITION. The generators of memory nodes (R164 to R168, R281, R289, R330): starts and stops, the elements and packets
of read nodes, the stores of write nodes, and prefetch windows.
-/
namespace Sys2Proof.Machine

namespace Desc

/-- The dimensions in use (R166). -/
def used (d : Desc) : List (Int × Nat) := d.dims.take d.ndim

/-- The elements that the dimensions give (R166). -/
def total (d : Desc) : Nat := (d.used.map Prod.snd).foldl (· * ·) 1

/-- The node emits tile packets (R166). -/
def packets (d : Desc) : Bool := d.esize == 64 && (match d.outRoute with
  | .lane _ => true
  | _ => false)

/-- The positions that one emission takes: a packet's code rows and side rows (R50, R166). DEDUCED (log 59), unsafe. -/
def perEmission (d : Desc) : Nat :=
  if d.packets then
    let n := d.pnrow + 1
    n + (match d.psmode with
      | 1 => (n + 7) / 8
      | 2 => 1
      | _ => 0)
  else 1

end Desc

/-- The displacement of element k: i0 varies fastest, and the outermost index runs on (R166). -/
def strideSum : List (Int × Nat) → Nat → Int
  | [], _ => 0
  | [(st, _)], k => (k : Int) * st
  | (st, c) :: rest, k => ((k % c : Nat) : Int) * st + strideSum rest (k / c)

/-- The highest dimension of the mask that wraps at element k, counted from dimension d (R166). -/
def wrapLevel (mask : Nat) : Nat → List (Int × Nat) → Nat → Option Nat
  | _, [], _ => none
  | d, (_, c) :: rest, k =>
    if k % c + 1 = c then
      match wrapLevel mask (d + 1) rest (k / c) with
      | some l => some l
      | none => if bitsOf mask d 1 = 1 then some d else none
    else none

/-- The higher of two levels. -/
def maxLevel (a b : Option Nat) : Option Nat :=
  match a, b with
  | some x, some y => some (max x y)
  | some x, none => some x
  | none, y => y

/-- The header of a generator's packet: K 64, SC 0 (R50, R52, R166). -/
def genHeader (d : Desc) (tag : Tag) (tidx : Nat) : DWord :=
  BitVec.ofNat 64 (d.pfmt * 2 ^ 60 + d.psmode * 2 ^ 58 + d.pnrow * 2 ^ 52 + 63 * 2 ^ 46 + tag.toNat * 2 ^ 32 + tidx % 2 ^ 32)

namespace State

/-- The descriptor of a node of a page. -/
def nodeDesc (s : State) (k : PageKey) (n : Nat) : Desc :=
  match s.page? k with
  | some p => p.desc n
  | none => ⟨0, 0, 0, 0, 0, 0, 0, []⟩

/-- A generator's entry changed. -/
def modGen (s : State) (k : PageKey) (n : Nat) (tag : Tag) (f : Gen → Gen) : State :=
  s.modDyn k (fun d => d.modNode n (fun x => { x with gens := update (fun g => g.tag == tag) f none x.gens }))

/-- The running generator of a tag. -/
def gen? (s : State) (k : PageKey) (n : Nat) (tag : Tag) : Option Gen :=
  ((s.dyn k).node n).gens.find? (fun g => g.tag == tag && !g.done)

/-- A generator started for a tag, or restarted at an offset: what it has not emitted is abandoned (R167, R225). -/
def startGen (s : State) (k : PageKey) (n : Nat) (tag : Tag) (off : Nat) (table : Option DWord) (dep : Dep) : State :=
  s.modDyn k (fun d => d.modNode n (fun x =>
    match x.gens.find? (fun g => g.tag == tag) with
    | some g =>
      let g' : Gen := { tag := tag, off := off, sent := g.sent, table := table, dep := dep, after := g.after }
      if g.done then { x with gens := x.gens.filter (fun y => y.tag != tag) ++ [g'] }
      else { x with gens := update (fun y => y.tag == tag) (fun _ => g') none x.gens }
    | none => { x with gens := x.gens ++ [{ tag := tag, off := off, table := table, dep := dep }] }))

/-- A generator stopped by a cause of path P: for that frame alone (R166). -/
def genFault (s : State) (k : PageKey) (n : Nat) (tag : Tag) (cause : Nat) (value : Word) : State :=
  let before := ((s.dyn k).node n).gens
  let t := s.faultP cause (.node k n) tag value n
  t.modDyn k (fun d => d.modNode n (fun x => { x with gens := x.gens.map (fun g =>
    { g with stopped := g.tag == tag || ((before.find? (fun y => y.tag == g.tag)).map Gen.stopped).getD false }) }))

/-- A token at START or STOP is taken: while the port's cue of the node's cut is still to come, it belongs to the closing
round and joins the cut record; the cue of a round whose cut the node has not made waits (R309). -/
def takePort (s : State) (k : PageKey) (n port : Nat) (t : Token) : State :=
  let x := (s.dyn k).node n
  let s1 := s.modDyn k (fun d => d.pop (.node n port))
  if t.kind = .cue ∧ !x.cut ∧ t.pay = BitVec.ofNat 32 (s.ctx k.ctx).round then s
  else if !x.open_.contains port then s1
  else if t.kind = .cue then s1.modDyn k (fun d => d.modNode n (fun y => { y with open_ := y.open_.erase port }))
  else
    let r := (s.ctx k.ctx).round + 1
    s1.modPage k (fun p => { p with cuts := p.cuts.map (fun c => if c.1 = r then (c.1, c.2.push (.node n port) (.tok t)) else c) })

/-- The debugger and the page let a generator run (R252, R366). -/
def genRuns (s : State) (k : PageKey) (_n : Nat) (g : Gen) : Bool :=
  s.pageRuns k && !g.stopped && s.dbgAllows k.ctx 0xFFFFFFFF#32 g.tag

/-- What stands at element k of a generator's positions, read: an element of a kind 3 node is gathered by the index that
stands there (R168). On a wait, a fault or a void, the state that results. -/
def readPosition (s : State) (k : PageKey) (n : Nat) (d : Desc) (g : Gen) (i : Nat) : Except State (List Word × Dep × State) :=
  let p : Party := .node k n
  let dep := g.dep.join (s.maskDep k d.order g.tag)
  let w := s.who p g.tag dep
  let read (t : State) (d0 : Dep) (sp : Space) (pa size : Nat) : List Word × Dep × State :=
    let q := t.readElem { w with dep := d0.join (t.seenDep p sp pa size) } sp pa size
    (q.1, q.2.1, q.2.2.addSeen p w.round sp pa size q.2.1)
  let pos : Int := (g.off : Int) + strideSum d.used i
  let value : Word := BitVec.ofInt 32 pos
  let size := if d.nkind = 3 then 4 else d.esize
  if !s.pendOver w.dep then .error s else
  match s.reachNode p n pos size false true g.tag w.round with
  | .wait t => .error t
  | .gone t => .error t
  | .stop c t => .error (t.genFault k n g.tag c value)
  | .ready sp pa t =>
    let q := read t w.dep sp pa size
    if d.nkind ≠ 3 then .ok q
    else
      let slot (j : Nat) : Nat := (((s.turnArgs k)[j]?).getD 0).toNat
      let base := match g.table with
        | some b => b.toNat
        | none => slot d.gslot + slot (d.gslot + 1) * 2 ^ 32
      let a := (base + ((q.1.head?).getD 0).toNat * d.esize) % 2 ^ 64
      match q.2.2.reachAt p (s.mseOf k d.sport) false a d.esize false true g.tag w.round with
      | .wait u => .error u
      | .gone u => .error u
      | .stop c u => .error (u.genFault k n g.tag c value)
      | .ready sp' pa' u => .ok (read u q.2.1 sp' pa' d.esize)

/-- The positions of one emission read in order. -/
def readPositions (s : State) (k : PageKey) (n : Nat) (d : Desc) (g : Gen) : List Nat → Except State (List (List Word) × Dep × State)
  | [] => .ok ([], {}, s)
  | i :: rest =>
    match s.readPosition k n d g i with
    | .error t => .error t
    | .ok q =>
      match q.2.2.readPositions k n d g rest with
      | .error t => .error t
      | .ok r => .ok (q.1 :: r.1, q.2.1.join r.2.1, r.2.2)

/-- A packet enters an input lane whole, when the lane takes all of it (R278, R283). -/
def sendPacket (s : State) (k : PageKey) (lane : Nat) (h : DWord) (dep : Dep) (rows : List (BitVec 512)) : Option State :=
  let d := s.dyn k
  let q : Place := .laneIn lane
  if d.pend q = 0 ∧ d.used q + 1 + rows.length ≤ Place.cap q then
    some (s.modDyn k (fun x => rows.foldl (fun y r => y.enter q (.row r)) (x.enter q (.head h dep))))
  else none

/-- An emission leaves on OUTROUTE: a packet to its lane, a row whole into a 64-byte slot, an element as a data token
(R166, R289). A row towards a destination of 32-bit tokens leaves with a value that the manual does not state. -/
def emitElement (s : State) (k : PageKey) (d : Desc) (g : Gen) (dep : Dep) (rows : List (List Word)) : Option State :=
  if d.packets then
    match d.outRoute with
    | .lane l => s.sendPacket k l.toNat (genHeader d g.tag g.sent) dep (rows.map rowOf)
    | _ => none
  else
    let words := (rows.head?).getD []
    let tok (v : Word) : Token := { kind := .data, tag := g.tag, pay := v, dep := dep }
    if d.esize ≠ 64 then s.sendRoute k d.outRoute (tok ((words.head?).getD 0))
    else
      let wide : Option (Nat × CbEntry) := match d.outRoute with
        | .chan c => match s.listener? k c.toNat with
          | some (b, _, e) => if e.wide then some (b, e) else none
          | none => none
        | _ => none
      match wide with
      | some (b, e) => s.fillSlot k b e { kind := .data, sc := false, tag := g.tag, words := words, dep := dep }
      | none =>
        let s1 : State := { s with free := s.free + 1 }
        s1.sendRoute k d.outRoute (tok (Config.wideSlotToken s.free))

/-- A read generator's next emission (R166): a pending EOR, the closing EOS, or the next element or packet. -/
def emitNext (s : State) (k : PageKey) (n : Nat) (d : Desc) (g : Gen) : State :=
  let step := d.perEmission
  let tok (kd : Kind) (v : Nat) (dep : Dep) : Token := { kind := kd, tag := g.tag, pay := BitVec.ofNat 32 v, dep := dep }
  match g.eor with
  | some l =>
    match s.sendRoute k d.outRoute (tok .eor l g.after) with
    | some t => (t.modGen k n g.tag (fun x => { x with eor := none })).touch k g.tag
    | none => s
  | none =>
    if g.last ∨ d.total < g.k + step then
      match s.sendRoute k d.outRoute (tok .eos g.sent g.after) with
      | some t => (t.modGen k n g.tag (fun x => { x with done := true })).touch k g.tag
      | none => s
    else if d.nkind ≠ 1 ∧ g.returned ≤ (g.k + step - 1) / max 1 d.winsz then s
    else
      let idx := (List.range step).map (· + g.k)
      match s.readPositions k n d g idx with
      | .error t => t
      | .ok (rows, dep, t) =>
        match t.emitElement k d g dep rows with
        | none => s
        | some u =>
          let level := idx.foldl (fun m i => maxLevel m (wrapLevel d.eormask 0 d.used i)) none
          ((u.addNodeDep k n g.tag (s.roundOf k.ctx (s.behindCut (.node k n))) dep).modGen k n g.tag (fun x =>
            { x with k := x.k + step, sent := x.sent + 1, eor := level, after := x.after.join dep })).touch k g.tag

/-- A closing EOS that a write node still has to emit (R166). -/
def writeEosDue (s : State) (k : PageKey) (n : Nat) : Option Gen :=
  ((s.dyn k).node n).gens.find? (fun g => g.last && !g.done)

/-- One store of a write node at its frame's next position (R166): a wait or a void leaves the state that results. -/
def storeNext (s : State) (k : PageKey) (n : Nat) (d : Desc) (g : Gen) (bs : List Byte) (dep : Dep) : Except State State :=
  let w := s.who (.node k n) g.tag ((g.dep.join dep).join (s.maskDep k d.order g.tag))
  let pos : Int := (g.off : Int) + strideSum d.used g.k
  if !s.pendOver w.dep then .error s else
  match s.reachNode (.node k n) n pos d.esize true false g.tag w.round with
  | .wait t => .error t
  | .gone t => .error t
  | .stop c t => .error (t.genFault k n g.tag c (BitVec.ofInt 32 pos))
  | .ready sp pa t =>
    let q := t.storeElem { w with dep := w.dep.join (t.seenDep (.node k n) sp pa d.esize) } sp pa ((s.nodeBase k d + pos.toNat) % 2 ^ 64) bs
    .ok ((((q.2.addSeen (.node k n) w.round sp pa d.esize q.1).addNodeDep k n g.tag w.round q.1).modGen k n g.tag (fun x =>
      { x with k := x.k + 1, sent := x.sent + 1, after := x.after.join q.1 })).touchFrame k.ctx.part g.tag)

/-- What stands first at a write node's DATA port (R166, R167, R183, R281). DEDUCED (log 61), unsafe. -/
def writeHead (s : State) (k : PageKey) (n : Nat) (d : Desc) : State :=
  let q : Place := .node n 0
  let pop (t : State) : State := t.modDyn k (fun x => x.pop q)
  let node := (s.dyn k).node n
  match (s.dyn k).fifo q with
  | [] => s
  | .tok t :: _ =>
    match t.kind with
    | .data =>
      match s.gen? k n t.tag with
      | none => s
      | some g =>
        if !s.genRuns k n g then s
        else if d.esize = 64 then s.genFault k n t.tag 0x35 t.pay
        else match s.storeNext k n d g (bytesOfWord d.esize t.pay.toNat) t.dep with
          | .ok u => pop u
          | .error u => u
    | .cue =>
      if node.cut ∨ t.pay ≠ BitVec.ofNat 32 (s.ctx k.ctx).round then pop s
      else if (s.writeEosDue k n).isSome ∨ node.packet.isSome then s
      else match s.sendRoute k d.outRoute t with
        | some u => ((pop u).cutNode k n).fireAt k
        | none => s
    | .eos => s
    | .census => s
    | _ => pop s
  | .head h dep :: _ =>
    let tag : Tag := h.extractLsb' 32 12
    match s.gen? k n tag with
    | none => s
    | some g =>
      if !s.genRuns k n g then s
      else if d.esize ≠ 64 then s.genFault k n tag 0x35 (h.setWidth 32)
      else (pop s).modDyn k (fun x => x.modNode n (fun y =>
        { y with packet := some (tag, rowsBehind h)
                 gens := update (fun z => z.tag == tag) (fun z => { z with dep := z.dep.join dep }) none y.gens }))
  | .row r :: _ =>
    match node.packet with
    | none => pop s
    | some (tag, m) =>
      match s.gen? k n tag with
      | none => s
      | some g =>
        if !s.genRuns k n g then s
        else match s.storeNext k n d g (rowBytes r) {} with
          | .ok u => (pop u).modDyn k (fun x => x.modNode n (fun y => { y with packet := if m ≤ 1 then none else some (tag, m - 1) }))
          | .error u => u

end State

/-- GENERATOR_START (R167): a data token at START starts or restarts the generator of its tag at its payload; closing
tokens and cues are consumed without effect. -/
def execGeneratorStart (s : State) : Out :=
  match s.cur with
  | some (.part k n) =>
    .next (match (s.dyn k).headTok (.node n 1) with
      | none => s
      | some t =>
        if !s.pageRuns k ∨ t.kind = .census then s
        else
          let s1 := s.takePort k n 1 t
          if t.kind = .data then s1.startGen k n t.tag t.pay.toNat none t.dep else s1)
  | _ => .fault .noParty

/-- GENERATOR_STOP (R167): a data token at STOP ends a running generator of its tag, which then emits its closing EOS. DESIGN CHOICE (log 149), unsafe. -/
def execGeneratorStop (s : State) : Out :=
  match s.cur with
  | some (.part k n) =>
    .next (match (s.dyn k).headTok (.node n 2) with
      | none => s
      | some t =>
        if !s.pageRuns k ∨ t.kind = .census then s
        else
          let s1 := s.takePort k n 2 t
          if t.kind = .data ∧ (s.gen? k n t.tag).isSome then
            s1.modGen k n t.tag (fun g => { g with last := true, eor := none, after := g.after.join t.dep })
          else s1)
  | _ => .fault .noParty

/-- WRITE_NODE_DATA (R166, R167, R281): the head of a write node's DATA port is stored, or taken in as it stands. -/
def execWriteNodeData (s : State) : Out :=
  match s.cur with
  | some (.part k n) =>
    .next (
      let d := s.nodeDesc k n
      if s.pageRuns k && d.ndim != 0 && d.isWrite then s.writeHead k n d else s)
  | _ => .fault .noParty

/-- WRITE_NODE_EOS (R166): the frame's EOS at DATA ends its positions, and once its stores are performed one EOS leaves
with their count. An EOS behind the end of its generator is consumed. DESIGN CHOICE (log 148), unsafe. -/
def execWriteNodeEos (s : State) : Out :=
  match s.cur with
  | some (.part k n) =>
    .next (
      let d := s.nodeDesc k n
      if !s.pageRuns k || d.ndim == 0 || !d.isWrite then s
      else
        match s.writeEosDue k n with
        | some g =>
          if !s.genRuns k n g then s
          else match s.sendRoute k d.outRoute { kind := .eos, tag := g.tag, pay := BitVec.ofNat 32 g.sent, dep := g.after } with
            | some t => (t.modGen k n g.tag (fun x => { x with done := true })).touch k g.tag
            | none => s
        | none =>
          match (s.dyn k).headTok (.node n 0) with
          | none => s
          | some t =>
            if t.kind ≠ .eos then s
            else match ((s.dyn k).node n).gens.find? (fun g => g.tag == t.tag) with
              | none => s
              | some g =>
                let s1 := s.modDyn k (fun x => x.pop (.node n 0))
                if g.done then s1 else s1.modGen k n t.tag (fun x => { x with last := true, after := x.after.join t.dep }))
  | _ => .fault .noParty

/-- GENERATOR_EMIT (R166, R307): a read generator emits a cue of the round controller, or the next element, packet, EOR
or EOS of the frame that it serves; a write generator that nothing feeds emits only cues, and one whose DATA port is fed
takes its cut at the cue that comes there. -/
def execGeneratorEmit (s : State) : Out :=
  match s.cur with
  | some (.part k n) =>
    .next (
      let d := s.nodeDesc k n
      let x := (s.dyn k).node n
      if !s.pageRuns k || d.ndim == 0 then s
      else
        match x.cue with
        | some t =>
          if d.isWrite ∧ ((s.writeEosDue k n).isSome ∨ ((s.page? k).map (fun p => State.fedNode p n 0)).getD false) then s
          else match s.sendRoute k d.outRoute t with
            | some u => (u.cutNode k n).fireAt k
            | none => s
        | none =>
          if d.isWrite then s
          else match x.gens.find? (fun g => !g.done) with
            | none => s
            | some g => if s.genRuns k n g && !s.genHeld k n g then s.emitNext k n d g else s)
  | _ => .fault .noParty

/-- WINDOW_RETURN (R168): the next of the windows that the MSE keeps requested ahead of the consumption point returns. -/
def execWindowReturn (s : State) : Out :=
  match s.cur with
  | some (.part k n) =>
    .next (
      let d := s.nodeDesc k n
      if d.ndim = 0 ∨ d.isWrite ∨ d.nkind = 1 then s
      else match ((s.dyn k).node n).gens.find? (fun g => !g.done) with
        | none => s
        | some g =>
          let wsz := max 1 d.winsz
          let goal := min ((d.total + wsz - 1) / wsz) ((g.k + d.perEmission - 1) / wsz + d.wincnt)
          if g.returned < goal then s.modGen k n g.tag (fun x => { x with requested := goal, returned := x.returned + 1 }) else s)
  | _ => .fault .noParty

end Sys2Proof.Machine
end

