-- ==== Sys2Proof/Machine/Access.lean ====
section
/-!
DEFINITION. The meanings of the memory, atomic and fence instructions (R170 to R182).
-/
namespace Sys2Proof.Machine

/-- The scope that MD[1:0] names (R171). -/
def scopeBits (md : Nat) : Scope :=
  match md % 4 with
  | 0 => .region
  | 1 => .partition
  | 2 => .device
  | _ => .system

/-- What an instruction asks of its home, as its operands give it: the operation, the position, the size and the two
data words. -/
structure Ask where
  op : MemOp
  pos : Nat
  size : Nat
  a : DWord := 0
  b : DWord := 0

/-- The node that an instruction's X names (R171). -/
def nodeOf (x : BitVec 10) : Nat := bitsOf x.toNat 0 3

/-! ### Elements -/

/-- A closing token consumed that goes on behind the results still out: an EOR resets the local counter at once (R54, R173). -/
def State.takeClosing (s : State) (k : PageKey) (n : Nat) (e : Ecw) (t : Token) : State :=
  (s.takeAll k n e t).modDyn k (fun d => if t.kind = .eor then d.endTag n t else d)

/-- An element with a memory opcode (R173): one access for each data firing, a strike and a closing token behind the
results of the accesses before them. -/
def memElem (tri : Bool) (ask : Args → State → Ask) (e : Ecw) (k : PageKey) (n : Nat) (s : State) : State :=
  let node := nodeOf e.x
  fireWith
    { tri := tri
      ready := fun _ t => t.nodeRoom k node
      strikes := fun t x => (x.takeAll k n e t).queueClosing (.elem k n) t
      closing := fun t x => (x.takeClosing k n e t).queueClosing (.elem k n) t }
    (fun g t => match t.checkAccess k node (ask g t).pos (ask g t).size with
      | .error c => some (c, g.a.v, node)
      | .ok _ => none)
    (fun g t =>
      let q := ask g t
      match t.checkAccess k node q.pos q.size with
      | .error _ => t
      | .ok va => (t.issue (.elem k n) node q.op g.tag va q.size q.a q.b g.dep ((t.dyn k).keeps n e g.tag)).2) e k n s

/-! ### Blocks -/

/-- The memory node of a block's instruction word, when it is an access (R86, R171). -/
def accessNode (w : BitVec 64) : Option Nat :=
  let op := bitsOf w.toNat 56 8
  if (0xA0 ≤ op ∧ op ≤ 0xA3) ∨ (0xA5 ≤ op ∧ op ≤ 0xB1) then some (bitsOf w.toNat 16 3) else none

/-- The instructions that an instruction's results reach through operand slots. -/
def reach (tab : List InsInfo) : Nat → List Nat → List Nat
  | 0, seen => seen
  | n + 1, seen =>
    let next := tab.zipIdx.filter (fun x =>
      !seen.contains x.2 && seen.any (fun i => ((tab[i]?).map InsInfo.targets).any (fun ts =>
        ts.any (fun t => t.names x.2 .left || t.names x.2 .right || t.names x.2 .pred))))
    if next.isEmpty then seen else reach tab n (seen ++ next.map (·.2))

namespace State

/-- Accesses through two memory nodes of a page may touch the same bytes (R164, R181): two fabric windows that overlap, or two
nodes of virtual addresses. -/
def mayMeet (s : State) (k : PageKey) (n m : Nat) : Bool :=
  match s.page? k with
  | none => false
  | some p =>
    let d := p.desc n
    let e := p.desc m
    if d.nkind = 1 ∧ e.nkind = 1 then overlaps (s.nodeBase k d + d.low) (d.limit - d.low) (s.nodeBase k e + e.low) (e.limit - e.low)
    else d.nkind != 1 && e.nkind != 1

/-- The accesses of lower index that an access or a fence of a firing follows have been issued, or can no longer be
(R175, R181, R182): those through nodes that may touch the same bytes, or with no node named every access; an instruction that
this one feeds is not one. DEDUCED (log 48), unsafe. -/
def lowerIssued (s : State) (k : PageKey) (b i : Nat) (node : Option Nat) (performed : Bool) : Bool :=
  match s.page? k, s.firing? k b with
  | some p, some f =>
    match p.header? b with
    | none => true
    | some h =>
      let tab := insTable p h
      let later := reach tab tab.length [i]
      let dead := deadIns tab f tab.length
      (List.range i).all (fun j =>
        match accessNode (p.insWord h j) with
        | none => true
        | some n =>
          node.any (fun m => !s.mayMeet k m n) || later.contains j || dead.contains j || f.fired.contains j ||
            (!performed && f.waits.any (fun w => w.1 == j)))
  | _, _ => true

/-- The tile's memory port has room: at most 32 requests of its actors between issue and delivery (R295). -/
def tileRoom (s : State) (k : PageKey) : Bool :=
  let quad (x : PageKey) : Nat := s.regionByte x / 4
  decide ((s.reqs.filter (fun r => (match r.issuer with
    | .actor x _ _ => quad x == quad k
    | _ => false) && r.phase != .given)).length < 32)

end State

/-- A block access (R172, R174): issued once the accesses that it follows have been, its instruction waiting for the
response; a failed check gives no result. -/
def memBlock (left right : Bool) (ask : Args → State → Option Ask) (note : Nat → Firing → Firing)
    (w : Blk) (k : PageKey) (b i : Nat) (s : State) : State :=
  let node := nodeOf w.x
  fireBlock left right 0 (fun g t =>
    if !(t.tileRoom k && t.lowerIssued k b i (some node) false) then t
    else
      match ask g t with
      | none => t
      | some q =>
        match t.checkAccess k node q.pos q.size with
        | .error c => t.faultPast c k b i g.tag (BitVec.ofNat 64 (q.pos % 2 ^ 32)) node
        | .ok va =>
          let r := t.issue (.actor k b i) node q.op g.tag va q.size q.a q.b g.dep true
          r.2.modFiring k b (fun f => note q.pos { f.await i (.access r.1) with accs := f.accs ++ [(i, r.1)] })) w k b i s

/-- An access that elements and blocks both hold, with the same ask once the operands are read. DEDUCED (log 43), unsafe. -/
def memForm (f : Form) (right : Bool) (ask : Args → Ask) (s : State) : Out :=
  runForm f s
    (fun e k n => memElem false (fun g _ => ask g) e k n s)
    (fun w k b i => memBlock true right (fun g _ => some (ask g)) (fun _ x => x) w k b i s)

/-- LD's position: the left operand and the right one, which in a block is IMM16 zero-extended, or 0 (R172). -/
def loadPos (f : Form) (g : Args) : Nat :=
  match f with
  | .elem _ => g.a.v.toNat + g.b.v.toNat
  | .block w => g.a.v.toNat + (if w.ri then w.imm.toNat else 0)

/-- The size that MD[1:0] names (R171). -/
def sizeOf2 (md : Nat) : Nat := if md % 4 = 0 then 4 else if md % 4 = 1 then 2 else 1

/-- LD (R174). -/
def execLd (f : Form) (s : State) : Out :=
  memForm f false (fun g => { op := .load (f.ty == .i32), pos := loadPos f g, size := sizeOf2 f.md }) s

/-- ST (R174). -/
def execSt (f : Form) (s : State) : Out :=
  memForm f true (fun g => { op := .store, pos := g.a.v.toNat, size := sizeOf2 f.md, b := g.b.v.setWidth 64 }) s

/-- PF (R176): nothing beyond its address checks on any node; it issues no access and gives no token. -/
def execPf (f : Form) (s : State) : Out :=
  runForm f s
    (fun e k n => fireElem false
      (fun g t => match t.checkAccess k (nodeOf e.x) (loadPos f g) 1 with
        | .error c => some (c, g.a.v, nodeOf e.x)
        | .ok _ => none)
      (fun _ t => t) e k n s)
    (fun w k b i => fireBlock true false 0 (fun g t =>
      match t.checkAccess k (nodeOf w.x) (loadPos f g) 1 with
      | .error c => t.faultPast c k b i g.tag (g.a.v.setWidth 64) (nodeOf w.x)
      | .ok _ => t.giveNone k b i) w k b i s)

/-- LDX (R175): 8 bytes at once; the firing remembers the position for its STX and ACAS.D. -/
def execLdx (b : Blk) (s : State) : Out :=
  runBlk s (fun k x i => memBlock true false
    (fun g _ => some { op := .load8, pos := g.a.v.toNat, size := 8 })
    (fun pos f => { f with ldx := f.ldx ++ [(i, BitVec.ofNat 32 pos, none)] }) b k x i s)

/-- The LDX of the firing that a word's X names: its position and the value that it returned (R175, R178). -/
def ldxOf (s : State) (k : PageKey) (b j : Nat) : Option (Word × Option DWord) :=
  match s.firing? k b with
  | none => none
  | some f => (f.ldx.find? (fun x => x.1 == j)).map (fun x => (x.2.1, x.2.2))

/-- STX (R175): both operands written at the LDX's position; it fires only behind that LDX. -/
def execStx (b : Blk) (s : State) : Out :=
  runBlk s (fun k x i => memBlock true true
    (fun g t => (ldxOf t k x (bitsOf b.x.toNat 3 7)).map (fun l =>
      { op := .store8, pos := l.1.toNat, size := 8, b := g.b.v ++ g.a.v })) (fun _ f => f) b k x i s)

/-- ACAS.D (R178): both operands written when the 8 bytes equal the value that the LDX returned. -/
def execAcasD (b : Blk) (s : State) : Out :=
  runBlk s (fun k x i => memBlock true true
    (fun g t => match ldxOf t k x (bitsOf b.x.toNat 4 6) with
      | some (pos, some v) => some { op := .cas8 (scopeBits b.md.toNat), pos := pos.toNat, size := 8, a := v, b := g.b.v ++ g.a.v }
      | _ => none) (fun _ f => f) b k x i s)

/-- An integer atomic (R177). -/
def atomicForm (op : Nat) (f : Form) (s : State) : Out :=
  memForm f true (fun g => { op := .atomic op f.ty (scopeBits f.md), pos := g.a.v.toNat, size := 4, b := g.b.v.setWidth 64 }) s

/-- AADD (R177). -/
def execAadd (f : Form) (s : State) : Out := atomicForm 0 f s
/-- AADDS (R177). -/
def execAadds (f : Form) (s : State) : Out := atomicForm 1 f s
/-- AMIN (R177). -/
def execAmin (f : Form) (s : State) : Out := atomicForm 2 f s
/-- AMAX (R177). -/
def execAmax (f : Form) (s : State) : Out := atomicForm 3 f s
/-- AMINN (R177). -/
def execAminn (f : Form) (s : State) : Out := atomicForm 4 f s
/-- AMAXN (R177). -/
def execAmaxn (f : Form) (s : State) : Out := atomicForm 5 f s
/-- AAND (R177). -/
def execAand (f : Form) (s : State) : Out := atomicForm 6 f s
/-- AOR (R177). -/
def execAor (f : Form) (s : State) : Out := atomicForm 7 f s
/-- AXOR (R177). -/
def execAxor (f : Form) (s : State) : Out := atomicForm 8 f s
/-- AXCH (R177). -/
def execAxch (f : Form) (s : State) : Out := atomicForm 9 f s
/-- AINC (R177). -/
def execAinc (f : Form) (s : State) : Out := atomicForm 10 f s

/-- ACAS (R172, R177): the expected value is the third operand; in a block the constant that X names. -/
def execAcas (f : Form) (s : State) : Out :=
  let ask (g : Args) (c : Word) : Ask :=
    { op := .cas (scopeBits f.md), pos := g.a.v.toNat, size := 4, a := c.setWidth 64, b := g.b.v.setWidth 64 }
  runForm f s
    (fun e k n => memElem true (fun g _ => ask g g.c.v) e k n s)
    (fun w k b i => memBlock true true
      (fun g t => some (ask g (t.blockConst k b (bitsOf w.x.toNat 4 4) (bitsOf w.x.toNat 8 2)))) (fun _ x => x) w k b i s)

/-- AFADD (R172, R180): unordered, or by the rank that the third operand gives; in a block the rank is the number of
earlier firings of the instruction for the tag, which are those that issued their contribution. -/
def execAfadd (f : Form) (s : State) : Out :=
  let unord := bitsOf f.x 3 1 == 1
  let ask (g : Args) (rank : Nat) : Ask :=
    { op := .fadd f.ty (scopeBits f.md) (if unord then none else some rank), pos := g.a.v.toNat, size := 4, b := g.b.v.setWidth 64 }
  runForm f s
    (fun e k n => memElem true (fun g _ => ask g g.c.v.toNat) e k n s)
    (fun w k b i =>
      let before := s.firing? k b
      let t := memBlock true true
        (fun g t => some (ask g (((t.dyn k).actor b).instrSt i g.tag).count)) (fun _ x => x) w k b i s
      let tag := (before.map Firing.tag).getD 0
      let went (x : Option Firing) : Bool := (x.map (fun y => y.waits.any (fun z => z.1 == i))).getD false
      if went (t.firing? k b) && !went before then
        t.modDyn k (fun d => d.modActor b (fun a => a.setInstr i { a.instrSt i tag with count := (a.instrSt i tag).count + 1 }))
      else t)

/-- The scope that a fence's X names (R171). -/
def fenceScope (x : Nat) : Scope := scopeBits x

/-- The scope reaches beyond the partition: the fence closes a round (R182). -/
def Scope.wide : Scope → Bool
  | .device | .system => true
  | _ => false

namespace State

/-- The accesses that the instructions of lower index of a firing have issued (R182). -/
def lowerAccs (s : State) (k : PageKey) (b i : Nat) : List Nat :=
  match s.firing? k b with
  | some f => (f.accs.filter (fun x => decide (x.1 < i))).map Prod.snd
  | none => []

/-- What the token of a fence is ordered after, release before acquire (R182). -/
def fenceDep (s : State) (p : Party) (tag : Tag) (rel acq : Bool) (sc : Scope) (d : Dep) : Dep × State :=
  let r := if rel then s.release (s.who p tag d) sc else (d, s)
  (if acq then r.2.acquire (r.2.who p tag r.1) sc else r.1, r.2)

end State

/-- A fence (R182): .ACQ and a narrow .REL give their token once the accesses before them have been performed; a wide
.REL asks for a round close and gives it behind the commit point. -/
def fence (rel acq : Bool) (f : Form) (s : State) : Out :=
  let sc := fenceScope f.x
  let close := rel && Scope.wide sc
  runForm f s
    (fun e k n => fireWith
      { strikes := fun t x => (x.takeAll k n e t).queueClosing (.elem k n) t
        closing := fun t x => (x.takeClosing k n e t).queueClosing (.elem k n) t
        ready := fun g t => !t.reqs.any (fun r => r.issuer == .elem k n && r.phase != .given) && (!rel || t.pendOver g.dep) || close }
      (fun _ _ => none)
      (fun g t =>
        let v := g.val 1 g.a.v
        if close then (t.queueFence (.elem k n) g.tag rel acq sc v ((t.dyn k).keeps n e g.tag)).2
        else
          let q := t.fenceDep (.elem k n) g.tag rel acq sc v.dep
          q.2.emitBoth k n e g.tag { v with dep := q.1 }) e k n s)
    (fun w k b i => fireBlock true false 0 (fun g t =>
      let v0 := g.val 1 g.a.v
      let v : Val := { v0 with dep := { v0.dep with pend := unionOf v0.dep.pend (t.lowerAccs k b i) } }
      if !t.lowerIssued k b i none rel || (rel && !t.pendOver v.dep) then t
      else if close then
        let q := t.queueFence (.actor k b i) g.tag rel acq sc v true
        q.2.modFiring k b (fun f => f.await i (.access q.1))
      else
        let q := t.fenceDep (.actor k b i) g.tag rel acq sc v.dep
        q.2.give k b i w g.tag { v with dep := q.1 }) w k b i s)

/-- FENCE.ACQ (R182). -/
def execFenceAcq (f : Form) (s : State) : Out := fence false true f s
/-- FENCE.REL (R182). -/
def execFenceRel (f : Form) (s : State) : Out := fence true false f s
/-- FENCE.AR (R182). -/
def execFenceAr (f : Form) (s : State) : Out := fence true true f s

end Sys2Proof.Machine
end

