-- ==== Sys2Proof/Machine/Messages.lean ====
section
/-!
DEFINITION. The meanings of the message and system instructions (R214 to R219, R233 to R240): SEND and SENDW, traps and
breakpoints, window markers, system registers, invalidation, paging requests, folds, yields and censuses; ARGW.
-/
namespace Sys2Proof.Machine

/-! ### Messages (R65, R214 to R218) -/

/-- The codes that are held until the round of the send commits (R217). -/
def heldCode (c : Nat) : Bool := c == 1 || c == 2 || c == 3 || c == 4 || c == 6 || c == 7

/-- A 64-bit word of a slot's 64 bytes. -/
def Slot.dword (x : Slot) (j : Nat) : DWord := x.word (2 * j + 1) ++ x.word (2 * j)

namespace State

/-- Bytes 8 to 15 of a message body break R215; a SENDW has no reply destination to check. -/
def replyBad (s : State) (k : PageKey) (wait : Bool) (b : DWord) : Bool :=
  let kind := bitsOf b.toNat 62 2
  let dst := bitsOf b.toNat 0 6
  bitsOf b.toNat 6 56 != 0 ||
    (!wait && (kind == 3 || (kind == 1 && (s.listener? k dst).isNone) ||
      (kind == 2 && !((s.page? k).map (fun p => p.portValid (dst % 16))).getD false)))

/-- The tile can queue one more message: at most 64 of a region outstanding, each until its reply or, without one, its completion,
and 16 held ones of a page (R218). -/
def sendRoom (s : State) (k : PageKey) (code : Nat) : Bool :=
  let r := s.regionByte k
  decide ((s.msgs.filter (fun m => m.region == r && (m.phase != 4 || (m.rkind == 0 && m.sendw.isNone)))).length < 64) &&
    (!heldCode code || decide ((s.msgs.filter (fun m => m.page == k && m.phase == 0)).length < 16))

/-- A message queued by the tile, with its number: held until its round commits, or on its way at once (R65, R217). A TEST that a replay
of a committed round meets is not sent again, and its reply's cause is open (R397). DESIGN CHOICE (log 161), safe. -/
def queueMsg (s : State) (k : PageKey) (b i code : Nat) (scope : Scope) (tag : Tag) (reply : DWord) (opnds : List DWord) (wait : Bool)
    (dep : Dep) : Msg × State :=
  let r := s.regionByte k
  let seq := (lookup r s.seqs).getD 0
  let round := s.roundOf k.ctx (s.behindCut (.actor k b i))
  let repeats := code == 0x0B && decide (round < (s.ctx k.ctx).removed)
  let m : Msg :=
    { id := s.nextId
      code := code
      scope := scope
      tag := tag
      seq := seq
      ctx := k.ctx
      page := k
      region := r
      round := round
      rkind := if wait then 0 else bitsOf reply.toNat 62 2
      rdst := bitsOf reply.toNat 0 6
      opnds := opnds
      sendw := if wait then some (b, i) else none
      src := (b, i)
      phase := if heldCode code then 0 else if repeats then 3 else 1
      cause := if repeats then (Config.freeWord s.free).toNat % 128 else 0
      stepped := (s.ctx k.ctx).dbg == .stepping
      dep := dep }
  (m, { s with nextId := s.nextId + 1, free := if repeats then s.free + 1 else s.free, msgs := s.msgs ++ [m], seqs := assign r ((seq + 1) % 2 ^ 16) s.seqs })

end State

/-- SEND and SENDW (R214 to R218): the body of the slot, the reply destination checked, the message queued. SEND gives its
number; SENDW waits for the reply. DEDUCED (log 64), unsafe. -/
def sendCode (code : Nat) (wait : Bool) (w : Blk) (s : State) : Out :=
  let ov := bitsOf w.md.toNat 2 1 == 1
  let scope := scopeBits w.md.toNat
  runBlk s (fun k b i => fireBlock ov ov 0 (fun g t =>
    match t.slotAt k b (bitsOf w.imm.toNat 6 4) (bitsOf w.imm.toNat 0 6) with
    | none => t
    | some x =>
      let reply := x.dword 1
      if t.replyBad k wait reply then (t.giveNone k b i).faultWide 0x3F (.actor k b i) g.tag reply 0
      else if !t.sendRoom k code then t
      else
        let body := (List.range 6).map (fun j => x.dword (j + 2))
        let ops := if ov then (g.b.v ++ g.a.v) :: body.tail else body
        let q := t.queueMsg k b i code scope g.tag reply ops wait (x.dep.join g.dep)
        if wait then q.2.modFiring k b (fun f => f.await i (.reply q.1.id))
        else
          let u := q.2.give k b i w g.tag { v := BitVec.ofNat 32 q.1.seq, dep := g.dep }
          if heldCode code && Scope.wide scope then u.requestClose k.ctx 5 else u) w k b i s)

/-- SEND.COPY (R214, R217, R220). -/
def execSendCopy (b : Blk) (s : State) : Out := sendCode 0x01 false b s
/-- SEND.FILL (R214, R217, R220). -/
def execSendFill (b : Blk) (s : State) : Out := sendCode 0x02 false b s
/-- SEND.GATHER (R214, R217, R220). -/
def execSendGather (b : Blk) (s : State) : Out := sendCode 0x03 false b s
/-- SEND.SCATTER (R214, R217, R220). -/
def execSendScatter (b : Blk) (s : State) : Out := sendCode 0x04 false b s
/-- SEND.ISTREAM (R214, R217, R220). -/
def execSendIstream (b : Blk) (s : State) : Out := sendCode 0x05 false b s
/-- SEND.PUBLISH (R214, R217, R220). -/
def execSendPublish (b : Blk) (s : State) : Out := sendCode 0x06 false b s
/-- SEND.DISCARD (R214, R217, R220). -/
def execSendDiscard (b : Blk) (s : State) : Out := sendCode 0x07 false b s
/-- SEND.PRELOAD (R214, R217, R220). -/
def execSendPreload (b : Blk) (s : State) : Out := sendCode 0x08 false b s
/-- SEND.MIGRATE (R214, R217, R220). -/
def execSendMigrate (b : Blk) (s : State) : Out := sendCode 0x09 false b s
/-- SEND.MARK (R214, R217, R220). -/
def execSendMark (b : Blk) (s : State) : Out := sendCode 0x0A false b s
/-- SEND.TEST (R214, R217, R220). -/
def execSendTest (b : Blk) (s : State) : Out := sendCode 0x0B false b s
/-- SENDW of an immediate code (R216): the code stands in X. -/
def execSendw (b : Blk) (s : State) : Out := sendCode (bitsOf b.x.toNat 0 8) true b s
/-- SENDW.CENSUS (R216, R229). -/
def execSendwCensus (b : Blk) (s : State) : Out := sendCode 0x0C true b s
/-- SENDW.QUERY (R216, R227). -/
def execSendwQuery (b : Blk) (s : State) : Out := sendCode 0x0D true b s

/-! ### Traps and breakpoints (R233, R234) -/

namespace State

/-- Breakpoints of the context are enabled, and its BRK stops the fabric: the party waits for the debugger (R234). -/
def breakAt (s : State) (p : Party) (v : Word) : State :=
  let c := p.page.ctx
  let s1 := s.modCtx c (fun x => { x with dbg := .stopped, brks := x.brks ++ [p], stepParty := none, stepOnly := false, stepsLeft := none, res := if x.res = 1 then 0 else x.res })
  s1.tellDebug c 0x1B (v.setWidth 64) ((p.identity s).setWidth 64)

end State

/-- TRAP and BRK (R234): the first turn raises the trap, or stops at the breakpoint; the result is given once that trap is
accepted or the debugger lets the context run. In an element the consumed operand stands in its per-tag state meanwhile;
in a block the instruction's own state says that its trap has been raised. DEDUCED (log 67), unsafe. -/
def trapForm (cause : Nat) (stops : State → CtxId → Bool) (f : Form) (s : State) : Out :=
  let has (t : State) (k : PageKey) : Bool := ((t.page? k).map Page.hasHandler).getD false
  runForm f s
    (fun e k n =>
      match ((s.dyn k).elem n).tags.find? (fun x => x.acc.isSome) with
      | some x =>
        match x.acc with
        | some v => if s.elemGate k n e x.tag then
            ((s.modTag k n x.tag (fun y => { y with acc := none })).emitBoth k n e x.tag v).countStep (.elem k n) x.tag
          else s
        | none => s
      | none =>
        let fire := fireElem false (fun _ _ => none) (fun g t =>
          let v := g.val 1 g.a.v
          let hold := t.modTag k n g.tag (fun y => { y with acc := some v })
          if stops t k.ctx then (hold.breakAt (.elem k n) v.v).setTrap (.elem k n) true
          else if has t k then hold.trapT cause f.x (.elem k n) g.tag v.v
          else ({ s with cur := t.cur } : State).trapT cause f.x (.elem k n) g.tag v.v) e k n
        -- A firing that is held is not complete: STEP-FIRING counts it when its result is given.
        let r := fire { s with cur := none }
        if ((r.dyn k).elem n).tags.any (fun y => y.acc.isSome) then { r with cur := s.cur } else fire s)
    (fun w k b i => fireBlock true false 0 (fun g t =>
      let st := t.insSt k b i g.tag
      let p : Party := .actor k b i
      if st.count = 1 then (t.setInsSt k b i { st with count := 0 }).give k b i w g.tag (g.val 1 g.a.v)
      else
        let mark := (t.setInsSt k b i { st with count := 1 }).modFiring k b
          (fun x => x.await i (if stops t k.ctx then .brk else .trap))
        if stops t k.ctx then mark.breakAt p g.a.v
        else if has t k && !p.isHandler t then mark.trapT cause w.x.toNat p g.tag g.a.v
        else t.trapT cause w.x.toNat p g.tag g.a.v) w k b i s)

/-- TRAP (R233, R234): 0x1A TRAP_INSTR with the number in X and the left operand. -/
def execTrap (f : Form) (s : State) : Out := trapForm 0x1A (fun _ _ => false) f s

/-- BRK (R233, R234): 0x1B BREAKPOINT, or the debugger's stop when it has enabled breakpoints for the context. -/
def execBrk (f : Form) (s : State) : Out := trapForm 0x1B (fun t c => (t.ctx c).brkEn) f s

/-! ### Undo windows (R235) -/

namespace State

/-- A request that takes effect at the close of the party's round (R235, R237, R239, R161). -/
def askAtClose (s : State) (p : Party) (a : AtClose) : State :=
  let c := p.page.ctx
  s.modCtx c (fun x => { x with atClose := x.atClose ++ [(s.roundOf c (s.behindCut p), a)] })

/-- The commit point of a round opens a window: the first, a marker's, or one of MARK-EVERY (R358, R360). -/
def opensAt (x : Context) (round : Nat) : Bool :=
  x.undo.windows.isEmpty || x.undo.every || x.atClose.contains (round, .wmark)

/-- The number of the window that a marker of this round opens: those of earlier commit points come before it. DEDUCED (log 68), unsafe. -/
def windowAfter (s : State) (c : CtxId) (round : Nat) : Nat :=
  let x := s.ctx c
  x.undo.nextWindow + (if x.round < round ∧ opensAt x x.round then 1 else 0)

end State

/-- WMARK (R235): a marker at the round's close, and the number of the window that it opens; all ones while the log is
disabled. -/
def execWmark (w : Blk) (s : State) : Out :=
  runBlk s (fun k b i => fireBlock true false 0 (fun g t =>
    let p : Party := .actor k b i
    if (t.ctx k.ctx).undo.on then
      let n := t.windowAfter k.ctx (t.roundOf k.ctx (t.behindCut p))
      (t.askAtClose p .wmark).give k b i w g.tag { v := BitVec.ofNat 32 n, dep := g.dep }
    else t.give k b i w g.tag { v := 0xFFFFFFFF, dep := g.dep }) w k b i s)

/-- SEAL (R235): the current window sealed at the round's close; the left operand at once. -/
def execSealWindow (w : Blk) (s : State) : Out :=
  runBlk s (fun k b i => fireBlock true false 0 (fun g t =>
    let u := if (t.ctx k.ctx).undo.on then t.askAtClose (.actor k b i) .seal else t
    u.give k b i w g.tag (g.val 1 g.a.v)) w k b i s)

/-! ### System registers (R239, R240) -/

namespace State

/-- REGID of a page (R240). -/
def regidOf (s : State) (k : PageKey) : Word :=
  let l := ((s.page? k).bind Page.region).getD 0
  let lev := (((s.page? k).bind Page.fold).map FoldInfo.level).getD 0
  BitVec.ofNat 32 (l * 2 ^ 26 + l / 4 * 2 ^ 22 + l % 4 * 2 ^ 20 + lev * 2 ^ 18 + k.lpn)

/-- A read of a system register by a block of a page; a read of a low half latches the high one (R239). DEDUCED (log 69), unsafe. -/
def readSys (s : State) (p : Party) (n : Nat) : Word × State :=
  let k := p.page
  let x := s.ctx k.ctx
  let part := s.part k.ctx.part
  match n with
  | 0x000 => ((s.dyn k).aflg, s)
  | 0x001 => (BitVec.ofNat 32 (s.roundOf k.ctx (s.behindCut p)), s)
  | 0x002 => (x.rtmr, s)
  | 0x003 => (s.cycle.extractLsb' 0 32, s.modDyn k (fun d => { d with cycHi := s.cycle.extractLsb' 32 32 }))
  | 0x004 => ((s.dyn k).cycHi, s)
  | 0x005 => (s.time.extractLsb' 0 32, s.modDyn k (fun d => { d with timeHi := s.time.extractLsb' 32 32 }))
  | 0x006 => ((s.dyn k).timeHi, s)
  | 0x008 => (ctxWord k.ctx, s)
  | 0x009 => (s.regidOf k, s)
  | 0x00A => (k.graph, s)
  | 0x00B => (x.quota, s)
  | 0x00C =>
    if !x.undo.on then (0xFFFFFFFF, s)
    else match x.undo.window? with
      | some w => (BitVec.ofNat 32 w.num, s)
      | none => (Config.freeWord s.free, { s with free := s.free + 1 })
  | 0x00D => (BitVec.ofNat 32 ((if part.priv then 4 else 0) + (if part.stallMode then 2 else 0) + (if part.permissive then 0 else 1)), s)
  | 0x020 =>
    let l := ((s.page? k).bind Page.region).getD 0
    (if l < 32 then (s.dev.mgtTemp.extractLsb' 0 16).setWidth 32 else (s.dev.mgtTemp.extractLsb' 16 16).setWidth 32, s)
  | _ => (0, s)

/-- A written QUOTA is refused (R262). -/
def quotaRefused (s : State) (c : CtxId) (v : Word) : Bool :=
  let lo := bitsOf v.toNat 0 8
  let hi := bitsOf v.toNat 8 8
  let backed := (s.regionsOf c.part).length
  let others := ((s.ctxs.filter (fun x => x.exist && x.id != c && x.id.part == c.part && x.id.guest == c.guest)).map
    (fun x => s.quotaMin x.id)).foldl (· + ·) 0
  decide (hi < lo) || hi == 0 || decide (backed < hi) || decide (backed < others + lo)

end State

/-- RDSR (R239). -/
def execRdsr (w : Blk) (s : State) : Out :=
  runBlk s (fun k b i => fireBlock true false 0 (fun g t =>
    let r := t.readSys (.actor k b i) w.x.toNat
    r.2.give k b i w g.tag { v := r.1, dep := g.dep }) w k b i s)

/-- WRSR (R239): the previous value of the register, or the cause for which the written value is refused. -/
def wrsr (n : Nat) (bad : State → CtxId → Word → Option Nat) (write : Word → Party → State → State) (w : Blk) (s : State) : Out :=
  runBlk s (fun k b i => fireBlock true false 0 (fun g t =>
    let p : Party := .actor k b i
    match bad t k.ctx g.a.v with
    | some c => (t.giveNone k b i).faultP c p g.tag g.a.v 0
    | none =>
      let r := t.readSys p n
      (write g.a.v p r.2).give k b i w g.tag (g.val 1 r.1)) w k b i s)

/-- WRSR of AFLG (R30): the whole word is replaced; reserved bits stay zero (R7). -/
def execWrsrAflg (b : Blk) (s : State) : Out :=
  wrsr 0x000 (fun _ _ _ => none) (fun v p t => t.modDyn p.page (fun d => { d with aflg := v &&& 0x3F3F })) b s

/-- WRSR of RTMR (R239): 2 to 64, in force from the commit of its round. -/
def execWrsrRtmr (b : Blk) (s : State) : Out :=
  wrsr 0x002 (fun _ _ v => if v.toNat < 2 ∨ 64 < v.toNat then some 0x3F else none) (fun v p t => t.askAtClose p (.rtmr v)) b s

/-- WRSR of QUOTA (R239, R262): in force from the commit of its round; 0x47 when it is refused. -/
def execWrsrQuota (b : Blk) (s : State) : Out :=
  wrsr 0x00B
    (fun t c v => if bitsOf v.toNat 16 16 ≠ 0 then some 0x3F else if t.quotaRefused c v then some 0x47 else none)
    (fun v p t => t.askAtClose p (.quota v)) b s

/-! ### Translation, paging, folds (R236, R237) -/

/-- The invalidation that a wait is for, and the census. -/
def Wait.invalId? : Wait → Option Nat
  | .inval q => some q
  | _ => none
def Wait.censusSeq? : Wait → Option Word
  | .census q => some q
  | _ => none

/-- What an instruction of a firing waits for, of one kind. -/
def waitsFor {α : Type} (f : Firing) (i : Nat) (kind : Wait → Option α) : Option α :=
  f.waits.findSome? (fun x => if x.1 = i then kind x.2 else none)

/-- The OR of the SC bits of an instruction's data operands (R38). -/
def Firing.opndSc (f : Firing) (i : Nat) : Bool := f.slots.any (fun x => x.1 == i && x.2.1 != .pred && x.2.2.sc)

/-- An invalidation of the context begun, the instruction waiting for its acknowledgements; it then gives 0 where its targets have
room (R194, R236). DEDUCED (log 65), unsafe. DEDUCED (log 66), unsafe. -/
def invalBlock (range : Args → Option (Nat × Nat)) (right : Bool) (w : Blk) (s : State) : Out :=
  runBlk s (fun k b i =>
    match (s.firing? k b).bind (fun f => (waitsFor f i Wait.invalId?).map (fun q => (f, q))) with
    | some (f, q) =>
      if s.invals.any (fun v => v.id == q) || !s.laneRoom k w then s
      else s.give k b i w f.tag { v := 0, sc := f.opndSc i }
    | none => fireBlock true right 0 (fun g t =>
      match range g with
      | none => (t.giveNone k b i).faultP 0x3F (.actor k b i) g.tag g.b.v 0
      | some (lo, hi) =>
        let q := t.startInval { State.invalAllOf k.ctx with lo := lo, hi := hi }
        q.2.modFiring k b (fun f => f.await i (.inval q.1))) w k b i s)

/-- INVAL (R233, R236): the pages of one size that hold the address; size codes 0 to 5. -/
def execInval (b : Blk) (s : State) : Out :=
  invalBlock (fun g =>
    let code := bitsOf g.b.v.toNat 20 3
    let va := g.a.v.toNat * 2 ^ 12 + bitsOf g.b.v.toNat 0 20 * 2 ^ 44
    let size := 2 ^ boundary code
    if 5 < code ∨ bitsOf g.b.v.toNat 23 9 ≠ 0 then none else some (va / size * size, va / size * size + size)) true b s

/-- INVAL.ALL (R233, R236): every stage-1 translation of the context. -/
def execInvalAll (b : Blk) (s : State) : Out := invalBlock (fun _ => some (0, 2 ^ 64)) false b s

namespace State

/-- The page that a graph ID and an LPN name: of a resident graph, below its NPAGE; else the operand at fault (R237). -/
def namedPage (s : State) (c : CtxId) (gid lpn : Word) : Except Word Graph :=
  match s.graph? c.part gid with
  | none => .error gid
  | some g => if lpn.toNat < Memory.readNat g.header 4 2 then .ok g else .error lpn

end State

/-- A request about one page of the context's resident graph (R237). -/
def pageBlock (ask : Graph → PageKey → Party → State → Except Nat (Word × State)) (w : Blk) (s : State) : Out :=
  runBlk s (fun k b i => fireBlock true true 0 (fun g t =>
    let p : Party := .actor k b i
    match t.namedPage k.ctx g.a.v g.b.v with
    | .error v => (t.giveNone k b i).faultP 0x3F p g.tag v 0
    | .ok gr =>
      match ask gr { ctx := k.ctx, graph := g.a.v, lpn := g.b.v.toNat } p (t.mapGraph k.ctx gr) with
      | .error c => (t.giveNone k b i).faultP c p g.tag g.b.v 0
      | .ok (v, u) => u.give k b i w g.tag (g.val 2 v)) w k b i s)

/-- PGLD (R237): the Stagehand is handed a page that is not resident. -/
def execPgld (b : Blk) (s : State) : Out :=
  pageBlock (fun _ key p t =>
    let r := t.roundOf key.ctx (t.behindCut p)
    .ok (match (t.page? key).map Page.placed with
      | some true => (0, t)
      | _ => (1, t.modPart key.ctx.part (fun x =>
          if x.asked.any (fun a => a.1 == key) then x else { x with asked := x.asked ++ [(key, r)] })))) b s

/-- PGEV (R237): the Stagehand is handed a page to evict. -/
def execPgev (b : Blk) (s : State) : Out :=
  pageBlock (fun _ key p t =>
    let r := t.roundOf key.ctx (t.behindCut p)
    .ok (match (t.page? key).map Page.st with
      | some .absent => (0, t)
      | none => (0, t)
      | _ => (1, t.modPage key (fun x => { x with evict := x.evict.orElse (fun _ => some r) })))) b s

/-- FOLD (R237, R266): the group that the page begins takes its variant of a level at the next round close; 0x48 when
the graph holds none. -/
def execFold (b : Blk) (s : State) : Out :=
  let level := bitsOf b.md.toNat 0 2
  pageBlock (fun g key p t =>
    if level ≠ 0 ∧ (State.foldMembers g key.lpn level).isEmpty then .error 0x48
    else .ok (0, t.askAtClose p (.fold key.graph key.lpn level))) b s

/-- YIELD (R238): the guest's time slice is asked to end at its next interval; the left operand. DEDUCED (log 70), unsafe. -/
def execYield (w : Blk) (s : State) : Out :=
  runBlk s (fun k b i => fireBlock true false 0 (fun g t =>
    let u := if (t.part k.ctx.part).sliceGuest = k.ctx.guest then t.modPart k.ctx.part (fun p => { p with yields := true }) else t
    u.give k b i w g.tag (g.val 1 g.a.v)) w k b i s)

/-! ### Censuses (R238) -/

namespace State

/-- A census begun: its first sweep. -/
def beginCensus (s : State) (part : Nat) (tag : Tag) (frame : Option FrameKey) (waiter : Option (PageKey × Nat × Nat)) : Word × State :=
  let seq := BitVec.ofNat 32 s.nextId
  let c : Census := { seq := seq, part := part, tag := tag, frame := frame, waiter := waiter }
  let s1 : State := { s with nextId := s.nextId + 1, censuses := s.censuses ++ [c] }
  (seq, s1.censusStart part seq tag)

/-- A census whose tokens have all been removed goes on: what no token reached is counted, then the second sweep of a pair,
a further pair, or the end. Two sweeps agree when counts and sends are equal. The answer is the sequence number in use now
and the result. -/
def censusNext (s : State) (seq : Word) : Word × Option Word × State :=
  match s.censuses.find? (fun c => c.seq == seq) with
  | none => (seq, none, s)
  | some c0 =>
    if s.censusLive seq then (seq, none, s)
    else
      let s := s.censusRest c0
      let c := (s.censuses.find? (fun c => c.seq == seq)).getD c0
      let drop (t : State) : State :=
        let u := t.censusCollect seq
        { u with censuses := u.censuses.filter (fun x => x.seq != seq) }
      let again (sweep pairs : Nat) (prev : Option (Nat × Nat)) : Word × Option Word × State :=
        let q := BitVec.ofNat 32 s.nextId
        let c' : Census := { c with seq := q, sweep := sweep, todo := [], pairs := pairs, prev := prev, count := 0, sends := 0 }
        let t := drop s
        let u : State := { t with nextId := t.nextId + 1, censuses := t.censuses ++ [c'] }
        (q, none, u.censusStart c.part q c.tag)
      if c.sweep = 0 then again 1 c.pairs (some (c.count, c.sends))
      else if c.prev = some (c.count, c.sends) then (seq, some (BitVec.ofNat 32 (min c.count 0xFFFFFFFE)), drop s)
      else if 8 ≤ c.pairs + 1 then (seq, some 0xFFFFFFFF, drop s)
      else again 0 (c.pairs + 1) none

end State

/-- CENSUS (R233, R238): census tokens at every source of the tag, swept in pairs; the count, or all ones after eight
pairs that disagree. -/
def execCensus (w : Blk) (s : State) : Out :=
  runBlk s (fun k b i =>
    match (s.firing? k b).bind (fun f => (waitsFor f i Wait.censusSeq?).map (fun q => (f, q))) with
    | some (f, q) =>
      let r := s.censusNext q
      match r.2.1 with
      | some v => if s.laneRoom k w then r.2.2.give k b i w f.tag { v := v, sc := f.opndSc i } else s
      | none => r.2.2.modFiring k b (fun f =>
          { f with waits := f.waits.map (fun x => if x = (i, Wait.census q) then (i, Wait.census r.1) else x) })
    | none => fireBlock true false 0 (fun g t =>
        if bitsOf g.a.v.toNat 12 20 ≠ 0 then (t.giveNone k b i).faultP 0x3F (.actor k b i) g.tag g.a.v 0
        else
          let q := t.beginCensus k.ctx.part (g.a.v.setWidth 12) none (some (k, b, i))
          q.2.modFiring k b (fun f => f.await i (.census q.1))) w k b i s)

/-! ### Graph arguments (R161) -/

/-- ARGW (R161): a graph argument rewritten as a whole or by half; the rewrite leaves at the close of the writer's round.
No result is stated. DEDUCED (log 37), unsafe. -/
def execArgw (w : Blk) (s : State) : Out :=
  let x := w.x.toNat
  runBlk s (fun k b i => fireBlock true false 0 (fun g t =>
    (t.giveNone k b i).askAtClose (.actor k b i) (.arg k.graph (bitsOf x 0 8) (bitsOf x 8 2) g.a.v)) w k b i s)

end Sys2Proof.Machine
end

