-- ==== Sys2Proof/Machine/Engines.lean ====
section
/-!
DEFINITION. The engines behind the messages (R218 to R232): inboxes and start order, copy engines with their understudies,
publications, stream starts, preloads, migrations, marks and single-sweep censuses; replies; the placement of streams
and the collapse of replicas (R335 to R338); pulls (R340).
-/
namespace Sys2Proof.Machine

/-! ### Inboxes and start order (R218, R223, R232) -/

/-- The engine class that serves a code: the copy engines, the memory-edge stream engines of ISTREAM and MIGRATE, or the code's own
unit (R93). -/
def engineClass (code : Nat) : Nat := if heldCode code then 0 else if code = 9 then 5 else code

/-- Index scale of a gathering message: count and element size (R220). -/
def gatherCount (m : Msg) : Nat := bitsOf ((m.opnds[3]?).getD 0).toNat 0 32
def gatherSize (m : Msg) : Nat := bitsOf ((m.opnds[3]?).getD 0).toNat 32 16

/-- An operand of a message as an address or a number. -/
def Msg.op (m : Msg) (i : Nat) : Nat := ((m.opnds[i]?).getD 0).toNat

/-- The range that a writing message writes; a SCATTER writes wherever its indices point (R223). DEDUCED (log 72), unsafe. -/
def writtenRange (m : Msg) : Nat × Nat :=
  match m.code with
  | 0x03 => (m.op 0, m.op 0 + gatherCount m * gatherSize m)
  | 0x04 => (m.op 0, m.op 0 + 2 ^ 32 * gatherSize m)
  | _ => (m.op 0, m.op 0 + m.op 2)

namespace State

/-- A message has completed: its work is over, and every acknowledgement of its publication is in (R222, R223). -/
def msgDone (s : State) (m : Msg) : Bool :=
  (m.phase == 3 || m.phase == 4) && !((m.waits.map (fun i => s.invals.any (fun v => v.id == i))).getD false)

/-- An earlier message of the region holds a message back (R223). -/
def holdsBack (s : State) (x m : Msg) : Bool :=
  x.region == m.region && decide (x.id < m.id) && engineClass x.code == engineClass m.code &&
    ((x.phase == 0 || x.phase == 1) ||
      (((x.code == 6 || x.code == 7) != (m.code == 6 || m.code == 7)) && !s.msgDone x &&
        (let a := writtenRange x; let b := writtenRange m
         engineClass m.code == 0 && decide (a.1 < b.2 ∧ b.1 < a.2))))

/-- The engine that serves a message: a copy engine of the sender's die with the fewest queued messages of the partition,
the MSE of the node's port or of the channel, or the one unit of its kind (R93, R232). -/
def engineOf (s : State) (m : Msg) : Nat :=
  let die := m.region / 32
  if heldCode m.code then
    let load (e : Nat) : Nat := (s.msgs.filter (fun x => x.engine == some e && x.ctx.part == m.ctx.part && x.phase == 1)).length
    let es := (List.range 8).map (fun e => die * 8 + e)
    let least := es.foldl (fun a e => min a (load e)) (2 ^ 32)
    (es.find? (fun e => load e == least)).getD (die * 8)
  else match m.code with
    | 0x05 => 100 + s.mseOf m.page (((s.page? m.page).map (fun p => (p.desc (m.op 0 % 8)).sport)).getD 0)
    | 0x09 => 100 + m.op 1 % 32
    | 0x0B => 400 + m.region / 4
    | 0x0C => 500 + m.ctx.part
    | c => 200 + c

/-- An inbox of 64 takes one more message of a partition: 4 entries are reserved for each partition, and a frozen
context's waiting messages hold no shared one (R218). DEDUCED (log 71), unsafe. DESIGN CHOICE (log 154), unsafe. -/
def inboxRoom (s : State) (e part : Nat) : Bool :=
  let inside (p : Nat) : Nat := (s.msgs.filter (fun x => x.engine == some e && x.ctx.part == p && !((s.ctx x.ctx).frozen && x.phase == 1))).length
  let shared := ((List.range 8).map (fun p => inside p - 4)).foldl (· + ·) 0
  decide (inside part < 4) || decide (shared < 32)

/-- A message on its way enters its engine's inbox, and starts once nothing holds it back and the engine is free. -/
def tryStart (s : State) (m : Msg) : State :=
  if (s.ctx m.ctx).frozen then s
  else
    match m.engine with
    | none =>
      let e := s.engineOf m
      if s.inboxRoom e m.ctx.part then s.modMsg m.id (fun x => { x with engine := some e }) else s
    | some e =>
      let busy := heldCode m.code && s.msgs.any (fun x => x.engine == some e && x.phase == 2)
      if busy || s.msgs.any (fun x => s.holdsBack x m) then s else s.modMsg m.id (fun x => { x with phase := 2 })

/-- Words of a range given free contents. DESIGN CHOICE (log 73), safe. -/
def fillFree (s : State) (sp : Space) (a : Nat) : Nat → State
  | 0 => s
  | n + 1 =>
    let t : State := { s with free := s.free + 1 }
    (t.writeNatNow sp a 4 (Config.freeWord s.free).toNat).fillFree sp (a + 4) n

/-- The bytes of a store that its maker has not written are given free contents: the manual gives them none (R221). -/
def settleStore (s : State) (u : Understudy) : State :=
  match u.maker with
  | none => s
  | some (_, n) =>
    let t := s.fillFree u.space (u.store * 4096 + (n + 3) / 4 * 4) ((4096 - (n + 3) / 4 * 4) / 4)
    { t with understudies := t.understudies.map (fun x => if x.store = u.store then { x with maker := none } else x) }

/-- A message's work is over: the reply is due (R219). -/
def endMsg (s : State) (m : Msg) (cause : Nat) (result : Word) : State :=
  let mine := s.understudies.filter (fun u => match u.maker with
    | some (id, n) => id == m.id && decide (n < 4096)
    | none => false)
  let s1 := mine.foldl (fun t u => t.settleStore u) s
  { s1.modMsg m.id (fun x => { x with phase := 3, cause := cause, result := result }) with
    understudies := s1.understudies.map (fun u => if (u.maker.map Prod.fst) = some m.id then { u with maker := none } else u) }

/-- One turn of an engine with a message. -/
def engineTurn (s : State) (id : Nat) (work : Msg → State → State) : State :=
  match s.msg? id with
  | none => s
  | some m =>
    match m.phase with
    | 1 => s.tryStart m
    | 2 => work m s
    | 4 => if s.msgDone m then { s with msgs := s.msgs.filter (fun x => x.id != id) } else s
    | _ => s

end State

/-- An engine event: one turn with the message that it names. -/
def engineEvent (work : Msg → State → State) (s : State) : Out :=
  match s.cur with
  | some (.unit id) => .next (s.engineTurn id work)
  | _ => .fault .noParty

/-! ### Engine accesses (R224, R231) -/

/-- How far an engine access comes. -/
inductive Eng where
  | wait (t : State)
  | fail (cause : Nat) (t : State)
  | ok (x : Xl) (t : State)
  deriving DecidableEq

namespace State

/-- A translation fault of an engine: the owning pager's record, without a void (R231). -/
def engineFault (s : State) (m : Msg) (va : Nat) (u : WalkFor) (f : XFault) (mse : Nat) : State :=
  if s.faultHeld mse m.ctx f.stage2 va then s
  else
    let s1 : State := { s with heldFaults := s.heldFaults ++ [{ mse := mse, ctx := m.ctx, stage2 := f.stage2, page := va / 4096 }] }
    s1.post (xlRing m.ctx f) (xlRec m.ctx va u f mse m.tag m.round false)

/-- The MSE at which an engine translates: copy engine e of a die at MSE e of that die, an MSE itself, otherwise the
first of the sender's die (R330). -/
def engineMse (m : Msg) : Nat :=
  match m.engine with
  | some e => if e < 16 then e / 8 * 12 + e % 8 else if 100 ≤ e ∧ e < 124 then e - 100 else m.region / 32 * 12
  | none => m.region / 32 * 12

/-- An address of a message translated; `fails` says that a translation cause fails the message (R221), unless a stage-2 fault met
while reading a stage-1 table, which only the hypervisor is told of (R333). -/
def engineXl (s : State) (m : Msg) (u : WalkFor) (va : Nat) (fails : Bool) : Eng :=
  let mse := engineMse m
  match s.translateAt mse m.ctx u va with
  | .ok (x, t) => .ok x t
  | .error f =>
    if f.pull.isSome then .wait s
    else if fails ∧ !f.walk then .fail f.cause s
    else .wait (s.engineFault m va u f mse)

/-- What an engine knows of memory: the sending context's writes up to the message's round (R320). -/
def engineDep (s : State) (m : Msg) : Dep :=
  { know := (s.hist.filter (fun w => w.ctx == some m.ctx && decide (w.round ≤ m.round))).map WriteRec.id }

/-- Data that cannot be corrected: the hypervisor is told (R350, R357). -/
def engineLost (s : State) (m : Msg) (sp : Space) (pa : Nat) : State :=
  let unit := match homeOf sp pa with
    | .tile t => t
    | .mse h => h
  s.tellHyp m.ctx.part 0x50 (BitVec.ofNat 64 pa) (BitVec.ofNat 64 unit) (some m.ctx)

/-- The cause for which a range cannot be read: its frame is poisoned (R357), a word is lost, or a line whose read fails is tried again in
vain (R356); the hypervisor is told. -/
def unreadable (s : State) (m : Msg) (va : Nat) (sp : Space) (pa n : Nat) : Option Nat × State :=
  if sp = .dram ∧ s.dev.poisoned.contains (pa / 4096) then
    (some 0x2B, s.tellHyp m.ctx.part 0x2B (BitVec.ofNat 64 va) (BitVec.ofNat 64 pa) (some m.ctx))
  else if s.wordLost sp pa n then (some 0x50, s.engineLost m sp pa)
  else
    let bad (x : Space × Nat) : Bool := x.1 == sp && decide (pa / 64 ≤ x.2 ∧ x.2 * 64 < pa + n)
    let lines := ((s.dev.suspect ++ s.dev.failing).filter bad).eraseDups
    let try_ (a : Option Nat × State) (l : Space × Nat) : Option Nat × State :=
      if a.1.isSome then a
      else
        let q := a.2.secondTry m.ctx.part (some m.ctx) l.1 (l.2 * 64)
        (if q.1 then none else some 0x50, q.2)
    lines.foldl try_ (none, s)

/-- The input of the engines at a home's arbiter (R306). -/
def engineInput : Nat := 64

/-- Bytes read by an engine: committed values under R301; an uncorrectable read fails the message (R224, R231, R320, R356). -/
def engineRead (s : State) (m : Msg) (va n : Nat) (fails : Bool) : Except (Nat × State) (Option (List Byte) × State) :=
  match s.engineXl m .engineRead va fails with
  | .wait t => .ok (none, t)
  | .fail c t => .error (c, t)
  | .ok x t =>
    let pa := t.backed (some (engineMse m)) x.space x.pa
    let h := t.servedBy (engineMse m) x.space pa false
    if t.homeHolds h m.ctx m.round x.space pa n false then .ok (none, t)
    else
      match t.unreadable m va x.space pa n with
      | (some c, u) => .error (c, u)
      | (none, u) =>
        let r := u.readMany (u.engineDep m) x.space pa n (wordsOf pa n)
        .ok (some r.1, r.2.noteChoice (arbOf h) engineInput)

/-! ### Understudies (R221, R230) -/

/-- A new store of a frame, of the model's own numbering: congruent to the frame at every home. -/
def freshStore (s : State) (frame : Nat) : Nat := frame + 3 * 2 ^ 60 * (s.nextId + 1)

/-- The understudy of a frame that engine writes reach. -/
def studyOf (s : State) (sp : Space) (frame : Nat) : Option Understudy :=
  s.understudies.find? (fun u => u.space == sp && u.frame == frame && u.state == .study && u.publish.isNone)

/-- The store of which a page's next understudy is a copy: a publication's in progress, or the visible one (R221). -/
def studySource (s : State) (sp : Space) (frame : Nat) : Nat :=
  match s.understudies.find? (fun u => u.space == sp && u.frame == frame && u.publish.isSome) with
  | some u => u.store
  | none => s.storeOf none sp frame

/-- The understudy of a page, made by the first engine write: a copy of the visible page, unless the message covers the
page whole (R221). -/
def ensureStudy (s : State) (m : Msg) (sp : Space) (frame va : Nat) (whole : Bool) : Understudy × State :=
  match s.studyOf sp frame with
  | some u => (u, s)
  | none =>
    let from_ := s.studySource sp frame
    let u : Understudy :=
      { ctx := m.ctx, va := va / 4096 * 4096, space := sp, frame := frame, store := s.freshStore frame
        maker := if whole then some (m.id, 0) else none }
    let t : State := { s with nextId := s.nextId + 1, understudies := s.understudies ++ [u] }
    (u, if whole then t else t.writeNow sp (u.store * 4096) (t.viewBytes sp none (from_ * 4096) 4096))

/-- Bytes written into the understudy of a destination page, with one undo record for each word (R221, R230). -/
def writeStudy (s : State) (m : Msg) (x : Xl) (va : Nat) (bs : List Byte) (whole : Bool) : State :=
  let q := s.ensureStudy m x.space (x.pa / 4096) va whole
  let u := q.1
  let a := u.store * 4096 + x.pa % 4096
  let round := (q.2.ctx m.ctx).round
  let rec1 (t : State) (i : Nat) : State :=
    t.engineRecord m.ctx
      { kind := 2, wid := 2, space := 1, addr := va + 4 * i, old := BitVec.ofNat 32 (q.2.viewNat x.space none (a + 4 * i) 4)
        round := round, window := 0 }
  let s1 := ((List.range (bs.length / 4)).foldl rec1 q.2).noteChoice (arbOf (homeOf x.space x.pa)) engineInput
  let s2 := s1.writeNow x.space a bs
  let s3 : State := { s2 with understudies := s2.understudies.map (fun y =>
    if y.store = u.store ∧ (y.maker.map Prod.fst) = some m.id then { y with maker := some (m.id, x.pa % 4096 + bs.length) } else y) }
  if x.space = .host then s3.modCtx m.ctx (fun c => { c with atClose := c.atClose ++ [(round, .engineSeal)] }) else s3

/-- An engine write that cannot be made: the fault goes to its owner's ring, a duplicated frame begins to collapse, anything else is waited
for (R74, R231, R338, R340, R436). -/
def engineStop (s : State) (m : Msg) (va : Nat) (f : XFault) : State :=
  match f.pull with
  | none => s.engineFault m va .engineWrite f (engineMse m)
  | some _ => s.waitOn m.ctx.part f

/-- One engine write: the destination translated and found double-backed, the bytes in its understudy. A resident image is read-only
(R74), a duplicated frame collapses first (R338), a frame still to be pulled is waited for (R340), and data that cannot be corrected
is not copied (R231). -/
def engineWrite (s : State) (m : Msg) (va : Nat) (bs : List Byte) (whole fails : Bool) (next : State → State) : State :=
  match s.engineXl m .engineWrite va fails with
  | .wait t => t
  | .fail c t => t.endMsg m c 0
  | .ok x t =>
    let frame := x.pa / 4096
    if bitsOf x.leaf1 11 1 = 0 then t.endMsg m 0x2F 0
    else match t.writeStop m.ctx.part x with
    | some f => t.engineStop m va f
    | none =>
      if (t.studyOf x.space frame).isSome ∨ whole then next (t.writeStudy m x va bs whole)
      else
        match t.unreadable m va x.space (t.studySource x.space frame * 4096) 4096 with
        | (none, u) => next (u.writeStudy m x va bs whole)
        | (some c, u) => u.endMsg m c 0

/-- A message's position moved on; its end when everything has been moved. -/
def moved (s : State) (m : Msg) (n total : Nat) : State :=
  let t := s.modMsg m.id (fun x => { x with pos := m.pos + n })
  if total ≤ m.pos + n then t.endMsg m 0 0 else t

/-- The page of an address lies whole in a message's contiguous destination. -/
def coversPage (dst len va : Nat) : Bool := decide (dst ≤ va / 4096 * 4096 ∧ va / 4096 * 4096 + 4096 ≤ dst + len)

end State

/-- COPY (R220, R221, R232): up to 64 bytes from the source into the destination's understudy. -/
def execCopy (s : State) : Out :=
  engineEvent (fun m t =>
    let dst := m.op 0
    let src := m.op 1
    let len := m.op 2
    if dst % 64 ≠ 0 ∨ src % 64 ≠ 0 ∨ len < 64 ∨ 2 ^ 32 < len ∨ len % 64 ≠ 0 then t.endMsg m 0x3F 0
    else
      match t.engineRead m (src + m.pos) 64 false with
      | .error (c, u) => u.endMsg m c 0
      | .ok (none, u) => u
      | .ok (some bs, u) =>
        u.engineWrite m (dst + m.pos) bs (State.coversPage dst len (dst + m.pos)) false (fun v => v.moved m 64 len)) s

/-- FILL (R220, R221, R232): a 64-bit pattern, up to 64 bytes at a time. -/
def execFill (s : State) : Out :=
  engineEvent (fun m t =>
    let dst := m.op 0
    let len := m.op 2
    if dst % 8 ≠ 0 ∨ len < 8 ∨ 2 ^ 32 < len ∨ len % 8 ≠ 0 then t.endMsg m 0x3F 0
    else
      let va := dst + m.pos
      let n := min (64 - va % 64) (len - m.pos)
      let bs := (List.replicate (n / 8) (bytesOfWord 8 (m.op 1))).flatten
      t.engineWrite m va bs (State.coversPage dst len va) false (fun v => v.moved m n len)) s

/-- The operands of GATHER and SCATTER break R220. -/
def gatherBad (m : Msg) (line table : Nat) : Bool :=
  let n := gatherSize m
  bitsOf (m.op 3) 48 16 != 0 || gatherCount m == 0 || decide (2 ^ 24 < gatherCount m) || decide (n < 4) || decide (4096 < n) ||
    Nat.land n (n - 1) != 0 || m.op 2 % 4 != 0 || line % n != 0 || table % n != 0

/-- The index of the element in work, then what is done with it. -/
def withIndex (m : Msg) (t : State) (f : Nat → State → State) : State :=
  match t.engineRead m (m.op 2 + 4 * m.pos) 4 false with
  | .error (c, u) => u.endMsg m c 0
  | .ok (none, u) => u
  | .ok (some bs, u) => f (wordOfBytes bs) u

/-- GATHER (R220, R221): the table's element of each index into the destination in turn. -/
def execGather (s : State) : Out :=
  engineEvent (fun m t =>
    let n := gatherSize m
    if gatherBad m (m.op 0) (m.op 1) then t.endMsg m 0x3F 0
    else withIndex m t (fun i u =>
      match u.engineRead m (m.op 1 + i * n) n true with
      | .error (c, v) => v.endMsg m c 0
      | .ok (none, v) => v
      | .ok (some bs, v) =>
        v.engineWrite m (m.op 0 + m.pos * n) bs (State.coversPage (m.op 0) (gatherCount m * n) (m.op 0 + m.pos * n)) false
          (fun w => w.moved m 1 (gatherCount m)))) s

/-- SCATTER (R220, R221): each source element into the table's element of its index; the higher of repeated ones holds. -/
def execScatter (s : State) : Out :=
  engineEvent (fun m t =>
    let n := gatherSize m
    if gatherBad m (m.op 1) (m.op 0) then t.endMsg m 0x3F 0
    else withIndex m t (fun i u =>
      match u.engineRead m (m.op 1 + m.pos * n) n false with
      | .error (c, v) => v.endMsg m c 0
      | .ok (none, v) => v
      | .ok (some bs, v) => v.engineWrite m (m.op 0 + i * n) bs false true (fun w => w.moved m 1 (gatherCount m)))) s

/-! ### Publications (R222) -/

namespace State

/-- Base and length of PUBLISH and DISCARD break R220. -/
def swapBad (m : Msg) : Bool := m.op 0 % 4096 != 0 || m.op 2 % 4096 != 0 || m.op 2 == 0

/-- The understudies of a range's pages, under the addresses by which the range names them; pages without one are unchanged (R222). A
page that does not translate, or waits for its table, gives what the engine does about it instead (R231); a partition without any
understudy has nothing to translate. -/
def studiesIn (s : State) (m : Msg) : Except State (List Understudy) :=
  if s.understudies.all (fun u => u.state != .study) then .ok []
  else
    let one (acc : Except State (List Understudy)) (i : Nat) : Except State (List Understudy) :=
      match acc with
      | .error t => .error t
      | .ok l =>
        let va := m.op 0 + 4096 * i
        match s.walkAll { id := s.nextId, ctx := m.ctx, va := va, use := .engineRead } 128 with
        | .ok x => .ok (l ++ ((s.studyOf x.space (x.pa / 4096)).map (fun u => { u with va := va })).toList)
        | .error f => .error (if f.pull.isSome then s else s.engineFault m va .engineRead f (engineMse m))
    (List.range (m.op 2 / 4096)).foldl one (.ok [])

/-- The MSEs whose acknowledgements a scope waits for: those of the sender's region, of its partition, or all (R222). -/
def scopeMses (s : State) (m : Msg) : List Nat :=
  match m.scope with
  | .region => (List.range 3).map (s.mseOf m.page)
  | .partition => ((List.range 16).filter (fun q => bitsOf (s.part m.ctx.part).quads q 1 == 1)).flatMap (fun q =>
      (List.range 3).map (fun j => 12 * (q / 8) + 3 * (q % 8 % 4) + j))
  | _ => List.range 24

end State

/-- PUBLISH (R222): the understudies of the range become the visible backings by drain tokens, and under .SYSTEM the cores' and the
host's cached translations are invalidated; the reply comes when the scope's acknowledgements are in, the completion with the last
of the device's. -/
def execPublish (s : State) : Out :=
  engineEvent (fun m t =>
    match m.waits with
    | some i =>
      if !m.acks.isEmpty then t
      else match t.invals.find? (fun v => v.id == i) with
        | none => t.endMsg m 0 0
        | some v => if (t.scopeMses m).all (fun x => !v.pending.contains x) then t.endMsg m 0 0 else t
    | none =>
      if State.swapBad m then t.endMsg m 0x3F 0
      else match t.studiesIn m with
      | .error u => u
      | .ok us =>
        let t1 : State := if m.scope = .system then
            t.modCtx m.ctx (fun c => { c with atClose := c.atClose ++ [(c.round, .engineSeal)] }) else t
        if us.isEmpty then t1.endMsg m 0 0
        else
          let t2 := us.foldl (fun x u => x.settleStore u) t1
          let q := t2.startInval
            { id := 0, part := m.ctx.part, ctx := some m.ctx, stage1 := true, lo := m.op 0, hi := m.op 0 + m.op 2,
              msg := some m.id, publish := true }
          let u : State := { q.2 with understudies := q.2.understudies.map (fun y =>
            match us.find? (fun z => z.store == y.store) with
            | some z => { y with publish := some q.1, va := z.va, maker := none }
            | none => y) }
          u.modMsg m.id (fun x => { x with waits := some q.1, acks := if m.scope = .system then [24, 25] else [] })) s

/-- DISCARD (R222): the understudies of the range are dropped, each with its mapping record (R230). -/
def execDiscard (s : State) : Out :=
  engineEvent (fun m t =>
    if State.swapBad m then t.endMsg m 0x3F 0
    else match t.studiesIn m with
    | .error u => u
    | .ok us =>
      let keep := (t.ctx m.ctx).undo.on
      let drop (x : State) (u : Understudy) : State :=
        let y := (x.settleStore u).swapRecord m.ctx u.va
        let l := if keep then update (fun z => z.store == u.store) (fun z => { z with state := .discarded, va := u.va, since := y.nextId }) none y.understudies
          else y.understudies.filter (fun z => z.store != u.store)
        { y with nextId := y.nextId + 1, understudies := l }
      (us.foldl drop t).endMsg m 0 0) s

/-! ### Streams, preloads, migrations, marks (R225 to R227) -/

/-- ISTREAM (R225): the generator of an indirect-stream node of the sending page started for the message's tag. -/
def execIstream (s : State) : Out :=
  engineEvent (fun m t =>
    let n := m.op 0
    match t.page? m.page with
    | none => t.endMsg m 0x3F 0
    | some p =>
      if 8 ≤ n ∨ 2 ^ 32 ≤ m.op 1 ∨ p.nmem ≤ n ∨ (p.desc n).nkind ≠ 3 then t.endMsg m 0x3F 0
      else
        let table : Option DWord := if m.op 2 = 0 then none else m.opnds[2]?
        (t.startGen m.page n m.tag (m.op 1) table m.dep).endMsg m 0 0) s

/-- PRELOAD (R226): pages of a resident graph into the configuration cache of the sender's die. -/
def execPreload (s : State) : Out :=
  engineEvent (fun m t =>
    let gid : Word := ((m.opnds[0]?).getD 0).extractLsb' 0 32
    let lpn := m.op 1 % 2 ^ 12
    let n := m.op 2
    match t.graph? m.ctx.part gid with
    | none => t.endMsg m 0x3F 0
    | some g =>
      if n = 0 ∨ 256 < n ∨ Memory.readNat g.header 4 2 < lpn + n then t.endMsg m 0x3F 0
      else
        ((List.range n).foldl (fun (u : State) i => u.cacheImage (m.region / 32) m.ctx.part gid (lpn + i) true) t).endMsg m 0 0) s

namespace State

/-- The stage-2 leaf of a guest-physical address: its place and its entry. -/
def stage2Leaf (s : State) (gpa : Nat) : Nat → Nat → Nat → Nat → Option (Nat × Nat × Nat)
  | 0, _, _, _ => none
  | n + 1, base, upper, lower =>
    let at_ := base + 8 * (gpa / 2 ^ lower % 2 ^ (upper - lower))
    let e := s.viewNat .dram none at_ 8
    match tableEntry false lower e with
    | .table b u l => s.stage2Leaf gpa n b u l
    | .leaf raw size => some (at_, raw, size)
    | _ => none

/-- The place, entry and page size of a partition's stage-2 leaf. -/
def leafOf (s : State) (part gpa : Nat) : Option (Nat × Nat × Nat) :=
  let r := (s.part part).s2root.toNat
  if r % 2 = 0 then none else s.stage2Leaf gpa 16 (r / 8192 * 8192) 64 54

/-- Everything of a device-memory frame moved to another: its bytes and its understudies, the accesses that wait for it
and what the homes hold of it. No value changes (R226, R335). DEDUCED (log 75), unsafe. -/
def moveFrame (s : State) (old new : Nat) : State :=
  let stores := (old :: (s.understudies.filter (fun u => u.space == .dram && u.frame == old)).map Understudy.store).eraseDups
  let mvStore (f : Nat) : Nat := if stores.contains f then new + (f - old) else f
  let mv (sp : Space) (a : Nat) : Nat := if sp = .dram then mvStore (a / 4096) * 4096 + a % 4096 else a
  let copy (t : State) (f : Nat) : State :=
    t.setMem .dram (Memory.writeBytes t.dram (mvStore f * 4096) (s.viewBytes .dram none (f * 4096) 4096))
  let s1 := stores.foldl copy s.writeBackAll
  let d := s1.dev
  { s1 with
    reqs := s1.reqs.map (fun r => { r with addr := mv r.space r.addr, home := homeOf r.space (mv r.space r.addr) })
    hist := s1.hist.map (fun w => { w with addr := mv w.space w.addr })
    seen := s1.seen.map (fun x => { x with addr := mv x.space x.addr })
    homeWrites := s1.homeWrites.map (fun w => { w with addr := mv w.space w.addr, home := homeOf w.space (mv w.space w.addr) })
    windows := s1.windows.map (fun w => { w with addr := mv w.space w.addr })
    fadds := s1.fadds.map (fun w => { w with addr := mv w.space w.addr, home := homeOf w.space (mv w.space w.addr) })
    walkCache := s1.walkCache.filter (fun e => bitsOf e.value 1 1 == 1 || e.value / 4096 != old)
    walks := s1.walks.map (fun w => match w.pos with
      | .entry pa false => { w with pos := .entry (mv .dram pa) false }
      | _ => w)
    tlb := s1.tlb.map (fun e => if !e.host && e.pa / 4096 == old && e.size == 4096 then { e with pa := new * 4096 } else e)
    understudies := s1.understudies.map (fun u => if u.space = .dram ∧ u.frame = old then
      { u with frame := new, store := mvStore u.store } else u)
    graphs := s1.graphs.map (fun g => { g with frames := g.frames.map (fun f => if f = old then new else f) })
    parts := s1.parts.map (fun p => { p with replicas := p.replicas.map (fun r => if r.1 = old then (new, r.2) else r) })
    dev := { d with suspect := d.suspect.map (fun x => if x.1 = .dram then (x.1, mvStore (x.2 / 64) * 64 + x.2 % 64) else x) } }

/-- A page moved to a free frame of a device: the leaf rewritten, the page invalidated, the vacated frame returned to the
placement list. None when it stays where it is: on the target already, in a larger leaf, still to be pulled, or with data that cannot
be corrected, which is written nowhere (R226, R231, R335, R340). -/
def migratePage (s : State) (c : CtxId) (va chan : Nat) : Option (Nat × State) :=
  match s.walkAll { id := s.nextId, ctx := c, va := va, use := .engineRead } 128 with
  | .error _ => none
  | .ok x =>
    let frame := x.pa / 4096
    let store := s.storeOf none .dram frame
    let bad (p : Space × Nat) : Bool := p.1 == .dram && p.2 / 64 == store
    if x.space ≠ .dram ∨ frame % 24 = chan ∨ (s.awaited c.part .dram x.pa false).isSome ∨ s.dev.poisoned.contains store ∨
        (s.dev.suspect ++ s.dev.failing).any bad then none
    else
      match s.leafOf c.part x.gpa, (s.part c.part).placement.find? (fun f => f % 24 == chan) with
      | some (at_, raw, 4096), some new =>
        let s0 := if (s.twinOf frame).any (fun w => w % 24 / 12 == chan / 12) then s.startCollapse c.part frame else s
        let s1 := s0.moveFrame frame new
        let s2 := s1.writeNatNow .dram at_ 8 (new * 4096 + raw % 4096)
        let s3 := s2.modPart c.part (fun p => { p with placement := p.placement.erase new ++ [frame] })
        some (s3.startInval { invalPart c.part with lo := x.gpa / 4096 * 4096, hi := x.gpa / 4096 * 4096 + 4096 })
      | _, _ => none

end State

/-- MIGRATE (R226, R231): one page of the range moved to the named channel; it completes when every page has been copied and
remapped. A translation fault waits for its owner, and an uncorrectable page fails the message. -/
def execMigrate (s : State) : Out :=
  engineEvent (fun m t =>
    let chan := m.op 1 % 32
    if m.op 0 % 4096 ≠ 0 ∨ m.op 2 % 4096 ≠ 0 ∨ 24 ≤ chan then t.endMsg m 0x3F 0
    else if ((m.waits.map (fun i => t.invals.any (fun v => v.id == i))).getD false) then t
    else if m.op 2 ≤ m.pos then t.endMsg m 0 0
    else
      let va := m.op 0 + m.pos
      match t.walkAll { id := t.nextId, ctx := m.ctx, va := va, use := .engineRead } 128 with
      | .error f => if f.pull.isSome then t else t.engineFault m va .engineRead f (State.engineMse m)
      | .ok x =>
        if (t.awaited m.ctx.part x.space x.pa false).isSome then t
        else
          let q := if x.space = .dram then t.unreadable m va .dram (t.storeOf none .dram (x.pa / 4096) * 4096) 4096 else (none, t)
          match q.1 with
          | some c => q.2.endMsg m c 0
          | none => match q.2.migratePage m.ctx va chan with
            | some (i, u) => u.modMsg m.id (fun y => { y with pos := m.pos + 4096, waits := some i })
            | none =>
              let u := q.2.modMsg m.id (fun y => { y with pos := m.pos + 4096, waits := none })
              if x.space = .dram ∧ x.pa / 4096 % 24 = chan then u else u.logEvent 0x17 0xC002 0x31) s

/-- LOGBOOK_MARK (R227, R367): two records, the number with tag and region, then the value. -/
def execLogbookMark (s : State) : Out :=
  engineEvent (fun m t =>
    let arb := 0x8000 + m.region
    (((t.logEvent 0x18 arb (m.seq + m.tag.toNat * 2 ^ 16 + m.region * 2 ^ 28)).logEvent 0x18 arb (m.op 0)).endMsg m 0 0)) s

/-- The place is a port buffer of the page (R229). -/
def Place.inPort : Place → Bool
  | .egress _ | .ingress _ => true
  | _ => false

/-- CENSUS_SWEEP (R229): the tokens of the tag in the partition counted in one sweep; one that moves between controllers
counts once, twice or not at all. -/
def execCensusSweep (s : State) : Out :=
  engineEvent (fun m t =>
    let tag : Tag := ((m.opnds[0]?).getD 0).extractLsb' 0 12
    let pages := t.pages.filter (fun p => p.key.ctx.part == m.ctx.part)
    let all := (pages.map (fun p => p.dyn.countTag tag)).foldl (· + ·) 0
    let moving := (pages.map (fun p => p.dyn.countPlaces Place.inPort tag)).foldl (· + ·) 0
    let n := all - moving + Config.sweepError t.free % (2 * moving + 1)
    ({ t with free := t.free + 1 } : State).endMsg m 0 (BitVec.ofNat 32 (min n 0xFFFFFFFF))) s

/-! ### Replies (R66, R219) -/

/-- The payload of a reply token (R66). -/
def replyPayload (m : Msg) : Word :=
  BitVec.ofNat 32 (m.seq + (if m.cause = 0 then 0 else 2 ^ 31 + m.cause % 128 * 2 ^ 24))

namespace State

/-- A reply has been delivered or discarded: the message is over, unless its publication still drains. -/
def replied (s : State) (m : Msg) : State :=
  if s.msgDone m then { s with msgs := s.msgs.filter (fun x => x.id != m.id) }
  else s.modMsg m.id (fun x => { x with phase := 4 })

/-- A failure that no reply carries, by the path of its cause's class (R219, R346, R350): the owner's record, and the handler's trap
tokens unless the path is a translation cause's. No party stops: the SEND has fired. DEDUCED (log 76), unsafe. -/
def messageFault (s : State) (m : Msg) : State :=
  let k := m.page
  let p : Party := .actor k m.src.1 m.src.2
  let pay := (replyPayload m).setWidth 64
  let orig : FaultRec :=
    { cause := m.cause, info0 := pay, lreg := m.region, ctxid := ctxWord m.ctx, tag := m.tag, round := (s.ctx m.ctx).round % 2 ^ 32,
      ctx := some m.ctx }
  let s1 := s.post (if pathOf m.cause = .V2 then .hypervisor m.ctx.part else guestRing m.ctx) orig
  if pathOf m.cause = .V1 ∨ pathOf m.cause = .V2 ∨ !((s.page? k).map Page.hasHandler).getD false then s1
  else { s1 with traps := s1.traps ++
      [{ page := k, words := s.trapWords m.cause 0 p m.tag (replyPayload m), tag := m.tag, party := none, accepts := false
         round := s.roundOf k.ctx false }] }

/-- A failure that a reply carries, in the Logbook; the record of a cause that also takes path H notes itself (R346, R350, R367). -/
def noteReply (s : State) (m : Msg) : State :=
  if m.cause = 0 ∨ m.cause = 0x50 ∨ m.cause = 0x52 then s else s.noteCause 0x15 (0x8000 + m.region) m.cause (ctxWord m.ctx)

/-- The result of a SENDW: the reply payload and the result word (R216). -/
def replySendw (s : State) (m : Msg) (b i : Nat) : State :=
  let k := m.page
  match s.page? k, s.header? k b, s.firing? k b with
  | some p, some h, some f =>
    if !(f.waits.contains (i, .reply m.id)) then s.replied m
    else
      let ts := p.targets h i
      let t1 := (ts[0]?).getD .none
      let t2 := (ts[1]?).getD .none
      if !s.targetRoom k [t1, t2] then s
      else
        let s1 := ((s.noteReply m).replied m).modFiring k b (fun x => x.didFire i)
        (s1.deliverTo k b i false t1 .data f.tag { v := replyPayload m, dep := m.dep }).deliverTo k b i true t2 .data f.tag
          { v := m.result, dep := m.dep }
  | _, _, _ => s.replied m

end State

/-- ENGINE_REPLY (R217, R218, R219): the reply of a message that has been served reaches its destination; that of a
voided round or a frozen context is discarded. -/
def execEngineReply (s : State) : Out :=
  match s.cur with
  | some (.unit id) =>
    .next (match s.msg? id with
      | none => s
      | some m =>
        if m.phase ≠ 3 then s
        else if m.voided || (s.ctx m.ctx).frozen then s.replied m
        else if (s.page? m.page).isNone then (s.advise m.ctx 0x43 ((replyPayload m).setWidth 64) 0 m.tag).replied m
        else
          match m.sendw with
          | some (b, i) => s.replySendw m b i
          | none =>
            if m.rkind = 0 then (if m.cause = 0 then s else s.messageFault m).replied m
            else match s.deliverReply m.page (m.rkind != 1) m.rdst { kind := .data, tag := m.tag, pay := replyPayload m, dep := m.dep } m.region with
              | some t => (t.noteReply m).replied m
              | none => s)
  | _ => .fault .noParty

end Sys2Proof.Machine
end

