-- ==== Sys2Proof/Machine/Lattice.lean ====
section
/-!
DEFINITION. Work identifiers and coverage lattices (R377 to R385, R388 to R390): fields, lattice points, neighbours,
border and audit points, the infill kernels, the error metric and a step of the coverage controller; WID (R160).
-/
namespace Sys2Proof.Machine

/-! ### Fields of a work identifier (R377) -/

/-- Width of field `k`. -/
def LaunchRec.width (r : LaunchRec) (k : Nat) : Nat := (r.widths[k]?).getD 0
/-- Lowest bit of field `k`. -/
def LaunchRec.offset (r : LaunchRec) (k : Nat) : Nat := (r.widths.take k).foldl (· + ·) 0
/-- The sum of the widths. -/
def LaunchRec.total (r : LaunchRec) : Nat := r.widths.foldl (· + ·) 0
/-- Field `k` of an identifier. -/
def LaunchRec.field (r : LaunchRec) (v k : Nat) : Nat := bitsOf v (r.offset k) (r.width k)

/-- The highest field that wraps at an identifier and that the EOR mask names (R379). -/
def LaunchRec.wraps (r : LaunchRec) (v : Nat) : Option Nat :=
  ((List.range 6).filter (fun k =>
    bitsOf r.eorm k 1 == 1 && r.width k != 0 && v % 2 ^ (r.offset k + r.width k) == 2 ^ (r.offset k + r.width k) - 1)).getLast?

/-- The pairs of fields that PAIR names, in the order of its codes (R381). -/
def fieldPairs : List (Nat × Nat) := (List.range 6).flatMap (fun a => (List.range' (a + 1) (5 - a)).map (fun b => (a, b)))

/-! ### Lattices (R372, R381 to R383) -/

/-- The lattice of a frame: the captured kind, the coverage word's phase and audit rate, the header's CUSTOM field, the
plane's fields and the walk's range. -/
structure Plane where
  kind : Nat
  phase : Nat
  audit : Nat
  custom : List Int
  offA : Nat
  widthA : Nat
  offB : Nat
  widthB : Nat
  start : Nat
  limit : Nat
  deriving DecidableEq, Repr

/-- CUSTOM of a graph header: four generator entries and two offsets (R73). -/
def customOf (hdr : List Host.Cell) : List Int :=
  (List.range 6).map (fun i =>
    let n := Memory.readNat hdr (0x10 + 2 * i) 2
    if i < 4 then signedNat 16 n else (n : Int))

/-- The lattice of a launch record under a kind. -/
def planeOf (r : LaunchRec) (kind : Nat) (custom : List Int) : Plane :=
  let p := (fieldPairs[bitsOf r.cover 8 4]?).getD (0, 1)
  { kind := kind, phase := bitsOf r.cover 4 4, audit := bitsOf r.cover 0 4, custom := custom
    offA := r.offset p.1, widthA := r.width p.1, offB := r.offset p.2, widthB := r.width p.2
    start := r.start, limit := r.limit }

/-- A determinant of CUSTOM's generator (R382). -/
def customDet (c : List Int) : Int :=
  match c with
  | [g00, g01, g10, g11, _, _] => g00 * g11 - g01 * g10
  | _ => 0

/-- The point lies on CUSTOM's lattice: the generator's adjugate times the point is a multiple of its determinant
(R382). -/
def customPoint (c : List Int) (phase a b : Nat) : Bool :=
  match c with
  | [g00, g01, g10, g11, oa, ob] =>
    let x := (a : Int) - oa - phase
    let y := (b : Int) - ob
    let d := customDet c
    d != 0 && (g11 * x - g01 * y) % d == 0 && (g00 * y - g10 * x) % d == 0
  | _ => false

/-- The point (a, b) is computed under a kind (R382). -/
def latticePoint (kind phase a b : Nat) (custom : List Int) : Bool :=
  let p0 := bitsOf phase 0 1
  let p1 := bitsOf phase 1 1
  match kind with
  | 0 => true
  | 1 => !((a + p0) % 2 == 1 && (b + p1) % 2 == 1)
  | 2 => (a + b + phase) % 2 == 0
  | 3 => (b + phase) % 2 == 0
  | 4 => (a + 2 * b + phase) % 3 == 0
  | 5 => (a + p0) % 2 == 0 && (b + p1) % 2 == 0
  | 6 => (a + 3 * b + phase) % 8 == 0
  | _ => customPoint custom phase a b

namespace Plane

/-- Coordinates of an identifier in its plane. -/
def a (p : Plane) (v : Nat) : Nat := bitsOf v p.offA p.widthA
def b (p : Plane) (v : Nat) : Nat := bitsOf v p.offB p.widthB
/-- The identifier is a lattice point. -/
def point (p : Plane) (v : Nat) : Bool := latticePoint p.kind p.phase (p.a v) (p.b v) p.custom

/-- The lattice point at a distance in the same plane, within the walk's range (R383). -/
def at_ (p : Plane) (v : Nat) (d : Int × Int) : Option Nat :=
  let x : Int := p.a v + d.1
  let y : Int := p.b v + d.2
  if x < 0 ∨ y < 0 ∨ (2 ^ p.widthA : Nat) ≤ x ∨ (2 ^ p.widthB : Nat) ≤ y then none
  else
    let u : Int := v + d.1 * (2 ^ p.offA : Nat) + d.2 * (2 ^ p.offB : Nat)
    if (p.start : Int) ≤ u ∧ u < p.limit ∧ p.point u.toNat then some u.toNat else none

/-- The infill neighbours of a point: N, S, W, E, or with none of them NW, NE, SW, SE (R383). -/
def neighbours (p : Plane) (v : Nat) : List Nat :=
  let four := [(0, -1), (0, 1), (-1, 0), (1, 0)].filterMap (p.at_ v)
  if four.isEmpty then [(-1, -1), (1, -1), (-1, 1), (1, 1)].filterMap (p.at_ v) else four

/-- The lattice sets the point aside; a border point is computed (R383). -/
def skipped (p : Plane) (v : Nat) : Bool := !p.point v && !(p.neighbours v).isEmpty

/-- A skipped point with this skip number is an audit point (R372, R381). -/
def audited (p : Plane) (skip : Nat) : Bool := p.audit != 15 && skip % 2 ^ p.audit == 0

/-- How many points below an identifier are skipped: its skip number when it is skipped itself (R372). -/
def skipNumber (p : Plane) (v : Nat) : Nat := ((List.range' p.start (v - p.start)).filter p.skipped).length

end Plane

/-- The lattice of a frame (R374). -/
def State.planeOf (s : State) (f : Frame) : Plane :=
  Machine.planeOf f.lrec f.kind (customOf (((s.graph? f.ctx.part f.graph).map Graph.header).getD []))

/-! ### Infill (R384, R385) -/

/-- Width in bits of an output type. -/
def outWidth (ty : Nat) : Nat := if ty = 2 ∨ ty = 3 ∨ ty = 7 ∨ ty = 8 then 16 else if ty = 4 ∨ ty = 5 then 8 else 32

/-- The floating-point format of output types 6 to 8. -/
def outFmt (ty : Nat) : Fmt := if ty = 7 then Fmt.bf16 else if ty = 8 then Fmt.f16 else Fmt.f32

/-- A stored floating-point value as FP32; the decoding is exact and leaves a NaN as it is. -/
def decodeOut (ty v : Nat) : Nat := if ty = 6 then v else (convertLane (outFmt ty) Fmt.f32 0 false true v).1

/-- A quotient rounded half to even. -/
def meanEven (sum : Int) (n : Nat) : Int :=
  let q := sum / (n : Int)
  let r := 2 * (sum % (n : Int))
  if r < n then q else if (n : Int) < r then q + 1 else if q % 2 = 0 then q else q + 1

/-- A value of an integer output type. -/
def outInt (ty v : Nat) : Int := if ty % 2 = 0 then signedNat (outWidth ty) v else (v : Int)

/-- The most frequent value, the smallest of several (R384). DEDUCED (log 98), unsafe. -/
def modeOf (vs : List Nat) : Nat :=
  vs.foldl (fun m v =>
    let cm := (vs.filter (fun x => x == m)).length
    let cv := (vs.filter (fun x => x == v)).length
    if cm < cv ∨ (cm = cv ∧ v < m) then v else m) (vs.headD 0)

/-- The kernel's value of a skipped point from its neighbours' stored values (R384). -/
def infillValue (kernel ty : Nat) (vs : List Nat) : Nat × Flags :=
  if kernel = 1 then (vs.headD 0, Flags.none)
  else if kernel = 3 then (modeOf vs, Flags.none)
  else if 6 ≤ ty then
    let ds := vs.map (decodeOut ty)
    let add (acc : Nat × Flags) (x : Nat) : Nat × Flags :=
      let r := faddLane Fmt.f32 0 acc.1 x
      (r.1, acc.2.union r.2)
    let s := ds.tail.foldl add (ds.headD 0, Flags.none)
    let q := fdivLane Fmt.f32 0 s.1 (intToFloat Fmt.f32 0 vs.length).1
    let z := if ty = 6 then (q.1, Flags.none) else convertLane Fmt.f32 (outFmt ty) 0 false false q.1
    (z.1, (s.2.union q.2).union z.2)
  else satw (outWidth ty) true (meanEven ((vs.map (outInt ty)).foldl (· + ·) 0) vs.length)

/-- A stride of the record: a power of two, or 0 for the code 0x3F (R399). -/
def strideOf (c : Nat) : Nat := if c = 0x3F then 0 else 2 ^ c

/-- The infill position of a point: a × SA + b × SB + r × SO, r the other fields joined (R385). -/
def infillPos (r : LaunchRec) (p : Plane) (v : Nat) : Nat :=
  let pr := (fieldPairs[bitsOf r.cover 8 4]?).getD (0, 1)
  let join (acc : Nat × Nat) (k : Nat) : Nat × Nat :=
    if k = pr.1 ∨ k = pr.2 then acc else (acc.1 + r.field v k * 2 ^ acc.2, acc.2 + r.width k)
  let rest := ((List.range 6).foldl join (0, 0)).1
  p.a v * strideOf r.sa + p.b v * strideOf r.sb + rest * strideOf r.so

/-! ### The error metric and the controller (R374, R388 to R390) -/

/-- The sums behind one audit point (R388). -/
def auditSums (kernel ty computed interp : Nat) (sums : Nat × Nat) : Nat × Nat :=
  if kernel = 3 then (sums.1 + (if computed = interp then 0 else 1), sums.2 + 1)
  else
    let dec (v : Nat) : Nat := if ty < 6 then (intToFloat Fmt.f32 0 (outInt ty v)).1 else decodeOut ty v
    let c := dec computed
    let d := (fsubLane Fmt.f32 0 c (dec interp)).1
    ((faddLane Fmt.f32 0 sums.1 (Fmt.f32.mag d)).1, (faddLane Fmt.f32 0 sums.2 (Fmt.f32.mag c)).1)

/-- A sum divided by the number of audit points, rounded once (R388). -/
def meanOf (kernel n sum : Nat) : Nat :=
  if kernel = 3 then (roundTo Fmt.f32 0 false (dyDiv ⟨false, sum, 0⟩ ⟨false, n, 0⟩)).1
  else if Fmt.f32.isNan sum then Fmt.f32.quiet sum
  else if Fmt.f32.isInf sum then sum
  else (roundTo Fmt.f32 0 false (dyDiv (dyOf Fmt.f32 sum) ⟨false, n, 0⟩)).1

/-- The metric of an update (R388). -/
def metricOf (kernel n sd sc : Nat) : Nat := (fdivLane Fmt.f32 0 (meanOf kernel n sd) (meanOf kernel n sc)).1

/-- The sum of the computed values is zero, so that the update makes no step (R374). -/
def sumZero (kernel sc : Nat) : Bool := if kernel = 3 then sc == 0 else Fmt.f32.mag sc == 0

/-- One update of the controller's state of a graph: thresholds, count and HOLD of the context, and the bound (R390). -/
def Cover.update (v : Cover) (x : Context) (bound metric : Nat) : Cover :=
  let hold := x.covCtl.getLsbD 8
  let n := bitsOf x.covCtl.toNat 0 8
  let key (w : Nat) : Int := fcmpKey Fmt.f32 w
  let dst (l : Nat) : Nat := if hold then v.level else min l bound
  let m : Word := BitVec.ofNat 32 metric
  if Fmt.f32.isNan metric ∨ key x.covUp.toNat < key metric then
    { v with metric := m, below := 0, level := dst (if v.level = 7 then 0 else v.level - 1) }
  else if key metric < key x.covLo.toNat then
    if n ≠ 0 ∧ n ≤ v.below + 1 then
      { v with metric := m, below := 0, level := dst (if v.level < 6 ∧ v.level + 1 ≤ bound then v.level + 1 else v.level) }
    else { v with metric := m, below := v.below + 1 }
  else { v with metric := m, below := 0 }

/-- The bound of a context and a graph: the lower-ranked of COVFLOOR and COVCEIL; ranks are the kinds' numbers (R389). -/
def State.coverBound (s : State) (c : CtxId) (g : Word) : Nat :=
  min (bitsOf (s.part c.part).covFloor.toNat 0 4) (((s.graph? c.part g).map (fun x => Memory.readNat x.header 9 1)).getD 0)

/-! ### WID (R160) -/

/-- What a selector of WID gives for an identifier of a frame. -/
def widValue (s : State) (sel v : Nat) (f : Frame) : Nat :=
  let p := s.planeOf f
  if sel < 6 then f.lrec.field v sel
  else if sel = 6 then f.kind
  else if sel = 7 then (if f.kind = 0 ∨ p.point v then 1 else 0)
  else if f.kind ≠ 0 ∧ p.skipped v ∧ p.audited (p.skipNumber v) then 1 else 0

/-- The result of WID for the operands: a frame that is no longer there leaves the value open. -/
def widResult (s : State) (part sel : Nat) (g : Args) : Word × State :=
  match s.frame? ⟨part, g.tag⟩ with
  | some f => (BitVec.ofNat 32 (widValue s sel (g.a.v.toNat + g.b.v.toNat * 2 ^ 32) f), s)
  | none => (Config.freeWord s.free, { s with free := s.free + 1 })

/-- WID (R160): a field or a lattice property of the identifier that the two operands form. -/
def execWid (f : Form) (s : State) : Out :=
  runForm f s
    (fun e k x => fireElem false (fun _ _ => none) (fun g t =>
      let r := widResult t k.ctx.part (bitsOf e.x.toNat 0 4) g
      r.2.emitBoth k x e g.tag (g.val 2 r.1)) e k x s)
    (fun w k b i => fireBlock true true 0 (fun g t =>
      let r := widResult t k.ctx.part (bitsOf w.x.toNat 0 4) g
      r.2.give k b i w g.tag (g.val 2 r.1)) w k b i s)

end Sys2Proof.Machine
end

