-- ==== Sys2Proof/Machine/Launch.lean ====
section
/-!
DEFINITION. Launches (R162, R398 to R406, R409 to R412): launch records and their refusal, queues and the distributor,
tags, argument blocks; LAUNCH and CALL.
-/
namespace Sys2Proof.Machine

/-! ### Launch records (R399, R400) -/

/-- The record whose 64 bytes are the number (R399). -/
def LaunchRec.ofNat (v : Nat) : LaunchRec :=
  let widths := (List.range 6).map (fun k => bitsOf v (64 + 8 * k) 8)
  { gid := BitVec.ofNat 32 v
    prio := bitsOf v 32 3
    pv := bitsOf v 35 1 == 1
    eorm := bitsOf v 40 6
    cover := bitsOf v 48 16
    widths := widths
    prePage := bitsOf v 112 12
    preCount := bitsOf v 124 4
    start := bitsOf v 128 64
    limit := bitsOf v 192 64
    low := bitsOf v 256 16
    high := bitsOf v 272 16
    cval := BitVec.ofNat 32 (bitsOf v 288 32)
    caddr := BitVec.ofNat 64 (bitsOf v 320 64)
    argptr := BitVec.ofNat 64 (bitsOf v 384 64)
    infLpn := bitsOf v 500 12
    infNode := bitsOf v 497 3
    kernel := bitsOf v 495 2
    infType := bitsOf v 491 4
    so := bitsOf v 460 6
    sb := bitsOf v 454 6
    sa := bitsOf v 448 6
    wellFormed := bitsOf v 36 4 == 0 && bitsOf v 46 2 == 0 && bitsOf v 466 25 == 0 && widths.all (fun w => decide (w ≤ 64)) &&
      bitsOf v 320 3 == 0 && bitsOf v 384 3 == 0 }

/-- The coverage word breaks R381 for a graph header. -/
def coverBad (r : LaunchRec) (hdr : List Host.Cell) : Bool :=
  let kind := bitsOf r.cover 12 4
  let det := (customDet (customOf hdr)).natAbs
  if kind = 0 then false
  else match fieldPairs[bitsOf r.cover 8 4]? with
    | none => true
    | some (a, b) => decide (7 < kind) || r.width a == 0 || r.width b == 0 || (kind == 7 && (det == 0 || decide (256 < det)))

/-- The infill fields break R384 or name a node that is not the graph's (R400). A record that names no kernel is not
checked, nor is the kernel of a type that the unit refuses. -/
def infillBad (r : LaunchRec) (g : Graph) : Bool :=
  let ty := r.infType
  let narrow := ty == 1 || ty == 3 || ty == 5
  if r.kernel = 0 then false
  else
    decide (12 ≤ ty) || (r.kernel == 2 && narrow) || (r.kernel == 3 && !narrow && decide (ty < 9)) ||
      match lookup r.infLpn g.pages with
      | none => true
      | some img => decide (imgNat img 8 1 ≤ r.infNode) || bitsOf (imgNat img (0x41 + 64 * r.infNode) 1) 0 2 != 3

/-- The Prompter accepts the record for a graph (R400). -/
def launchGood (r : LaunchRec) (g : Graph) : Bool :=
  let n := g.launchEntries.length
  r.wellFormed && decide (r.total ≤ 64) && decide (r.start < 2 ^ r.total) && decide (r.limit ≤ 2 ^ r.total) &&
    !coverBad r g.header && !infillBad r g &&
    r.low != 0 && decide (r.low < 2 ^ n) && decide (r.high < 2 ^ n) && (r.high == 0 || decide (32 < r.total)) &&
    (r.preCount == 0 || decide (r.prePage + r.preCount ≤ g.npage))

namespace State

/-- The resident graph of a record that is accepted. -/
def launchGraph (s : State) (part : Nat) (r : LaunchRec) : Option Graph :=
  match s.graph? part r.gid with
  | none => none
  | some g => if launchGood r g then some g else none

/-- The argument block of a record, when it names one, read with this ordering (R402, R404). -/
def argBlock (s : State) (c : CtxId) (d : Dep) (r : LaunchRec) (g : Graph) : Except XFault (Option (List DWord) × State) :=
  if r.argptr = 0 then .ok (none, s)
  else
    let one (acc : Except XFault (List DWord × State)) (i : Nat) : Except XFault (List DWord × State) :=
      match acc with
      | .error f => .error f
      | .ok l => match l.2.readVa c d (r.argptr.toNat + 8 * i) 8 with
        | .ok v => .ok (l.1 ++ [BitVec.ofNat 64 v.1], v.2)
        | .error f => .error f
    match (List.range g.ngarg).foldl one (.ok ([], s)) with
    | .ok l => .ok (some l.1, l.2)
    | .error f => .error f

/-- The controller's state of a graph, created at its first launch in the context (R389, R392). -/
def coverCreate (s : State) (c : CtxId) (r : LaunchRec) : State :=
  if (s.ctx c).covers.any (fun v => v.graph == r.gid) then s
  else
    let level := min (bitsOf r.cover 12 4) (s.coverBound c r.gid)
    s.modCtx c (fun x => { x with covers := x.covers ++ [{ graph := r.gid, level := level }] })

/-- The lattice kind that a frame captures (R374, R389): FULL when its word asks for FULL or it has no infill unit that
takes its output type (R371, R384). DEDUCED (log 97), unsafe. -/
def coverCapture (s : State) (c : CtxId) (r : LaunchRec) : Nat :=
  let level := (((s.ctx c).covers.find? (fun v => v.graph == r.gid)).map Cover.level).getD 0
  if bitsOf r.cover 12 4 = 0 ∨ r.kernel = 0 ∨ 9 ≤ r.infType then 0 else min level (s.coverBound c r.gid)

/-- A frame launched (R335, R373, R403, R405): the tag free longest, the graph's pages in the stage map, the captured kind, PRE's
pages signalled; none while no tag is free. The first frame of the graph in the context waits for its placement, no later one. -/
def launchFrame (s : State) (c : CtxId) (g : Graph) (f : Frame) (round : Nat) : Option (Tag × State) :=
  match (s.part c.part).tags with
  | [] => none
  | tag :: rest =>
    let s1 := ((s.modPart c.part (fun p => { p with tags := rest })).mapGraph c g).coverCreate c f.lrec
    let first := !(s.ctx c).placed.contains g.gid && !s.frames.any (fun x => x.ctx == c && x.graph == g.gid && x.placer)
    let f1 : Frame := { f with
      key := ⟨c.part, tag⟩
      kind := s1.coverCapture c f.lrec
      placer := first
      walk := if f.argBlock.isSome then .loadingArgs else if first then .placing else .running
      infill := { f.infill with pos := f.lrec.start }
      pos := f.lrec.start
      lastFire := s.cycle }
    let pre := (List.range f.lrec.preCount).map (fun i => (({ ctx := c, graph := g.gid, lpn := f.lrec.prePage + i } : PageKey), round))
    let s2 : State := { s1 with frames := s1.frames ++ [f1] }
    let s3 := s2.modPart c.part (fun p => { p with asked := p.asked ++ pre.filter (fun a => !p.asked.any (fun b => b.1 == a.1)) })
    some (tag, s3.logEvent 0x11 0xC002 (tag.toNat + (ctxWord c).toNat % 2 ^ 16 * 2 ^ 12))

end State

/-! ### LAUNCH and CALL (R162) -/

/-- A device-side launch from the record of a listen slot; the child's tag, or 0x8000_0000 when it is refused. It waits
while the partition has no free tag, and behind the queue launches that wait (R406). DESIGN CHOICE (log 147), unsafe. -/
def launchBlock (call : Bool) (w : Blk) (s : State) : Out :=
  runBlk s (fun k b i => fireBlock false false 0 (fun g t =>
    match t.slotAt k b (handleOf w) (offsetOf w) with
    | none => t
    | some x =>
      let r := LaunchRec.ofNat ((List.range 16).foldl (fun n j => n + (x.word j).toNat * 2 ^ (32 * j)) 0)
      let c := k.ctx
      let dep := x.dep.join g.dep
      let refuse : State :=
        let q := Config.freeWord t.free
        let u : State := { t with free := t.free + 1 }
        (u.advise c 0x4A (q.setWidth 64) (r.gid.setWidth 64) g.tag).give k b i w g.tag { v := 0x80000000, dep := dep }
      match t.launchGraph c.part r with
      | none => refuse
      | some gr =>
        match t.argBlock c dep r gr with
        | .error f => if f.pull.isSome then t else refuse
        | .ok (args, t) =>
          if !(t.part c.part).tagWaiters.isEmpty then t
          else
            let round := t.roundOf c (t.behindCut (.actor k b i))
            let parent := t.frame? ⟨c.part, g.tag⟩
            let f : Frame :=
              { key := ⟨c.part, 0⟩
                ctx := c
                graph := gr.gid
                lrec := r
                prio := if r.pv then r.prio else (parent.map Frame.prio).getD 0
                parent := some (k, if call then bitsOf w.imm.toNat 0 6 else 0x3F, g.tag)
                call := call
                inh := w.md.getLsbD 0
                launchedIn := some round
                argBlock := args
                dep := dep }
            match t.launchFrame c gr f round with
            | none => t
            | some (tag, u) => u.give k b i w g.tag { v := tag.setWidth 32, dep := dep }) w k b i s)

/-- LAUNCH (R162): a frame of a graph in the caller's context; the child's tag. -/
def execLaunch (b : Blk) (s : State) : Out := launchBlock false b s
/-- CALL (R162): a launch whose completion sends the completion value to a page channel of the calling page. -/
def execCall (b : Blk) (s : State) : Out := launchBlock true b s

/-! ### Queues (R398, R402, R424) -/

/-- Bits of QCTL (R398). -/
def Queue.enabled (q : Queue) : Bool := q.ctl.getLsbD 31
def Queue.stopped (q : Queue) : Bool := q.ctl.getLsbD 30
def Queue.size (q : Queue) : Nat := 2 ^ bitsOf q.ctl.toNat 23 4
def Queue.prio (q : Queue) : Nat := bitsOf q.ctl.toNat 16 3

namespace State

/-- A queue of a guest; one never touched has its reset values. -/
def queue (s : State) (g : GuestId) (n : Nat) : Queue := ((s.guest g).queues.find? (fun q => q.num == n)).getD { num := n }
/-- A queue changed. -/
def modQueue (s : State) (g : GuestId) (n : Nat) (f : Queue → Queue) : State :=
  s.modGuest g (fun x => { x with queues := update (fun q => q.num == n) f (some (f { num := n })) x.queues })
/-- The context that a queue names. -/
def queueCtx (g : GuestId) (q : Queue) : CtxId := { part := g.part, guest := g.slot, num := bitsOf q.ctl.toNat 0 16 }

/-- An advisory record to a guest about a queue, in the name of the queue's context when it exists. -/
def adviseQueue (s : State) (g : GuestId) (q : Queue) (cause : Nat) (info0 info1 : DWord) : State :=
  let c := queueCtx g q
  if (s.ctx c).exist then s.advise c cause info0 info1 0xFFF
  else s.post (.guest g) { cause := cause, info0 := info0, info1 := info1, flags := 0x80, advisory := true }

/-- A queue stops with STOPPED set and 0x4D (R398, R402). -/
def stopQueue (s : State) (g : GuestId) (n : Nat) : State :=
  let q := s.queue g n
  (s.modQueue g n (fun x => { x with ctl := x.ctl ||| 0x40000000 })).adviseQueue g q 0x4D (BitVec.ofNat 64 n)
    (BitVec.ofNat 64 (q.head.toNat % q.size))

end State

/-- What the distributor finds at the head of a queue. -/
inductive QueueLook where
  /-- Nothing to take. -/
  | idle
  /-- The queue is malformed, or its ring cannot be read: it stops. -/
  | stop
  /-- A presented record: its context, and where it lies. -/
  | present (c : CtxId) (sp : Space) (a : Nat)
  deriving DecidableEq

namespace State

/-- The head of a queue, found by the translation of its ring; one that the record cache holds waits for no memory (R398, R402, R428).
DEDUCED (log 90), unsafe. -/
def lookQueue (s : State) (g : GuestId) (q : Queue) : QueueLook :=
  let c := queueCtx g q
  let x := s.ctx c
  if !q.enabled || q.stopped || q.waiting.isSome || q.shown == q.head then .idle
  else if q.size < (q.shown - q.head).toNat ∨ !x.exist then .stop
  else if x.frozen || x.suspended then .idle
  else
    let base := q.base.toNat / 64 * 64
    let va := base + 64 * (q.head.toNat % q.size)
    match (q.pages[va / 4096 - base / 4096]?).join with
    | none => .stop
    | some (sp, f) =>
      let pa := f * 4096 + va % 4096
      if !q.cache.contains (q.head.toNat % q.size) && (s.awaited c.part sp pa false).isSome then .idle
      else .present c sp (s.backed none sp pa)

/-- What the Prompter's accesses for a queue are ordered after: the writes that the notifies it has taken have acquired (R402). -/
def queueDep (q : Queue) : Dep := { know := q.known }

/-- The order of the notify that presented a queue's head record (R412). DEDUCED (log 92), unsafe. -/
def noteOrder (s : State) (q : Queue) : Nat :=
  match q.notes.find? (fun n => let d := (n.2 - q.head).toNat; decide (0 < d ∧ d < 2 ^ 31)) with
  | some n => n.1
  | none => s.nextNotify

/-- A record refused (R400): HEAD advances, a failing word at CADDR, an advisory record. A word that cannot be stored yet holds the
record back, a fault of its address until the owner has resolved it (R231, R331). -/
def refuseRecord (s : State) (g : GuestId) (n : Nat) (c : CtxId) (r : LaunchRec) : State :=
  let gone (t : State) : State :=
    let u := t.modQueue g n (fun q => { q with head := q.head + 1, waiting := none, tagWait := false })
    u.adviseQueue g (u.queue g n) 0x4A (BitVec.ofNat 64 n) (r.gid.setWidth 64)
  if r.caddr = 0 then gone s
  else match s.storeReleased c 0xFF (s.ctx c).round 0xFFF r.caddr.toNat (completionWord 0x4A 0xFFF r.cval) with
    | .ok t => gone t.2
    | .error f => s.deviceFault c r.caddr.toNat .write f

/-- A selected record bound to a tag (R402, R403, R406): HEAD advances and the frame begins, ordered after what the notify acquired; a
graph that has left since the selection refuses it. -/
def bindRecord (s : State) (g : GuestId) (n : Nat) (c : CtxId) (r : LaunchRec) (args : Option (List DWord)) (prio : Nat) : Option State :=
  match s.launchGraph c.part r with
  | none => some (s.refuseRecord g n c r)
  | some gr =>
    let f : Frame := { key := ⟨c.part, 0⟩, ctx := c, graph := gr.gid, lrec := r, prio := prio, queue := some n, argBlock := args
                       dep := queueDep (s.queue g n) }
    match s.launchFrame c gr f 0 with
    | none => none
    | some (_, t) => some (t.modQueue g n (fun q => { q with head := q.head + 1, waiting := none, tagWait := false }))

/-- The distributor takes a presented record (R402, R403, R406). -/
def takeRecord (s : State) (g : GuestId) (n : Nat) (c : CtxId) (r : LaunchRec) (prio : Nat) : State :=
  match s.launchGraph c.part r with
  | none => s.refuseRecord g n c r
  | some gr =>
    match s.argBlock c (queueDep (s.queue g n)) r gr with
    | .error f => if f.pull.isSome then s else s.stopQueue g n
    | .ok (args, s1) =>
      match (if (s1.part c.part).tagWaiters.isEmpty then s1.bindRecord g n c r args prio else none) with
      | some t => t
      | none => (s1.modQueue g n (fun q => { q with waiting := some (r, args, prio, s1.cycle) })).modPart c.part (fun p =>
          { p with tagWaiters := p.tagWaiters ++ [(g.slot, n)] })

/-- A record read with the ordering that the notify acquired; one written without a release may be read partly old (R402). -/
def readRecord (s : State) (q : Queue) (sp : Space) (a : Nat) : LaunchRec × State :=
  let r := s.readMany (queueDep q) sp a 64 (wordsOf a 64)
  (LaunchRec.ofNat (wordOfBytes r.1), r.2)

/-- The records that queues present: queue, context, record, priority, notify order (R402, R412). -/
def presentedRecords (s : State) (g : GuestId) : List Queue → List (Nat × CtxId × LaunchRec × Nat × Nat) × State
  | [] => ([], s)
  | q :: rest =>
    match s.lookQueue g q with
    | .present c sp a =>
      let r := s.readRecord q sp a
      let l := r.2.presentedRecords g rest
      ((q.num, c, r.1, if r.1.pv then r.1.prio else q.prio, s.noteOrder q) :: l.1, l.2)
    | _ => s.presentedRecords g rest

/-- Passes before a selection (R411): a context that becomes runnable takes the least pass of the runnable ones. -/
def refreshPasses (s : State) (g : GuestId) (now : List CtxId) : State :=
  let was := s.ctxs.filter (fun x => now.contains x.id && x.runnable)
  let least := was.foldl (fun (m : Option Nat) x => some (match m with
    | some p => min p x.pass
    | none => x.pass)) none
  { s with ctxs := s.ctxs.map (fun x =>
      if x.id.part = g.part ∧ x.id.guest = g.slot then
        { x with
          runnable := now.contains x.id
          pass := if now.contains x.id && !x.runnable then least.getD x.pass else x.pass }
      else x) }

/-- One selection of a guest's distributor (R411, R412). -/
def selectRecord (s : State) (g : GuestId) : State :=
  if s.storeFull then s else
  let seen := s.presentedRecords g (s.guest g).queues
  let ps := seen.1
  let cs := (ps.map (fun p => p.2.1)).eraseDups
  let s1 := seen.2.refreshPasses g cs
  let lower (a b : CtxId) : Bool := decide ((s1.ctx a).pass < (s1.ctx b).pass) || ((s1.ctx a).pass == (s1.ctx b).pass && decide (a.num < b.num))
  match cs.foldl (fun (m : Option CtxId) x => match m with
      | some y => if lower x y then some x else m
      | none => some x) none with
  | none => s1
  | some c =>
    let before (x y : Nat × CtxId × LaunchRec × Nat × Nat) : Bool :=
      decide (y.2.2.2.1 < x.2.2.2.1) || (y.2.2.2.1 == x.2.2.2.1 && decide (x.2.2.2.2 < y.2.2.2.2))
    match (ps.filter (fun p => p.2.1 == c)).foldl (fun (m : Option (Nat × CtxId × LaunchRec × Nat × Nat)) x => match m with
        | some y => if before x y then some x else m
        | none => some x) none with
    | none => s1
    | some p => (s1.modCtx c (fun x => { x with pass := x.pass + 2 ^ 20 / max 1 x.weight })).takeRecord g p.1 c p.2.2.1 p.2.2.2.1

/-- The launch of a guest that waits first for a tag takes one (R406). -/
def serveTagWaiter (s : State) (g : GuestId) : Option State :=
  match (s.part g.part).tagWaiters with
  | [] => none
  | (slot, n) :: rest =>
    if slot ≠ g.slot then none
    else
      let q := s.queue g n
      let s1 := s.modPart g.part (fun p => { p with tagWaiters := rest })
      match q.waiting with
      | none => some s1
      | some (r, args, prio, _) => s1.bindRecord g n (queueCtx g q) r args prio

end State

/-- NOTIFY (R305, R398, R402, R403): a notify reaches the Prompter's arbiter, which then knows the queue's tail; it acts for the Prompter
as FENCE.ACQ.SYSTEM. -/
def execNotify (s : State) : Out :=
  match s.cur with
  | some .device =>
    .next (match s.takeCtl 0x01 with
      | none => s
      | some (z, t) =>
        let g : GuestId := ⟨bitsOf z.operand 21 3, bitsOf z.operand 19 2⟩
        let n := bitsOf z.operand 13 6
        let tail := (t.queue g n).tail
        let u := t.modQueue g n (fun q => { q with
          shown := tail
          known := unionOf q.known q.told
          dirty := q.dirty ||| 0x80000000
          notes := (q.notes.filter (fun x => decide (0 < (x.2 - q.head).toNat ∧ (x.2 - q.head).toNat < 2 ^ 31))) ++ [(t.nextNotify, tail)] })
        ({ u with nextNotify := u.nextNotify + 1 } : State).logEvent 0x10 0xC002 z.operand)
  | _ => .fault .noParty

/-- QNOTIFY_WRITE (R398): the written tail, and the notify on its way to the Prompter (R80). -/
def execQnotifyWrite (s : State) : Out :=
  match s.cur with
  | some (.queueWrite g n v) =>
    .next ((s.modQueue g n (fun q => { q with tail := v })).sendCtl { code := 0x01, operand := g.part * 2 ^ 21 + g.slot * 2 ^ 19 + n * 2 ^ 13 })
  | _ => .fault .noParty

/-- DISTRIBUTOR_SELECT (R402, R403, R406, R409 to R412): a launch that waits for a tag, a queue that has to stop, or one
selection of a guest in its slice. -/
def execDistributorSelect (s : State) : Out :=
  match s.cur with
  | some (.guest g) =>
    let p := s.part g.part
    .next (match s.serveTagWaiter g with
      | some t => t
      | none =>
        match (s.guest g).queues.find? (fun q => decide (s.lookQueue g q = .stop)) with
        | some q => s.stopQueue g q.num
        | none => if p.slice = .running ∧ p.sliceGuest = g.slot ∧ !p.frozen ∧ !p.exporting then s.selectRecord g else s)
  | _ => .fault .noParty

/-- TAG_WAIT (R406): a launch that has waited 1 ms for a tag raises 0x4B once. -/
def execTagWait (s : State) : Out :=
  match s.cur with
  | some (.queue g n) =>
    let q := s.queue g n
    .next (match q.waiting with
      | some (_, _, _, since) =>
        if !q.tagWait && decide (since.toNat + 1000 * Config.cyclesPerMicrosecond ≤ s.cycle.toNat) then
          (s.modQueue g n (fun x => { x with tagWait := true })).adviseQueue g q 0x4B (BitVec.ofNat 64 n) 0
        else s
      | none => s)
  | _ => .fault .noParty

/-- ARG_BLOCK_LOAD (R404): the block's values through the argument network, a close requested, and the walker behind
its commit. -/
def execArgBlockLoad (s : State) : Out :=
  match s.cur with
  | some (.frame k) =>
    .next (match s.frame? k with
      | none => s
      | some f =>
        match f.walk, f.argBlock with
        | .loadingArgs, some vs =>
          let s1 := s.modGraph k.part f.graph (fun g =>
            { g with args := vs.zipIdx.foldl (fun (l : List (Nat × DWord)) v => assign v.2 v.1 l) g.args })
          (s1.requestClose f.ctx 5).modFrame k (fun x => { x with walk := .waitClose (s.nextClose f.ctx), argBlock := none })
        | _, _ => s)
  | _ => .fault .noParty

end Sys2Proof.Machine
end

