-- ==== Sys2Proof/Machine/Walker.lean ====
section
/-!
DEFINITION. The course of a frame (R335, R336, R377 to R380, R407, R413): the placement of a graph's streams, the block
walker, the counting of sinks, completion and the release of phases.
-/
namespace Sys2Proof.Machine

/-! ### Placement (R335, R336) -/

/-- What one node wants of one 4 KiB page: the frame, the page's address, whether the node writes, whether the leaf asks
for read duplication, and the target device. -/
structure Want where
  frame : Nat
  va : Nat
  writer : Bool
  rep : Bool
  chan : Nat
  deriving DecidableEq, Repr

namespace State

/-- The device of the MSE to which a node's stream port is wired (R327); a page that holds no region yet counts as in the
partition's first backed one. -/
def wiredDevice (s : State) (k : PageKey) (port : Nat) : Nat :=
  match (s.page? k).bind Page.region with
  | some _ => s.mseOf k port
  | none =>
    let l := (s.regionsOf k.ctx.part).headD 0
    let q := l / 4
    12 * (q / 8) + 3 * (q % 8 % 4) + (port + l % 4) % 3

/-- What a page of a node's range wants; none where a leaf is missing or the page is no device memory. The second part
says that the frame has a larger stage-2 leaf (R335). DEDUCED (log 95), unsafe. -/
def wantOf (s : State) (k : PageKey) (d : Desc) (va : Nat) : Option (Want × Bool) :=
  match s.walkAll { id := s.nextId, ctx := k.ctx, va := va, use := .engineRead } 128 with
  | .error _ => none
  | .ok x =>
    if x.space ≠ .dram then none
    else match s.leafOf k.ctx.part x.gpa with
      | none => none
      | some (_, raw, size) =>
        some ({ frame := x.pa / 4096, va := va, writer := d.canWrite || d.canAtomic, rep := bitsOf raw 11 1 == 1
                chan := s.wiredDevice k d.sport }, size != 4096)

/-- Everything that the nodes of a graph want, in LPN and node order. -/
def placeWants (s : State) (c : CtxId) (g : Graph) : List (Want × Bool) :=
  g.mainPages.flatMap (fun x =>
    let k : PageKey := { ctx := c, graph := g.gid, lpn := x.1 }
    match s.page? k with
    | none => []
    | some p => (List.range p.nmem).flatMap (fun n =>
        let d := p.desc n
        let b := s.nodeBase k d
        if (d.nkind = 2 ∨ d.nkind = 3) ∧ d.low < d.limit then
          (List.range ((b + d.limit + 4095) / 4096 - (b + d.low) / 4096)).filterMap (fun i => s.wantOf k d (((b + d.low) / 4096 + i) * 4096))
        else []))

/-- The frame of a page brought to a device; the invalidation to wait for, or a logged miss, as for a frame under a larger leaf
(R335). -/
def placeAt (s : State) (c : CtxId) (w : Want) (big : Bool) (chan : Nat) : List Nat × State :=
  if w.frame % 24 = chan then ([], s)
  else if big then ([], s.logEvent 0x17 0xC002 0x31)
  else match s.migratePage c w.va chan with
    | some (i, t) => ([i], t)
    | none => ([], s.logEvent 0x17 0xC002 0x31)

/-- A frame read-duplicated, when it lies on the device that it should: the twin is a free frame of the second device, and takes the
frame's bytes (R336, R337). DEDUCED (log 86), unsafe. -/
def duplicate (s : State) (c : CtxId) (w : Want) (chan : Nat) : State :=
  let primary := match s.walkAll { id := s.nextId, ctx := c, va := w.va, use := .engineRead } 128 with
    | .ok x => x.pa / 4096
    | .error _ => w.frame
  let p := s.part c.part
  match p.placement.find? (fun f => f % 24 == chan) with
  | some twin =>
    if p.replicas.length < 65536 ∧ !s.replicated c.part primary ∧ primary % 24 = w.chan then
      let t := s.writeBackAll
      let bs := t.viewBytes .dram none (t.storeOf none .dram primary * 4096) 4096
      (t.setMem .dram (Memory.writeBytes t.dram (twin * 4096) bs)).modPart c.part (fun p =>
        { p with placement := p.placement.erase twin, replicas := p.replicas ++ [(primary, twin)] })
    else s
  | none => s.logEvent 0x17 0xC002 0x31

/-- One frame placed as its nodes want it (R336). -/
def placeFrame (s : State) (c : CtxId) (big : Bool) (ws : List Want) : List Nat × State :=
  match ws with
  | [] => ([], s)
  | w :: _ =>
    match ws.find? Want.writer with
    | some x => s.placeAt c w big x.chan
    | none =>
      let r := s.placeAt c w big w.chan
      match ws.find? (fun x => x.chan / 12 != w.chan / 12) with
      | some x => if w.rep && !big then (r.1, r.2.duplicate c w x.chan) else r
      | none => r

/-- The placement of a graph's streams: the moves, and the invalidations they wait for. -/
def placeGraph (s : State) (c : CtxId) (g : Graph) : State :=
  let ws := s.placeWants c g
  let go (acc : List Nat × State) (f : Nat) : List Nat × State :=
    let of := ws.filter (fun w => w.1.frame == f)
    let r := acc.2.placeFrame c (of.any Prod.snd) (of.map Prod.fst)
    (acc.1 ++ r.1, r.2)
  let r := (ws.map (fun w => w.1.frame)).eraseDups.foldl go ([], s)
  r.2.modCtx c (fun x => { x with placing := x.placing ++ [(g.gid, r.1)] })

end State

/-- PLACEMENT (R335): the first frame of a graph in a context has its streams placed; it goes on when every
invalidation has completed. -/
def execPlacement (s : State) : Out :=
  match s.cur with
  | some (.graph c gid) =>
    let x := s.ctx c
    .next (if x.placed.contains gid then s
      else match lookup gid x.placing with
        | some ids =>
          if s.invals.any (fun v => ids.contains v.id) then s
          else s.modCtx c (fun y => { y with placing := y.placing.filter (fun p => p.1 != gid), placed := y.placed ++ [gid] })
        | none =>
          match s.graph? c.part gid with
          | some g => if s.frames.any (fun f => f.ctx == c && f.graph == gid && f.walk == .placing) then s.placeGraph c g else s
          | none => s)
  | _ => .fault .noParty

/-! ### The block walker (R378 to R380) -/

namespace State

/-- The debugger lets the device's own parts of a frame go on (R162, R365). -/
def frameFree (s : State) (f : Frame) : Bool :=
  let d := (s.ctx f.ctx).dbg
  s.ctxServed f.ctx && s.voidFree f.ctx && (s.unstepped f.ctx.part f.key.tag || d == .running || d == .stepping)

/-- The launch entries that a frame's masks name, of phase 0: page, port, low tokens, high tokens (R378, R413). -/
def walkPorts (s : State) (f : Frame) : List (PageKey × Nat × Bool × Bool) :=
  match s.graph? f.ctx.part f.graph with
  | none => []
  | some g => (g.launchEntries.zipIdx.filter (fun e => g.phaseOfPage e.1.1 == 0)).filterMap (fun e =>
      let lo := bitsOf f.lrec.low e.2 1 == 1
      let hi := bitsOf f.lrec.high e.2 1 == 1
      if lo || hi then some ({ ctx := f.ctx, graph := f.graph, lpn := e.1.1 }, e.1.2, lo, hi) else none)

/-- Tokens at ingress ports in one step: all of them, or none while a port or wing is full or a cue still has to enter ahead of them
(R249, R261, R378). -/
def deliverAll (s : State) (ts : List (PageKey × Nat × Token)) : Option State :=
  if ts.any (fun t => ((s.page? t.1).map (fun p => p.injects.contains t.2.1)).getD false) then none
  else ts.foldl (fun (acc : Option State) t => acc.bind (fun u => u.deliverAt t.1 t.2.1 (.tok t.2.2) false)) (some s)

/-- A token of the walker. -/
def walkTok (f : Frame) (kind : Kind) (pay : Nat) : Token :=
  { kind := kind, tag := f.key.tag, pay := BitVec.ofNat 32 pay, dep := f.dep }

/-- One identifier on every named port (R378). -/
def emitId (s : State) (f : Frame) (v : Nat) : Option State :=
  s.deliverAll ((s.walkPorts f).flatMap (fun e =>
    (if e.2.2.1 then [(e.1, e.2.1, walkTok f .data v)] else []) ++ (if e.2.2.2 then [(e.1, e.2.1, walkTok f .data (v / 2 ^ 32))] else [])))

/-- One step of a running walker (R379). -/
def walkTurn (s : State) (f : Frame) : State :=
  let ports := s.walkPorts f
  let p := s.planeOf f
  match f.eor with
  | some d =>
    match s.deliverAll (ports.map (fun e => (e.1, e.2.1, walkTok f .eor d))) with
    | some t => t.modFrame f.key (fun x => { x with eor := none })
    | none => s
  | none =>
    if f.lrec.limit ≤ f.pos then
      match s.deliverAll (ports.map (fun e =>
          (e.1, e.2.1, walkTok f .eos (f.sent * ((if e.2.2.1 then 1 else 0) + (if e.2.2.2 then 1 else 0)))))) with
      | some t => t.modFrame f.key (fun x => { x with walk := .done })
      | none => s
    else
      let v := f.pos
      let skip := f.kind != 0 && p.skipped v
      let on (t : State) (sent : Nat) : State := t.modFrame f.key (fun x =>
        { x with pos := v + 1, sent := f.sent + sent, skip := f.skip + (if skip then 1 else 0), eor := f.lrec.wraps v })
      if skip && !p.audited f.skip then on s 0
      else match s.emitId f v with
        | some t => on t 1
        | none => s

end State

/-- The walker begins a frame, and captures the level in force (R374). -/
def State.startWalk (s : State) (f : Frame) : State :=
  s.modFrame f.key (fun x => { x with walk := .running, kind := s.coverCapture f.ctx f.lrec })

/-- WALKER_EMIT (R335, R374, R378 to R380, R404): a frame's walker waits for its arguments' commit and for placement, then sends
one identifier, one EOR or the EOS. -/
def execWalkerEmit (s : State) : Out :=
  match s.cur with
  | some (.frame k) =>
    .next (match s.frame? k with
      | none => s
      | some f =>
        match f.walk with
        | .waitClose r =>
          if (s.ctx f.ctx).round ≤ r then s
          else if f.placer then s.modFrame k (fun x => { x with walk := .placing })
          else s.startWalk f
        | .placing => if (s.ctx f.ctx).placed.contains f.graph then s.startWalk f else s
        | .running => if s.frameFree f && !s.walkHeld f then s.walkTurn f else s
        | _ => s)
  | _ => .fault .noParty

/-! ### Completion (R407) -/

/-- The record names an infill unit that has work for the frame (R384, R386). -/
def Frame.infills (f : Frame) : Bool := f.kind != 0 && f.lrec.kernel != 0

/-- SINK_COUNTED (R80, R407): a sink has counted its EOS tokens for a frame. -/
def execSinkCounted (s : State) : Out :=
  match s.cur with
  | some .device =>
    .next (match s.takeCtl 0x0C with
      | none => s
      | some (z, t) =>
        match t.frame? ⟨z.part, z.tag⟩ with
        | none => t
        | some f =>
          let f1 : Frame := { f with sinks := if f.sinks.contains z.operand then f.sinks else f.sinks ++ [z.operand] }
          let q := t.fresh
          if f1.infill.order.isNone ∧ t.allCounted f1 then
            q.2.modFrame f.key (fun _ => { f1 with infill := { f1.infill with order := some q.1 } })
          else t.modFrame f.key (fun _ => f1))
  | _ => .fault .noParty

namespace State

/-- The completion of a frame asked for at the close of its context's round, with the seal of the closing window; a
completion word whose translation fails stops it first (R401, R407). DEDUCED (log 88), unsafe. -/
def askCompletion (s : State) (f : Frame) : State :=
  let c := f.ctx
  let r := s.nextClose c
  let bad := if f.lrec.caddr = 0 then none
    else match s.translate c .write f.lrec.caddr.toNat with
      | .ok x => s.writeStop c.part x
      | .error x => some x
  match bad with
  | some x =>
    if x.pull.isSome then s.deviceFault c f.lrec.caddr.toNat .write x
    else s.xlFault c f.lrec.caddr.toNat .write x 0 f.key.tag r false
  | none =>
    let s1 := s.modFrame f.key (fun y => { y with phaseOf := .closing r })
    (s1.modCtx c (fun y => { y with atClose := y.atClose ++ [(r, .complete f.key.tag), (r, .seal)] })).requestClose c 5

/-- The census of a frame has given a count (R275, R407): zero passes, unless a section is armed; the same nonzero count eight times is 0x40. DEDUCED (log 142), unsafe. -/
def censusAnswer (s : State) (f : Frame) (v : Word) : State :=
  if s.sectionArmed f then s.modFrame f.key (fun x => { x with phaseOf := .live, censusSame := 0 }) else
  let again (n : Nat) : State := s.modFrame f.key (fun x => { x with phaseOf := .live, censusSame := n, censusLast := v })
  if v = 0 then (s.modFrame f.key (fun x => { x with censusSame := 0 })).askCompletion f
  else if v = 0xFFFFFFFF then again 0
  else
    let n := if f.censusLast = v then f.censusSame + 1 else 1
    if 8 ≤ n then
      let r : FaultRec := { cause := 0x40, info0 := v.setWidth 64, ctxid := ctxWord f.ctx, tag := f.key.tag,
                            round := (s.ctx f.ctx).round % 2 ^ 32, ctx := some f.ctx }
      (s.modFrame f.key (fun x => { x with phaseOf := .strayHeld, censusSame := 0 })).post (guestRing f.ctx) r
    else again n

end State

/-- FRAME_COMPLETE (R162, R275, R407): sinks counted and infill delivered, no section armed, a census, and the completion at a
close; the reply tokens of the CALLs whose children have completed go to their pages. -/
def execFrameComplete (s : State) : Out :=
  match s.cur with
  | some .device => .next s.giveCallReplies
  | some (.frame k) =>
    .next (match s.frame? k with
      | none => s
      | some f =>
        if !s.frameFree f then s
        else match f.phaseOf with
          | .live =>
            if s.allCounted f && (!f.infills || f.infill.done) && !s.sectionArmed f && !s.storeFull then
              (s.modFrame k (fun x => { x with phaseOf := .census })).beginCensus k.part k.tag (some k) none |>.2
            else s
          | .census =>
            match s.censuses.find? (fun z => z.frame == some k) with
            | none => s.modFrame k (fun x => { x with phaseOf := .live })
            | some z =>
              let r := s.censusNext z.seq
              match r.2.1 with
              | some v => r.2.2.censusAnswer f v
              | none => r.2.2
          | _ => s)
  | _ => .fault .noParty

/-! ### Phases (R413) -/

namespace State

/-- A guest's pre-emption or a context's suspension asks a frame to stop at its next interval; a context that runs on after its slice
stops there too (R414, R415, R418, R423). -/
def holdAsked (s : State) (c : CtxId) : Bool :=
  let p := s.part c.part
  p.exporting || (p.sliceGuest == c.guest && p.slice != .running) || (s.ctx c).runsOn.isSome ||
    ((s.guest ⟨c.part, c.guest⟩).pendingCmds.head?.map (fun z =>
      (bitsOf z.1.toNat 24 8 == 1 || bitsOf z.1.toNat 24 8 == 3) && bitsOf z.1.toNat 0 16 == c.num)).getD false

/-- The pages of a phase of a frame's graph. DEDUCED (log 96), unsafe. -/
def phasePages (s : State) (f : Frame) (g : Graph) (ph : Nat) : List Page :=
  s.pages.filter (fun p => p.key.ctx == f.ctx && p.key.graph == f.graph && g.phaseOfPage p.key.lpn == ph)

/-- Nothing of the tag is left on a phase's pages, and what they issued has been performed (R413). -/
def phaseOver (s : State) (f : Frame) (ps : List Page) : Bool :=
  let tag := f.key.tag
  (f.phase != 0 || f.walk == .done) &&
    ps.all (fun p => p.dyn.countTag tag == 0 && p.dyn.actors.all (fun a => (a.firing.map Firing.tag) != some tag) &&
      !(p.dyn.island.phase != .idle && p.dyn.island.tag == tag) && p.dyn.nodes.all (fun n => n.gens.all (fun g => g.tag != tag || g.done))) &&
    s.reqs.all (fun r => r.tag != tag || r.phase == .done || r.phase == .given || !ps.any (fun p => p.key == r.issuer.page))

/-- A page of a finished phase leaves its region: a resident one is evicted, one that loads or is pending becomes Absent and leaves
the pending list (R413). -/
def finishPage (s : State) (p : Page) : State :=
  if p.placed then (if p.leads then s.evict p else s)
  else if p.st = .loading ∨ p.st = .pending then
    (s.modPage p.key (fun x => { x with st := .absent, region := none, signalled := false })).modPart p.key.ctx.part (fun x =>
      { x with pending := x.pending.filter (fun k => k != p.key), signals := x.signals.filter (fun k => k != p.key),
               asked := x.asked.filter (fun a => a.1 != p.key) })
  else s

/-- The next phase released: one data token and one EOS at each of its launch entries, ordered after every access of the
phase before; the finished pages leave their regions (R413). -/
def releasePhase (s : State) (f : Frame) (g : Graph) (ps : List Page) : State :=
  let dep := (s.nodeDeps.filter (fun x => x.tag == f.key.tag && ps.any (fun p => p.key == x.page))).foldl (fun d x => d.join x.dep) f.dep
  let ents := g.launchEntries.filter (fun e => g.phaseOfPage e.1 == f.phase + 1)
  let toks := ents.flatMap (fun e =>
    let k : PageKey := { ctx := f.ctx, graph := f.graph, lpn := e.1 }
    [(k, e.2, { walkTok f .data 0 with dep := dep }), (k, e.2, { walkTok f .eos 1 with dep := dep })])
  match s.deliverAll toks with
  | none => s
  | some t =>
    let t1 := t.modFrame f.key (fun x => { x with
      phase := f.phase + 1
      held := false
      infill := if f.infills then { x.infill with asked := x.infill.asked + 1 } else x.infill })
    let needed := t1.frames.any (fun x => x.ctx == f.ctx && x.graph == f.graph && decide (x.phase ≤ f.phase))
    if needed then t1
    else ps.foldl finishPage t1

end State

/-- PHASE_RELEASE (R80, R413, R414): the phase of a frame is over; the stage manager tells the Prompter so, which releases the next
one, or holds the frame at this interval. -/
def execPhaseRelease (s : State) : Out :=
  match s.cur with
  | some (.frame k) =>
    .next (match s.frame? k with
      | none => s
      | some f =>
        match s.graph? k.part f.graph with
        | none => s
        | some g =>
          let ps := s.phasePages f g f.phase
          let mine (z : Ctl) : Bool := z.code == 0x0A && z.ctx == some f.ctx && z.tag == k.tag
          let t : State := { s with ctl := s.ctl.filter (fun z => !mine z) }
          if g.phaseStarts.length ≤ f.phase ∨ !s.frameFree f ∨ !s.phaseOver f ps then t
          else if !s.ctl.any mine then
            s.sendCtl { code := 0x0A, tag := k.tag, operand := (f.phase + 1) % 16, ctx := some f.ctx, part := k.part }
          else if s.holdAsked f.ctx then t.modFrame k (fun x => { x with held := true })
          else
            let u := t.releasePhase f g ps
            if ((u.frame? k).map Frame.phase) = some f.phase then s else u)
  | _ => .fault .noParty

end Sys2Proof.Machine
end

