-- ==== Sys2Proof/Machine/Infill.lean ====
section
/-!
DEFINITION. The infill unit and the coverage controller (R373, R374, R384 to R391), COVGSTAT writes (R392), and the
Prompter's QUERY (R227).
-/
namespace Sys2Proof.Machine

namespace State

/-- The page of a frame's infill unit. -/
def infillPage (f : Frame) : PageKey := { ctx := f.ctx, graph := f.graph, lpn := f.lrec.infLpn }

/-- A frame has work for its infill unit (R373, R386, R387). -/
def infillWants (s : State) (f : Frame) : Bool :=
  f.infills && !f.infill.done && !f.infill.due && (decide (0 < f.infill.asked) || s.allCounted f)

/-- The unit of a frame's page is free for it: it serves no other frame, and none whose sinks finished earlier waits for
it (R386). -/
def infillTurn (s : State) (f : Frame) : Bool :=
  s.frames.all (fun x => x.key == f.key || infillPage x != infillPage f ||
    (!x.infill.active && !x.infill.due && x.infill.waitRound.isNone &&
      (match x.infill.order, f.infill.order with
        | some a, some b => !s.infillWants x || decide (b < a)
        | _, _ => true)))

/-- The sums of a frame's unit changed. -/
def modInfill (s : State) (k : FrameKey) (g : Infill → Infill) : State := s.modFrame k (fun f => { f with infill := g f.infill })

/-- One value of the frame's infill node read at an identifier's position: committed (R302, R373). None while the unit
has to wait, has stopped or its round is voided. -/
def infillRead (s : State) (f : Frame) (p : Plane) (v : Nat) : Option Nat × State :=
  let k := infillPage f
  let party : Party := .infill k
  let size := outWidth f.lrec.infType / 8
  let pos := infillPos f.lrec p v
  let round := s.roundOf k.ctx (s.behindCut party)
  match s.reachNode party f.lrec.infNode pos size false false f.key.tag round with
  | .wait t => (none, t)
  | .stop c t => (none, t.faultP c party f.key.tag (BitVec.ofNat 32 pos) f.lrec.infNode)
  | .gone t => (none, t)
  | .ready sp pa t => (some (t.viewNat sp none pa size), t)

/-- Several values, one after the other; none when one of them could not be read. -/
def infillReads (s : State) (f : Frame) (p : Plane) : List Nat → Option (List Nat) × State
  | [] => (some [], s)
  | v :: vs =>
    match s.infillRead f p v with
    | (none, t) => (none, t)
    | (some x, t) =>
      match t.infillReads f p vs with
      | (some xs, u) => (some (x :: xs), u)
      | (none, u) => (none, u)

/-- The kernel's value stored at a skipped point, its flags raised (R373, R384); false while it has not been performed. -/
def infillStore (s : State) (f : Frame) (p : Plane) (v : Nat) (x : Nat × Flags) : Bool × State :=
  let k := infillPage f
  let party : Party := .infill k
  let size := outWidth f.lrec.infType / 8
  let pos := infillPos f.lrec p v
  let round := s.roundOf k.ctx (s.behindCut party)
  match s.reachNode party f.lrec.infNode pos size true false f.key.tag round with
  | .wait t => (false, t)
  | .stop c t => (false, t.faultP c party f.key.tag (BitVec.ofNat 32 pos) f.lrec.infNode)
  | .gone t => (false, t)
  | .ready sp pa t =>
    let d : Desc := match t.page? k with
      | some g => g.desc f.lrec.infNode
      | none => ⟨0, 0, 0, 0, 0, 0, 0, []⟩
    let q := t.storeElem (t.who party f.key.tag f.dep) sp pa (baseIn ((t.dyn k).argsAt (t.behindCut party)) d + pos) (bytesOfWord size x.1)
    (true, (q.2.raiseFlags x.2 party f.key.tag (BitVec.ofNat 32 x.1)).touch k f.key.tag)

/-- The unit at the identifier at its position; false when it can go no further in this turn. -/
def infillStep (s : State) (f : Frame) : Bool × State :=
  let p := s.planeOf f
  let v := f.infill.pos
  let closed := f.infill.last || decide (v + 2 ^ p.offB + 2 ^ p.offA < f.pos)
  if f.lrec.limit ≤ v ∨ !closed then (false, s.modInfill f.key (fun i => { i with active := false, due := true }))
  else if !p.skipped v then (true, s.modInfill f.key (fun i => { i with pos := v + 1 }))
  else
    let audit := p.audited f.infill.skip
    let on (t : State) (g : Infill → Infill) : State := t.modInfill f.key (fun i => g { i with pos := v + 1, skip := f.infill.skip + 1 })
    match s.infillReads f p (if audit then p.neighbours v ++ [v] else p.neighbours v) with
    | (none, t) => (false, t)
    | (some xs, t) =>
      let y := infillValue f.lrec.kernel f.lrec.infType (if audit then xs.dropLast else xs)
      if audit then
        let r := auditSums f.lrec.kernel f.lrec.infType (xs.getLastD 0) y.1 (f.infill.sd, f.infill.sc)
        (true, on t (fun i => { i with sd := r.1, sc := r.2, n := f.infill.n + 1 }))
      else
        let r := t.infillStore f p v y
        if r.1 then (true, on r.2 id) else (false, r.2)

/-- Up to `n` identifiers of a frame in one turn of its unit. -/
def infillSteps (s : State) (k : FrameKey) : Nat → State
  | 0 => s
  | n + 1 =>
    match s.frame? k with
    | none => s
    | some f =>
      if !f.infill.active || f.infill.stopped then s
      else
        let r := s.infillStep f
        if r.1 then r.2.infillSteps k n else r.2

end State

/-- INFILL_START (R373, R386, R387): the unit of a page takes a frame: it requests a close and begins once that has
committed. DESIGN CHOICE (log 131), unsafe. -/
def execInfillStart (s : State) : Out :=
  match s.cur with
  | some (.frame k) =>
    .next (match s.frame? k with
      | none => s
      | some f =>
        if !s.frameFree f then s
        else match f.infill.waitRound with
          | some r => if r < (s.ctx f.ctx).round then s.modInfill k (fun i => { i with active := true, waitRound := none }) else s
          | none =>
            if s.infillWants f && !f.infill.active && s.infillTurn f then
              (s.modInfill k (fun i => { i with waitRound := some (s.nextClose f.ctx), last := s.allCounted f && f.infill.asked == 0 })).requestClose f.ctx 2
            else s)
  | _ => .fault .noParty

/-- INFILL_POINT (R373, R386, R387): up to four identifiers in walker order while the page is resident. -/
def execInfillPoint (s : State) : Out :=
  match s.cur with
  | some (.frame k) =>
    .next (match s.frame? k with
      | none => s
      | some f => if s.frameFree f && s.pageRuns (State.infillPage f) then s.infillSteps k 4 else s)
  | _ => .fault .noParty

/-- COVERAGE_UPDATE (R374, R387, R388, R390, R391): the sums of a pass reach the controller, once for each frame and
update instant. -/
def execCoverageUpdate (s : State) : Out :=
  match s.cur with
  | some (.frame k) =>
    .next (match s.frame? k with
      | none => s
      | some f =>
        let i := f.infill
        if !i.due || !s.frameFree f then s
        else
          let kern := f.lrec.kernel
          let again := decide (i.updates < f.updates)
          let steps := !again && i.n != 0 && !sumZero kern i.sc
          let bound := s.coverBound f.ctx f.graph
          let s1 := if steps then
              s.modCtx f.ctx (fun x => { x with covers := x.covers.map (fun v =>
                if v.graph = f.graph then v.update x bound (metricOf kern i.n i.sd i.sc) else v) })
            else s
          s1.modFrame k (fun x => { x with
            updates := if again then f.updates else f.updates + 1
            infill := { i with due := false, sd := 0, sc := 0, n := 0, updates := i.updates + 1, asked := i.asked - 1, done := i.last } }))
  | _ => .fault .noParty

/-- COVGSTAT_WRITE (R389, R392): the level of the selected graph, clamped, its below-count cleared; ignored without
state. -/
def execCovgstatWrite (s : State) : Out :=
  match s.cur with
  | some (.ctxWrite c v) =>
    let g := (s.ctx c).covGsel
    let level := min (bitsOf v.toNat 0 4) (s.coverBound c g)
    .next (s.modCtx c (fun x => { x with covers := x.covers.map (fun z => if z.graph = g then { z with below := 0, level := level } else z) }))
  | _ => .fault .noParty

/-- Free entries of a partition's wing pool: eight tokens for each free chunk (R227, R261). -/
def State.wingEntries (s : State) (part : Nat) : Nat := 8 * ((s.part part).wingChunks - s.wingUsed part)

/-- The lattice kind in force for a graph in a context (R227, R389). -/
def State.coverInForce (s : State) (c : CtxId) (g : Word) : Nat :=
  match (s.ctx c).covers.find? (fun v => v.graph == g) with
  | some v => min v.level (s.coverBound c g)
  | none => 0

/-- The result of QUERY for a selector (R227). -/
def queryResult (s : State) (m : Msg) (sel : Nat) : Option Nat :=
  let part := m.ctx.part
  match sel with
  | 0x00 => some (s.part part).tags.length
  | 0x01 => some (s.regionCount m.ctx)
  | 0x02 => some (bitsOf (s.ctx m.ctx).quota.toNat 0 16)
  | 0x03 => some (min (s.framesFree part) 0xFFFFFFFF)
  | 0x04 => some (min (s.wingEntries part) 0xFFFFFFFF)
  | 0x05 => some (s.coverInForce m.ctx m.page.graph)
  | 0x06 => some s.dev.fwver.toNat
  | 0x07 => some part
  | _ => none

/-- PROMPTER_QUERY (R227): the Prompter answers a QUERY; another selector fails with 0x3F. -/
def execPrompterQuery (s : State) : Out :=
  engineEvent (fun m t =>
    match queryResult t m (m.op 0 % 256) with
    | some v => t.endMsg m 0 (BitVec.ofNat 32 v)
    | none => t.endMsg m 0x3F 0) s

end Sys2Proof.Machine
end

