-- ==== Sys2Proof/Machine/Slices.lean ====
section
/-!
DEFINITION. Guests in their time slices and contexts on and off the fabric (R409, R410, R414 to R418): the slice, its
watchdog, region shrinks and unfolds, and the guest's SUSPEND, RESUME and SWITCH.
-/
namespace Sys2Proof.Machine

namespace State

/-! ### Time slices (R410, R414) -/

/-- The guest of a slot. -/
def guestAt (part slot : Nat) : GuestId := ⟨part, slot⟩

/-- Slot `n` takes slices, and its length in cycles (R410). -/
def sliceOn (p : Partition) (n : Nat) : Bool := ((p.gslice[n]?).getD 0).getLsbD 31
def sliceLen (p : Partition) (n : Nat) : Nat := bitsOf ((p.gslice[n]?).getD 0).toNat 0 17 * Config.cyclesPerMicrosecond

/-- A guest has a live frame or a presented record (R410). DEDUCED (log 93), unsafe. -/
def canRun (s : State) (part n : Nat) : Bool :=
  let g := guestAt part n
  sliceOn (s.part part) n &&
    (s.frames.any (fun f => f.ctx.part == part && f.ctx.guest == n) || (s.guest g).queues.any (fun q => match s.lookQueue g q with
        | .present _ _ _ => true
        | _ => false) ||
      (s.guest g).queues.any (fun q => q.waiting.isSome))

/-- The contexts of a guest. -/
def guestCtxs (s : State) (part n : Nat) : List Context := s.ctxs.filter (fun x => x.id.part == part && x.id.guest == n)

/-- An overrun charged to a guest's later slices (R414). DEDUCED (log 94), unsafe. -/
def charge (s : State) (part n cycles : Nat) : State :=
  s.modPart part (fun p => { p with owed := p.owed.zipIdx.map (fun x => if x.2 = n then x.1 + cycles else x.1) })

/-- Every live frame of a context is held or has completed (R414, R418). -/
def ctxYielded (s : State) (c : CtxId) : Bool := s.frames.all (fun f => f.ctx != c || f.held)

/-- A context of the guest whose slice ends still has to yield: not one that is off the fabric, frozen, or that runs on
(R414, R415). -/
def mustYield (x : Context) : Bool := x.exist && !x.frozen && !x.suspended && !x.parked && x.runsOn.isNone

/-- The slots that can run in the order of their turns, behind the slot of the last slice (R410). -/
def sliceOrder (s : State) (part : Nat) : List Nat :=
  let last := (s.part part).sliceGuest
  ((List.range 4).map (fun i => (last + 1 + i) % 4)).filter (s.canRun part)

/-- A slice begins: shortened by what the guest owes; its contexts come back with their saved pages (R414, R415). -/
def startSlice (s : State) (part n : Nat) : State :=
  let xs := s.guestCtxs part n
  let run := (xs.filterMap Context.runsOn).foldl (fun a t => a + (s.cycle.toNat - t.toNat)) 0
  let p := s.part part
  let owed := (p.owed[n]?).getD 0
  let s1 := s.modPart part (fun p => { p with
    slice := .running
    sliceGuest := n
    sliceEnd := s.cycle + BitVec.ofNat 64 (sliceLen p n - owed)
    yields := false
    owed := p.owed.zipIdx.map (fun x => if x.2 = n then run else x.1)
    watchFrom := s.cycle + BitVec.ofNat 64 (sliceLen p n - owed)
    watchdogRaised := false })
  let back (t : State) (x : Context) : State :=
    let u := t.modCtx x.id (fun y => { y with parked := false, runsOn := none })
    if x.suspended || x.frozen then u else u.restoreSaved x.id
  xs.foldl back s1

/-- The next slice, when some slot can run: a slot whose overrun takes its whole slice is passed over and owes the rest
(R414). -/
def chooseSlice (s : State) (part : Nat) : List Nat → State
  | [] => s
  | n :: rest =>
    let p := s.part part
    let owed := (p.owed[n]?).getD 0
    if owed < sliceLen p n then s.startSlice part n
    else (s.modPart part (fun p => { p with owed := p.owed.zipIdx.map (fun x => if x.2 = n then owed - sliceLen p n else x.1) })).chooseSlice part rest

/-- A running slice at its end, or asked to yield: renewed when no other slot can run (R410, R414). -/
def endSlice (s : State) (part : Nat) : State :=
  let p := s.part part
  if s.cycle.toNat < p.sliceEnd.toNat ∧ !p.yields then s
  else if (s.sliceOrder part).all (fun n => n == p.sliceGuest) ∧ sliceOn p p.sliceGuest then
    let e := s.cycle + BitVec.ofNat 64 (sliceLen p p.sliceGuest)
    s.modPart part (fun p => { p with sliceEnd := e, watchFrom := e, yields := false })
  else s.modPart part (fun p => { p with slice := .past, watchFrom := if p.yields then s.cycle else p.watchFrom })

/-- The guest has yielded: the rounds of its contexts are closed, and the overrun is charged (R414). -/
def yieldSlice (s : State) (part : Nat) : State :=
  let p := s.part part
  let xs := (s.guestCtxs part p.sliceGuest).filter mustYield
  if xs.all (fun x => s.ctxYielded x.id) then
    let rounds := xs.map (fun x => (x.id, s.nextClose x.id))
    let s1 := xs.foldl (fun (t : State) x => t.requestClose x.id 5) s
    (s1.charge part p.sliceGuest (s.cycle.toNat - p.sliceEnd.toNat)).modPart part (fun p => { p with slice := .closing rounds })
  else s

/-- The rounds of the yielded guest's contexts have closed: their pages are saved and the slice is given up (R414). A void on the way
puts frames back from their interval, and the close it took away is asked for again; a context that is gone or frozen holds
nothing up (R269, R317). -/
def leaveSlice (s : State) (part : Nat) (rounds : List (CtxId × Nat)) : State :=
  let held := rounds.filter (fun r => (s.ctx r.1).exist && !(s.ctx r.1).frozen)
  let waits := held.filter (fun r => decide ((s.ctx r.1).round ≤ r.2))
  if !waits.isEmpty || held.any (fun r => !s.ctxYielded r.1) || s.pages.any (fun p => p.key.ctx.part == part && armed p) then
    (waits.filter (fun r => (s.ctx r.1).close.isNone)).foldl (fun (t : State) r => t.requestClose r.1 5) s
  else
    let go (acc : List (CtxId × Nat) × State) (r : CtxId × Nat) : List (CtxId × Nat) × State :=
      let q := (acc.2.modCtx r.1 (fun x => { x with parked := true })).saveContext r.1
      if q.1 then (acc.1, q.2) else (acc.1 ++ [r], q.2)
    let q := (rounds.filter (fun r => (s.ctx r.1).exist)).foldl go ([], s)
    q.2.modPart part (fun p => { p with slice := if q.1.isEmpty then .idle else .closing q.1 })

/-- A context that runs on outside its slice has yielded: its pages are saved, and the continued run is charged (R415). -/
def endRunOn (s : State) (x : Context) : State :=
  match x.runsOn with
  | none => s
  | some t =>
    if !s.ctxYielded x.id || x.frozen then s
    else
      let q := (s.modCtx x.id (fun y => { y with parked := true, runsOn := none })).saveContext x.id
      if q.1 then q.2.charge x.id.part x.id.guest (s.cycle.toNat - t.toNat) else (s.saveContext x.id).2

end State

/-- SLICE_END (R410, R414): the course of a partition's time slices. -/
def execSliceEnd (s : State) : Out :=
  match s.cur with
  | some (.unit part) =>
    let s1 := (s.ctxs.filter (fun x => x.id.part == part)).foldl (fun (t : State) x => t.endRunOn x) s
    let p := s1.part part
    .next (if !p.exist || p.frozen then s
      else match p.slice with
        | .idle => s1.chooseSlice part (s1.sliceOrder part)
        | .running => s1.endSlice part
        | .past => s1.yieldSlice part
        | .closing rounds => s1.leaveSlice part rounds)
  | _ => .fault .noParty

/-- SLICE_WATCHDOG (R415): the overrun exceeds the partition's limit; every context that has not yielded is acted on at its
next round close. -/
def execSliceWatchdog (s : State) : Out :=
  match s.cur with
  | some (.unit part) =>
    let p := s.part part
    let due := decide (p.watchFrom.toNat + p.watchdog * Config.cyclesPerMicrosecond * 100 < s.cycle.toNat)
    .next (if decide (p.slice = .past) && !p.watchdogRaised && due then
        let xs := (s.guestCtxs part p.sliceGuest).filter (fun x => State.mustYield x && !s.ctxYielded x.id)
        let ask (t : State) (x : Context) : State :=
          (t.modCtx x.id (fun y => { y with atClose := y.atClose ++ [(t.nextClose x.id, .watchdog)] })).requestClose x.id 5
        (xs.foldl ask s).modPart part (fun p => { p with watchdogRaised := true })
      else s)
  | _ => .fault .noParty

/-! ### Region shrink and unfold (R416, R417) -/

namespace State

/-- The priority of a context: the highest of its live frames, or −1 (R412). -/
def ctxPrio (s : State) (c : CtxId) : Int :=
  (s.frames.filter (fun f => f.ctx == c)).foldl (fun (m : Int) f => max m (f.prio : Int)) (-1)

/-- The priority of a pending page: the highest of the live frames of its graph, or −1. -/
def pagePrio (s : State) (k : PageKey) : Int :=
  (s.frames.filter (fun f => f.ctx == k.ctx && f.graph == k.graph)).foldl (fun (m : Int) f => max m (f.prio : Int)) (-1)

/-- A shrink is on its way in the partition: asked for at a close, or its page still being saved. -/
def shrinking (s : State) (part : Nat) : Bool :=
  s.ctxs.any (fun x => x.id.part == part && x.atClose.any (fun a => match a.2 with
    | .shrink _ => true
    | _ => false)) ||
  s.pages.any (fun p => p.key.ctx.part == part && p.st == .stopping && p.giveTo.isSome)

/-- The pending pages for which a shrink is triggered (R416). -/
def shrinkFor (s : State) (part : Nat) : List PageKey :=
  if !(s.freeRegions part).isEmpty then []
  else (s.part part).pending.filter (fun k => decide (0 ≤ s.pagePrio k) && s.ctxServed k.ctx && decide (s.regionCount k.ctx < s.quotaMax k.ctx))

/-- The contexts of a guest below a priority, in the order in which a shrink takes them: lowest priority, highest pass,
lowest number (R416). -/
def shrinkOrder (s : State) (c : CtxId) (prio : Int) : List CtxId :=
  let xs := (s.guestCtxs c.part c.guest).filter (fun x => x.id != c && x.exist && !x.frozen && decide (s.ctxPrio x.id < prio))
  let le (a b : Context) : Bool :=
    decide (s.ctxPrio a.id < s.ctxPrio b.id) || (decide (s.ctxPrio a.id = s.ctxPrio b.id) &&
      (decide (b.pass < a.pass) || (a.pass == b.pass && decide (a.id.num ≤ b.id.num))))
  (sortBy le xs).map Context.id

/-- The first such page for which a context of lower priority can give a region, and that context (R416). -/
def shrinkPick (s : State) (part : Nat) : Option (PageKey × CtxId) :=
  (s.shrinkFor part).findSome? (fun k =>
    ((s.shrinkOrder k.ctx (s.pagePrio k)).find? (fun x => (s.shrinkFold x).isSome || (s.shrinkEvict x).isSome)).map (fun x => (k, x)))

end State

/-- REGION_SHRINK (R416): a page of higher priority is pending and no region is free; a context of the guest with lower
priority gives one at its next round close. -/
def execRegionShrink (s : State) : Out :=
  match s.cur with
  | some (.unit part) =>
    .next (if s.shrinking part then s
      else match s.shrinkPick part with
        | none => s
        | some (k, x) => (s.modCtx x (fun y => { y with atClose := y.atClose ++ [(s.nextClose x, .shrink k.ctx)] })).requestClose x 5)
  | _ => .fault .noParty

/-- PREEMPT_UNFOLD (R417): a group that a shrink has folded is unfolded at a round close, when the regions allow it and no
page of a frame with higher priority waits in the guest. -/
def execPreemptUnfold (s : State) : Out :=
  match s.cur with
  | some (.ctx c) =>
    let x := s.ctx c
    let asked := x.atClose.any (fun a => match a.2 with
      | .unfold _ _ _ => true
      | _ => false)
    let waits := (s.part c.part).pending.any (fun k => k.ctx.guest == c.guest && decide (s.ctxPrio c < s.pagePrio k))
    .next (match x.shrunk with
      | (g, lpn, level) :: _ =>
        if asked || waits || !s.ctxServed c || !(s.foldNow c g lpn level).1 then s
        else (s.modCtx c (fun y => { y with atClose := y.atClose ++ [(s.nextClose c, .unfold g lpn level)] })).requestClose c 5
      | [] => s)
  | _ => .fault .noParty

/-! ### Contexts on and off the fabric (R418) -/

namespace State

/-- Operation and context of a GCMD, and the context that GCARG names (R427). -/
def gcmdOp (z : Word × Word) : Nat := bitsOf z.1.toNat 24 8
def gcmdCtx (g : GuestId) (n : Word) : CtxId := { part := g.part, guest := g.slot, num := bitsOf n.toNat 0 16 }

/-- The command at the head of a guest's queue, when the guest runs and the command is of this operation. -/
def gcmdHead (s : State) (g : GuestId) (op : Nat) : Option (Word × Word) :=
  let p := s.part g.part
  match (s.guest g).pendingCmds with
  | z :: _ => if gcmdOp z = op ∧ p.slice = .running ∧ p.sliceGuest = g.slot ∧ !p.frozen then some z else none
  | [] => none

/-- The command at the head has completed; the guest gets vector 3 (R432). -/
def gcmdDone (s : State) (g : GuestId) : State :=
  (s.modGuest g (fun x => { x with pendingCmds := x.pendingCmds.drop 1 })).guestIrq g 3

/-- A context taken off the fabric: its pages saved, its regions freed; not yet while it is not at an interval or its save waits
for frames (R354). -/
def suspendNow (s : State) (c : CtxId) : Bool × State :=
  if !s.ctxYielded c then (false, s)
  else
    let q := (s.modCtx c (fun x => { x with suspended := true })).saveContext c
    if q.1 then q else (false, (s.saveContext c).2)

/-- A context brought back: its saved pages become pending. -/
def resumeNow (s : State) (c : CtxId) : State := (s.modCtx c (fun x => { x with suspended := false })).restoreSaved c

end State

/-- GUEST_SUSPEND (R418, R428): once every live frame of the context is held or done, its pages are saved and its regions
freed. -/
def execGuestSuspend (s : State) : Out :=
  match s.cur with
  | some (.guest g) =>
    .next (match s.gcmdHead g 0x01 with
      | none => s
      | some z =>
        let c := State.gcmdCtx g z.1
        if !(s.ctx c).exist then s.gcmdDone g
        else
          let q := s.suspendNow c
          if q.1 then q.2.gcmdDone g else q.2)
  | _ => .fault .noParty

/-- GUEST_RESUME (R418, R428): the context's saved pages become pending. -/
def execGuestResume (s : State) : Out :=
  match s.cur with
  | some (.guest g) =>
    .next (match s.gcmdHead g 0x02 with
      | none => s
      | some z =>
        let c := State.gcmdCtx g z.1
        if (s.ctx c).exist then (s.resumeNow c).gcmdDone g else s.gcmdDone g)
  | _ => .fault .noParty

/-- GUEST_SWITCH (R418, R428): one context saved and one restored, together. -/
def execGuestSwitch (s : State) : Out :=
  match s.cur with
  | some (.guest g) =>
    .next (match s.gcmdHead g 0x03 with
      | none => s
      | some z =>
        let a := State.gcmdCtx g z.1
        let b := State.gcmdCtx g z.2
        if !(s.ctx a).exist ∨ !(s.ctx b).exist then s.gcmdDone g
        else
          let q := s.suspendNow a
          if q.1 then (q.2.resumeNow b).gcmdDone g else q.2)
  | _ => .fault .noParty

end Sys2Proof.Machine
end

