-- ==== Sys2Proof/Machine/Scan.lean ====
section
/-!
DEFINITION. Scans and retirement (R228, R255, R394 to R396, R426, R440), and what the Prompter does with duplicated
frames and with frames that a partition still lacks (R338, R340).
-/
namespace Sys2Proof.Machine

namespace State

/-- A scan controller's work changed. -/
def modScan (s : State) (quad : Nat) (f : Scan → Scan) : State := { s with scans := update (fun c => c.quad == quad) f none s.scans }

/-- The physical region that backs a logical one (R254). -/
def physicalOf (s : State) (l : Nat) : Nat := bitsOf ((s.dev.cast[l]?).getD 0).toNat 24 7

/-- Pages that hold one of a scan's regions. -/
def scanHolders (s : State) (c : Scan) : List Page := s.pages.filter (fun p => (p.region.map c.held.contains).getD false)

/-- A scan ends with its results still to be written, these regions still held (R394, R395). -/
def scanOver (c : Scan) (cause : Nat) (held : List Nat) : Scan := { c with phase := 3, cause := cause, held := held }

/-- The signatures of a scan of these regions. -/
def scanSignatures (s : State) (c : Scan) (ls : List Nat) : List (Nat × DWord) :=
  ls.map (fun l => (l, Config.scanMeasured (s.physicalOf l) c.seed (s.free + l)))

/-- A pattern run ends (R394, R395): matching regions are returned, a suspect region's mismatch counts as its second. -/
def compareRun (s : State) (c : Scan) : State :=
  let sig := s.scanSignatures c c.held
  let bad := (sig.filter (fun x => x.2 != Config.scanExpected c.seed)).map Prod.fst
  let second := bad.filter s.dev.scanSuspects.contains
  let first := bad.filter (fun l => !s.dev.scanSuspects.contains l)
  let measured := sig.foldl (fun m x => assign (x.1 % 4) x.2 m) c.measured
  let c1 : Scan := { c with measured := measured, lasting := second, again := first, since := s.cycle }
  let c2 : Scan := if first.isEmpty then scanOver c1 (if second.isEmpty then 0 else 0x52) second else { c1 with phase := 2, held := second ++ first }
  let d := s.dev
  ({ s with free := s.free + 64, dev := { d with scanSuspects := d.scanSuspects.filter (fun l => !c.held.contains l) } } : State).modScan c.quad (fun _ => c2)

/-- A rescan ends (R394): a match is transient, a difference is lasting. The regions are returned with the report. -/
def compareAgain (s : State) (c : Scan) : State :=
  let sig := s.scanSignatures c c.again
  let good := (sig.filter (fun x => x.2 == Config.scanExpected c.seed)).map Prod.fst
  let bad := c.again.filter (fun l => !good.contains l)
  let lasting := c.lasting ++ bad
  let c1 : Scan := { c with measured := sig.foldl (fun m x => assign (x.1 % 4) x.2 m) c.measured, lasting := lasting, again := [] }
  let s1 : State := good.foldl (fun (t : State) _ => t.noteTransient (some c.part) 0xC002 0x5F) { s with free := s.free + 64 }
  s1.modScan c.quad (fun _ => scanOver c1 (if lasting.isEmpty then 0 else 0x52) c.held)

/-- The scan stopped by a claim (R395): every held region is returned, and one with an outstanding first mismatch is marked, among them
those whose pattern run has ended and is being compared. A slot whose scan had ended keeps its signature. DEDUCED (log 117), unsafe. -/
def abortScan (s : State) (c : Scan) : State :=
  let ran := c.phase = 1 ∧ c.since.toNat + 200 * Config.cyclesPerMicrosecond ≤ s.cycle.toNat
  let sig := if ran then s.scanSignatures c c.held else []
  let cut := if ran then [] else if c.phase = 2 then c.again else c.held
  let seen := sig.foldl (fun m x => assign (x.1 % 4) x.2 m) c.measured
  let c1 : Scan := { c with measured := cut.foldl (fun m l => assign (l % 4) (BitVec.allOnes 64) m) seen, lasting := [], again := [] }
  let marks := if ran then (sig.filter (fun x => x.2 != Config.scanExpected c.seed)).map Prod.fst else c.again ++ c.lasting
  let t : State := if ran then { s with free := s.free + 64 } else s
  let d := t.dev
  (({ t with dev := { d with scanSuspects := unionNat d.scanSuspects marks } } : State).modScan c.quad (fun _ => scanOver c1 0x49 [])).logEvent 0x17 0xC001 c.quad

/-- The result block: four entries of the expected and the measured signature (R228). -/
def scanBlock (c : Scan) : List Byte :=
  (List.range 4).flatMap (fun i => bytesOfWord 8 (Config.scanExpected c.seed).toNat ++ bytesOfWord 8 ((lookup i c.measured).getD 0).toNat)

/-- A region is to be retired: it stays held until its cast entry is rewritten. -/
def askRetire (s : State) (l : Nat) : State :=
  let d := s.dev
  { s with dev := { d with retiring := if d.retiring.contains l then d.retiring else d.retiring ++ [l] } }

/-- The report of a lasting mismatch to the hypervisor (R350, R394, R397). -/
def mismatchRec (s : State) (c : Scan) (l : Nat) : State :=
  let sig := (lookup (l % 4) c.measured).getD 0
  (s.healthIrq 0x52).post (.hypervisor c.part)
    { cause := 0x52, info0 := BitVec.ofNat 64 l, info1 := sig, lreg := l }

/-- The report phase: the result block written, where it can be (R74, R338, R340), with the seal of an engine's write to host memory (R230);
the reply due, the remaining regions returned or taken for retirement (R394, R426). -/
def scanReport (s : State) (m : Msg) (c : Scan) : State :=
  match s.engineXl m .engineWrite (m.op 2) false with
  | .wait t => t
  | .fail k t => t.endMsg m k 0
  | .ok x t =>
    match t.writeStop m.ctx.part x with
    | some f => t.engineStop m (m.op 2) f
    | none =>
      let t0 := if x.space = .host then t.modCtx m.ctx (fun y => { y with atClose := y.atClose ++ [(y.round, .engineSeal)] }) else t
      let t1 := t0.writeNow x.space (t0.backed (some (engineMse m)) x.space x.pa) (scanBlock c)
      let t2 := c.lasting.foldl (fun (u : State) l => (u.mismatchRec c l).askRetire l) t1
      ({ t2 with scans := t2.scans.filter (fun y => y.quad != c.quad) } : State).endMsg m c.cause 0

end State

/-- SCAN_TEST (R228, R394, R426): a TEST is checked and its regions are held; once its scans are over, its results are
written and the reply is due. A second TEST of the partition waits. DEDUCED (log 117), unsafe. -/
def execScanTest (s : State) : Out :=
  engineEvent (fun m t =>
    match t.scans.find? (fun c => c.msg == m.id) with
    | some c => if c.phase = 3 then t.scanReport m c else t
    | none =>
      let quad := m.region / 4
      let sel := ((List.range 4).filter (fun i => bitsOf (m.op 0) i 1 == 1)).map (fun i => 4 * quad + i)
      if sel.isEmpty || m.op 2 % 64 != 0 || sel.contains m.region then t.endMsg m 0x3F 0
      else if t.scans.any (fun c => c.part == m.ctx.part || c.quad == quad) then t
      else
        let c : Scan := { quad := quad, msg := m.id, part := m.ctx.part, ctx := m.ctx, seed := (m.opnds[1]?).getD 0, since := t.cycle, held := sel }
        ({ t with scans := t.scans ++ [c] } : State).logEvent 0x17 0xC001 quad) s

/-- SCAN_PHASE_END (R394): the vacate ends when no page holds a selected region; a pattern run or a rescan ends after
200 µs, and its signatures are compared. -/
def execScanPhaseEnd (s : State) : Out :=
  match s.cur with
  | some (.unit quad) =>
    .next (match s.scans.find? (fun c => c.quad == quad) with
      | none => s
      | some c =>
        let past := decide (c.since.toNat + 200 * Config.cyclesPerMicrosecond ≤ s.cycle.toNat)
        match c.phase with
        | 0 =>
          let ps := s.scanHolders c
          if ps.isEmpty then s.modScan quad (fun x => { x with phase := 1, since := s.cycle })
          else (ps.filter (fun p => s.eligible p)).foldl (fun (t : State) p =>
            if ((t.page? p.key).map Page.placed).getD false then t.evict p else t) s
        | 1 => if past then s.compareRun c else s
        | 2 => if past then s.compareAgain c else s
        | _ => s)
  | _ => .fault .noParty

/-- VACATE_DEADLINE (R394): 100 µs after the start of the vacate a region that still holds a page fails the TEST with 0x3F,
and every held region is returned. -/
def execVacateDeadline (s : State) : Out :=
  match s.cur with
  | some (.unit quad) =>
    .next (match s.scans.find? (fun c => c.quad == quad) with
      | none => s
      | some c =>
        if c.phase = 0 ∧ c.since.toNat + 100 * Config.cyclesPerMicrosecond ≤ s.cycle.toNat ∧ !(s.scanHolders c).isEmpty then
          let t : State := { s with scans := s.scans.filter (fun x => x.quad != quad) }
          match t.msg? c.msg with
          | some m => t.endMsg m 0x3F 0
          | none => t
        else s)
  | _ => .fault .noParty

/-- QUAD_CLAIM (R395, R412): a pending page of a priority-7 frame, whose context is below its maximum while every free
region of the partition is held by a TEST, stops the scan. -/
def execQuadClaim (s : State) : Out :=
  match s.cur with
  | some (.unit quad) =>
    .next (match s.scans.find? (fun c => c.quad == quad) with
      | none => s
      | some c =>
        let urgent := (s.part c.part).pending.any (fun k => decide (s.pagePrio k = 7) && s.ctxServed k.ctx && decide (s.regionCount k.ctx < s.quotaMax k.ctx))
        if c.phase < 3 ∧ urgent ∧ (s.freeRegions c.part).isEmpty then s.abortScan c else s)
  | _ => .fault .noParty

/-! ### Retirement (R255, R396, R426) -/

namespace State

/-- The spare of a quad: the physical region that backs none of its logical ones and is not retired. -/
def spareOf (s : State) (quad : Nat) : Option Nat :=
  ((List.range 5).map (fun i => 5 * quad + i)).find? (fun p =>
    !s.dev.retired.contains p && !((List.range 4).any (fun i => s.backedRegion (4 * quad + i) && s.physicalOf (4 * quad + i) == p)))

/-- The words of a line marked poisoned, and the line no more suspect nor failing (R357). -/
def poisonLine (s : State) (x : Space × Nat) : State :=
  let d := s.dev
  { s with dev := { d with
      suspect := d.suspect.filter (fun y => y != x)
      failing := d.failing.filter (fun y => y != x)
      poisonedWords := d.poisonedWords ++ (List.range 16).map (fun i => x.2 * 16 + i) } }

/-- The tiles copied to the spare: the words of a line that cannot be corrected are marked poisoned; a suspect line's read decides (R255,
R356, R357). -/
def copyTiles (s : State) (l : Nat) : State :=
  let mine (x : Space × Nat) : Bool := x.1 == .sram && x.2 * 64 / 2 ^ 22 == l
  let t := (s.dev.failing.filter mine).foldl poisonLine s
  (t.dev.suspect.filter mine).foldl (fun (t : State) x =>
    if Config.retrySucceeds t.free then
      ({ t with free := t.free + 1, dev := { t.dev with suspect := t.dev.suspect.filter (fun y => y != x) } } : State).eccTransient .sram (x.2 * 64)
    else ({ t with free := t.free + 1 } : State).poisonLine x) t

/-- Quota maxima above the partition's backed regions lowered to that number (R262, R426). -/
def lowerQuotas (s : State) (part : Nat) : State :=
  let n := (s.regionsOf part).length
  { s with ctxs := s.ctxs.map (fun x =>
      let hi := bitsOf x.quota.toNat 8 8
      if x.id.part = part ∧ n < hi then { x with quota := BitVec.ofNat 32 (n * 256 + min n (bitsOf x.quota.toNat 0 8)) } else x) }

/-- The cast entry of a retired region rewritten, and who is told of it (R254, R255, R396). -/
def rewriteCast (s : State) (l : Nat) : State :=
  let quad := l / 4
  let old := s.physicalOf l
  let t := s.copyTiles l
  let d := t.dev
  let owner := (t.parts.find? (fun p => p.exist && bitsOf p.quads quad 1 == 1)).map Partition.num
  let finish (entry : Word) : State := { t with dev := { d with
    cast := d.cast.set l entry
    retired := unionNat d.retired [old]
    retiring := d.retiring.filter (fun x => x != l)
    scanSuspects := d.scanSuspects.filter (fun x => x != l)
    repairWrites := d.repairWrites + 1
    repairFor := d.repairFor ++ owner.toList } }
  match t.spareOf quad with
  | some p =>
    let entry : Word := BitVec.ofNat 32 (2 ^ 31 + p * 2 ^ 24 + (d.shift[p]?).getD 8 % 16 * 2 ^ 20)
    let u := finish entry
    match owner with
    | none => u
    | some n =>
      let u1 := u.tellHyp n 0x57 (BitVec.ofNat 64 l) (BitVec.ofNat 64 p) none
      (u1.guests.filter (fun g => g.id.part == n)).foldl (fun (v : State) g => v.post (.guest g.id)
        { cause := 0x57, info0 := BitVec.ofNat 64 l, info1 := BitVec.ofNat 64 p, flags := 0x80, advisory := true }) u1
  | none =>
    let u := finish 0
    match owner with
    | none => u
    | some n => (u.tellHyp n 0x58 (BitVec.ofNat 64 l) 0 none).lowerQuotas n

end State

/-- REGION_RETIRE (R255, R396, R426): the region's page is evicted, once no section of it is armed, and returns to Pending; when
no page holds the region the tiles are copied, the cast entry is rewritten, and the retirement is recorded and reported. -/
def execRegionRetire (s : State) : Out :=
  match s.cur with
  | some (.unit l) =>
    .next (if !s.dev.retiring.contains l ∨ 64 ≤ l then s
      else
        match s.pages.find? (fun p => p.region == some l) with
        | none => s.rewriteCast l
        | some p =>
          if p.st = .stopping ∨ (s.ctx p.key.ctx).frozen then s
          else if p.st = .loading then
            ((State.evictGroup p).foldl (fun (t : State) k => t.modPage k (fun y => { y with st := .absent, region := none })) s).makePending p.key
          else if s.groupArmed p then s
          else
            let t := s.evict p
            if ((t.page? p.key).map Page.st) = some .stopping then t.makePending p.key else t)
  | _ => .fault .noParty

/-- REPAIR_MAP_WRITE (R350, R440): the older copy of the repair map has been written with the next sequence number; 0x5C with the sector
written, to the hypervisor of each partition whose region the write records. DEDUCED (log 119), unsafe. -/
def execRepairMapWrite (s : State) : Out :=
  match s.cur with
  | some .device =>
    let d := s.dev
    let t : State := { s with dev := { d with repairWrites := 0, repairFor := [], repairSeq := d.repairSeq + 1 } }
    .next (if d.repairWrites = 0 then s
      else if d.repairFor.isEmpty then t.healthIrq 0x5C
      else d.repairFor.eraseDups.foldl (fun u p => u.tellHyp p 0x5C (BitVec.ofNat 64 (0x200 + (d.repairSeq + 1) % 2)) 0 none) t)
  | _ => .fault .noParty

/-! ### Duplicated and missing frames (R338, R340) -/

/-- REPLICA_COLLAPSE (R338): every acknowledgement of the collapse is in; the twin returns to the placement list. -/
def execReplicaCollapse (s : State) : Out :=
  match s.cur with
  | some (.units part frame) =>
    .next (if s.invals.any (fun v => v.part == part && v.collapse == some frame) then s
      else s.modPart part (fun p => { p with
        collapsing := p.collapsing.filter (fun c => c.1 != frame)
        placement := p.placement ++ (p.collapsing.filter (fun c => c.1 == frame)).map Prod.snd }))
  | _ => .fault .noParty

/-- The guest-physical address that a partition's stage 2 maps to a device-memory frame, searched table by table (R325, R340). -/
def State.searchGpa (s : State) (frame base upper lower at_ : Nat) : Nat → Option Nat
  | 0 => none
  | n + 1 => (List.range (2 ^ (upper - lower))).findSome? (fun i =>
      let g := at_ + i * 2 ^ lower
      match tableEntry false lower (s.viewNat .dram none (s.backed none .dram (base + 8 * i)) 8) with
      | .leaf raw size =>
        let pa := raw / 4096 * 4096
        if bitsOf raw 10 1 = 0 ∧ pa ≤ frame * 4096 ∧ frame * 4096 < pa + size then some (g + (frame * 4096 - pa)) else none
      | .table b u l => s.searchGpa frame b u l g n
      | _ => none)

/-- The GPA of a frame (R340); the frame's own address where nothing maps it. -/
def State.gpaOfFrame (s : State) (part frame : Nat) : Nat :=
  let r := (s.part part).s2root.toNat
  if r % 2 = 0 then frame * 4096 else (s.searchGpa frame (r / 8192 * 8192) 64 54 0 8).getD (frame * 4096)

/-- The accesses at the homes that wait for a frame still to be pulled (R340). -/
def State.pullReqs (s : State) (part frame : Nat) : List Req :=
  s.reqs.filter (fun r => r.ctx.part == part && r.phase == .queued && s.pullAt part r.space r.addr && s.frameOf r.space r.addr == frame)

/-- The record of a frame that is lost: that of an access which waits for it, in the layout of the translation causes; with none, the
frame's GPA under no context (R332, R340, R350). -/
def State.pullRec (s : State) (part frame : Nat) : FaultRec :=
  match s.pullReqs part frame, (s.part part).pullWaits.find? (fun x => x.1 == frame) with
  | r :: _, _ => s.lostRec r.ctx (State.opUse r.op) r.va (s.mseOfReq r) r.tag r.round false
  | [], some x => x.2
  | [], none => { cause := 0x28, info1 := BitVec.ofNat 64 (s.gpaOfFrame part frame), flags := 1, orig := 0xFF, lreg := frame % 24 }

/-- PULL_RETRY (R340): a frame that has not arrived is pulled; each unanswered pull is retried after 2 ms, three times in
all, and then 0x28 freezes the partition with its state held. DEDUCED (log 116), unsafe. -/
def execPullRetry (s : State) : Out :=
  match s.cur with
  | some (.units part frame) =>
    let p := s.part part
    .next (if !p.pullBits.contains frame ∨ p.frozen then s
      else match p.pulls.find? (fun x => x.1 == frame) with
        | none => s.modPart part (fun y => { y with pulls := y.pulls ++ [(frame, 0, s.cycle)] })
        | some (_, n, since) =>
          if s.cycle.toNat < since.toNat + 2000 * Config.cyclesPerMicrosecond then s
          else if n < 3 then s.modPart part (fun y => { y with pulls := y.pulls.map (fun x => if x.1 = frame then (frame, n + 1, s.cycle) else x) })
          else
            let s1 := s.postVoid (.hypervisor part) (s.pullRec part frame)
            let others := (s.pullReqs part frame).map (fun r => (r.ctx, r.round)) ++
              (p.pullWaits.filter (fun x => x.1 == frame)).filterMap (fun x => x.2.ctx.map (fun c => (c, x.2.round)))
            (others.foldl (fun t x => t.requestVoid x.1 x.2) s1).modPart part (fun y => { y with
              frozen := true
              pulls := y.pulls.filter (fun x => x.1 != frame)
              pullWaits := y.pullWaits.filter (fun x => x.1 != frame) }))
  | _ => .fault .noParty

/-- PULL_COMPLETE (R340): a pulled frame arrives with its bytes, and its pull bit is cleared. -/
def execPullComplete (s : State) : Out :=
  match s.cur with
  | some (.bytes frame data) =>
    .next (if s.parts.any (fun p => p.pullBits.contains frame) then
        let t := s.writeNow .dram (frame * 4096) (data.take 4096)
        { t with parts := t.parts.map (fun p => { p with
            pullBits := p.pullBits.filter (fun f => f != frame)
            pulls := p.pulls.filter (fun x => x.1 != frame)
            pullWaits := p.pullWaits.filter (fun x => x.1 != frame) }) }
      else s)
  | _ => .fault .noParty

end Sys2Proof.Machine
end

