-- ==== Sys2Proof/Machine/Faults.lean ====
section
/-!
DEFINITION. Fault rings and resolutions (R346 to R349), the Foghorn with its occupancy map (R369, R370) and the
Logbook's time records (R367).
-/
namespace Sys2Proof.Machine

/-! ### Records (R332, R347, R348) -/

/-- The 32 bytes of a record, as one number (R332, R347). -/
def FaultRec.bits (f : FaultRec) (fnum : Nat) : Nat :=
  f.info0.toNat + f.info1.toNat * 2 ^ 64 + f.cause % 128 * 2 ^ 128 + f.flags % 256 * 2 ^ 136 + f.orig % 256 * 2 ^ 144 +
    f.lreg % 256 * 2 ^ 152 + f.ctxid.toNat * 2 ^ 160 + f.tag.toNat * 2 ^ 192 + fnum % 2 ^ 16 * 2 ^ 208 + f.round % 2 ^ 32 * 2 ^ 224

namespace Ring

/-- SIZE, and EN with a SIZE that the register holds (R348). -/
def size (r : Ring) : Nat := bitsOf r.ctl.toNat 0 5
def enabled (r : Ring) : Bool := r.ctl.getLsbD 31
/-- There is room for one more record (R348). -/
def room (r : Ring) : Bool := decide ((r.head - r.tail).toNat < 2 ^ r.size)
/-- Where the next record lies (R348). -/
def place (r : Ring) : Nat := r.base.toNat / 4096 * 4096 + 32 * (r.head.toNat % 2 ^ r.size)

end Ring

namespace State

/-- Thirty-two bytes written where a ring lies: at a guest-physical address for a guest, at a device address for the
hypervisor (R348). -/
def ringWrite (s : State) (r : RingId) (a v : Nat) : Option State :=
  match r with
  | .guest g => match s.writeGpa g.part a 32 v with
    | .ok t => some t
    | .error _ => none
  | .hypervisor p =>
    if a + 32 ≤ Config.deviceMemoryBytes ∧ (s.awaited p .dram a true).isNone then some (s.writeNatNow .dram (s.backed none .dram a) 32 v) else none

/-- A record that cannot be written yet: a duplicated frame of the ring begins to collapse (R338, R348). -/
def ringWait (s : State) (r : RingId) (a : Nat) : State :=
  match r with
  | .guest g => match s.writeGpa g.part a 32 0 with
    | .ok _ => s
    | .error f => s.waitOn g.part f
  | .hypervisor p => ((s.awaited p .dram a true).map (s.waitOn p)).getD s

/-- The fault interrupt of a ring's owner (R432). -/
def ringIrq (s : State) (r : RingId) : State :=
  match r with
  | .guest g => s.guestIrq g 0
  | .hypervisor p => { s with dev := { s.dev with irqs := s.dev.irqs ++ [p] } }

/-- The record of a ring with a fault number. -/
def outstanding? (s : State) (r : RingId) (fnum : Nat) : Option FaultRec := (s.ring r).outstanding.find? (fun f => f.fnum == fnum)

/-- A record leaves the ring's outstanding ones, and its MSE's held fault with it (R332, R348). -/
def closeRecord (s : State) (r : RingId) (f : FaultRec) : State :=
  let t := s.modRing r (fun x => { x with outstanding := x.outstanding.filter (fun y => y.fnum != f.fnum) })
  match f.ctx with
  | some c =>
    if 0x20 ≤ f.cause ∧ f.cause ≤ 0x26 then
      let h : HeldFault := { mse := f.lreg, ctx := c, stage2 := f.flags % 2 == 1, page := f.info0.toNat / 4096 }
      { t with heldFaults := t.heldFaults.filter (fun x => x != h) }
    else t
  | none => t

/-- The party that a record stopped runs again; of a memory node, the generator of the record's frame (R349). -/
def letGo (s : State) (f : FaultRec) : State :=
  match f.party with
  | none => s
  | some (.node k n) => s.modDyn k (fun d => d.modNode n (fun x =>
      { x with gens := x.gens.map (fun g => if g.tag = f.tag then { g with stopped := false } else g) }))
  | some p => s.setStopped p false

/-- A frozen context let run again by a resolution, which ends no debugger stop (R317, R349). -/
def thawRun (s : State) (c : CtxId) : State :=
  (s.thaw c).modCtx c (fun x => { x with dbg := if x.dbg = .frozen then .running else x.dbg })

/-- The queues that a thermal trip stopped for a context go on (R426). -/
def startQueues (s : State) (c : CtxId) : State :=
  let g : GuestId := ⟨c.part, c.guest⟩
  s.modGuest g (fun x => { x with queues := x.queues.map (fun q =>
    if queueCtx g q = c ∧ q.tripped then { q with ctl := q.ctl &&& 0xBFFFFFFF#32, tripped := false } else q) })

/-- A resolution with retry (R349): the party attempts its operation again; a held frame, a page left unloaded, the slice
watchdog, a frozen partition and a context frozen by the Foghorn go on, and so do the contexts of a hypervisor that a trip or a
lost die link froze (R426). DEDUCED (log 102), unsafe. -/
def retryRecord (s : State) (r : RingId) (f : FaultRec) : State :=
  let t := (s.closeRecord r f).letGo f
  match f.ctx with
  | none =>
    let mine (x : Context) : Bool := r == .hypervisor x.id.part && x.frozen && x.frozenCause == f.cause
    if f.cause = 0x51 ∨ f.cause = 0x54 then ((s.ctxs.filter mine).map Context.id).foldl (fun u c => (u.thawRun c).startQueues c) t
    else if f.cause = 0x28 then
      match r with
      | .hypervisor part => t.modPart part (fun p => { p with frozen := false })
      | .guest _ => t
    else t
  | some c =>
    if f.cause = 0x40 then
      t.modFrame ⟨c.part, f.tag⟩ (fun x => if x.phaseOf = .strayHeld then { x with phaseOf := .live, censusSame := 0 } else x)
    else if f.cause = 0x00 then
      let k : PageKey := { ctx := c, graph := f.info1.setWidth 32, lpn := f.info0.toNat }
      match t.page? k with
      | some p => if p.st = .absent then t.makePending k else t
      | none => t
    else if f.cause = 0x45 then t.modPart c.part (fun p => { p with watchFrom := s.cycle, watchdogRaised := false })
    else if f.cause = 0x28 then t.modPart c.part (fun p => { p with frozen := false })
    else if f.cause = 0x46 ∧ r = guestRing c ∧ (t.ctx c).frozen ∧ (t.ctx c).frozenCause = 0x46 then
      t.thawRun c
    else t

/-- A resolution with stop (R349): the context is frozen; the record of a wait for save frames is only acknowledged
(R354). -/
def stopRecord (s : State) (r : RingId) (f : FaultRec) : State :=
  let t := s.closeRecord r f
  match f.ctx with
  | some c => if f.cause = 0x44 then t else t.askFreeze c f.cause
  | none => t

/-! ### The Foghorn (R369, R370) -/

/-- A record of a ring that is not resolved was raised for the context. -/
def unresolvedIn (s : State) (r : RingId) (c : CtxId) : Bool :=
  ((s.ring r).waiting ++ (s.ring r).outstanding).any (fun f => f.ctx == some c && !f.advisory)

/-- The Foghorn's clock of a context's frames is paused (R369). DEDUCED (log 104), unsafe. -/
def clockPaused (s : State) (c : CtxId) : Bool :=
  s.unresolvedIn (guestRing c) c || s.unresolvedIn (.hypervisor c.part) c || (s.ctx c).dbg == .stopped || !s.inSlice c

end State

/-- Matching-store entries that a page holds for a tag, the overflow table's included (R126, R135, R370). -/
def storeEntries (d : PageDyn) (tag : Tag) : Nat :=
  let st (t : TagState) : Nat := if t.tag = tag then 1 + t.held.length else 0
  let el := (d.elems.map (fun e => (e.tags.map st).foldl (· + ·) 0)).foldl (· + ·) 0
  let ac (a : ActorState) : Nat :=
    (match a.firing with
      | some f => if f.tag = tag then f.slots.length else 0
      | none => 0) + (a.instrs.map (fun x => st x.2)).foldl (· + ·) 0 + (a.nexts.filter (fun x => x.1 == tag)).length
  el + (d.actors.map ac).foldl (· + ·) 0

/-- Entries of a lane that belong to a tag: its tokens, and the beats of its packets. -/
def laneEntries (l : List Item) (tag : Tag) : Nat :=
  (l.foldl (fun (a : Nat × Bool) i => match i with
    | .tok t => (if t.tag = tag && !i.weightless then a.1 + 1 else a.1, false)
    | .head h _ => let m := h.extractLsb' 32 12 == tag; (if m then a.1 + 1 else a.1, m)
    | .row _ => (if a.2 then a.1 + 1 else a.1, a.2)) (0, false)).1

/-- The code of a page's state (R370). -/
def PageState.code : PageState → Nat
  | .absent => 0
  | .pending => 1
  | .loading => 2
  | .resident => 3
  | .stopping => 4
  | .folded => 5

/-- The 512-byte record of a page in the occupancy map (R370). A page in a region holds its queue entries in the queues,
any other page in its internal wing (R260). -/
def mapRecord (p : Page) (tag : Tag) : Nat :=
  let d := p.dyn
  let placed := p.st == .resident || p.st == .stopping || p.st == .folded
  let inside (q : Place) : Bool := match q with
    | .queue _ _ | .switch _ _ | .out _ _ => true
    | _ => false
  let q (e : Nat) (n : QueueName) : Nat := if placed then min 15 (PageDyn.countIn (d.fifo (.queue e n)) tag) else 0
  let queues := ((List.range 128).map (fun e =>
    (q e .L + q e .R * 16 + q e .P * 256 + q e .O * 4096) * 65536 ^ e)).foldl (· + ·) 0
  let wings := ((List.range 16).map (fun i => PageDyn.countIn (d.fifo (.wing i)) tag % 65536 * 65536 ^ i)).foldl (· + ·) 0
  let lanes := ((List.range 16).map (fun i => laneEntries (d.fifo (.laneIn i)) tag % 65536 * 65536 ^ i)).foldl (· + ·) 0
  p.key.lpn % 2 ^ 16 + ((p.region.getD 0xFF) % 256) * 2 ^ 16 + p.st.code * 2 ^ 24 + p.key.graph.toNat * 2 ^ 32 +
    storeEntries d tag % 2 ^ 32 * 2 ^ 64 + (if placed then 0 else d.countPlaces inside tag) % 2 ^ 32 * 2 ^ 96 +
    queues * 2 ^ 128 + wings * 2 ^ (8 * 272) + lanes * 2 ^ (8 * 304)

namespace State

/-- The occupancy map written at the partition's map base (R370). -/
def writeMap (s : State) (f : Frame) : State :=
  let ps := s.pages.filter (fun p => p.key.ctx == f.ctx && p.key.graph == f.graph)
  let base := (s.part f.ctx.part).mapBase.toNat
  let head := f.graph.toNat + f.key.tag.toNat * 2 ^ 32 + (ctxWord f.ctx).toNat * 2 ^ 48 + ps.length % 2 ^ 16 * 2 ^ 80 + s.cycle.toNat * 2 ^ 96
  let bytes := bytesOfWord 64 head ++ ps.flatMap (fun p => bytesOfWord 512 (mapRecord p f.key.tag))
  s.writeNow .dram (s.backed none .dram base) bytes

/-- A page of the map that has to be waited for (R338, R340, R436). -/
def mapHeld (s : State) (f : Frame) : Option XFault :=
  let n := (s.pages.filter (fun p => p.key.ctx == f.ctx && p.key.graph == f.graph)).length
  let base := (s.part f.ctx.part).mapBase.toNat
  (List.range ((base + 64 + 512 * n + 4095) / 4096 - base / 4096)).findSome? (fun i => s.awaited f.ctx.part .dram ((base / 4096 + i) * 4096) true)

/-- The Foghorn's action on a hung frame (R369). -/
def hangNow (s : State) (f : Frame) : State :=
  let c := f.ctx
  let n := (s.pages.filter (fun p => p.key.ctx == c && p.key.graph == f.graph)).length
  let r : FaultRec :=
    { cause := 0x46, info0 := (s.part c.part).mapBase, info1 := BitVec.ofNat 64 n, ctxid := ctxWord c, tag := f.key.tag
      round := (s.ctx c).round % 2 ^ 32, ctx := some c }
  let t := ((s.freezeCtx c 0x46).writeMap f).post (guestRing c) r
  t.post (.hypervisor c.part) r

end State

/-! ### Events -/

/-- FAULT_RING_WRITE (R348): the oldest waiting record of a ring is written when the ring is enabled and has room; a full
ring counts an advisory record in DROPS, and every other record waits. DEDUCED (log 101), unsafe. -/
def execFaultRingWrite (s : State) : Out :=
  match s.cur with
  | some (.record r _) =>
    let q := s.ring r
    .next (if !q.enabled then s
      else match q.waiting with
        | [] => s
        | f :: rest =>
          if q.room then
            match s.ringWrite r q.place (f.bits q.nextNum) with
            | none => s.ringWait r q.place
            | some t =>
              (t.modRing r (fun x => { x with
                waiting := rest
                head := x.head + 1
                nextNum := (x.nextNum + 1) % 2 ^ 16
                outstanding := if f.advisory then x.outstanding else x.outstanding ++ [{ f with fnum := q.nextNum }] })).ringIrq r
          else match q.waiting.find? FaultRec.advisory with
            | none => s
            | some g => s.modRing r (fun x => { x with
                waiting := x.waiting.erase g
                ctl := if bitsOf x.ctl.toNat 8 16 = 0xFFFF then x.ctl else x.ctl + 0x100#32 }))
  | _ => .fault .noParty

/-- FRESOLVE_RETRY (R315, R331, R349): an outstanding record of the ring resolved with retry; a number that is not
outstanding has no effect. -/
def execFresolveRetry (s : State) : Out :=
  match s.cur with
  | some (.record r n) =>
    .next (match s.outstanding? r n with
      | none => s
      | some f => s.retryRecord r f)
  | _ => .fault .noParty

/-- FRESOLVE_STOP (R349): an outstanding record of the ring resolved with stop. -/
def execFresolveStop (s : State) : Out :=
  match s.cur with
  | some (.record r n) =>
    .next (match s.outstanding? r n with
      | none => s
      | some f => s.stopRecord r f)
  | _ => .fault .noParty

/-- HANG (R369, R370): the Foghorn's look at a live frame: its clock pauses or goes on, and a frame older than the
partition's interval is hung. -/
def execHang (s : State) : Out :=
  match s.cur with
  | some (.frame k) =>
    .next (match s.frame? k with
      | none => s
      | some f =>
        if (s.ctx f.ctx).frozen then s
        else if s.clockPaused f.ctx then s.modFrame k (fun x => { x with pausedAt := some (x.pausedAt.getD s.cycle) })
        else match f.pausedAt with
          | some t =>
            s.modFrame k (fun x => { x with pausedAt := none, lastFire := if t < x.lastFire then s.cycle else x.lastFire + (s.cycle - t) })
          | none =>
            if f.lastFire.toNat + (s.part k.part).foghornMs * 1000 * Config.cyclesPerMicrosecond ≤ s.cycle.toNat then ((s.mapHeld f).map (s.waitOn f.ctx.part)).getD (s.hangNow f) else s)
  | _ => .fault .noParty

/-- LOGBOOK_TIME_RECORD (R367): a time record 2^22 cycles after the latest one. -/
def execLogbookTimeRecord (s : State) : Out :=
  match s.cur with
  | some .device => .next (if s.dev.logTimeAt.toNat + 2 ^ 22 ≤ s.cycle.toNat then s.logTime else s)
  | _ => .fault .noParty

end Sys2Proof.Machine
end

