-- ==== Sys2Proof/Machine/Debug.lean ====
section
/-!
DEFINITION. The debug commands of a context (R234, R344, R358 to R366, R446).
-/
namespace Sys2Proof.Machine

namespace State

/-- The context's DBGCMD holds this command and it has not been carried out (R366). -/
def dbgAsks (s : State) (c : CtxId) (code : Nat) : Bool := let x := s.ctx c; x.res == 1 && bitsOf x.dbgCmd.toNat 24 8 == code

/-- A command is over: its result, and the debug interrupt as RES leaves 1 (R366, R432). -/
def dbgDone (s : State) (c : CtxId) (res : Nat) : State := (s.modCtx c (fun x => { x with res := res })).debugIrq c

/-- The first argument of the command. -/
def dbgArg (s : State) (c : CtxId) : Nat := (s.ctx c).dbgArg0.toNat

/-- The parties whose BRK waits give their results: the wait ends, and their firings are to complete (R234, R446). -/
def releaseBrks (s : State) (c : CtxId) : State :=
  let one (t : State) (p : Party) : State :=
    let u := match p with
      | .actor k b i => t.modFiring k b (fun f => { f with waits := f.waits.filter (fun w => w != (i, Wait.brk)) })
      | _ => t.setTrap p false
    u.modCtx c (fun x => { x with released := x.released ++ [partyWord (p.identity s)] })
  ((s.ctx c).brks.foldl one s).modCtx c (fun x => { x with brks := [] })

/-- A firing waits for what a stopped context does not give: a commit point, a tag, or, once it is frozen, a response. DEDUCED (log 157), unsafe. -/
def brkBarred (s : State) (c : CtxId) (f : Firing) : Bool :=
  f.waits.any (fun w => match w.2 with
    | .commit _ | .tag => true
    | .access id => (s.ctx c).frozen || s.reqs.any (fun r => r.id == id && (match r.phase with
      | .waitClose _ => true
      | _ => false))
    | .reply id => (s.ctx c).frozen || s.msgs.any (fun m => m.id == id && m.phase == 0)
    | .inval _ | .census _ => (s.ctx c).frozen
    | .trap | .brk => false)

/-- The firing of a released BRK is complete, or needs room or an event that the stopped context does not give (R446). -/
def brkOver (s : State) (c : CtxId) (w : Word) : Bool :=
  (s.pages.filter (fun p => p.key.ctx == c)).all (fun p =>
    (List.range 128).all (fun n => partyWord ((Party.elem p.key n).identity s) != w || !(p.dyn.elem n).tags.any (fun y => y.acc.isSome) ||
      !p.dyn.outFree n (p.ecw n)) &&
    p.dyn.actors.all (fun a => partyWord ((Party.actor p.key a.block 0).identity s) != w || (match a.firing, p.header? a.block with
      | some f, some h => firingOver (insTable p h) f || s.brkBarred c f
      | _, _ => true)))

/-- The context stops at its parties' next firing boundaries (R344, R366). -/
def dbgStop (s : State) (c : CtxId) : State :=
  s.modCtx c (fun x => { x with dbg := .stopped, stepsLeft := none, stepParty := none, stepOnly := false })

end State

/-- One command of the debug interface: carried out when DBGCMD asks for it. -/
def dbgEvent (code : Nat) (act : CtxId → State → State) (s : State) : Out :=
  match s.cur with
  | some (.ctx c) => .next (if s.dbgAsks c code then act c s else s)
  | _ => .fault .noParty

/-- The open round of a context has held nothing: it has no frame, no uncommitted write and nothing to do at its close. -/
def State.idleRound (s : State) (c : CtxId) : Bool :=
  (s.ctx c).close.isNone && (s.ctx c).atClose.isEmpty && !s.frames.any (fun f => f.ctx == c) && !s.homeWrites.any (fun w => w.ctx == c && !w.committed)

/-- LOG-ENABLE (R341, R358): window 0 opens at the first commit point, or at once where the open round has held nothing, so that
its start is as good a cut. DEDUCED (log 158), unsafe. An empty log at the base, with its capacity and full mode; a capacity of no unit changes nothing. -/
def execLogEnable (s : State) : Out :=
  dbgEvent 0x01 (fun c t =>
    let x := t.ctx c
    let a := x.dbgArg1.toNat
    let l : UndoLog := { on := true, base := x.dbgArg0.toNat / 4096 * 4096, units := bitsOf a 0 9, stall := bitsOf a 16 1 == 1 }
    (if bitsOf a 0 9 = 0 then t
      else
        let u := t.modUndo c (fun _ => l)
        if t.idleRound c && (u.logHeld c 0).isNone then u.openWindow c x.round else u).dbgDone c 0) s

/-- LOG-DISABLE (R366). -/
def execLogDisable (s : State) : Out := dbgEvent 0x02 (fun c t => (t.modUndo c (fun _ => {})).dbgDone c 0) s

/-- MARK (R308, R360): a window marker at the next commit point, whose close it requests. -/
def execMark (s : State) : Out :=
  dbgEvent 0x03 (fun c t =>
    let u := if (t.ctx c).undo.on then
        (t.modCtx c (fun x => { x with atClose := x.atClose ++ [(t.nextClose c, .wmark)] })).requestClose c 6
      else t
    u.dbgDone c 0) s

/-- MARK-EVERY (R360, R366): a marker at every close while bit 0 is set. -/
def execMarkEvery (s : State) : Out :=
  dbgEvent 0x04 (fun c t => (t.modUndo c (fun l => { l with every := bitsOf (t.dbgArg c) 0 1 == 1 })).dbgDone c 0) s

/-- DRAIN (R361): the oldest windows are freed, never the open one. -/
def execDrain (s : State) : Out :=
  dbgEvent 0x05 (fun c t =>
    let l := (t.ctx c).undo
    let n := min (t.dbgArg c) (l.windows.length - 1)
    if (t.logHeld c 0).isSome then ((t.logHeld c 0).map (t.waitOn c.part)).getD t
    else ((t.modUndo c (fun l => Nat.repeat UndoLog.dropOldest n l)).freeEntries c l.windows).dbgDone c 0) s

/-- BREAK-ENABLE (R234). -/
def execBreakEnable (s : State) : Out :=
  dbgEvent 0x06 (fun c t => (t.modCtx c (fun x => { x with brkEn := bitsOf x.dbgArg0.toNat 0 1 == 1 })).dbgDone c 0) s

/-- STOP (R366). -/
def execStop (s : State) : Out := dbgEvent 0x07 (fun c t => (t.dbgStop c).dbgDone c 0) s

/-- RESUME (R234, R317, R446): waiting BRKs give their results and the context runs; a frozen one restarts from the cut
that began its oldest open round. -/
def execResume (s : State) : Out :=
  dbgEvent 0x08 (fun c t =>
    let u := t.releaseBrks c
    let v := if (u.ctx c).frozen then u.thaw c else u
    (v.modCtx c (fun x => { x with dbg := .running, stepsLeft := none, stepParty := none, stepOnly := false })).dbgDone c 0) s

namespace State

/-- The backing of a page before its latest swap or drop (R222, R359): a discarded understudy is one again; the former
backing is visible again, and the visible one the understudy. -/
def unswap (s : State) (sp : Space) (frame : Nat) : State :=
  let mine (u : Understudy) : Bool := u.space == sp && u.frame == frame
  let kept := s.understudies.filter (fun u => mine u && (u.state == .former || u.state == .discarded))
  match kept.foldl (fun (m : Option Understudy) u => match m with
      | some y => if y.since ≤ u.since then some u else m
      | none => some u) none with
  | none => s
  | some w =>
    if w.state = .discarded then
      { s with understudies := s.understudies.map (fun u => if u.store = w.store ∧ mine u then { u with state := .study } else u) }
    else
      let back (u : Understudy) : Understudy :=
        if mine u ∧ u.state = .visible then { u with state := .study }
        else if u.store = w.store ∧ mine u then { u with state := .visible }
        else u
      let base (u : Understudy) : Bool := mine u && u.state == .visible && u.store == frame
      { s with understudies := (s.understudies.map back).filter (fun u => !base u) }

/-- The cause for which a record of the undo log cannot be reversed (R363). -/
def recordBad (s : State) (c : CtxId) (r : UndoRec) : Option Nat :=
  if r.space = 0 then none
  else match s.translate c .write r.addr with
    | .ok _ => none
    | .error f => if f.pull.isSome then none else some f.cause

/-- What the reversal of a record has to wait for (R338, R340, R436). -/
def recordWaits (s : State) (c : CtxId) (r : UndoRec) : Option XFault :=
  if r.space = 0 then none
  else match s.translate c .write r.addr with
    | .ok x => s.awaited c.part x.space x.pa true
    | .error f => if f.pull.isSome then some f else none

/-- What a reversal of these records and of the log's table has to wait for. -/
def rewindWaits (s : State) (c : CtxId) (rs : List UndoRec) : Option XFault :=
  match rs.findSome? (s.recordWaits c) with
  | some f => some f
  | none => s.logHeld c 0

/-- One record reversed (R359, R363): its old value written at once, in memory or in the understudy, or its mapping. -/
def undoOne (s : State) (c : CtxId) (r : UndoRec) : State :=
  let bytes := bytesOfWord (2 ^ r.wid) r.old.toNat
  if r.space = 0 then s.writeNow .sram r.addr bytes
  else match s.translate c .write r.addr with
    | .error _ => s
    | .ok x =>
      if r.kind = 1 then s.unswap x.space (x.pa / 4096)
      else if r.kind = 2 then
        match s.studyOf x.space (x.pa / 4096) with
        | some u => s.writeNow x.space (u.store * 4096 + x.pa % 4096) bytes
        | none => s
      else s.writeNow x.space (s.backed none x.space x.pa) bytes

/-- The frames of a context launched behind a window's marker end without a completion, and the queue heads of the
context go back to their values at the marker (R363). -/
def unlaunch (s : State) (c : CtxId) (w : UndoWindow) : State :=
  let late := s.frames.filter (fun f => f.ctx == c && !w.tags.contains f.key.tag)
  let t := late.foldl (fun t f => t.endFrame f) s
  let g : GuestId := ⟨c.part, c.guest⟩
  let back (q : Queue) : Queue :=
    if queueCtx g q = c then
      match lookup q.num w.heads with
      | some h => if h = q.head then q else { q with head := h, waiting := none, tagWait := false }
      | none => q
    else q
  t.modGuest g (fun x => { x with queues := x.queues.map back })

/-- The context as the snapshot of a window holds it: the snapshot stands as the cut that begins the window's first round,
and every later round is voided (R314, R344, R363). -/
def restoreWindow (s : State) (c : CtxId) (w : UndoWindow) : State :=
  let page (p : Page) : Page :=
    if p.key.ctx = c then { p with cuts := ((lookup p.key w.pages).map (fun d => (w.round, d))).toList } else p
  let frame (f : Frame) : Frame :=
    if f.ctx = c then { f with cuts := ((lookup f.key.tag w.walks).map (fun z => { z with round := w.round })).toList } else f
  let t : State := { s with pages := s.pages.map page, frames := s.frames.map frame }
  ((t.modCtx c (fun x => { x with removed := max x.removed x.round })).voidRounds c w.round).modCtx c (fun x => { x with
    round := w.round
    commitAt := s.cycle
    close := none
    voided := none
    frozen := false
    frozenCause := 0
    dbg := .stopped })

/-- The records and entries of the windows above the one at `i` removed, and that window emptied (R363). DEDUCED (log 108), unsafe. -/
def emptyWindows (s : State) (c : CtxId) (i : Nat) (w : UndoWindow) : State :=
  let old := (s.ctx c).undo
  let gone := old.windows.drop i
  let t := s.modUndo c (fun l => { l with
    windows := l.windows.take i ++ [{ w with count := 0 }]
    records := l.records.filter (fun r => !gone.any (fun x => x.num == r.window))
    total := l.total - (gone.map UndoWindow.count).foldl (· + ·) 0
    engine := l.engine.map (fun r => { r with round := w.round })
    nextWindow := w.num + 1 })
  (t.freeEntries c old.windows).writeWindow c

end State

/-- REWIND (R344, R359, R363, R446): a waiting BRK first gives its result and its firing completes. Then the command is refused, or the
open rounds are voided, the records of the windows from k on are reversed in reverse order, and window k's snapshot is restored.
DEDUCED (log 106), unsafe. -/
def execRewind (s : State) : Out :=
  dbgEvent 0x09 (fun c t =>
    let x := t.ctx c
    let k := t.dbgArg c
    if !(x.dbg == .stopped || x.frozen) then t.dbgDone c 5
    else if !x.brks.isEmpty then t.releaseBrks c
    else if !x.released.all (t.brkOver c) then t
    else
      let i := x.undo.windows.findIdx (fun w => w.num == k)
      match x.undo.windows[i]? with
      | none => t.dbgDone c 3
      | some w =>
        let later := x.undo.windows.drop i
        let recs := x.undo.records.filter (fun r => later.any (fun v => v.num == r.window))
        if later.any UndoWindow.sealed then t.dbgDone c 2
        else if w.truncated then t.dbgDone c 4
        else match recs.findSome? (t.recordBad c) with
          | some cause => (t.modCtx c (fun y => { y with report := some (cause, 0, 0) })).dbgDone c 7
          | none =>
            let work := t.firingWork c
            if work.isSome ∧ work ≠ x.voidSeen ∧ !x.frozen then t.modCtx c (fun y => { y with voidSeen := work })
            else match t.rewindWaits c recs with
            | some f => t.waitOn c.part f
            | none =>
            let t1 := t.voidRounds c x.round
            let t2 := recs.reverse.foldl (fun u r => u.undoOne c r) t1
            ((((t2.emptyWindows c i w).unlaunch c w).restoreWindow c w)).dbgDone c 0) s

/-- STEP-ROUNDS (R308, R319, R364): a stopped context runs until n commit points have passed, with the recorded choices;
a close is requested for each round but those that a rewind removed, which close where their cuts lay. -/
def execStepRounds (s : State) : Out :=
  dbgEvent 0x0A (fun c t =>
    let x := t.ctx c
    let n := t.dbgArg c
    if x.dbg ≠ .stopped ∨ x.frozen then t.dbgDone c 5
    else if x.stepsLeft.isSome then t
    else if n = 0 then t.dbgDone c 0
    else
      let u := (t.releaseBrks c).modCtx c (fun y => { y with
        dbg := .stepping
        stepsLeft := some n
        steps := n
        free := !t.dev.choices.any (fun z => z.ctx == some c && z.round == x.round) })
      (if x.round < x.removed then u else u.requestClose c 6).debugIrq c) s

namespace State

/-- STEP-FIRING can name the party of an identity word: an element with an opcode, or a block or island with single-step
enabled (R351, R365). -/
def steppable (s : State) (c : CtxId) (w : Word) : Bool :=
  let lpn := bitsOf w.toNat 20 12
  (s.pages.filter (fun p => p.key.ctx == c && p.key.lpn == lpn)).any (fun p =>
    match bitsOf w.toNat 18 2 with
    | 0 => p.ecwOp (bitsOf w.toNat 0 7) != 0
    | 2 => p.hasIsland && p.islandHeader.step
    | src => match p.header? (bitsOf w.toNat 13 5) with
      | some h => h.step && (src == 3) == (h.bkind == 0xA3)
      | none => false)

end State

/-- STEP-FIRING (R365): a stopped context runs until the named party, or the next one chosen, has completed a firing. -/
def execStepFiring (s : State) : Out :=
  dbgEvent 0x0B (fun c t =>
    let x := t.ctx c
    let w := State.partyWord (x.dbgArg0.setWidth 32)
    if x.stepParty.isSome then t
    else if x.dbg ≠ .stopped ∨ x.frozen then t.dbgDone c 5
    else if w ≠ 0 ∧ !t.steppable c w then t.dbgDone c 6
    else
      ((t.releaseBrks c).modCtx c (fun y => { y with dbg := .stepping, stepParty := some w, stepOnly := false, free := false })).debugIrq c) s

/-- MASK (R365, R366): the party of the identity word is masked, or selected again; bit 32 of the argument says which. -/
def execMask (s : State) : Out :=
  dbgEvent 0x0C (fun c t =>
    let x := t.ctx c
    let w := State.partyWord (x.dbgArg0.setWidth 32)
    let rest := x.masked.filter (fun z => z != w)
    (t.modCtx c (fun y => { y with masked := if bitsOf x.dbgArg0.toNat 32 1 = 1 then rest ++ [w] else rest })).dbgDone c 0) s

end Sys2Proof.Machine
end

