-- ==== Sys2Proof/Machine/Registers.lean ====
section
/-!
DEFINITION. The register window (R427 to R430) with the writes that take effect at once, and contexts created and
destroyed (R428).
-/
namespace Sys2Proof.Machine

/-- The registers of the window (R427). -/
inductive Reg where
  | mgtid | mgttemp | mgtpwr | plimit | safectl | fwver | lbctl | lbwptr | lbmask (i : Nat) | hcmd | harg | hstat | cast (l : Nat)
  | s2root (p : Nat) | gslice (p n : Nat) | covfloor (p : Nat) | qdirty (g : GuestId) (n : Nat)
  | frbase (r : RingId) | frctl (r : RingId) | frhead (r : RingId) | frtail (r : RingId) | fresolve (r : RingId)
  | grcmd (g : GuestId) | grarg0 (g : GuestId) | grarg1 (g : GuestId) | gcmd (g : GuestId) | gcarg (g : GuestId)
  | gncmd (g : GuestId) | gnstat (g : GuestId)
  | qbase (g : GuestId) (n : Nat) | qctl (g : GuestId) (n : Nat) | qnotify (g : GuestId) (n : Nat) | qhead (g : GuestId) (n : Nat)
  | s1root (c : CtxId) | cctl (c : CtxId) | quota (c : CtxId) | cweight (c : CtxId)
  | dbgcmd (c : CtxId) | dbgarg0 (c : CtxId) | dbgarg1 (c : CtxId) | dbgstat (c : CtxId)
  | covup (c : CtxId) | covlo (c : CtxId) | covctl (c : CtxId) | covgsel (c : CtxId) | covgstat (c : CtxId) | covmet (c : CtxId)
  deriving DecidableEq, Repr

/-- A register of the device block (R427). -/
def deviceReg (o : Nat) : Option Reg :=
  if o = 0x00 then some .mgtid
  else if o = 0x08 then some .mgttemp
  else if o = 0x10 then some .mgtpwr
  else if o = 0x18 then some .plimit
  else if o = 0x20 then some .safectl
  else if o = 0x28 then some .fwver
  else if o = 0x40 then some .lbctl
  else if o = 0x48 then some .lbwptr
  else if o = 0x50 ∨ o = 0x54 ∨ o = 0x58 then some (.lbmask ((o - 0x50) / 4))
  else if o = 0x100 then some .hcmd
  else if o = 0x108 then some .harg
  else if o = 0x110 then some .hstat
  else if 0x1000 ≤ o ∧ o < 0x1100 ∧ o % 4 = 0 then some (.cast ((o - 0x1000) / 4))
  else none

/-- A fault-ring register, by its offset behind FRBASE (R427). -/
def ringReg (r : RingId) (o : Nat) : Option Reg :=
  if o = 0x00 then some (.frbase r)
  else if o = 0x08 then some (.frctl r)
  else if o = 0x0C then some (.frhead r)
  else if o = 0x10 then some (.frtail r)
  else if o = 0x14 then some (.fresolve r)
  else none

/-- A register of a partition's block (R427). -/
def partReg (p o : Nat) : Option Reg :=
  if o = 0x00 then some (.s2root p)
  else if 0x10 ≤ o ∧ o < 0x28 then ringReg (.hypervisor p) (o - 0x10)
  else if 0x40 ≤ o ∧ o < 0x50 ∧ o % 4 = 0 then some (.gslice p ((o - 0x40) / 4))
  else if o = 0x50 then some (.covfloor p)
  else if 0x1000 ≤ o ∧ o < 0x1400 ∧ o % 4 = 0 then some (.qdirty ⟨p, (o - 0x1000) / 0x100⟩ ((o - 0x1000) % 0x100 / 4))
  else none

/-- A register of a context's block (R427). -/
def ctxReg (c : CtxId) (o : Nat) : Option Reg :=
  if o = 0x000 then some (.s1root c)
  else if o = 0x008 then some (.cctl c)
  else if o = 0x010 then some (.quota c)
  else if o = 0x014 then some (.cweight c)
  else if o = 0x020 then some (.dbgcmd c)
  else if o = 0x028 then some (.dbgarg0 c)
  else if o = 0x030 then some (.dbgarg1 c)
  else if o = 0x038 then some (.dbgstat c)
  else if o = 0x040 then some (.covup c)
  else if o = 0x044 then some (.covlo c)
  else if o = 0x048 then some (.covctl c)
  else if o = 0x04C then some (.covgsel c)
  else if o = 0x050 then some (.covgstat c)
  else if o = 0x054 then some (.covmet c)
  else none

/-- A register of a guest's block, its context blocks included (R427). -/
def guestReg (g : GuestId) (o : Nat) : Option Reg :=
  if o < 0x18 then ringReg (.guest g) o
  else if o = 0x20 then some (.grcmd g)
  else if o = 0x28 then some (.grarg0 g)
  else if o = 0x30 then some (.grarg1 g)
  else if o = 0x40 then some (.gcmd g)
  else if o = 0x48 then some (.gcarg g)
  else if o = 0x50 then some (.gncmd g)
  else if o = 0x58 then some (.gnstat g)
  else if 0x1000 ≤ o ∧ o < 0x1800 then
    let n := (o - 0x1000) / 32
    let r := o % 32
    if r = 0x00 then some (.qbase g n)
    else if r = 0x08 then some (.qctl g n)
    else if r = 0x0C then some (.qnotify g n)
    else if r = 0x10 then some (.qhead g n)
    else none
  else if 0x10000 ≤ o ∧ o < 0x10000 + 0x1000 * Config.contextsPerGuest then
    ctxReg { part := g.part, guest := g.slot, num := (o - 0x10000) / 0x1000 } (o % 0x1000)
  else none

/-- The register at an offset of the 64 MiB window (R427). -/
def regAt (o : Nat) : Option Reg :=
  if o < 0x100000 then deviceReg o
  else if o < 0x180000 then partReg ((o - 0x100000) / 0x10000) (o % 0x10000)
  else if 0x1000000 ≤ o ∧ o < 0x3000000 then
    let i := (o - 0x1000000) / 0x100000
    guestReg ⟨i / 4, i % 4⟩ (o % 0x100000)
  else none

/-- The size of a register in bytes (R427, R429). -/
def Reg.size : Reg → Nat
  | .lbwptr | .harg | .s2root _ | .frbase _ | .grarg0 _ | .grarg1 _ | .gncmd _ | .qbase _ _ | .s1root _ | .dbgarg0 _ | .dbgarg1 _ => 8
  | _ => 4

/-- Offsets by which a VF, bound to a guest slot, reaches the window: its guest block alone (R430). -/
def vfWindow (s : State) (vf o : Nat) : Option Nat :=
  if 0x100000 ≤ o then none
  else (s.guests.find? (fun g => g.vf == some vf)).map (fun g => 0x1000000 + 0x100000 * (4 * g.id.part + g.id.slot) + o)

/-- Where a core's physical address leads (R433): device memory, the register window, the flash, or host memory while the
PCIe link is up; anything else is an access fault of the core. -/
inductive CoreTarget where
  | memory (sp : Space) (a : Nat)
  | window (o : Nat)
  | flash (o : Nat)
  deriving DecidableEq, Repr

/-- The physical map of the cores (R433). -/
def coreTarget (s : State) (a : Nat) : Option CoreTarget :=
  if a < Config.deviceMemoryBytes then some (.memory .dram a)
  else if 0x10000000000 ≤ a ∧ a < 0x10004000000 then some (.window (a - 0x10000000000))
  else if 0x20000000000 ≤ a ∧ a < 0x20004000000 then some (.flash (a - 0x20000000000))
  else if 0x800000000000 ≤ a ∧ s.dev.pcieUp then some (.memory .host (a - 0x800000000000))
  else none

/-! ### Reads -/

namespace State

/-- DBGSTAT (R366). -/
def dbgStat (s : State) (c : CtxId) : Nat :=
  let x := s.ctx c
  let st := if x.frozen then 3 else match x.dbg with
    | .running => 0
    | .stopped => 1
    | .stepping => 2
    | .frozen => 3
  let stepping := x.dbg != .running
  let msgs := (s.msgs.filter (fun m => m.ctx == c && m.stepped)).length
  let kids := (s.frames.filter (fun f => f.ctx == c && s.unstepped c.part f.key.tag)).length
  st * 2 ^ 30 + min msgs 255 * 2 ^ 16 + min (if stepping then kids else 0) 127 * 2 ^ 9 + (if x.free then 2 ^ 8 else 0) +
    (if x.undo.on then 2 ^ 7 else 0) + (if x.brkEn then 2 ^ 6 else 0) + x.res % 64

/-- The coverage state of the graph that COVGSEL names (R392). -/
def coverSel (s : State) (c : CtxId) : Option Cover := let x := s.ctx c; x.covers.find? (fun v => v.graph == x.covGsel)

/-- The value that a read of a register gives (R427 and the register tables that it names). -/
def regValue (s : State) (r : Reg) : Nat :=
  let d := s.dev
  match r with
  | .mgtid => 0x04800001
  | .mgttemp => d.mgtTemp.toNat
  | .mgtpwr => d.mgtPwr.toNat
  | .plimit => d.plimit
  | .safectl => (if d.incident then 2 ^ 31 else 0) + (if d.in1 then 2 else 0) + (if d.in0 then 1 else 0)
  | .fwver => d.fwver.toNat
  | .lbctl => d.lbCtl.toNat
  | .lbwptr => d.lbWptr.toNat % (2 ^ 32 / 16)
  | .lbmask i => ((d.lbMask[i]?).getD 0).toNat
  | .hcmd => d.hcmd.toNat
  | .harg => d.harg.toNat
  | .hstat => (if d.hbusy then 2 ^ 31 else 0) + d.hcause
  | .cast l => ((d.cast[l]?).getD 0).toNat
  | .s2root p => (s.part p).s2root.toNat
  | .gslice p n => (((s.part p).gslice[n]?).getD 0).toNat
  | .covfloor p => (s.part p).covFloor.toNat
  | .qdirty g n => (s.queue g n).dirty.toNat / 2 ^ 30 * 2 ^ 30
  | .frbase x => (s.ring x).base.toNat
  | .frctl x => (s.ring x).ctl.toNat
  | .frhead x => (s.ring x).head.toNat
  | .frtail x => (s.ring x).tail.toNat
  | .fresolve x => (s.ring x).fresolve.toNat
  | .grcmd g => (s.guest g).grCmd.toNat + (if (s.guest g).grQueue.isEmpty then 0 else 2 ^ 16)
  | .grarg0 g => (s.guest g).grArg0.toNat
  | .grarg1 g => (s.guest g).grArg1.toNat
  | .gcmd g => (s.guest g).gCmd.toNat
  | .gcarg g => (s.guest g).gcArg.toNat
  | .gncmd g => (s.guest g).gnCmd.toNat
  | .gnstat g => (s.guest g).gnStat.toNat
  | .qbase g n => (s.queue g n).base.toNat
  | .qctl g n => (s.queue g n).ctl.toNat
  | .qnotify g n => (s.queue g n).tail.toNat
  | .qhead g n => (s.queue g n).head.toNat
  | .s1root c => (s.ctx c).s1root.toNat
  | .cctl c => if (s.ctx c).exist then 1 else 0
  | .quota c => (s.ctx c).quota.toNat
  | .cweight c => (s.ctx c).weight
  | .dbgcmd c => (s.ctx c).dbgCmd.toNat
  | .dbgarg0 c => (s.ctx c).dbgArg0.toNat
  | .dbgarg1 c => (s.ctx c).dbgArg1.toNat
  | .dbgstat c => s.dbgStat c
  | .covup c => (s.ctx c).covUp.toNat
  | .covlo c => (s.ctx c).covLo.toNat
  | .covctl c => (s.ctx c).covCtl.toNat
  | .covgsel c => (s.ctx c).covGsel.toNat
  | .covgstat c => match s.coverSel c with
    | some v => 2 ^ 31 + v.below % 256 * 2 ^ 8 + v.level % 16
    | none => 0
  | .covmet c => match s.coverSel c with
    | some v => v.metric.toNat
    | none => 0x7FC00000

/-! ### Writes -/

/-- A turn put before those to come: the event of a register that has a row of its own takes place with its write. -/
def pushTurn (s : State) (i : Instr) (u : Subject) : State := { s with agenda := .event i u :: s.agenda }

/-- A write to HCMD (R438): ignored while BUSY; an operation that is none is refused with 0x4A. -/
def writeHcmd (s : State) (v : Word) : State :=
  if s.dev.hbusy then s
  else
    let p := bitsOf v.toNat 16 8
    let d := s.dev
    let t : State := { s with dev := { d with hcmd := v &&& 0xFFFF0000#32, hbusy := true, hcause := 0 } }
    match hcmdInstr (bitsOf v.toNat 24 8) d.harg.toNat with
    | some i => t.pushTurn i (.unit p)
    | none => { t with dev := { t.dev with hbusy := false, hcause := 0x4A, irqs := t.dev.irqs ++ [8] } }

/-- A write to GRCMD (R408): an operation that is none is ignored; a second command waits. -/
def writeGrcmd (s : State) (g : GuestId) (v : Word) : State :=
  let x := s.guest g
  let op := bitsOf v.toNat 24 8
  if op ≠ 1 ∧ op ≠ 2 then s
  else
    let w := v &&& 0xFF00FFFF#32
    let t := s.modGuest g (fun y => { y with grCmd := w, grQueue := y.grQueue ++ [(w, y.grArg0, y.grArg1)] })
    if x.grQueue.isEmpty then t.pushTurn (residencyInstr v) (.guest g) else t

/-- A write to GCMD (R418, R427): the command joins those that the guest's scheduler has given. -/
def writeGcmd (s : State) (g : GuestId) (v : Word) : State :=
  let op := bitsOf v.toNat 24 8
  let t := s.modGuest g (fun y => { y with
    gCmd := v &&& 0xFF00FFFF#32
    pendingCmds := if 1 ≤ op ∧ op ≤ 3 then y.pendingCmds ++ [(v, y.gcArg)] else y.pendingCmds })
  if op = 1 then t.pushTurn .guestSuspend (.guest g)
  else if op = 2 then t.pushTurn .guestResume (.guest g)
  else if op = 3 then t.pushTurn .guestSwitch (.guest g)
  else t

/-- A write to GNCMD (R439): ignored while BUSY. -/
def writeGncmd (s : State) (g : GuestId) (v : DWord) : State :=
  if (s.guest g).gnStat.getLsbD 31 then s
  else (s.modGuest g (fun x => { x with gnCmd := v &&& 0xFFFE00000000FFFF#64, gnStat := 0x80000000 })).pushTurn (granuleInstr v) (.guest g)

/-- A write to QCTL (R398, R402): EN stays clear under another SIZE; STOPPED can only be written 0. An enabled queue's
ring is translated. -/
def writeQctl (s : State) (g : GuestId) (n : Nat) (v : Word) : State :=
  let size := bitsOf v.toNat 23 4
  let en := v.getLsbD 31 && decide (2 ≤ size)
  let old := (s.queue g n).ctl
  let w : Word := (v &&& 0x2787FFFF#32) ||| (if en then 0x80000000#32 else 0) ||| (old &&& v &&& 0x40000000#32)
  let t := s.modQueue g n (fun q => { q with ctl := w })
  t.modQueue g n (fun q => { q with pages := if en then t.ringFrames g q else [], cache := [] })

/-- A write to DBGCMD (R366): ignored while RES reads 1, and when it names no command. -/
def writeDbgcmd (s : State) (c : CtxId) (v : Word) : State :=
  match dbgInstr (bitsOf v.toNat 24 8) with
  | none => s
  | some i => if (s.ctx c).res = 1 then s
    else (s.modCtx c (fun x => { x with dbgCmd := v &&& 0xFF000000#32, res := 1 })).pushTurn i (.ctx c)

/-- FP32 codes that COVUP and COVLO take: neither NaN nor negative (R392). -/
def threshold (v : Word) : Bool := !v.getLsbD 31 && decide (v.toNat ≤ 0x7F800000)

/-- A write to a register (R427 to R429): fields that only the device sets, and reserved ones, keep their values. DEDUCED (log 110), unsafe. -/
def regWrite (s : State) (r : Reg) (v : DWord) : State :=
  let w : Word := v.setWidth 32
  let d := s.dev
  match r with
  | .mgtid | .mgttemp | .mgtpwr | .fwver | .lbwptr | .hstat | .cast _ => s
  | .plimit => let n := bitsOf w.toNat 0 9; if 200 ≤ n ∧ n ≤ 480 then { s with dev := { d with plimit := n } } else s
  | .safectl =>
    let t := if w.getLsbD 29 then s.pushTurn .safectlForce .device else s
    if w.getLsbD 30 then t.pushTurn .safectlClr .device else t
  | .lbctl => s.pushTurn .lbctlWrite (.regWrite 0x40 4 v)
  | .lbmask i => { s with dev := { d with lbMask := d.lbMask.set i w } }
  | .hcmd => s.writeHcmd w
  | .harg => { s with dev := { d with harg := v } }
  | .s2root p => s.pushTurn .s2rootWrite (.partWrite p v)
  | .gslice p n =>
    let len := bitsOf w.toNat 0 17
    let x : Word := BitVec.ofNat 32 (len + (if w.getLsbD 31 ∧ 100 ≤ len ∧ len ≤ 100000 then 2 ^ 31 else 0))
    s.modPart p (fun y => { y with gslice := y.gslice.set n x })
  | .covfloor p => s.modPart p (fun y => { y with covFloor := w &&& 0xF#32 })
  | .qdirty g n => if w.getLsbD 31 then s.pushTurn .qdirtyClear (.queue g n) else s
  | .frbase x => s.modRing x (fun y => { y with base := v &&& 0xFFFFFFFFFFFFF000#64 })
  | .frctl x =>
    let size := bitsOf w.toNat 0 5
    s.modRing x (fun y =>
      let drops := if bitsOf w.toNat 8 16 = 0 then 0 else bitsOf y.ctl.toNat 8 16
      { y with ctl := BitVec.ofNat 32 (size + drops * 2 ^ 8 + (if w.getLsbD 31 ∧ 6 ≤ size ∧ size ≤ 16 then 2 ^ 31 else 0)) })
  | .frhead _ => s
  | .frtail x => s.modRing x (fun y => { y with tail := w })
  | .fresolve x => (s.modRing x (fun y => { y with fresolve := w &&& 0xFFFF0001#32 })).pushTurn
      (if w.getLsbD 0 then .fresolveStop else .fresolveRetry) (.record x (bitsOf w.toNat 16 16))
  | .grcmd g => s.writeGrcmd g w
  | .grarg0 g => s.modGuest g (fun x => { x with grArg0 := v })
  | .grarg1 g => s.modGuest g (fun x => { x with grArg1 := v })
  | .gcmd g => s.writeGcmd g w
  | .gcarg g => s.modGuest g (fun x => { x with gcArg := w &&& 0xFFFF#32 })
  | .gncmd g => s.writeGncmd g v
  | .gnstat _ => s
  | .qbase g n => s.modQueue g n (fun q => { q with base := v &&& 0xFFFFFFFFFFFFFFC0#64 })
  | .qctl g n => s.writeQctl g n w
  | .qnotify g n => s.pushTurn .qnotifyWrite (.queueWrite g n w)
  | .qhead _ _ => s
  | .s1root c => s.pushTurn .s1rootWrite (.ctxWrite c v)
  | .cctl c => s.pushTurn (if w.getLsbD 0 then .contextCreate else .contextDestroy) (.ctx c)
  | .quota c => s.modCtx c (fun x => { x with quota := w &&& 0xFFFF#32 })
  | .cweight c => s.modCtx c (fun x => { x with weight := max 1 (bitsOf w.toNat 0 8) })
  | .dbgcmd c => s.writeDbgcmd c w
  | .dbgarg0 c => s.modCtx c (fun x => { x with dbgArg0 := v })
  | .dbgarg1 c => s.modCtx c (fun x => { x with dbgArg1 := v })
  | .dbgstat _ => s
  | .covup c => if threshold w then s.modCtx c (fun x => { x with covUp := w }) else s
  | .covlo c => if threshold w then s.modCtx c (fun x => { x with covLo := w }) else s
  | .covctl c => s.modCtx c (fun x => { x with covCtl := w &&& 0x1FF#32 })
  | .covgsel c => s.modCtx c (fun x => { x with covGsel := w })
  | .covgstat c => s.pushTurn .covgstatWrite (.ctxWrite c v)
  | .covmet _ => s

end State

/-- REGISTER_WRITE (R348, R392, R398, R427 to R430): an access of another size or alignment, to a half of an 8-byte
register, or to an offset without a register changes nothing; the event of a register with a row of its own follows at
once. -/
def execRegisterWrite (s : State) : Out :=
  match s.cur with
  | some (.regWrite o size v) =>
    .next (match regAt o with
      | some r => if r.size = size then s.regWrite r v else s
      | none => s)
  | _ => .fault .noParty

/-! ### Registers with rows of their own -/

/-- LBCTL_WRITE (R368): the hypervisor's fields; a 0 in FROZEN restarts a frozen Logbook, with a time record. -/
def execLbctlWrite (s : State) : Out :=
  match s.cur with
  | some (.regWrite _ _ v) =>
    let d := s.dev
    let w : Word := v.setWidth 32
    let frozen := d.lbCtl.getLsbD 30
    let t : State := { s with dev := { d with lbCtl := (w &&& 0xB8000000#32) ||| (d.lbCtl &&& w &&& 0x40000000#32) } }
    .next (if frozen ∧ !w.getLsbD 30 then t.logTime else t)
  | _ => .fault .noParty

/-- QDIRTY_CLEAR (R424): both dirty bits of a queue cleared. -/
def execQdirtyClear (s : State) : Out :=
  match s.cur with
  | some (.queue g n) => .next (s.modQueue g n (fun q => { q with dirty := 0 }))
  | _ => .fault .noParty

/-- S1ROOT_WRITE (R323, R236): the new root, and an INVAL.ALL of the context; accesses ahead of its drain tokens keep the old root. -/
def execS1rootWrite (s : State) : Out :=
  match s.cur with
  | some (.ctxWrite c v) =>
    .next ((s.modCtx c (fun x => { x with s1root := v &&& 0xFFFFFFFFFFFFE001#64 })).startInval
      { State.invalAllOf c with root1 := some (s.ctx c).s1root }).2
  | _ => .fault .noParty

/-- S2ROOT_WRITE (R323): the new root, and an invalidation of every translation of the partition. -/
def execS2rootWrite (s : State) : Out :=
  match s.cur with
  | some (.partWrite p v) =>
    .next ((s.modPart p (fun x => { x with s2root := v &&& 0xFFFFFFFFFFFFE003#64 })).startInval
      { State.invalPart p with root2 := some (s.part p).s2root }).2
  | _ => .fault .noParty

/-! ### Contexts (R428) -/

namespace State

/-- Everything that a context holds leaves the device: its frames without completion, its accesses and uncommitted writes,
its regions, tags, save frames, graphs and messages (R317, R428). -/
def dropContext (s : State) (c : CtxId) : State :=
  let fs := s.frames.filter (fun f => f.ctx == c)
  let s1 := fs.foldl (fun t f => t.endFrame f) (s.voidHomes c 0)
  let s2 := ((s1.graphs.filter (fun g => g.owner == c)).foldl (fun t g => t.dropGraph c.part g.gid) s1).dropReleased c.part
  let s3 := (s2.dropPages (fun k => k.ctx == c)).modUndo c (fun _ => {})
  let own (f : FaultRec) : FaultRec := if f.ctx = some c then { f with party := none, ctx := none, voids := false } else f
  let gone (q : Queue) : Bool := queueCtx ⟨c.part, c.guest⟩ q == c && q.waiting.isSome
  let waits := ((s3.guest ⟨c.part, c.guest⟩).queues.filter gone).map Queue.num
  let d := s3.dev
  let s4 : State := { s3 with
    ctxs := s3.ctxs.filter (fun x => x.id != c)
    reqs := s3.reqs.filter (fun r => r.ctx != c)
    walks := s3.walks.filter (fun w => w.ctx != c)
    tlb := s3.tlb.filter (fun e => e.ctx != c)
    walkCache := s3.walkCache.filter (fun e => e.ctx != some c)
    heldFaults := s3.heldFaults.filter (fun h => h.ctx != c)
    traps := s3.traps.filter (fun t => t.page.ctx != c)
    msgs := (s3.msgs.filter (fun m => !(m.ctx == c && (m.phase == 0 || m.engine.isNone)))).map (fun m => if m.ctx = c then { m with voided := true } else m)
    rings := s3.rings.map (fun r => { r with outstanding := r.outstanding.map own, waiting := r.waiting.map own })
    ctl := s3.ctl.filter (fun z => z.ctx != some c)
    dev := { d with choices := d.choices.filter (fun x => x.ctx != some c), made := d.made.filter (fun x => x.ctx != some c) } }
  (s4.modGuest ⟨c.part, c.guest⟩ (fun g => { g with queues := g.queues.map (fun q => if gone q then { q with waiting := none } else q) })).modPart c.part
    (fun p => { p with tagWaiters := p.tagWaiters.filter (fun w => !(w.1 == c.guest && waits.contains w.2)) })

end State

/-- CONTEXT_CREATE (R428): the context exists, with its registers at their reset values; one that exists stays as it is. -/
def execContextCreate (s : State) : Out :=
  match s.cur with
  | some (.ctx c) =>
    .next (if (s.ctx c).exist ∨ Config.contextsPerGuest ≤ c.num ∨ !(s.part c.part).exist then s
      else
        let t : State := { s with ctxs := s.ctxs.filter (fun x => x.id != c) }
        t.modCtx c (fun x => { x with exist := true, commitAt := s.cycle }))
  | _ => .fault .noParty

/-- CONTEXT_DESTROY (R317, R428). -/
def execContextDestroy (s : State) : Out :=
  match s.cur with
  | some (.ctx c) => .next (if (s.ctx c).exist then s.dropContext c else s)
  | _ => .fault .noParty

end Sys2Proof.Machine
end

