-- ==== Sys2Proof/Machine/Cores.lean ====
section
/-!
DEFINITION. The application cores and the host at device memory, at host memory and at the register window (R74, R303, R305,
R338, R340, R429, R433): parties of SYSTEM scope whose accesses are performed at their homes and committed at once.
-/
namespace Sys2Proof.Machine

/-- The four bits by which a decision record names an input of an arbiter: its index, and an open value where the spec
numbers no sixteen inputs, as at an MSE (R367). DESIGN CHOICE (log 163), safe. -/
def inputIndex (arb k : Nat) : Nat := if k < 16 then k else (Config.inputIndex arb k).toNat

/-- A Logbook record's 128 bits: a decision of up to sixteen choices, a time, or an event (R367). -/
def LogRec.bits (r : LogRec) : Nat :=
  let head := r.arb % 2 ^ 16 * 2 ^ 104 + r.seq % 2 ^ 32 * 2 ^ 72
  r.type % 256 * 2 ^ 120 +
    (if r.type = 2 then r.payload % 2 ^ 120
     else if r.type = 1 then
       head + r.more.length % 16 * 2 ^ 68 + ((r.payload :: r.more).map (inputIndex r.arb)).foldr (fun k n => k % 16 + 16 * n) 0
     else head + r.cycle.toNat % 2 ^ 24 * 2 ^ 48 + r.payload % 2 ^ 48)

/-- Where the Logbook's ring begins: block 46 (R328, R367). -/
def logBase : Nat := 46 * 2 ^ 31

namespace State

/-- The input by which cores' and the host's accesses reach a home's arbiter in the Logbook's records (R305, R306, R367). -/
def coreInput : Nat := 65

/-- The number by which the host is a party beside the sixteen cores (R433). -/
def hostParty : Nat := 16

/-- A core, or the host, as a party. -/
def coreParty (s : State) (n : Nat) : CoreParty := (s.dev.cores.find? (fun c => c.core == n)).getD { core := n }

/-- That party changed. -/
def modCore (s : State) (n : Nat) (f : CoreParty → CoreParty) : State :=
  { s with dev := { s.dev with cores := update (fun c => c.core == n) f (some (f { core := n })) s.dev.cores } }

/-- The party receives this for its access. -/
def coreAnswer (s : State) (a : CoreAccess) (r : CoreReply) : State :=
  ({ s with dev := { s.dev with coreWaits := s.dev.coreWaits.erase a } } : State).modCore a.core (fun c => { c with reply := some r })

/-- The access waits at its home, in the order in which it came. -/
def coreWait (s : State) (a : CoreAccess) : State :=
  if s.dev.coreWaits.contains a then s else { s with dev := { s.dev with coreWaits := s.dev.coreWaits ++ [a] } }

/-- An earlier access of the party still waits, and this one may not pass it: one touches what the other touches, or a fence
stands between them (R305). -/
def coreBehind (s : State) (a : CoreAccess) : Bool :=
  (s.dev.coreWaits.takeWhile (fun b => b != a)).any (fun b =>
    b.core == a.core && (b.acquire || a.release || (b.release && b.size == 0) || overlaps b.addr b.size a.addr a.size))

/-- What a FENCE with read predecessors, or a load-acquire, orders before the party's later accesses: it acts as
FENCE.ACQ.SYSTEM (R182, R305). -/
def coreAcquire (s : State) (n : Nat) : State :=
  s.modCore n (fun c =>
    let d := s.acquireOf none coreRegion .system { c.dep with reads := unionOf c.dep.reads c.rets }
    { c with dep := { d with reads := c.dep.reads } })

/-- What a FENCE with write successors, or a store-release, orders: it acts as FENCE.REL.SYSTEM and closes no round (R182, R305). -/
def coreRelease (s : State) (n : Nat) : State :=
  let c := s.coreParty n
  let r : Release := { id := s.nextId, scope := .system, ctx := none, region := coreRegion, know := unionOf c.dep.know c.own }
  ({ s with nextId := s.nextId + 1, releases := s.releases ++ [r] } : State).modCore n (fun x =>
    { x with dep := { x.dep with rels := unionOf x.dep.rels [s.nextId] } })

/-- What the party's next access to a word is ordered after (R300). -/
def coreDep (c : CoreParty) (sp : Space) (w : Nat) : Dep :=
  match c.seen.find? (fun x => x.1 == (sp, w)) with
  | some x => c.dep.join x.2
  | none => c.dep

/-- An access of the party to a word orders this before its next one there. -/
def coreSaw (s : State) (n : Nat) (sp : Space) (w : Nat) (d : Dep) : State :=
  s.modCore n (fun c => { c with seen := update (fun x => x.1 == (sp, w)) (fun x => (x.1, x.2.join d)) (some ((sp, w), d)) c.seen })

/-- A byte of the Logbook's ring in blocks 46 and 47, once a record stands there (R328, R367). -/
def logByte (s : State) (a : Nat) : Option Byte :=
  let n := s.dev.log.length
  let i := (a - logBase) / 16
  if a < logBase ∨ 48 * 2 ^ 31 ≤ a ∨ n ≤ i then none
  else (s.dev.log[i + (n - 1 - i) / 2 ^ 28 * 2 ^ 28]?).map (fun r => BitVec.ofNat 8 (bitsOf r.bits (8 * (a % 16)) 8))

/-- Bytes of memory as a core reads them: the Logbook's ring holds its records (R367). -/
def ringView (s : State) (sp : Space) (a : Nat) (bs : List Byte) : List Byte :=
  if sp ≠ .dram ∨ a + bs.length ≤ logBase then bs else bs.zipIdx.map (fun b => (s.logByte (a + b.2)).getD b.1)

/-- A load performed word by word (R301, R305): its bytes. -/
def coreLoad (s : State) (n : Nat) (sp : Space) (pa size : Nat) : List Nat → List Byte × State
  | [] => ([], s)
  | w :: ws =>
    let lo := max pa w
    let len := min (pa + size) (w + 4) - lo
    let d := coreDep (s.coreParty n) sp w
    let q := s.readAs none d false sp lo len
    let ids := q.2.1.toList.map (fun i => (i, coreRegion))
    let t := (q.2.2.coreSaw n sp w { d with reads := unionOf d.reads ids }).modCore n (fun c => { c with rets := unionOf c.rets ids })
    let r := t.coreLoad n sp pa size ws
    (s.ringView sp lo (bytesOfWord len q.1) ++ r.1, r.2)

/-- A store performed at its home and committed at once (R302, R305). -/
def coreStore (s : State) (n : Nat) (sp : Space) (pa : Nat) (bs : List Byte) : State :=
  let ws := wordsOf pa bs.length
  let d := ws.foldl (fun d w => d.join (coreDep (s.coreParty n) sp w)) {}
  let q := s.writeBy coreRegion d ws sp pa bs
  let e : Dep := { d with know := unionOf d.know q.1 }
  (ws.foldl (fun t w => t.coreSaw n sp w e) q.2).modCore n (fun c => { c with own := unionOf c.own q.1 })

/-- The partition that a device-memory address is granted to (R339). -/
def blockOwner (s : State) (pa : Nat) : Option Nat :=
  match (s.dev.blocks[pa / 2 ^ 31]? : Option BlockState) with
  | some (BlockState.granted p) => some p
  | _ => none

/-- The home holds the access back: an atomic window, an atomic that is neither committed nor voided, a retraining link, a frame
still to be pulled, a collapse (R179, R185, R338, R340, R436). -/
def coreHeld (s : State) (sp : Space) (pa size : Nat) (write : Bool) : Bool :=
  let lo := pa / 4 * 4
  let n := (pa + size + 3) / 4 * 4 - lo
  s.windowHolds sp pa size ||
    s.homeWrites.any (fun w => w.atomic && !w.committed && w.space == sp && overlaps lo n w.addr w.bytes.length) ||
    (match homeOf sp pa with
      | .mse m => s.dev.retraining.contains m
      | .tile _ => false) ||
    s.parts.any (fun p => s.pullAt p.num sp pa) ||
    (write && s.parts.any (fun p => s.collapseAt p.num sp pa))

/-- An access of a core or the host to memory, at the home of its address (R305): a store to a resident image (R74), an access to a
frame that is lost or poisoned (R340, R357) and a read of data that cannot be corrected (R356) are refused. -/
def coreMemory (s : State) (a : CoreAccess) (sp : Space) (addr : Nat) : State :=
  let pa := s.backed none sp addr
  let frame := addr / 4096
  let write := a.store.isSome
  let owner := if sp = .dram then s.blockOwner addr else none
  let lost := sp == .dram && s.parts.any (fun p => p.frozen && p.pullBits.contains frame)
  if s.coreBehind a then s.coreWait a
  else if sp = .dram ∧ write ∧ s.imageFrame frame then s.coreAnswer a .refused
  else if lost then s.coreAnswer a .refused
  else if s.coreHeld sp pa a.size write then s.coreWait a
  else if sp = .dram ∧ s.dev.poisoned.contains (pa / 4096) then s.coreAnswer a .refused
  else
    match a.store, owner.bind (fun p => if s.replicated p frame then some p else none) with
    | some _, some p => (s.startCollapse p frame).coreWait a
    | some bs, none =>
      let s0 := s.noteChoice (arbOf (homeOf sp pa)) coreInput
      let s1 := if a.release then s0.coreRelease a.core else s0
      (s1.coreStore a.core sp pa (bs.take a.size)).coreAnswer a .stored
    | none, _ =>
      if s.dev.failing.contains (sp, pa / 64) then (s.markSuspect 0xFFFFFFFF#32 sp pa).coreAnswer a .refused
      else
        let q : Bool × State := if s.dev.suspect.contains (sp, pa / 64) then s.secondTry (owner.getD 0) none sp pa else (true, s)
        if !q.1 then q.2.coreAnswer a .refused
        else
          let r := (q.2.noteChoice (arbOf (homeOf sp pa)) coreInput).coreLoad a.core sp pa a.size (wordsOf pa a.size)
          ((if a.acquire then r.2.coreAcquire a.core else r.2)).coreAnswer a (.value (wordOfBytes r.1))

/-- A QNOTIFY write carries what the party's releases have ordered before it (R305, R402). -/
def coreTells (s : State) (n : Nat) (r : Reg) : State :=
  match r with
  | .qnotify g q =>
    let mine := (s.releases.filter (fun x => (s.coreParty n).dep.rels.contains x.id)).flatMap Release.know
    let tell (z : Queue) : Queue := { z with told := unionOf z.told mine }
    s.modGuest g (fun y => { y with queues := update (fun z => z.num == q) tell (some (tell { num := q })) y.queues })
  | _ => s

/-- An access of a privileged core or the PF to the register window (R429, R430): another size or alignment than the register's is
refused, a 4-byte write to half of an 8-byte register is ignored, an offset without a register reads zero. -/
def coreWindow (s : State) (a : CoreAccess) (o : Nat) : State :=
  let half := a.size = 4 ∧ a.store.isSome ∧ ((regAt o).any (fun r => r.size == 8) ∨ (regAt (o - 4)).any (fun r => r.size == 8))
  let inHalf := a.size = 4 ∧ (regAt (o - 4)).any (fun r => r.size == 8)
  if s.coreBehind a then s.coreWait a
  else if (a.size ≠ 4 ∧ a.size ≠ 8) ∨ o % a.size ≠ 0 ∨ (inHalf ∧ a.store.isNone) then s.coreAnswer a .refused
  else if half then s.coreAnswer a .stored
  else
    match regAt o, a.store with
    | some r, some bs =>
      if r.size = a.size then ((s.regWrite r (BitVec.ofNat 64 (wordOfBytes bs))).coreTells a.core r).coreAnswer a .stored
      else s.coreAnswer a .refused
    | some r, none => if r.size = a.size then s.coreAnswer a (.value (s.regValue r)) else s.coreAnswer a .refused
    | none, some _ => s.coreAnswer a .stored
    | none, none => s.coreAnswer a (.value 0)

/-- An access to BAR0 of a VF (R430): the guest block that it is bound to, or, unbound, zeros, with writes ignored. -/
def coreVf (s : State) (a : CoreAccess) (vf : Nat) : State :=
  if 2 ^ 20 ≤ a.addr then s.coreAnswer a .refused
  else match vfWindow s vf a.addr with
    | some o => s.coreWindow a o
    | none => s.coreAnswer a (if a.store.isSome then .stored else .value 0)

end State

/-- An access or a FENCE of a core or the host (R305, R430, R433). A natural alignment is the core's own rule; what the flash holds is not
stated. DEDUCED (log 129), unsafe. -/
def coreAccess (a : CoreAccess) (s : State) : State :=
  if a.size = 0 then
    if s.coreBehind a then s.coreWait a
    else
      let t := if a.acquire then s.coreAcquire a.core else s
      (if a.release then t.coreRelease a.core else t).coreAnswer a .stored
  else match a.bar with
  | some (some vf) => s.coreVf a vf
  | some none => if 2 ^ 26 ≤ a.addr then s.coreAnswer a .refused else s.coreWindow a a.addr
  | none =>
  if a.core = State.hostParty then s.coreMemory a .dram a.addr
  else
    match coreTarget s a.addr with
    | some (.memory sp p) => s.coreMemory a sp p
    | some (.window o) => s.coreWindow a o
    | some (.flash _) =>
      if a.store.isSome then s.coreAnswer a .refused
      else ({ s with free := s.free + 1 } : State).coreAnswer a (.value ((Config.freeWord s.free).toNat % 256 ^ a.size))
    | none => s.coreAnswer a .refused

end Sys2Proof.Machine
end

