-- ==== Sys2Proof/Machine/Hypervisor.lean ====
section
/-!
DEFINITION. The hypervisor's commands (R339, R420 to R424, R434, R438), and the granules that guests assign (R292, R439).
-/
namespace Sys2Proof.Machine

namespace State

/-- HCMD holds this operation for this partition and it has not completed (R438). -/
def hcmdIs (s : State) (op part : Nat) : Bool :=
  s.dev.hbusy && bitsOf s.dev.hcmd.toNat 24 8 == op && bitsOf s.dev.hcmd.toNat 16 8 == part

/-- A command completes: its cause, BUSY clear, and the PF's vector 8 (R432, R438). -/
def hcmdDone (s : State) (cause : Nat) : State :=
  let d := s.dev
  { s with dev := { d with hbusy := false, hcause := cause, irqs := d.irqs ++ [8] } }

/-- HARG. -/
def harg (s : State) : Nat := s.dev.harg.toNat

/-- A number in device memory as the Prompter reads it. -/
def devNat (s : State) (a n : Nat) : Nat := s.viewNat .dram none (s.backed none .dram a) n

/-- The quads of a partition as numbers (R4). -/
def quadsOf (p : Partition) : List Nat := (List.range 16).filter (fun q => bitsOf p.quads q 1 == 1)

/-- The blocks granted to a partition (R339). -/
def blocksOf (s : State) (part : Nat) : List Nat :=
  (List.range 48).filter (fun k => (s.dev.blocks[k]?) == some (BlockState.granted part))

end State

/-- Bytes of device memory at HARG that a command reads or writes (R424, R438). -/
def hcmdSpan (op : Nat) : Nat :=
  if op = 0x01 then 64 else if op = 0x07 ∨ op = 0x08 then 0x4000 else if 0x0D ≤ op ∧ op ≤ 0x0F then 0x1000 else 0

/-- A command has to wait: for an entry of the Prompter's matching store, which an EXPORT under way holds, or for the memory at HARG
(R340, R425, R436). -/
def State.hcmdHeld (s : State) (op part : Nat) : Bool :=
  (s.storeFull && !(s.part part).exporting) ||
    (List.range ((hcmdSpan op + 4095) / 4096)).any (fun i => (s.awaited part .dram (s.harg + 4096 * i) true).isSome)

/-- A command of the hypervisor: carried out while HCMD asks for it and nothing holds it back; of a partition that does not exist it is
refused. -/
def hcmdEvent (op : Nat) (act : Nat → State → State) (s : State) : Out :=
  match s.cur with
  | some (.unit part) =>
    .next (if !s.hcmdIs op part ∨ s.hcmdHeld op part then s
      else if 8 ≤ part ∨ !(s.part part).exist then s.hcmdDone 0x4A
      else act part s)
  | _ => .fault .noParty

/-! ### Creation, destruction, reset (R420, R422) -/

namespace State

/-- A creation is refused (R420). DEDUCED (log 113), unsafe. -/
def createBad (s : State) (part quads blocks save rb fog dog : Nat) : Bool :=
  let lines (n r : Nat) : Nat := if r = 0 then 4096 / n else r
  let mine := (List.range 16).filter (fun q => bitsOf quads q 1 == 1)
  let others := s.parts.filter (fun p => p.exist)
  decide (8 ≤ part) || (s.part part).exist || decide (mine.length < 2) ||
    mine.any (fun q => others.any (fun p => bitsOf p.quads q 1 == 1)) ||
    mine.any (fun q => (List.range 4).all (fun i => !s.backedRegion (4 * q + i))) ||
    ((List.range 46).filter (fun k => bitsOf blocks k 1 == 1)).any (fun k => (s.dev.blocks[k]?) != some BlockState.free) ||
    decide (4096 < save + (others.map Partition.saveAllow).foldl (· + ·) 0) ||
    decide (4096 < ((rb :: others.map Partition.rbAllow).map (lines (others.length + 1))).foldl (fun a b => a + b) (0 : Nat)) ||
    (rb != 0 && decide (rb < 256)) || decide (1000 < fog) || decide (1000 < dog)

end State

/-- CREATE (R4, R420, R438): a partition from its parameter block, or a refusal. -/
def execCreate (s : State) : Out :=
  match s.cur with
  | some (.unit part) =>
    .next (if !s.hcmdIs 0x01 part ∨ s.hcmdHeld 0x01 part then s
      else
        let a := s.harg
        let quads := s.devNat a 2
        let blocks := s.devNat (a + 0x08) 8 % 2 ^ 46
        let save := s.devNat (a + 0x10) 2
        let rb := s.devNat (a + 0x30) 2
        let fog := s.devNat (a + 0x32) 2
        let flags := s.devNat (a + 0x34) 1
        let dog := s.devNat (a + 0x36) 2
        if s.createBad part quads blocks save rb fog dog then s.hcmdDone 0x4A
        else
          let old := s.part part
          let p : Partition :=
            { num := part
              exist := true
              quads := quads
              s2root := old.s2root
              gslice := old.gslice
              covFloor := BitVec.ofNat 32 (flags % 16)
              saveAllow := save
              wingBase := BitVec.ofNat 64 (s.devNat (a + 0x18) 8)
              wingChunks := s.devNat (a + 0x20) 4
              ovfBase := BitVec.ofNat 64 (s.devNat (a + 0x28) 8)
              rbAllow := rb
              foghornMs := if fog = 0 then 100 else fog
              mapBase := BitVec.ofNat 64 (s.devNat (a + 0x38) 8)
              priv := bitsOf flags 4 1 == 1
              permissive := bitsOf flags 5 1 == 1
              stallMode := bitsOf flags 6 1 == 1
              watchdog := if dog = 0 then 10 else dog
              tags := (List.range 4095).map (BitVec.ofNat 12)
              sliceGuest := 3 }
          let d := s.dev
          let t : State := { s with dev := { d with
            blocks := d.blocks.zipIdx.map (fun b => if bitsOf blocks b.2 1 = 1 then .granted part else b.1) } }
          (t.modPart part (fun _ => p)).hcmdDone 0)
  | _ => .fault .noParty

namespace State

/-- The memory tiles of a quad written with zeros and fresh ECC (R422). -/
def zeroQuad (s : State) (q : Nat) : State :=
  let t := s.zeroRange .sram (q * 4 * 2 ^ 22) ((q + 1) * 4 * 2 ^ 22)
  let d := t.dev
  let here (x : Space × Nat) : Bool := x.1 == .sram && x.2 * 64 / 2 ^ 24 == q
  { t with dev := { d with suspect := d.suspect.filter (fun x => !here x), failing := d.failing.filter (fun x => !here x) } }

/-- What a reset leaves of a context: the registers that its guest has set (R422, R428). -/
def resetContext (x : Context) (now : BitVec 64) : Context :=
  { id := x.id, exist := true, s1root := x.s1root, quota := x.quota, weight := x.weight, rtmr := x.rtmr, commitAt := now
    dbgArg0 := x.dbgArg0, dbgArg1 := x.dbgArg1, covUp := x.covUp, covLo := x.covLo, covCtl := x.covCtl, covGsel := x.covGsel }

/-- The reset of a partition (R422): queues disabled, contexts frozen and emptied, quads power-cycled with their memory
tiles zeroed, what stands at the edge performed and its responses discarded, tags, save frames and wings returned, graphs released, 0x4F to each guest. DEDUCED (log 112), unsafe. -/
def resetPartition (s : State) (part : Nat) : State :=
  let off (g : Guest) : Guest := if g.id.part = part then
      { g with queues := g.queues.map (fun q => { q with ctl := q.ctl &&& 0x7FFFFFFF#32, waiting := none, pages := [] }), pendingCmds := [], grQueue := [] } else g
  let s1 : State := { s with guests := s.guests.map off }
  let cs := s1.ctxs.filter (fun x => x.id.part == part && x.exist)
  let s2 := cs.foldl (fun t x => if x.frozen then t else t.freezeCtx x.id 0x4F) s1
  let edge (r : Req) : Bool := r.ctx.part == part && (r.phase == .queued || r.phase == .entering) && (match r.home with
    | .mse _ => true
    | .tile _ => false)
  let s2 := (State.byEntry (s2.reqs.filter edge)).foldl (fun t r => t.performReq r) s2
  let s3 := cs.foldl (fun t x => (t.dropContext x.id).modCtx x.id (fun _ => resetContext x s.cycle)) s2
  let s4 := (s3.graphs.filter (fun g => g.part == part)).foldl (fun t g => t.dropGraph part g.gid) s3
  let s5 := (quadsOf (s4.part part)).foldl (fun t q => t.zeroQuad q) s4
  let s6 : State := { s5 with
    frames := s5.frames.filter (fun f => f.key.part != part)
    msgs := s5.msgs.filter (fun m => m.ctx.part != part)
    censuses := s5.censuses.filter (fun c => c.part != part)
    scans := s5.scans.filter (fun c => c.part != part)
    heldFaults := s5.heldFaults.filter (fun h => h.ctx.part != part)
    understudies := s5.understudies.filter (fun u => !(u.ctx.part == part && u.state != .visible)) }
  let n := (s.part part).resetCount + 1
  let s7 := s6.modPart part (fun p => { p with
    tags := (List.range 4095).map (BitVec.ofNat 12)
    saveWaits := []
    wingUsed := 0
    ovfWaits := false
    slice := .idle
    sliceGuest := 3
    owed := [0, 0, 0, 0]
    exporting := false
    signals := []
    asked := []
    frozen := false
    tagWaiters := []
    urgent := none
    resetCount := n })
  (s7.guests.filter (fun g => g.id.part == part)).foldl (fun t g => t.post (.guest g.id)
    { cause := 0x4F, info0 := BitVec.ofNat 64 n, flags := 0x80, advisory := true }) s7

end State

/-- RESET (R422). -/
def execReset (s : State) : Out := hcmdEvent 0x03 (fun part t => (t.resetPartition part).hcmdDone 0) s

/-- DESTROY (R438): the partition's contexts end as a reset and a destruction end them, its granules, ports and VFs return,
and its blocks are scrubbed and become Free. -/
def execDestroy (s : State) : Out :=
  hcmdEvent 0x02 (fun part t =>
    let t1 := t.resetPartition part
    let t2 := (t1.ctxs.filter (fun x => x.id.part == part)).foldl (fun u x => u.dropContext x.id) t1
    let t3 := (t2.blocksOf part).foldl (fun u k => u.zeroRange .dram (k * 2 ^ 31) ((k + 1) * 2 ^ 31)) t2
    let d := t3.dev
    let mine (b : BlockState) : Bool := b == .granted part
    let t4 : State := { t3 with
      parts := t3.parts.filter (fun p => p.num != part)
      guests := t3.guests.filter (fun g => g.id.part != part)
      tlb := t3.tlb.filter (fun e => e.ctx.part != part)
      walkCache := t3.walkCache.filter (fun e => e.part != part)
      understudies := t3.understudies.filter (fun u => u.ctx.part != part)
      granules := t3.granules.filter (fun g => bitsOf g.2.toNat 28 3 != part)
      dev := { d with
        blocks := d.blocks.map (fun b => if mine b then .free else b)
        ports := d.ports.map (fun p => if p.part = some part then { p with part := none } else p) } }
    t4.hcmdDone 0) s

/-! ### Blocks (R339) -/

/-- GRANT (R339, R438): a Free block becomes Granted. -/
def execGrant (s : State) : Out :=
  hcmdEvent 0x04 (fun part t =>
    let k := bitsOf t.harg 0 6
    let d := t.dev
    if (d.blocks[k]?) = some BlockState.free then
      ({ t with dev := { d with blocks := d.blocks.set k (.granted part) } } : State).hcmdDone 0
    else t.hcmdDone 0x4A) s

/-- REMOVE (R339, R438): a block of the partition enters Removing and the partition's translations are invalidated; refused
while it holds donated save frames in use or the overflow table. BUSY stays until the block's scrub is over. DEDUCED (log 114), unsafe. -/
def execRemove (s : State) : Out :=
  hcmdEvent 0x05 (fun part t =>
    let k := bitsOf t.harg 0 6
    let dst := if bitsOf t.harg 11 1 = 1 then none else some (bitsOf t.harg 8 3)
    let p := t.part part
    let inside (f : Nat) : Bool := f / 2 ^ 19 == k
    let table := p.ovfBase != 0 && decide (p.ovfBase.toNat < (k + 1) * 2 ^ 31 ∧ k * 2 ^ 31 < p.ovfBase.toNat + 2 ^ 24)
    match t.dev.blocks[k]? with
    | some (.granted q) =>
      if q ≠ part ∨ (t.donatedUsed part).any inside ∨ table then t.hcmdDone 0x4A
      else
        let d := t.dev
        let u : State := { t with dev := { d with blocks := d.blocks.set k (.removing part dst) } }
        let v := u.modPart part (fun p => { p with
          donated := p.donated.filter (fun f => !inside f)
          placement := p.placement.filter (fun f => !inside f) })
        (v.startInval { State.invalPart part with block := some k }).2
    | some (.removing q _) => if q = part then t else t.hcmdDone 0x4A
    | some (.scrubbing _) => t
    | _ => t.hcmdDone 0x4A) s

/-- SCRUB_COMPLETE (R339): every line of a block has been written with zeros; it becomes Free, or Granted when its Remove
named a partition. A line whose writes fail keeps it in Scrubbing, and the hypervisors are told. -/
def execScrubComplete (s : State) : Out :=
  match s.cur with
  | some (.unit k) =>
    let d := s.dev
    let busy := d.hbusy && bitsOf d.hcmd.toNat 24 8 == 0x05 && bitsOf d.harg.toNat 0 6 == k
    .next (match d.blocks[k]? with
      | some (.scrubbing dst) =>
        let t := s.zeroRange .dram (k * 2 ^ 31) ((k + 1) * 2 ^ 31)
        match d.deadLines.find? (fun l => l / 2 ^ 25 == k) with
        | some l => if busy then (t.tellAll 0x50 (BitVec.ofNat 64 (l * 64)) (BitVec.ofNat 64 (l / 64 % 24))).hcmdDone 0x50 else t
        | none =>
          let d2 := t.dev
          let u : State := { t with dev := { d2 with
            poisoned := d2.poisoned.filter (fun f => f / 2 ^ 19 != k)
            suspect := d2.suspect.filter (fun x => !(x.1 == .dram && x.2 / 2 ^ 25 == k))
            blocks := d2.blocks.set k (match dst with
              | some q => .granted q
              | none => .free) } }
          if busy then u.hcmdDone 0 else u
      | _ => s)
  | _ => .fault .noParty

/-- SCRUB (R422, R438): every block of the partition written with zeros in place. -/
def execScrub (s : State) : Out :=
  hcmdEvent 0x09 (fun part t =>
    ((t.blocksOf part).foldl (fun u k => u.zeroRange .dram (k * 2 ^ 31) ((k + 1) * 2 ^ 31)) t).hcmdDone 0) s

/-! ### Bindings and translations -/

/-- BIND (R438): a VF bound to a guest slot, and to no other. -/
def execBind (s : State) : Out :=
  hcmdEvent 0x06 (fun part t =>
    let vf := bitsOf t.harg 0 5
    let u : State := { t with guests := t.guests.map (fun g => if g.vf = some vf then { g with vf := none } else g) }
    (u.modGuest ⟨part, bitsOf t.harg 8 2⟩ (fun g => { g with vf := some vf })).hcmdDone 0) s

/-- PORT (R434, R438): an Ethernet port assigned to the partition, or to none. -/
def execPort (s : State) : Out :=
  hcmdEvent 0x0A (fun part t =>
    let d := t.dev
    let n := bitsOf t.harg 0 1
    let dst := if bitsOf t.harg 1 1 = 1 then none else some part
    ({ t with dev := { d with ports := d.ports.map (fun p => if p.num = n then { p with part := dst } else p) } } : State).hcmdDone 0) s

/-- S2INVAL (R334, R438): stage-2 translations of the partition invalidated; BUSY clears with the last acknowledgement. -/
def execS2inval (s : State) : Out :=
  hcmdEvent 0x0C (fun part t =>
    let a := t.harg
    let size := 2 ^ boundary (bitsOf a 0 3)
    let lo := a / 4096 * 4096 / size * size
    if t.invals.any (fun v => v.hcmd && v.part == part) then t
    else if bitsOf a 3 1 = 1 then (t.startInval { State.invalPart part with hcmd := true }).2
    else if 5 < bitsOf a 0 3 then t.hcmdDone 0x4A
    else (t.startInval { State.invalPart part with lo := lo, hi := lo + size, hcmd := true }).2) s

/-! ### Frame lists (R353, R438) -/

namespace State

/-- The frames that a list page names (R438). -/
def listPage (s : State) : List Nat :=
  let a := s.harg / 4096 * 4096
  (List.range (bitsOf (s.devNat a 8) 0 9)).map (fun i => s.devNat (a + 8 + 8 * i) 8)

/-- A list page's frames are refused (R438): one lies outside the partition's blocks, or is on a list already. -/
def listBad (s : State) (part : Nat) (l : List Nat) : Bool :=
  let taken := s.parts.flatMap (fun p => p.placement ++ p.donated)
  l.any (fun a => a % 4096 != 0 || s.addressBad part s.nextId false a || taken.contains (a / 4096)) || !l.Nodup

end State

/-- PLACEFILL (R335, R438): frames join the placement list. -/
def execPlacefill (s : State) : Out :=
  hcmdEvent 0x0D (fun part t =>
    let l := t.listPage
    if t.listBad part l then t.hcmdDone 0x26
    else (t.modPart part (fun p => { p with placement := p.placement ++ l.map (· / 4096) })).hcmdDone 0) s

/-- DONATE (R353, R438): frames join the save-frame free list. -/
def execDonate (s : State) : Out :=
  hcmdEvent 0x0E (fun part t =>
    let l := t.listPage
    if t.listBad part l then t.hcmdDone 0x26
    else (t.modPart part (fun p => { p with donated := p.donated ++ l.map (· / 4096) })).hcmdDone 0) s

/-- RECLAIM (R353, R438): frames that are not in use leave their list; their addresses and their number are written into
the list page. -/
def execReclaim (s : State) : Out :=
  hcmdEvent 0x0F (fun part t =>
    let a := t.harg / 4096 * 4096
    let first := t.devNat a 8
    let want := bitsOf first 0 9
    let p := t.part part
    let place := bitsOf first 16 1 == 1
    let unused := if place then p.placement else p.donated.filter (fun f => !(t.donatedUsed part).contains f)
    let out := unused.take want
    let t1 := t.modPart part (fun p => if place then { p with placement := p.placement.filter (fun f => !out.contains f) }
      else { p with donated := p.donated.filter (fun f => !out.contains f) })
    let bytes := bytesOfWord 8 (first - want + out.length) ++ out.flatMap (fun f => bytesOfWord 8 (f * 4096))
    (t1.writeNow .dram (t1.backed none .dram a) bytes).hcmdDone 0) s

/-! ### Granules (R292, R438, R439) -/

/-- The fabric SRAM address of a granule (R292). -/
def granuleBase (g : Nat) : Nat := bitsOf g 5 6 * 2 ^ 22 + bitsOf g 11 1 * 2 ^ 21 + bitsOf g 0 5 * 2 ^ 16

namespace State

/-- An entry of the granule table replaced (R292). -/
def setGranule (s : State) (g v : Nat) : State := { s with granules := assign g (BitVec.ofNat 32 v) s.granules }

/-- An access to a granule is outstanding at its home (R438, R439). -/
def granuleBusy (s : State) (g : Nat) : Bool :=
  s.reqs.any (fun r => r.space == .sram && granuleIndex r.addr == g && (r.phase == .queued || r.phase == .held))

/-- A granule written with zeros and fresh ECC. -/
def zeroGranule (s : State) (g : Nat) : State := s.zeroRange .sram (granuleBase g) (granuleBase g + 2 ^ 16)

/-- A GNCMD completes (R432, R439). -/
def gncmdDone (s : State) (g : GuestId) (cause : Nat) : State :=
  (s.modGuest g (fun x => { x with gnStat := BitVec.ofNat 32 cause })).guestIrq g 3

end State

/-- GRANULE with the grant bit (R292, R438): V and PART set, every other field clear; 0x2E when the granule is granted
already or lies in a quad that is not the partition's. -/
def execGranuleGrant (s : State) : Out :=
  hcmdEvent 0x0B (fun part t =>
    let g := bitsOf t.harg 0 12
    if bitsOf t.harg 12 1 = 0 then t
    else if bitsOf (t.granule g) 31 1 = 1 ∨ bitsOf (t.part part).quads (bitsOf g 5 6 / 4) 1 = 0 then t.hcmdDone 0x2E
    else (t.setGranule g (2 ^ 31 + part * 2 ^ 28)).hcmdDone 0) s

/-- GRANULE with the grant bit clear (R438): once no access to the granule is outstanding, it is zeroed and V is clear. -/
def execGranuleRevoke (s : State) : Out :=
  hcmdEvent 0x0B (fun part t =>
    let g := bitsOf t.harg 0 12
    if bitsOf t.harg 12 1 = 1 then t
    else if bitsOf (t.granule g) 31 1 = 0 ∨ bitsOf (t.granule g) 28 3 ≠ part then t.hcmdDone 0x2E
    else if t.granuleBusy g then t
    else ((t.zeroGranule g).setGranule g (t.granule g % 2 ^ 31)).hcmdDone 0) s

/-- GRANULE_ASSIGN (R292, R439): the fields as the guest gives them, GUEST its own slot, ASG set; 0x2E when the granule is
not granted to its partition or another guest holds it. DEDUCED (log 123), unsafe. -/
def execGranuleAssign (s : State) : Out :=
  match s.cur with
  | some (.guest g) =>
    let x := s.guest g
    let v := x.gnCmd.toNat
    let i := bitsOf v 52 12
    let e := s.granule i
    .next (if !x.gnStat.getLsbD 31 || bitsOf v 49 1 == 1 then s
      else if bitsOf e 31 1 = 0 ∨ bitsOf e 28 3 ≠ g.part ∨ (bitsOf e 23 1 = 1 ∧ bitsOf e 24 2 ≠ g.slot) then s.gncmdDone g 0x2E
      else (s.setGranule i (2 ^ 31 + g.part * 2 ^ 28 + bitsOf v 50 2 * 2 ^ 26 + g.slot * 2 ^ 24 + 2 ^ 23 + bitsOf v 0 16)).gncmdDone g 0)
  | _ => .fault .noParty

/-- GRANULE_RELEASE (R439): the holder's release waits until no access is outstanding, zeroes the granule and clears its
fields and ASG. -/
def execGranuleRelease (s : State) : Out :=
  match s.cur with
  | some (.guest g) =>
    let x := s.guest g
    let v := x.gnCmd.toNat
    let i := bitsOf v 52 12
    let e := s.granule i
    .next (if !x.gnStat.getLsbD 31 || bitsOf v 49 1 == 0 then s
      else if bitsOf e 31 1 = 0 ∨ bitsOf e 28 3 ≠ g.part ∨ bitsOf e 23 1 = 0 ∨ bitsOf e 24 2 ≠ g.slot then s.gncmdDone g 0x2E
      else if s.granuleBusy i then s
      else ((s.zeroGranule i).setGranule i (e / 2 ^ 28 * 2 ^ 28)).gncmdDone g 0)
  | _ => .fault .noParty

/-! ### Migration (R340, R423, R424) -/

/-- A queue in the canonical layout (R424). -/
def queueBytes (q : Queue) : List Byte :=
  bytesOfWord 8 q.base.toNat ++ bytesOfWord 4 q.ctl.toNat ++ bytesOfWord 4 q.tail.toNat ++ bytesOfWord 4 q.head.toNat ++
    bytesOfWord 4 (q.dirty.toNat / 2 ^ 30 * 2 ^ 30) ++
    bytesOfWord 4 (match q.waiting with
      | some w => 8 + w.2.2.1 % 8
      | none => 0) ++ bytesOfWord 36 0

namespace State

/-- Every live frame of the partition is held at an interval, and no round has anything left to close (R423). -/
def exportReady (s : State) (part : Nat) : Bool :=
  s.frames.all (fun f => f.key.part != part || f.held) && s.pages.all (fun p => p.key.ctx.part != part || !armed p) &&
    s.callReplies.all (fun r => r.page.ctx.part != part || r.given.isSome) &&
    s.ctxs.all (fun x => x.id.part != part || x.frozen || (x.close.isNone && !x.wantClose)) &&
    s.homeWrites.all (fun w => w.ctx.part != part || w.committed) && s.msgs.all (fun m => m.ctx.part != part)

/-- The partition as an export area holds it. -/
def exportArea (s : State) (part area : Nat) : ExportArea :=
  let rest (p : Page) : Page := { p with st := .absent, region := none, fold := none, cuts := [], cutUse := [], frames := [] }
  { area := area
    missing := (s.part part).pullBits
    part := s.part part
    ctxs := (s.ctxs.filter (fun x => x.id.part == part)).map (fun x =>
      { x with undo := {}, saved := ((s.pages.filter (fun p => p.key.ctx == x.id && p.region.isSome)).map Page.key) ++ x.saved })
    graphs := s.graphs.filter (fun g => g.part == part)
    pages := (s.pages.filter (fun p => p.key.ctx.part == part)).map rest
    frames := s.frames.filter (fun f => f.key.part == part)
    guests := s.guests.filter (fun g => g.id.part == part) }

/-- The queues of a partition's guests written at an export area (R424). -/
def writeQueues (s : State) (part area : Nat) : State :=
  let row (g : Nat) : List Byte := (List.range 64).flatMap (fun n =>
    match (s.guest ⟨part, g⟩).queues.find? (fun q => q.num == n) with
    | some q => queueBytes q
    | none => bytesOfWord 64 0)
  (List.range 4).foldl (fun t g => t.writeNow .dram (t.backed none .dram (area + 4096 * g)) (row g)) s

end State

/-- EXPORT (R423, R424): selection stops and every live frame is held at its next interval; every round is closed; then the
partition's state stands in the area. -/
def execExportPart (s : State) : Out :=
  hcmdEvent 0x07 (fun part t =>
    let p := t.part part
    if !p.exporting then
      let cs := (t.ctxs.filter (fun x => x.id.part == part && x.exist && !x.frozen)).map Context.id
      cs.foldl (fun u c => u.requestClose c 7) (t.modPart part (fun p => { p with exporting := true }))
    else if !t.exportReady part then
      let open_ := (t.ctxs.filter (fun x => x.id.part == part && !x.frozen &&
        t.homeWrites.any (fun w => w.ctx == x.id && !w.committed))).map Context.id
      open_.foldl (fun u c => u.requestClose c 7) t
    else
      let e := t.exportArea part t.harg
      let u : State := { t with exports := t.exports.filter (fun x => x.area != e.area) ++ [e] }
      (u.writeQueues part t.harg).hcmdDone 0) s

namespace State

/-- A queue as an export area's layout gives it (R424), its reserved bits zero (R7, R398); what is waiting there was taken with the guest's own state. -/
def readQueue (s : State) (a n : Nat) (old : Queue) : Queue :=
  { old with
    num := n
    base := BitVec.ofNat 64 (s.devNat a 8) &&& 0xFFFFFFFFFFFFFFC0#64
    ctl := BitVec.ofNat 32 (s.devNat (a + 8) 4) &&& 0xE787FFFF#32
    tail := BitVec.ofNat 32 (s.devNat (a + 12) 4)
    head := BitVec.ofNat 32 (s.devNat (a + 16) 4)
    dirty := BitVec.ofNat 32 (s.devNat (a + 20) 4)
    pages := []
    cache := [] }

/-- An exported partition rebuilt under the number of the importing one (R423): tags keep their values, and pages are
placed afresh. -/
def importArea (s : State) (part : Nat) (e : ExportArea) : State :=
  let ci (c : CtxId) : CtxId := { c with part := part }
  let pk (k : PageKey) : PageKey := { k with ctx := ci k.ctx }
  let fk (f : FrameKey) : FrameKey := { f with part := part }
  let ctxs := e.ctxs.map (fun x => { x with
    id := ci x.id, commitAt := s.cycle, saved := x.saved.map pk, brks := [], runsOn := none, parked := false })
  let pages := e.pages.map (fun p => { p with
    key := pk p.key, since := s.cycle, lastFire := s.cycle
    cuts := [((((e.ctxs.find? (fun x => x.id == p.key.ctx)).map Context.round).getD 0), p.dyn)] })
  let frames := e.frames.map (fun f => { f with
    key := fk f.key, ctx := ci f.ctx, lastFire := s.cycle, held := false, parent := f.parent.map (fun q => (pk q.1, q.2)) })
  let graphs := e.graphs.map (fun g => { g with part := part, owner := ci g.owner })
  let guest (g : Guest) : Guest :=
    let id : GuestId := ⟨part, g.id.slot⟩
    { s.guest id with
      queues := g.queues.map (fun q => s.readQueue (e.area + 4096 * g.id.slot + 64 * q.num) q.num q), pendingCmds := g.pendingCmds }
  let gs := e.guests.map guest
  let t : State := { s with
    ctxs := s.ctxs.filter (fun x => x.id.part != part) ++ ctxs
    pages := s.pages ++ pages
    frames := s.frames ++ frames
    graphs := s.graphs ++ graphs
    guests := s.guests.filter (fun g => !gs.any (fun x => x.id == g.id)) ++ gs }
  let u := t.modPart part (fun p => { p with
    tags := e.part.tags, tagWaiters := e.part.tagWaiters, owed := e.part.owed, sliceGuest := e.part.sliceGuest, yields := false
    pullBits := e.missing ++ (Config.uncopied s.free).filter (fun f => s.blocksOf part |>.contains (f / 2 ^ 19)) })
  ({ u with free := s.free + 1 } : State).retranslate part (fun _ _ => true)

end State

/-- IMPORT (R340, R423): an empty partition takes over what an area holds; refused without such an area, while the
partition holds contexts with frames or graphs, or with fewer backed regions than the largest sum of minimum quotas of a
guest. -/
def execImportPart (s : State) : Out :=
  hcmdEvent 0x08 (fun part t =>
    match t.exports.find? (fun e => e.area == t.harg) with
    | none => t.hcmdDone 0x4A
    | some e =>
      let sums := (List.range 4).map (fun g => ((e.ctxs.filter (fun x => x.id.guest == g)).map (fun x => bitsOf x.quota.toNat 0 8)).foldl (· + ·) 0)
      let used := t.frames.any (fun f => f.key.part == part) || t.graphs.any (fun g => g.part == part)
      if used ∨ (t.regionsOf part).length < sums.foldl max 0 then t.hcmdDone 0x4A
      else (t.importArea part e).hcmdDone 0) s

end Sys2Proof.Machine
end

