-- ==== Sys2Proof/Machine/Health.lean ====
section
/-!
DEFINITION. Health, power, links and pins (R356, R425, R426, R432 to R437, R440 to R442).
-/
namespace Sys2Proof.Machine

/-! ### Temperature, voltage, power (R426, R437) -/

/-- The die of a logical region (R1, R328). -/
def dieOf (l : Nat) : Nat := l / 32

namespace State

/-- A sensor's reading: MGTTEMP holds the hottest of its die (R437). -/
def noteTemp (s : State) (die temp : Nat) : State :=
  let d := s.dev
  let old : BitVec 16 := if die = 0 then d.mgtTemp.setWidth 16 else d.mgtTemp.extractLsb' 16 16
  let new : BitVec 16 := BitVec.ofNat 16 temp
  let hot := if old.toInt < new.toInt then new else old
  { s with dev := { d with mgtTemp := if die = 0 then d.mgtTemp.extractLsb' 16 16 ++ hot else hot ++ d.mgtTemp.extractLsb' 0 16 } }

/-- The islands of a die issue one matrix step in two cycles for a cause (R426). -/
def throttleDie (s : State) (die cause : Nat) : State :=
  let d := s.dev
  { s with dev := { d with throttle := if d.throttle.contains (die, cause) then d.throttle else d.throttle ++ [(die, cause)] } }

/-- A context frozen by the Prompter for a health cause; with `stop`, its queues are stopped (R426). -/
def freezeFor (s : State) (cause : Nat) (stop : Bool) (c : CtxId) : State :=
  let t := s.askFreeze c cause
  if stop then t.modGuest ⟨c.part, c.guest⟩ (fun g => { g with queues := g.queues.map (fun q =>
    if queueCtx ⟨c.part, c.guest⟩ q = c then
      { q with tripped := q.tripped || !q.ctl.getLsbD 30, ctl := q.ctl ||| 0x40000000#32 } else q) }) else t

/-- The contexts with a region on a die. -/
def ctxsOn (s : State) (die : Nat) : List CtxId :=
  ((s.pages.filter (fun p => (p.region.map (fun l => dieOf l == die)).getD false)).map (fun p => p.key.ctx)).eraseDups

/-- The contexts with a page or a granule on the other die from a page of theirs; a node's stream stands on its page's own
die (R327, R426). -/
def ctxsAcross (s : State) : List CtxId :=
  let on (c : CtxId) (d : Nat) : Bool := (s.ctxsOn d).contains c
  let granule (c : CtxId) (d : Nat) : Bool := s.granules.any (fun g =>
    dieOf (bitsOf g.1 5 6) == d && s.granted c (granuleBase g.1))
  (s.ctxs.map Context.id).filter (fun c => (on c 0 && (on c 1 || granule c 1)) || (on c 1 && granule c 0))

end State

/-- THERMAL_WARN (R426, R437): a sensor at 95 °C or above; 0x53 and the die's islands throttled. -/
def execThermalWarn (s : State) : Out :=
  match s.cur with
  | some (.sensor n die temp) =>
    let t := s.noteTemp die temp
    .next (if (BitVec.ofNat 16 temp).toInt < 95 * 16 then t
      else (t.throttleDie die 0x53).tellAll 0x53 (BitVec.ofNat 64 n) (BitVec.ofNat 64 temp))
  | _ => .fault .noParty

/-- THERMAL_TRIP (R426, R437): a sensor at 110 °C or above; 0x54, and every context with a region on the die is frozen with
its queues stopped. -/
def execThermalTrip (s : State) : Out :=
  match s.cur with
  | some (.sensor n die temp) =>
    let t := s.noteTemp die temp
    .next (if (BitVec.ofNat 16 temp).toInt < 110 * 16 then t
      else (t.ctxsOn die).foldl (fun u c => u.freezeFor 0x54 true c) (t.tellAll 0x54 (BitVec.ofNat 64 n) (BitVec.ofNat 64 temp)))
  | _ => .fault .noParty

/-- THROTTLE_END (R426): the condition of a cause is over, and a die's islands issue at the full rate unless another cause
holds. -/
def execThrottleEnd (s : State) : Out :=
  match s.cur with
  | some (.units die cause) => let d := s.dev; .next { s with dev := { d with throttle := d.throttle.filter (fun x => x != (die, cause)) } }
  | _ => .fault .noParty

/-- The nominal voltage of a rail in mV: 0 the core supply, 1 the SRAM rail (R437). -/
def railNominal (rail : Nat) : Option Nat := if rail = 0 then some 675 else if rail = 1 then some 750 else none

/-- A rail's voltage lies outside a band of so many percent. -/
def outsideBand (rail mv percent : Nat) : Bool :=
  match railNominal rail with
  | some n => decide (n * percent < (if mv ≤ n then n - mv else mv - n) * 100)
  | none => false

/-- VOLTAGE_WARN (R437): a rail outside 3 percent for 10 µs. -/
def execVoltageWarn (s : State) : Out :=
  match s.cur with
  | some (.units rail mv) => .next (if outsideBand rail mv 3 then s.tellAll 0x55 (BitVec.ofNat 64 rail) (BitVec.ofNat 64 mv) else s)
  | _ => .fault .noParty

/-- VOLTAGE_FAULT (R426, R437): a rail outside 6 percent for 10 µs; every partition holds quads on both rails, and is
reset. -/
def execVoltageFault (s : State) : Out :=
  match s.cur with
  | some (.units rail mv) =>
    .next (if outsideBand rail mv 6 then
        ((s.parts.filter Partition.exist).map Partition.num).foldl (fun t p => t.resetPartition p)
          (s.tellAll 0x56 (BitVec.ofNat 64 rail) (BitVec.ofNat 64 mv))
      else s)
  | _ => .fault .noParty

/-- POWER_LIMIT (R426, R437): the package power's average over 1 ms in MGTPWR; above PLIMIT 0x5E, and both dies
throttled. -/
def execPowerLimit (s : State) : Out :=
  match s.cur with
  | some (.unit w) =>
    let d := s.dev
    let t : State := { s with dev := { d with mgtPwr := d.mgtPwr.extractLsb' 16 16 ++ BitVec.ofNat 16 w } }
    .next (if w ≤ d.plimit then t else ((t.throttleDie 0 0x5E).throttleDie 1 0x5E).tellAll 0x5E (BitVec.ofNat 64 w) 0)
  | _ => .fault .noParty

/-! ### Links (R356, R436) -/

/-- UCIE_FLIT_ERROR (R356, R426): a replay; after a failed one a retraining and a replay; after that 0x51 to every
partition, and every context that spans the dies is frozen. -/
def execUcieFlitError (s : State) : Out :=
  match s.cur with
  | some (.unit m) =>
    let t1 : State := { s with free := s.free + 1 }
    let t2 : State := { s with free := s.free + 2 }
    .next (if Config.retrySucceeds s.free then t1
      else if Config.retrySucceeds (s.free + 1) then t2.noteTransient none 0xC002 0x59
      else t2.ctxsAcross.foldl (fun u c => u.freezeFor 0x51 false c) (t2.tellAll 0x51 (BitVec.ofNat 64 m) 0))
  | _ => .fault .noParty

/-- GDDR_LINK_CRC (R356, R436): the burst is issued again, and a success logs 0x59; when that fails too, 0x5A and a retraining, during
which the device's MSE holds its requests, and the line it concerned may be found uncorrectable. -/
def execGddrLinkCrc (s : State) : Out :=
  match s.cur with
  | some (.unit ch) =>
    let t : State := { s with free := s.free + 1 }
    let d := t.dev
    .next (if Config.retrySucceeds s.free then t.noteTransient none (0x4000 + ch) 0x59
      else
        let l := Config.burstLine s.free
        let lost := if Config.retrySucceeds (s.free + 1) then [] else [(Space.dram, (l / 64 % 2 ^ 20 * 24 + ch) * 64 + l % 64)]
        ({ t with free := s.free + 2, dev := { d with
            failing := d.failing ++ lost
            retraining := if d.retraining.contains ch then d.retraining else d.retraining ++ [ch] } } : State).tellAll 0x5A (BitVec.ofNat 64 ch) 0)
  | _ => .fault .noParty

/-- GDDR_RETRAIN_DONE (R436): the held requests of the device's MSE proceed. -/
def execGddrRetrainDone (s : State) : Out :=
  match s.cur with
  | some (.unit ch) => let d := s.dev; .next { s with dev := { d with retraining := d.retraining.filter (fun x => x != ch) } }
  | _ => .fault .noParty

/-- PROMPTER_FAILOVER (R425): the standby watches the active Prompter's heartbeat; once that has lapsed for 100 µs it continues with
what is in progress, which it holds as the active one did, and 0x5B goes to every partition. -/
def execPrompterFailover (s : State) : Out :=
  match s.cur with
  | some .device =>
    let d := s.dev
    let t : State := { s with free := s.free + 1 }
    .next (if Config.prompterBeats s.free then { t with dev := { d with beatAt := s.cycle } }
      else if s.cycle.toNat < d.beatAt.toNat + 100 * Config.cyclesPerMicrosecond then t
      else ({ t with dev := { d with activeDie := 1 - d.activeDie, beatAt := s.cycle } } : State).tellAll 0x5B (d.fwver.setWidth 64) 0)
  | _ => .fault .noParty

/-- PCIE_LINK_UP (R433): core accesses to the host window reach the host. -/
def execPcieLinkUp (s : State) : Out :=
  match s.cur with
  | some .device => .next { s with dev := { s.dev with pcieUp := true } }
  | _ => .fault .noParty

/-- PCIE_LINK_DOWN (R433): core accesses to the host window are access faults. -/
def execPcieLinkDown (s : State) : Out :=
  match s.cur with
  | some .device => .next { s with dev := { s.dev with pcieUp := false } }
  | _ => .fault .noParty

/-! ### Function-level resets (R432) -/

/-- VF_FLR (R432): the contexts of the VF's guest are destroyed and its queues disabled. -/
def execVfFlr (s : State) : Out :=
  match s.cur with
  | some (.unit vf) =>
    .next (match s.guests.find? (fun g => g.vf == some vf) with
      | none => s
      | some g =>
        let cs := (s.ctxs.filter (fun x => x.id.part == g.id.part && x.id.guest == g.id.slot && x.exist)).map Context.id
        let t := cs.foldl (fun t c => t.dropContext c) s
        (t.modGuest g.id (fun x => { x with queues := x.queues.map (fun q =>
          { q with ctl := q.ctl &&& 0x7FFFFFFF#32, waiting := none, pages := [] }) })).modPart g.id.part
          (fun p => { p with tagWaiters := p.tagWaiters.filter (fun w => w.1 != g.id.slot) }))
  | _ => .fault .noParty

/-- PF_FLR (R432): every partition is reset, and the device stands as step 6 of the boot sequence leaves it, its firmware
and repair map kept. DEDUCED (log 120), unsafe. -/
def execPfFlr (s : State) : Out :=
  match s.cur with
  | some .device =>
    let t := (((s.parts.filter Partition.exist).map Partition.num).foldl (fun t p => t.resetPartition p) s).writeBackAll
    let d := t.dev
    .next { State.reset with
      cycle := t.cycle, time := t.time, sram := t.sram, dram := t.dram, hostMem := t.hostMem
      nextId := t.nextId, nextNotify := t.nextNotify, agenda := t.agenda, cur := t.cur, free := t.free
      dev := { State.reset.dev with
        powered := d.powered, bootStep := d.bootStep, coresReleased := d.coresReleased, activeDie := d.activeDie
        mgtTemp := d.mgtTemp, mgtPwr := d.mgtPwr, fwver := d.fwver, in0 := d.in0, in1 := d.in1
        cast := d.cast, retired := d.retired, shift := d.shift, repairSeq := d.repairSeq, repairWrites := d.repairWrites
        firmware := d.firmware, pcieUp := d.pcieUp, retraining := d.retraining, retiring := d.retiring
        failing := d.failing, suspect := d.suspect, poisoned := d.poisoned, poisonedWords := d.poisonedWords
        deadLines := d.deadLines, throttle := d.throttle } }
  | _ => .fault .noParty

/-! ### Boot (R254, R440, R441) -/

/-- The cast-map entry of a logical region at boot (R254): its own physical region, or the quad's spare in the place of
the first retired one; no region behind that. -/
def castAtBoot (retired shift : List Nat) (l : Nat) : Word :=
  let q := l / 4
  let own := 5 * q + l % 4
  let first := (List.range 4).map (fun i => 5 * q + i) |>.find? retired.contains
  let place : Option Nat :=
    if !retired.contains own then some own
    else if first = some own ∧ !retired.contains (5 * q + 4) then some (5 * q + 4)
    else none
  match place with
  | some p => BitVec.ofNat 32 (2 ^ 31 + p * 2 ^ 24 + ((shift[p]?).getD 0) % 16 * 2 ^ 20)
  | none => 0

/-- The version of the firmware image that boots: the valid one of higher version (R441). -/
def bootImage (l : List (Nat × Bool)) : Option Nat :=
  (l.filter Prod.snd).foldl (fun m x => some (match m with
    | some v => max v x.1
    | none => x.1)) none

/-- POWER_GOOD (R441): the boot sequence up to the release of the cores; without a valid image the Prompter stays in
recovery with FWVER 0. The dies' first sensor readings are taken on the way. -/
def execPowerGood (s : State) : Out :=
  match s.cur with
  | some .device =>
    let d := s.dev
    .next (if d.powered then s
      else match bootImage d.firmware with
        | none => { s with dev := { d with powered := true, bootStep := 2, activeDie := 0, fwver := 0 } }
        | some v =>
          let t := s.zeroRange .dram (46 * 2 ^ 31) (48 * 2 ^ 31)
          { t with
            free := s.free + 1
            dev := { d with
              powered := true
              bootStep := 6
              activeDie := 0
              beatAt := s.cycle
              fwver := BitVec.ofNat 32 v
              mgtTemp := Config.freeWord s.free
              logTimeAt := s.cycle
              cast := (List.range 64).map (castAtBoot d.retired d.shift)
              coresReleased := true } })
  | _ => .fault .noParty

/-! ### Pins (R442) -/

/-- SAFECTL_CLR (R442): the incident output is deasserted. -/
def execSafectlClr (s : State) : Out :=
  match s.cur with
  | some .device => .next { s with dev := { s.dev with incident := false } }
  | _ => .fault .noParty

/-- SAFECTL_FORCE (R442): the incident output is asserted. -/
def execSafectlForce (s : State) : Out :=
  match s.cur with
  | some .device => .next { s with dev := { s.dev with incident := true } }
  | _ => .fault .noParty

/-- SAFETY_TRIGGER (R368, R442): a trigger input is asserted; 0x5D to every partition, and the Logbook freezes when the
input is enabled. -/
def execSafetyTrigger (s : State) : Out :=
  match s.cur with
  | some (.unit n) =>
    let d := s.dev
    let t : State := { s with dev := { d with in0 := if n = 0 then true else d.in0, in1 := if n = 1 then true else d.in1 } }
    let u := t.tellAll 0x5D (BitVec.ofNat 64 n) 0
    .next (if n < 2 ∧ d.lbCtl.getLsbD (28 + n) then u.lbFreeze 0x5D else u)
  | _ => .fault .noParty

/-- TRIGGER_INPUT_RISE (R442): a trigger input is deasserted. -/
def execTriggerInputRise (s : State) : Out :=
  match s.cur with
  | some (.unit n) =>
    let d := s.dev
    .next { s with dev := { d with in0 := if n = 0 then false else d.in0, in1 := if n = 1 then false else d.in1 } }
  | _ => .fault .noParty

/-! ### Ethernet (R434, R435) -/

namespace State

/-- A port of the device changed. -/
def modPort (s : State) (n : Nat) (f : EthPort → EthPort) : State :=
  let d := s.dev
  { s with dev := { d with ports := update (fun p => p.num == n) f none d.ports } }

/-- A port of the device. -/
def port? (s : State) (n : Nat) : Option EthPort := s.dev.ports.find? (fun p => p.num == n)

/-- A range of device memory, cut at its 4 KiB pages: addresses and lengths. -/
def pieces (a n : Nat) : List (Nat × Nat) :=
  (List.range ((a + n + 4095) / 4096 - a / 4096)).map (fun i =>
    let lo := max a ((a / 4096 + i) * 4096)
    (lo, min (a + n) ((a / 4096 + i + 1) * 4096) - lo))

/-- Committed bytes of device memory, as they are backed (R302). -/
def readPages (s : State) (a n : Nat) : List Byte :=
  (pieces a n).flatMap (fun x => s.viewBytes .dram none (s.backed none .dram x.1) x.2)

/-- Bytes written to device memory at once, as it is backed. -/
def writePages (s : State) (a : Nat) (bs : List Byte) : State :=
  (pieces a bs.length).foldl (fun t x => t.writeNow .dram (t.backed none .dram x.1) ((bs.drop (x.1 - a)).take x.2)) s

/-- A page of a range of device memory at which a port's DMA has to wait (R338, R340, R436). -/
def dmaWaits (s : State) (part a len : Nat) (write : Bool) : Bool :=
  (pieces a len).any (fun x => (s.awaited part .dram x.1 write).isSome)

/-- The next descriptor of a port's ring, in the partition's device memory (R434): nothing while its bytes have to be waited for. -/
def etherFetch (s : State) (n part : Nat) (rx : Bool) (i : Nat) : Option EthDesc :=
  let a := Config.etherRing n rx i
  if s.addressBad part s.nextId false a ∨ s.dmaWaits part a 64 false then none
  else (Config.etherDesc rx (s.readPages a 64)).map (fun x =>
    { addr := x.1, len := x.2.1, cls := x.2.2.2
      ctx := x.2.2.1.map (fun w => { part := part, guest := bitsOf w.toNat 27 2, num := bitsOf w.toNat 0 16 }) })

/-- The port that the device's IEEE 802.1AS end station uses: port 0, or port 1 while port 0 is unassigned (R435). -/
def timePort (s : State) : Nat := if ((s.port? 0).bind EthPort.part).isSome then 0 else 1

/-- The oldest frame that a port has received is written where its next receive descriptor says, as a committed write; without a
descriptor, with one that it does not fit, or where it would alter a resident image, it is dropped (R74, R302, R434). -/
def etherStore (s : State) (n : Nat) (p : EthPort) (part : Nat) : State :=
  match p.inbox, p.rx with
  | [], _ => s
  | data :: more, d :: rest =>
    if d.len < data.length ∨ (pieces d.addr data.length).any (fun x => s.addressBad part s.nextId false x.1 || s.imageAt .dram x.1) then
      s.modPort n (fun x => { x with inbox := more })
    else if s.dmaWaits part d.addr data.length true then
      ((pieces d.addr data.length).filter (fun x => s.replicaAt part .dram x.1)).foldl (fun t x => t.startCollapse part (s.frameOf .dram x.1)) s
    else (s.modPort n (fun x => { x with inbox := more, rx := rest })).writePages d.addr data
  | _ :: more, [] =>
    match s.etherFetch n part true p.rxNext with
    | some d => s.modPort n (fun x => { x with rx := [d], rxNext := x.rxNext + 1 })
    | none =>
      if s.dmaWaits part (Config.etherRing n true p.rxNext) 64 false then s else s.modPort n (fun x => { x with inbox := more })

end State

/-- ETHERNET_TRANSMIT (R302, R362, R434, R435): the oldest transmit descriptor whose traffic class has its gate open is sent, of committed
bytes alone; one that names a CTXID seals that context's window at its next commit point. One whose buffer lies outside the partition's
memory is dropped. With none to send, the ring's next descriptor is fetched. DEDUCED (log 121), unsafe. -/
def execEthernetTransmit (s : State) : Out :=
  match s.cur with
  | some (.unit n) =>
    .next (match s.port? n with
      | none => s
      | some p =>
        match p.part with
        | none => s
        | some part =>
          match p.tx.find? (fun d => p.mask.getLsbD (d.cls % 8)) with
          | some d =>
            if (State.pieces d.addr d.len).any (fun x => s.addressBad part s.nextId false x.1) then s.modPort n (fun x => { x with tx := x.tx.erase d })
            else if s.dmaWaits part d.addr d.len false then s
            else
              let t := s.modPort n (fun x => { x with tx := x.tx.erase d, sent := x.sent ++ [s.readPages d.addr d.len] })
              match d.ctx with
              | some c => t.modCtx c (fun x => { x with atClose := x.atClose ++ [(x.round, .engineSeal)] })
              | none => t
          | none =>
            match s.etherFetch n part false p.txNext with
            | some d => s.modPort n (fun x => { x with tx := x.tx ++ [d], txNext := x.txNext + 1 })
            | none => s)
  | _ => .fault .noParty

/-- ETHERNET_RECEIVE (R302, R434, R435): a frame arrives at a port; at the end station's port one of the IEEE 802.1AS protocol sets the
time. An assigned port keeps it until it is written; the port's own turn writes the oldest. DEDUCED (log 121), unsafe. -/
def execEthernetReceive (s : State) : Out :=
  match s.cur with
  | some (.bytes n data) =>
    let t : State := match (if n = s.timePort then Config.syncFrame data else none) with
      | some v => { s with time := v }
      | none => s
    .next (t.modPort n (fun x => if x.part.isSome then { x with inbox := x.inbox ++ [data] } else x))
  | some (.unit n) =>
    .next (match s.port? n with
      | none => s
      | some p =>
        match p.part with
        | none => s
        | some part => s.etherStore n p part)
  | _ => .fault .noParty

/-- GATE_CONTROL_INTERVAL (R435): the gate control list of a port, of up to 256 entries, begins at its base time; each entry's mask is in
force for its interval. -/
def execGateControlInterval (s : State) : Out :=
  match s.cur with
  | some (.unit n) =>
    .next (match s.port? n with
      | none => s
      | some p =>
        match p.gates[p.pos]? with
        | none =>
          let g := Config.gateList n s.free
          ({ s with free := s.free + 1 } : State).modPort n (fun x => { x with gates := g.2.take 256, gateAt := g.1, pos := 0 })
        | some (m, ns) =>
          if s.time.toNat < p.gateAt.toNat then s
          else s.modPort n (fun x => { x with mask := m, pos := (x.pos + 1) % x.gates.length, gateAt := x.gateAt + ns.setWidth 64 }))
  | _ => .fault .noParty

end Sys2Proof.Machine
end

