-- ==== Sys2Proof/Machine/Matrix.lean ====
section
/-!
DEFINITION. The arithmetic of the island (R41, R188, R199 to R201, R206 to R208): elements of tile registers, exact sums
rounded once, the matrix step, the vector operations and the conversions.
-/
namespace Sys2Proof.Machine

/-- An exact element: a NaN as a quiet FP32 code with whether it signalled, the result of an invalid product, or a
value (R16). -/
inductive El where
  | nan (code : Nat) (signals : Bool)
  | bad
  | num (n : Num)
  deriving DecidableEq, Repr

namespace El

/-- The element of a code of a binary format. -/
def ofCode (f : Fmt) (c : Nat) : El :=
  if f.isNan c then .nan (Fmt.f32.quiet (carryNan f .f32 c)) (f.isSnan c) else .num (numOf f c)

/-- The element of an FX4 code under its block's metadata (R19, R20). -/
def ofFx4 (meta_ c : Nat) : El :=
  if bitsOf meta_ 8 8 = 0xFF then .nan (0x7FC00000 + c) false
  else
    let v := Fx4.exactVal meta_ c
    .num (.fin ⟨v < 0 || (v == 0 && c == 8 && bitsOf meta_ 5 1 == 1), v.natAbs, -164⟩)

/-- The exact product (R16). -/
def mul (a b : El) : El :=
  match a, b with
  | .nan c s, .nan _ t => .nan c (s || t)
  | .nan c s, .bad => .nan c (s || true)
  | .nan c s, .num _ => .nan c s
  | .bad, .nan c _ => .nan c true
  | .num _, .nan c s => .nan c s
  | .bad, _ => .bad
  | _, .bad => .bad
  | .num x, .num y => match numMul x y with
    | some p => .num p
    | none => .bad

/-- The element raises IV (R16). -/
def iv : El → Bool
  | .nan _ s => s
  | .bad => true
  | .num _ => false

/-- The code of a NaN. -/
def nanCode : El → Option Nat
  | .nan c _ => some c
  | _ => none

/-- The sign of an infinity. -/
def infSign : El → Option Bool
  | .num (.inf s) => some s
  | _ => none

/-- A finite value. -/
def dy : El → Option Dy
  | .num (.fin d) => some d
  | _ => none

end El

/-- An exact sum of finite values: its sign, magnitude and last exponent; a zero sum keeps the sign that all of them
share, and is otherwise −0 in RDN alone (R27, R41). -/
def dySum (md : Nat) (ds : List Dy) : Dy :=
  let e := ds.foldl (fun m d => min m d.exp) 0
  let v : Int := ds.foldl (fun x d =>
    let n : Int := (d.mant * 2 ^ (d.exp - e).toNat : Nat)
    x + (if d.neg then -n else n)) 0
  if v ≠ 0 then ⟨v < 0, v.natAbs, e⟩
  else
    let zeros := ds.all (fun d => d.mant == 0)
    let neg := if zeros && ds.all Dy.neg then true else if zeros && ds.all (fun d => !d.neg) then false else md == 3
    ⟨neg, 0, e⟩

/-- An exact sum rounded once to FP32 (R16, R26, R27, R41). `scan` gives the operands in the order in which a NaN is
looked for. DESIGN CHOICE (log 150), unsafe. -/
def sumEls (md : Nat) (scan els : List El) : Nat × Flags :=
  let iv := scan.any El.iv || els.any El.iv
  match scan.findSome? El.nanCode with
  | some c => (c, Flags.ivIf iv)
  | none =>
    if els.any (fun x => x == .bad) then invalid .f32
    else match els.filterMap El.infSign with
      | [] => roundTo .f32 md false (dySum md (els.filterMap El.dy))
      | s :: rest => if rest.all (fun t => t == s) then (Fmt.f32.code s Fmt.f32.infMag, Flags.ivIf iv) else invalid .f32

/-- An exact sum before any rounding: the first NaN, an invalid sum, an infinity or the value (R16, R200). -/
def El.total (els : List El) : El :=
  match els.find? (fun x => x.nanCode.isSome) with
  | some x => x
  | none =>
    if els.any (fun x => x == .bad) then .bad
    else match els.filterMap El.infSign with
      | [] => .num (.fin (dySum 0 (els.filterMap El.dy)))
      | s :: rest => if rest.all (fun t => t == s) then .num (.inf s) else .bad

/-! ### Tile registers (R188) -/

namespace TileReg

/-- The code at an element position of the code plane, `w` bits wide. -/
def code (t : TileReg) (w p : Nat) : Nat := bitsOf ((t.rows[p * w / 512]?).getD 0).toNat (p * w % 512) w

/-- A code placed at an element position. -/
def setCode (t : TileReg) (w p v : Nat) : TileReg :=
  let i := p * w / 512
  let o := p * w % 512
  let row := ((t.rows[i]?).getD 0).toNat
  { t with rows := t.rows.set i (BitVec.ofNat 512 (row - bitsOf row o w * 2 ^ o + v % 2 ^ w * 2 ^ o)) }

/-- FX4 metadata word `j` of the side plane (R188). -/
def metaWord (t : TileReg) (j : Nat) : Nat := bitsOf t.side.toNat (16 * j) 16

/-- A metadata word replaced. -/
def setMeta (t : TileReg) (j v : Nat) : TileReg :=
  let x := t.side.toNat
  { t with side := BitVec.ofNat 1024 (x - bitsOf x (16 * j) 16 * 2 ^ (16 * j) + v % 2 ^ 16 * 2 ^ (16 * j)) }

/-- The exact value at a code-plane position: with its block's scale and spare, or with the scale of its row (R200). -/
def elAt (t : TileReg) (ty : Ty) (p : Nat) : El :=
  match ty with
  | .fx4x8 => El.ofFx4 (t.metaWord (p / 32)) (t.code 4 p)
  | _ =>
    let v := El.ofCode (Fmt.ofTy ty) (t.code ty.width p)
    if t.smode = 2 then v.mul (El.ofCode .f32 (bitsOf t.side.toNat (32 * (p / (512 / ty.width))) 32)) else v

/-- The integer at a code-plane position of an I8 or N8 tile. -/
def intAt (t : TileReg) (ty : Ty) (p : Nat) : Int := laneInt ty (t.code 8 p)

/-- Both planes zero (R208). -/
def blank (t : TileReg) : TileReg := { t with rows := List.replicate 16 0, side := 0, sc := false }

/-- The side plane as two rows (R202, R203). -/
def sideRow (t : TileReg) (i : Nat) : BitVec 512 := t.side.extractLsb' (512 * i) 512

end TileReg

/-- A side plane from rows, those missing zero (R202). -/
def sideOf (rows : List (BitVec 512)) : BitVec 1024 :=
  BitVec.ofNat 1024 (((rows[0]?).getD 0).toNat + ((rows[1]?).getD 0).toNat * 2 ^ 512)

/-- Code rows of a register, those missing zero (R202). -/
def codeRows (rows : List (BitVec 512)) : List (BitVec 512) := (List.range 16).map (fun i => (rows[i]?).getD 0)

/-- Elements of a row: K (R199). -/
def depth (ty : Ty) : Nat := 512 / ty.width

/-- The logical side rows that a side mode uses behind the code rows (R202, R203). -/
def sideRows (smode : Nat) : List Nat :=
  match smode with
  | 1 => [16, 17]
  | 2 => [16]
  | _ => []

/-! ### The matrix step (R200, R201) -/

/-- The position of DC's element k for column j: row-major, or K-major under MMAT (R200). -/
def dcPos (kmajor : Bool) (ty : Ty) (k j : Nat) : Nat := if kmajor then 16 * k + j else depth ty * j + k

/-- One FP32 cell: the accumulator and the products, their exact sum scaled by the factor, in one exact sum (R41, R200).
A finite factor scales each product, which is the same sum; an infinite one scales the sum. -/
def mmaCell (ty : Ty) (kmajor : Bool) (f : Option Nat) (b c : TileReg) (acc i j : Nat) : Nat × Flags :=
  let ps := (List.range (depth ty)).map (fun k => (b.elAt ty (depth ty * i + k)).mul (c.elAt ty (dcPos kmajor ty k j)))
  let a := El.ofCode .f32 acc
  match f with
  | none => sumEls 0 (ps ++ [a]) (ps ++ [a])
  | some v =>
    let x := El.ofCode .f32 v
    match x with
    | .num (.inf _) => sumEls 0 (ps ++ [x, a]) [(El.total ps).mul x, a]
    | _ => sumEls 0 (ps ++ [x, a]) (ps.map (fun p => p.mul x) ++ [a])

/-- An exact integer times an FP32 factor, when that is an integer. -/
def scaledInt (f : Nat) (v : Int) : Option Int :=
  match El.ofCode .f32 f with
  | .num (.fin d) =>
    let n : Int := v * (if d.neg then -(d.mant : Int) else (d.mant : Int))
    if 0 ≤ d.exp then some (n * (2 ^ d.exp.toNat : Nat))
    else if n % (2 ^ (-d.exp).toNat : Nat) = 0 then some (n / (2 ^ (-d.exp).toNat : Nat)) else none
  | _ => none

/-- One INT32 cell, wrapped (R41, R200). -/
def mmaCellInt (ty : Ty) (kmajor : Bool) (f : Option Nat) (b c : TileReg) (acc : Word) (i j : Nat) : Word :=
  let e := (List.range (depth ty)).foldl (fun (x : Int) k =>
    x + b.intAt ty (depth ty * i + k) * c.intAt ty (dcPos kmajor ty k j)) 0
  match f with
  | none => BitVec.ofInt 32 (acc.toInt + e)
  | some v => match scaledInt v e with
    | some n => BitVec.ofInt 32 (acc.toInt + n)
    | none => Config.mmasInteger acc (BitVec.ofNat 32 v) e

namespace Accum

/-- Cell (i, j). DESIGN CHOICE (log 11), unsafe. -/
def cell (a : Accum) (i j : Nat) : Nat := ((a.cells[16 * i + j]?).getD 0).toNat

/-- The cells that a function of row and column gives, with the union of their flags. -/
def build (f : Nat → Nat → Nat × Flags) : List Word × Flags :=
  let l := (List.range 256).map (fun n => f (n / 16) (n % 16))
  (l.map (fun x => BitVec.ofNat 32 x.1), unionAll l)

/-- The matrix step on an accumulator (R200). -/
def step (a : Accum) (ty : Ty) (kmajor : Bool) (f : Option Nat) (b c : TileReg) : Accum × Flags :=
  if a.int then
    ({ a with cells := (List.range 256).map (fun n => mmaCellInt ty kmajor f b c ((a.cells[n]?).getD 0) (n / 16) (n % 16)) }, Flags.none)
  else
    let r := build (fun i j => mmaCell ty kmajor f b c (a.cell i j) i j)
    ({ a with cells := r.1 }, r.2)

/-- The FMAXM fold of a row in ascending column order (R206). -/
def rowMax (a : Accum) (i : Nat) : Nat × Flags :=
  (List.range 15).foldl (fun x j =>
    let r := fminLane .f32 true true x.1 (a.cell i (j + 1))
    (r.1, x.2.union r.2)) (a.cell i 0, Flags.none)

/-- The exact sum of a row, rounded once (R206). -/
def rowSum (md : Nat) (a : Accum) (i : Nat) : Nat × Flags :=
  let els := (List.range 16).map (fun j => El.ofCode .f32 (a.cell i j))
  sumEls md els els

end Accum

/-! ### Conversions (R208) -/

/-- One row of VCVT into column group g: codes, metadata and flags. -/
def vcvtRow (ty : Ty) (md : Nat) (sat useMeta : Bool) (g i : Nat) (b c : Accum) (t : TileReg) : TileReg × Flags :=
  let row (a : Accum) : List Nat := (List.range 16).map (a.cell i)
  match ty with
  | .fx4x8 =>
    let xs := row b ++ row c
    let q := if useMeta then Fx4.encodeWith (t.metaWord (4 * i + g)) xs else Fx4.encode xs
    let t1 := q.2.1.zipIdx.foldl (fun x v => x.setCode 4 (128 * i + 32 * g + v.2) v.1) t
    (if useMeta then t1 else t1.setMeta (4 * i + g) q.1, q.2.2)
  | _ =>
    let one (v : Nat) : Nat × Flags :=
      if ty.isFloat then convertLane .f32 (Fmt.ofTy ty) md sat false v else satw 8 ty.signed (signedNat 32 v)
    let rs := (row b).map one
    (rs.zipIdx.foldl (fun x v => x.setCode ty.width (depth ty * i + 16 * g + v.2) v.1.1) t, unionAll rs)

/-- Every row of VCVT, one after the other. -/
def vcvtRows (ty : Ty) (md : Nat) (sat useMeta : Bool) (g : Nat) (b c : Accum) (t : TileReg) : TileReg × Flags :=
  (List.range 16).foldl (fun x i =>
    let r := vcvtRow ty md sat useMeta g i b c x.1
    (r.1, x.2.union r.2)) (t, Flags.none)

end Sys2Proof.Machine
end

