-- ==== Sys2Proof/Machine/Island.lean ====
section
/-!
DEFINITION. The systolic island (R188 to R213, R273 to R277): arming, passes and section ends, its lanes, its scratchpad
operands, its instructions and its cuts. An instruction issues and completes in one turn.
-/
namespace Sys2Proof

/-- The number of an S designator. -/
def Desig.num : Desig → Nat
  | .t n => n.toNat
  | .a n => n.toNat
  | .s n => n.toNat
  | .bad n => n.toNat

/-- The designator names a descriptor pair. -/
def Desig.pair : Desig → Bool
  | .s _ => true
  | _ => false

end Sys2Proof

namespace Sys2Proof.Machine

/-- Why an island instruction is not performed in this turn. -/
inductive Hold where
  | wait
  /-- A cause of path P with its INFO0 and the node it concerns. -/
  | fault (cause : Nat) (info0 : DWord) (node : Nat) (t : State)
  /-- A voiding cause has been raised. -/
  | gone (t : State)
  /-- The section's EOS stood at the head of a lane and has been consumed (R194). -/
  | eos (lane : Nat) (t : State)
  deriving DecidableEq

/-- An island instruction performed: the registers, the rest of the state, its flags. -/
structure Done where
  x : IslandState
  t : State
  flags : Flags := Flags.none

namespace IslandState

/-- A register of each kind; a designator of another kind reads the first. -/
def tile (x : IslandState) (d : Desig) : TileReg := match d with
  | .t n => (x.t[n.toNat]?).getD TileReg.empty
  | _ => TileReg.empty
def acc (x : IslandState) (d : Desig) : Accum := match d with
  | .a n => (x.a[n.toNat]?).getD Accum.zero
  | _ => Accum.zero
def scalar (x : IslandState) (n : Nat) : SReg := (x.s[n]?).getD {}
def setTile (x : IslandState) (d : Desig) (r : TileReg) : IslandState := match d with
  | .t n => { x with t := x.t.set n.toNat r }
  | _ => x
def setAcc (x : IslandState) (d : Desig) (r : Accum) : IslandState := match d with
  | .a n => { x with a := x.a.set n.toNat r }
  | _ => x
def setScalar (x : IslandState) (n : Nat) (r : SReg) : IslandState := { x with s := x.s.set n r }

/-- Packets or tokens sent on a lane for the tag (R189). -/
def count (x : IslandState) (lane : Nat) : Nat := (lookup lane x.sent).getD 0

end IslandState

namespace State

/-! ### Lanes (R194, R195, R210) -/

/-- EORs at the head of an input lane, consumed without effect (R194). -/
def dropEors (l : List Item) : List Item := l.dropWhile (fun i => i.isKind .eor)

/-- The head of an input lane behind its EORs, and the state without them; none at a mark or an empty lane. -/
def laneHead (s : State) (k : PageKey) (lane : Nat) : Option Item × State :=
  let q : Place := .laneIn lane
  let l := dropEors ((s.dyn k).fifo q)
  let t := if l = (s.dyn k).fifo q then s else s.modDyn k (fun d => d.setFifo q l)
  match l with
  | [] => (none, t)
  | i :: _ => (if i.weightless then none else some i, t)

/-- The payload of a head: a packet's tile index. -/
def headPay : Item → DWord
  | .tok t => t.pay.setWidth 64
  | .head h _ => (h.extractLsb' 0 32).setWidth 64
  | .row _ => 0

/-- The head of an input lane as an instruction of the section takes it (R194, R195): a packet, or else a data token. -/
def takeHead (s : State) (k : PageKey) (tag : Tag) (lane : Nat) (packet : Bool) : Except Hold (Item × State) :=
  let r := s.laneHead k lane
  let t := r.2
  match r.1 with
  | none => .error .wait
  | some i =>
    let stop (c : Nat) : Except Hold (Item × State) := .error (.fault c (headPay i) 0 t)
    if i.tag? ≠ some tag then stop 0x36
    else if i.isKind .strike then stop 0x37
    else if i.isKind .eos then .error (.eos lane (t.modDyn k (fun d => d.pop (.laneIn lane))))
    else
      let check := match ((s.page? k).map Page.lanes).getD [] |>.find? (fun l => !l.out && l.lane == lane) with
        | some l => l.sck
        | none => 0
      let bad (sc : Bool) : Bool := (check == 1 && sc) || (check == 2 && !sc)
      match i with
      | .tok u => if packet then stop 0x35 else if bad u.sc then stop 0x34 else .ok (i, t)
      | .head h _ => if !packet then stop 0x35 else if bad (bitsOf h.toNat 57 1 == 1) then stop 0x34 else .ok (i, t)
      | .row _ => .error .wait

/-- The rows of a packet behind its header, once all of them stand in the lane (R278). -/
def packetRows (l : List Item) (n : Nat) : Option (List (BitVec 512)) :=
  let rows := (l.take n).filterMap (fun i => match i with
    | .row r => some r
    | _ => none)
  if rows.length = n then some rows else none

/-- Items sent on an output lane when it has room for all of them (R190, R194). -/
def sendLane (s : State) (k : PageKey) (lane : Nat) (items : List Item) : Except Hold State :=
  let d := s.dyn k
  let q : Place := .laneOut lane
  if d.used q + items.length ≤ Place.cap q then .ok (s.modDyn k (fun d => items.foldl (fun y i => y.push q i) d))
  else .error .wait

/-! ### Scratchpad operands (R196, R197) -/

/-- The addresses of logical rows of a pair, each checked in order (R197). -/
def scratchRows (s : State) (k : PageKey) (x : IslandState) (n node : Nat) : List Nat → Except Hold (List (Nat × Nat))
  | [] => .ok []
  | r :: rest =>
    let b := (x.scalar n).v.toNat
    let rp := bitsOf (x.scalar (n + 1)).v.toNat 0 12
    let pos := b + r * rp * 64
    let d := s.nodeDesc k node
    let a := s.nodeBase k d + pos
    let stop (c : Nat) : Except Hold (List (Nat × Nat)) := .error (.fault c (BitVec.ofNat 64 pos) node s)
    if b % 64 ≠ 0 then stop 0x2D
    else if pos < d.low ∨ d.limit < pos + 64 then stop 0x2C
    else if a % 64 ≠ 0 then stop 0x2D
    else if 2 ^ 28 < a + 64 ∨ !s.granted k.ctx a then stop 0x2E
    else (s.scratchRows k x n node rest).map (fun l => (r, a) :: l)

/-- The rotation of logical row r (R197). -/
def rotOf (x : IslandState) (n r : Nat) : Nat := r * bitsOf (x.scalar (n + 1)).v.toNat 28 4 % 16

/-- The advance of a pair behind its access (R197). -/
def advancePair (x : IslandState) (n : Nat) (adv : Bool) : IslandState :=
  if adv then
    let r := x.scalar n
    x.setScalar n { r with v := r.v + BitVec.ofNat 32 (bitsOf (x.scalar (n + 1)).v.toNat 12 16 * 64) }
  else x

/-- The island as a party that accesses memory: behind its registers, its node's mask and its own accesses to the
place (R181, R198). DEDUCED (log 16), unsafe. -/
def islandWho (s : State) (k : PageKey) (x : IslandState) (n node a : Nat) (extra : Dep) : Who :=
  let d := s.nodeDesc k node
  let dep := (((x.scalar n).dep.join (x.scalar (n + 1)).dep).join (s.maskDep k d.order x.tag)).join
    ((s.seenDep (.island k) .sram a 64).join extra)
  s.who (.island k) x.tag dep

/-- What an access of the island leaves behind: its knowledge, and the frame's activity. -/
def noteIsland (s : State) (k : PageKey) (round node a : Nat) (tag : Tag) (d : Dep) : State :=
  (s.addSeen (.island k) round .sram a 64 d).addNodeDep k node tag round d

/-- Rows read at their homes, words put back in logical order (R197, R198): the rows and the ordering they carry. -/
def loadRows (s : State) (k : PageKey) (x : IslandState) (n node : Nat) : List (Nat × Nat) → Except Hold (List (BitVec 512) × Dep × State)
  | [] => .ok ([], {}, s)
  | (r, a) :: rest =>
    let w := s.islandWho k x n node a {}
    if s.maskHolds k (s.nodeDesc k node).order x.tag ∨ !s.pendOver w.dep then .error .wait
    else match s.reachAt (.island k) 0 true a 64 false false x.tag w.round with
      | .wait _ => .error .wait
      | .gone t => .error (.gone t)
      | .stop c t => .error (.fault c (BitVec.ofNat 64 a) node t)
      | .ready sp pa t =>
        let q := t.readElem w sp pa 64
        let rot := rotOf x n r
        let ws := (List.range 16).map (fun i => (q.1[(i + rot) % 16]?).getD 0)
        match (q.2.2.noteIsland k w.round node a x.tag q.2.1).loadRows k x n node rest with
        | .error h => .error h
        | .ok u => .ok (rowOf ws :: u.1, q.2.1.join u.2.1, u.2.2)

/-- Rows stored at their homes, words rotated into their places (R197, R198). -/
def storeRows (s : State) (k : PageKey) (x : IslandState) (n node : Nat) (dep : Dep) : List ((Nat × Nat) × BitVec 512) → Except Hold (Dep × State)
  | [] => .ok ({}, s)
  | ((r, a), row) :: rest =>
    let w := s.islandWho k x n node a dep
    if s.maskHolds k (s.nodeDesc k node).order x.tag ∨ !s.pendOver w.dep then .error .wait
    else match s.reachAt (.island k) 0 true a 64 true false x.tag w.round with
      | .wait _ => .error .wait
      | .gone t => .error (.gone t)
      | .stop c t => .error (.fault c (BitVec.ofNat 64 a) node t)
      | .ready sp pa t =>
        let rot := rotOf x n r
        let ws := rowWords row
        let phys := (List.range 16).map (fun i => (ws[(i + 16 - rot) % 16]?).getD 0)
        let q := t.storeElem w sp pa pa (rowBytes (rowOf phys))
        match (q.2.noteIsland k w.round node a x.tag q.1).storeRows k x n node dep rest with
        | .error h => .error h
        | .ok u => .ok (q.1.join u.1, u.2)

/-- Logical rows of a pair read, every row checked before the first access (R197). DEDUCED (log 63), unsafe. -/
def loadPair (s : State) (k : PageKey) (x : IslandState) (n node : Nat) (rs : List Nat) : Except Hold (List (BitVec 512) × Dep × State) :=
  match s.scratchRows k x n node rs with
  | .error h => .error h
  | .ok l => s.loadRows k x n node l

/-- Logical rows of a pair written, every row checked before the first access (R197). -/
def storePair (s : State) (k : PageKey) (x : IslandState) (n node : Nat) (dep : Dep) (rs : List (Nat × BitVec 512)) : Except Hold (Dep × State) :=
  match s.scratchRows k x n node (rs.map Prod.fst) with
  | .error h => .error h
  | .ok l => s.storeRows k x n node dep (l.zip (rs.map Prod.snd))

/-- A tile from rows read from scratchpad: code rows and side rows (R199, R202). -/
def tileOf (fmt smode nrow : Nat) (sc : Bool) (rows : List (BitVec 512)) (dep : Dep) : TileReg :=
  { fmt := fmt, smode := smode, sc := sc, nrow := nrow, rows := codeRows (rows.take (nrow + 1)), side := sideOf (rows.drop (nrow + 1)), dep := dep }

/-! ### The sequencer (R189, R190, R209) -/

/-- The island of a page changed. -/
def setIsland (s : State) (k : PageKey) (x : IslandState) : State := s.modDyn k (fun d => { d with island := x })

/-- The word at the island's program counter. -/
def islandWord (s : State) (k : PageKey) : DWord :=
  match s.page? k with
  | some p => p.insWord p.islandHeader p.dyn.island.pc
  | none => 0

/-- A cause of the island: it stops in place (R211). -/
def islandFault (s : State) (k : PageKey) (cause : Nat) (info0 : DWord) (node : Nat) : State :=
  s.faultWide cause (.island k) (s.dyn k).island.tag info0 node

/-- An instruction of the section in its turn: performed and behind it, held, or not performed by a fault. `jump` says
that the instruction sets the program counter itself. -/
def islandStep (s : State) (k : PageKey) (jump : Bool) (f : IslandState → Except Hold Done) : State :=
  if !s.islandRuns k then s
  else
    match f (s.dyn k).island with
    | .error .wait => s
    | .error (.gone t) => t
    | .error (.fault c v n t) => t.islandFault k c v n
    | .error (.eos lane t) => t.setIsland k { (t.dyn k).island with phase := .ending, eosTaken := (t.dyn k).island.eosTaken ++ [lane] }
    | .ok d =>
      let t := (d.t.setIsland k (if jump then d.x else d.x.advance)).touch k d.x.tag
      if d.flags = Flags.none then t
      else
        let u : State := { t with free := t.free + 1 }
        u.raiseFlags d.flags (.island k) d.x.tag ((Config.islandReport t.free).setWidth 32)

/-- An island word in the island whose turn it is. -/
def runIsl (s : State) (jump : Bool) (f : PageKey → IslandState → Except Hold Done) : Out :=
  match s.cur with
  | some (.party (.island k)) => .next (s.islandStep k jump (f k))
  | _ => .fault .noParty

/-- 0x3D ISLAND_OPERAND with the instruction's word (R211, R350). DEDUCED (log 15), unsafe. -/
def badOperand (s : State) (k : PageKey) : Hold := .fault 0x3D (s.islandWord k) 0 s

/-! ### The matrix step -/

/-- The side modes that a format's register operands may have (R199). -/
def smodeOk (ty : Ty) (sm : Nat) : Bool :=
  match ty with
  | .i8x4 | .n8x4 => sm == 0
  | .fx4x8 => sm == 1
  | _ => sm == 0 || sm == 2

/-- A register operand that the step does not accept (R199). -/
def badTile (x : IslandState) (ty : Ty) (d : Desig) (noScale : Bool) : Bool :=
  match d with
  | .t _ => let r := x.tile d; r.fmt != ty.code || !smodeOk ty r.smode || (noScale && r.smode == 2)
  | _ => false

/-- A multiplicand: a register, or 16 rows of scratchpad with the metadata rows of FX4 (R199). -/
def multiplicand (s : State) (k : PageKey) (x : IslandState) (ty : Ty) (d : Desig) (node : Nat) : Except Hold (TileReg × State) :=
  match d with
  | .s n =>
    let sm := if ty = .fx4x8 then 1 else 0
    match s.loadPair k x n.toNat node (List.range 16 ++ sideRows sm) with
    | .error h => .error h
    | .ok q => .ok (tileOf ty.code sm 15 false q.1 q.2.1, q.2.2)
  | _ => .ok (x.tile d, s)

/-- The rows of a multiplicand in scratchpad are checked before anything is performed (R197). -/
def checkPair (s : State) (k : PageKey) (x : IslandState) (ty : Ty) (d : Desig) (node : Nat) : Except Hold Unit :=
  match d with
  | .s n => match s.scratchRows k x n.toNat node (List.range 16 ++ sideRows (if ty = .fx4x8 then 1 else 0)) with
    | .error h => .error h
    | .ok _ => .ok ()
  | _ => .ok ()

/-- The accumulator kind of a type (R199, R204). -/
def intKind (ty : Ty) : Bool := !ty.isFloat

/-- MMA, MMAT and MMAS (R199 to R201). DESIGN CHOICE (log 153), unsafe. -/
def mmaStep (s : State) (k : PageKey) (w : Isl) (kmajor scaled : Bool) (x : IslandState) : Except Hold Done :=
  let xf := w.x.toNat
  let nb := bitsOf xf 0 3
  let nc := bitsOf xf 3 3
  let a := x.acc w.da
  if badTile x w.ty w.db false || badTile x w.ty w.dc kmajor || a.int != intKind w.ty then .error (s.badOperand k)
  else
    match s.checkPair k x w.ty w.db nb, s.checkPair k x w.ty w.dc nc with
    | .error h, _ => .error h
    | _, .error h => .error h
    | .ok _, .ok _ =>
      match s.multiplicand k x w.ty w.db nb with
      | .error h => .error h
      | .ok (b, t) =>
        match t.multiplicand k x w.ty w.dc nc with
        | .error h => .error h
        | .ok (c, u) =>
          let apply := bitsOf xf 8 2 == 1
          let scs := b.sc || c.sc
          if scaled && scs == apply then
            let v : State := { s with free := s.free + 1 }
            .error (.fault 0x34 (Config.islandReport s.free) 0 v)
          else
            let r := a.step w.ty kmajor (if scaled then some (w.imm.toNat * 2 ^ 16) else none) b c
            let sc := if scaled then a.sc || apply else a.sc || scs
            let y := x.setAcc w.da { r.1 with sc := sc, dep := (a.dep.join b.dep).join c.dep }
            let y1 := if w.db.pair then advancePair y w.db.num (bitsOf xf 6 1 == 1) else y
            let y2 := if w.dc.pair then advancePair y1 w.dc.num (bitsOf xf 7 1 == 1) else y1
            .ok { x := { y2 with party := y2.party.join (b.dep.join c.dep) }, t := u, flags := r.2 }

/-! ### Vector operations -/

/-- A vector operation on FP32 accumulators: DA from the cells of its sources, SC the OR of theirs (R206). DEDUCED (log 14), unsafe. -/
def vecStep (s : State) (k : PageKey) (w : Isl) (srcs : List Accum) (f : Nat → Nat → Nat × Flags) (x : IslandState) : Except Hold Done :=
  if (x.acc w.da).int || srcs.any Accum.int then .error (s.badOperand k)
  else
    let r := Accum.build f
    let dep := srcs.foldl (fun d a => d.join a.dep) {}
    .ok { x := x.setAcc w.da { int := false, sc := srcs.any Accum.sc, cells := r.1, dep := dep }, t := s, flags := r.2 }

/-- A vector operation of two sources, cell by cell. -/
def vec2 (s : State) (k : PageKey) (w : Isl) (op : Nat → Nat → Nat × Flags) (x : IslandState) : Except Hold Done :=
  let b := x.acc w.db
  let c := x.acc w.dc
  s.vecStep k w [b, c] (fun i j => op (b.cell i j) (c.cell i j)) x

/-- A fold of each row, in every column. -/
def rowStep (s : State) (k : PageKey) (w : Isl) (op : Accum → Nat → Nat × Flags) (x : IslandState) : Except Hold Done :=
  let b := x.acc w.db
  let rows := (List.range 16).map (op b)
  s.vecStep k w [b] (fun i _ => (rows[i]?).getD (0, Flags.none)) x

/-- The data token of a register's value. -/
def laneTok (x : IslandState) (v : Word) (sc : Bool) (dep : Dep) : Item :=
  .tok { kind := .data, sc := sc, tag := x.tag, pay := v, dep := dep.join x.sync }

/-- The packet of a tile register (R50 to R52, R210). -/
def packetOf (x : IslandState) (r : TileReg) (tidx : Nat) : List Item :=
  let h := r.fmt * 2 ^ 60 + r.smode * 2 ^ 58 + (if r.sc then 2 ^ 57 else 0) + r.nrow * 2 ^ 52 + 63 * 2 ^ 46 +
    x.tag.toNat * 2 ^ 32 + tidx % 2 ^ 32
  let n := r.nrow + 1
  let side := match r.smode with
    | 1 => (n + 7) / 8
    | 2 => 1
    | _ => 0
  .head (BitVec.ofNat 64 h) (r.dep.join x.sync) ::
    ((r.rows.take n) ++ ((List.range side).map r.sideRow)).map Item.row

end State

/-! ### Instructions -/

/-- MMA (R200): DA becomes DA + DB × DCᵀ. -/
def execMma (w : Isl) (s : State) : Out := s.runIsl false (fun k => s.mmaStep k w false false)
/-- MMAT (R200): DC in K-major packing. -/
def execMmat (w : Isl) (s : State) : Out := s.runIsl false (fun k => s.mmaStep k w true false)
/-- MMAS (R201): the step's sum scaled by the factor of IMM16. -/
def execMmas (w : Isl) (s : State) : Out := s.runIsl false (fun k => s.mmaStep k w false true)

/-- LDT (R202): a packet from a lane, or rows of scratchpad under the tag of IMM16. -/
def execLdt (w : Isl) (s : State) : Out :=
  s.runIsl false (fun k x =>
    let xf := w.x.toNat
    if bitsOf xf 9 1 = 1 then
      let im := w.imm.toNat
      let sm := bitsOf im 10 2
      let nrow := bitsOf im 5 4
      match s.loadPair k x w.db.num (bitsOf xf 0 3) (List.range (nrow + 1) ++ sideRows sm) with
      | .error h => .error h
      | .ok q =>
        let y := x.setTile w.da (State.tileOf (bitsOf im 12 4) sm nrow (bitsOf im 9 1 == 1) q.1 q.2.1)
        .ok { x := { State.advancePair y w.db.num (bitsOf xf 6 1 == 1) with party := x.party.join q.2.1 }, t := q.2.2 }
    else
      let lane := bitsOf xf 0 4
      match s.takeHead k x.tag lane true with
      | .error h => .error h
      | .ok (.head h dep, t) =>
        let n := rowsBehind h
        match State.packetRows ((t.dyn k).fifo (.laneIn lane)).tail n with
        | none => .error .wait
        | some rows =>
          let hv := h.toNat
          let r := State.tileOf (bitsOf hv 60 4) (bitsOf hv 58 2) (bitsOf hv 52 4) (bitsOf hv 57 1 == 1) rows dep
          let q : Place := .laneIn lane
          .ok { x := x.setTile w.da r, t := t.modDyn k (fun d => d.setFifo q ((d.fifo q).drop (1 + n))) }
      | .ok _ => .error .wait)

/-- LDTT (R202): element j of logical row k becomes element k of row j. -/
def execLdtt (w : Isl) (s : State) : Out :=
  s.runIsl false (fun k x =>
    let xf := w.x.toNat
    let im := w.imm.toNat
    let ty := (Ty.ofCode (bitsOf im 12 4)).getD .i8x4
    match s.loadPair k x w.db.num (bitsOf xf 0 3) (List.range (depth ty)) with
    | .error h => .error h
    | .ok q =>
      let row (j : Nat) : BitVec 512 := BitVec.ofNat 512 (packNat ty.width ((List.range (depth ty)).map (fun i =>
        bitsOf ((q.1[i]?).getD 0).toNat (ty.width * j) ty.width)))
      let r : TileReg := { fmt := ty.code, sc := bitsOf im 9 1 == 1, nrow := 15, rows := (List.range 16).map row, dep := q.2.1 }
      let y := x.setTile w.da r
      .ok { x := { State.advancePair y w.db.num (bitsOf xf 6 1 == 1) with party := x.party.join q.2.1 }, t := q.2.2 })

/-- STT (R203): code rows and the side rows that SMODE requires. -/
def execStt (w : Isl) (s : State) : Out :=
  s.runIsl false (fun k x =>
    let xf := w.x.toNat
    let r := x.tile w.da
    if r.fmt = 0 then .error (s.badOperand k)
    else
      let code := (List.range (r.nrow + 1)).map (fun i => (i, (r.rows[i]?).getD 0))
      let side := (sideRows r.smode).map (fun i => (i, r.sideRow (i - 16)))
      match s.storePair k x w.db.num (bitsOf xf 0 3) r.dep (code ++ side) with
      | .error h => .error h
      | .ok q => .ok { x := { State.advancePair x w.db.num (bitsOf xf 6 1 == 1) with party := x.party.join q.1 }, t := q.2 })

/-- LDA (R204): logical rows 0 to 15 as cells, the kind by TY, SC 0. -/
def execLda (w : Isl) (s : State) : Out :=
  s.runIsl false (fun k x =>
    let xf := w.x.toNat
    match s.loadPair k x w.db.num (bitsOf xf 0 3) (List.range 16) with
    | .error h => .error h
    | .ok q =>
      let y := x.setAcc w.da { int := State.intKind w.ty, sc := false, cells := q.1.flatMap State.rowWords, dep := q.2.1 }
      .ok { x := { State.advancePair y w.db.num (bitsOf xf 6 1 == 1) with party := x.party.join q.2.1 }, t := q.2.2 })

/-- STA (R204): the cells as logical rows 0 to 15. -/
def execSta (w : Isl) (s : State) : Out :=
  s.runIsl false (fun k x =>
    let xf := w.x.toNat
    let a := x.acc w.da
    if a.int ≠ State.intKind w.ty then .error (s.badOperand k)
    else
      let rows := (List.range 16).map (fun i => (i, State.rowOf ((a.cells.drop (16 * i)).take 16)))
      match s.storePair k x w.db.num (bitsOf xf 0 3) a.dep rows with
      | .error h => .error h
      | .ok q => .ok { x := { State.advancePair x w.db.num (bitsOf xf 6 1 == 1) with party := x.party.join q.1 }, t := q.2 })

/-- RDA (R205): a row, a column or a cell as data tokens with DA's SC. -/
def execRda (w : Isl) (s : State) : Out :=
  s.runIsl false (fun k x =>
    let lane := bitsOf w.x.toNat 0 4
    let a := x.acc w.da
    let r := bitsOf w.imm.toNat 0 4
    let idx : List Nat := match w.md.toNat with
      | 0 => (List.range 16).map (fun j => 16 * r + j)
      | 1 => (List.range 16).map (fun i => 16 * i + r)
      | _ => [16 * r + bitsOf w.imm.toNat 4 4]
    if a.int ≠ State.intKind w.ty then .error (s.badOperand k)
    else
      match s.sendLane k lane (idx.map (fun n => State.laneTok x ((a.cells[n]?).getD 0) a.sc a.dep)) with
      | .error h => .error h
      | .ok t => .ok { x := { x with sent := assign lane (x.count lane + idx.length) x.sent }, t := t })

/-- ZACC (R204): every cell zero, the kind by TY, SC 0. -/
def execZacc (w : Isl) (s : State) : Out :=
  s.runIsl false (fun _ x => .ok { x := x.setAcc w.da { Accum.zero with int := State.intKind w.ty }, t := s })

/-- SCA (R206): DA scaled by a column of DB, or by the factor of IMM16. DESIGN CHOICE (log 151), unsafe. -/
def execSca (w : Isl) (s : State) : Out :=
  s.runIsl false (fun k x =>
    let a := x.acc w.da
    let b := x.acc w.db
    let f := w.imm.toNat * 2 ^ 16
    if w.ri then s.vecStep k w [a] (fun i j => fmulLane .f32 w.md.toNat (a.cell i j) f) x
    else s.vecStep k w [a, b] (fun i j => fmulLane .f32 w.md.toNat (b.cell i (bitsOf w.x.toNat 0 4)) (a.cell i j)) x)

/-- VMAXR (R206): the row maximum in every column. -/
def execVmaxr (w : Isl) (s : State) : Out := s.runIsl false (fun k => s.rowStep k w Accum.rowMax)
/-- VSUMR (R206): the exact row sum, rounded once, in every column. -/
def execVsumr (w : Isl) (s : State) : Out := s.runIsl false (fun k => s.rowStep k w (Accum.rowSum w.md.toNat))
/-- VEXP2 (R206): 2 to the power of each cell. -/
def execVexp2 (w : Isl) (s : State) : Out :=
  s.runIsl false (fun k x => let b := x.acc w.db; s.vecStep k w [b] (fun i j => fexp2Lane .f32 w.md.toNat (b.cell i j)) x)
/-- VADD (R206). -/
def execVadd (w : Isl) (s : State) : Out := s.runIsl false (fun k => s.vec2 k w (faddLane .f32 w.md.toNat))
/-- VSUB (R206). -/
def execVsub (w : Isl) (s : State) : Out := s.runIsl false (fun k => s.vec2 k w (fsubLane .f32 w.md.toNat))
/-- VMUL (R206). -/
def execVmul (w : Isl) (s : State) : Out := s.runIsl false (fun k => s.vec2 k w (fmulLane .f32 w.md.toNat))
/-- VFMA (R206): DB × DC + DA, rounded once. -/
def execVfma (w : Isl) (s : State) : Out :=
  s.runIsl false (fun k x =>
    let a := x.acc w.da
    let b := x.acc w.db
    let c := x.acc w.dc
    s.vecStep k w [b, c, a] (fun i j => ffmaLane .f32 false w.md.toNat (b.cell i j) (c.cell i j) (a.cell i j)) x)
/-- VMAX (R206): the larger cell; a NaN gives a NaN. -/
def execVmax (w : Isl) (s : State) : Out := s.runIsl false (fun k => s.vec2 k w (fminLane .f32 true true))

/-- VCVT (R208): accumulators converted into a column group of a tile register. -/
def execVcvt (w : Isl) (s : State) : Out :=
  s.runIsl false (fun k x =>
    let xf := w.x.toNat
    let b := x.acc w.db
    let c := x.acc w.dc
    let four := w.ty == .fx4x8
    let old := x.tile w.da
    if b.int ≠ State.intKind w.ty ∨ (four ∧ c.int) then .error (s.badOperand k)
    else
      let base := if old.fmt = w.ty.code then old else old.blank
      let r := vcvtRows w.ty w.md.toNat (bitsOf xf 4 1 == 1) (bitsOf xf 5 1 == 1) (bitsOf xf 0 2) b c base
      let keep := if old.fmt = w.ty.code then old.dep else {}
      let t1 : TileReg := { r.1 with
        fmt := w.ty.code
        smode := if four then 1 else 0
        nrow := 15
        sc := base.sc || b.sc || (four && c.sc)
        dep := (keep.join b.dep).join (if four then c.dep else {}) }
      .ok { x := x.setTile w.da t1, t := s, flags := r.2 })

/-- VBCAST (R207): every cell from a column, the factor of IMM16 or an S register. DESIGN CHOICE (log 152), unsafe. -/
def execVbcast (w : Isl) (s : State) : Out :=
  s.runIsl false (fun _ x =>
    let b := x.acc w.db
    let sr := x.scalar w.db.num
    let y : Accum := match w.md.toNat with
      | 0 => { sc := b.sc, cells := (List.range 256).map (fun n => (b.cells[n / 16 * 16 + bitsOf w.x.toNat 0 4]?).getD 0), dep := b.dep }
      | 1 => { cells := List.replicate 256 (BitVec.ofNat 32 (w.imm.toNat * 2 ^ 16)) }
      | _ => { cells := List.replicate 256 sr.v, dep := sr.dep }
    .ok { x := x.setAcc w.da y, t := s })

/-- ILOOP (R209): the body of the given length as often as the count says; a count of 0 skips it. -/
def execIloop (w : Isl) (s : State) : Out :=
  s.runIsl true (fun _ x =>
    let n := if w.ri then w.imm.toNat else (x.scalar w.da.num).v.toNat
    let len := bitsOf w.x.toNat 0 6
    .ok { x := if n = 0 then ({ x with pc := x.pc + len } : IslandState).advance
               else { x with pc := x.pc + 1, loops := { first := x.pc + 1, len := len, left := n } :: x.loops }, t := s })

/-- IWAIT (R210): a data token's payload into an S register. -/
def execIwait (w : Isl) (s : State) : Out :=
  s.runIsl false (fun k x =>
    let lane := bitsOf w.x.toNat 0 4
    match s.takeHead k x.tag lane false with
    | .error h => .error h
    | .ok (.tok u, t) => .ok { x := x.setScalar w.da.num { v := u.pay, dep := u.dep }, t := t.modDyn k (fun d => d.pop (.laneIn lane)) }
    | .ok _ => .error .wait)

/-- IEMIT.PKT (R210): a tile register as one packet. -/
def execIemitPkt (w : Isl) (s : State) : Out :=
  s.runIsl false (fun k x =>
    let lane := bitsOf w.x.toNat 0 4
    let r := x.tile w.da
    if r.fmt = 0 then .error (s.badOperand k)
    else match s.sendLane k lane (State.packetOf x r (x.count lane)) with
      | .error h => .error h
      | .ok t => .ok { x := { x with sent := assign lane (x.count lane + 1) x.sent }, t := t })

/-- IEMIT.TOK (R210): an S register as one data token, SC 0. -/
def execIemitTok (w : Isl) (s : State) : Out :=
  s.runIsl false (fun k x =>
    let lane := bitsOf w.x.toNat 0 4
    let r := x.scalar w.da.num
    match s.sendLane k lane [State.laneTok x r.v false r.dep] with
    | .error h => .error h
    | .ok t => .ok { x := { x with sent := assign lane (x.count lane + 1) x.sent }, t := t })

/-- ISYNC (R198): what the island sends from here on is ordered after all of its earlier accesses. -/
def execIsync (_ : Isl) (s : State) : Out :=
  s.runIsl false (fun _ x => .ok { x := { x with sync := x.sync.join x.party }, t := s })

/-! ### Sections (R188, R189, R194, R273 to R276) -/

namespace State

/-- The section record of a page: its tile count or argument slot (R273). -/
def sectionWord (p : Page) : Nat := let h := p.islandHeader; imgNat p.image (h.table + h.tableLen) 8

/-- The tile count at arming (R274). -/
def tileCount (p : Page) : Nat :=
  let w := sectionWord p
  if bitsOf w 37 1 = 1 then (((p.dyn.argsAt p.dyn.island.cut)[bitsOf w 32 5]?).getD 0).toNat else bitsOf w 0 24

/-- The registers at arming: the block's constants in pairs of S registers, everything else empty (R188). -/
def armedRegs (p : Page) : List SReg :=
  let h := p.islandHeader
  (List.range 16).map (fun i =>
    if i / 2 < h.ncon then { v := ((p.const h (i / 2)).extractLsb' (32 * (i % 2)) 32) } else {})

/-- The tag that a section may be armed for: that of the lowest-numbered input lane with a packet, a data token or an EOS
at its head; without input lanes, the first of the arm queue (R274). -/
def armTag (s : State) (k : PageKey) (p : Page) : Option Tag :=
  let lanes := (p.lanes.filter (fun l => !l.out)).map LaneEntry.lane
  if lanes.isEmpty then p.dyn.island.armq.head?
  else
    ((sortBy (fun a b => decide (a ≤ b)) lanes).filterMap (fun l => match (s.laneHead k l).1 with
      | some i => if i.isKind .strike then none else i.tag?
      | none => none)).head?

/-- The fold group of a page is to be swapped, a PGEV of it waits, or an eviction for a lowered quota does: no further section is
armed (R276). DEDUCED (log 62), unsafe. -/
def armHeld (s : State) (k : PageKey) (p : Page) : Bool :=
  p.evict.isSome || p.foldDue || decide (s.quotaMax k.ctx < s.regionCount k.ctx) || (s.ctx k.ctx).atClose.any (fun a => match a.2 with
    | .fold g lpn level => g == k.graph && ((s.graph? k.ctx.part g).map (fun x =>
        (foldMembers x lpn level).contains k.lpn || ((p.fold.map FoldInfo.members).getD []).contains lpn)).getD false
    | _ => false)

/-- The cue at which the island's cut is due: marks on every fed lane, or the round controller's (R212). -/
def islandCue (p : Page) : Option Token :=
  let cueIn (l : Nat) : Option Token := (p.dyn.fifo (.laneIn l)).findSome? (fun i => match i with
    | .tok t => if t.kind = .cue then some t else none
    | _ => none)
  match fedLanes p with
  | [] => p.dyn.island.cueDue
  | ls => if ls.all (fun l => (cueIn l).isSome) then (ls.head?).bind cueIn else none

end State

/-- ARM (R80, R188, R274): the stage manager arms the island for a frame tag, unless a cut, a fold or an eviction of the page
waits. The token carries the tile count to the region controller, and one that finds the island not ready is discarded. -/
def execArm (s : State) : Out :=
  match s.cur with
  | some (.page k) =>
    .next (match s.page? k with
      | none => s
      | some p =>
        let x := p.dyn.island
        let sent := s.ctl.find? (fun z => z.code == 0x02 && z.page == some k)
        let s := match sent with
          | some z => { s with ctl := s.ctl.erase z }
          | none => s
        if !p.hasIsland ∨ !s.pageRuns k ∨ x.phase ≠ .idle ∨ x.stopped ∨ x.trap ∨ s.armHeld k p ∨
            (!x.cut ∧ (State.islandCue p).isSome) then s
        else match s.armTag k p with
          | none => s
          | some tag =>
            let n := match sent with
              | some z => z.operand
              | none => State.tileCount p
            if sent.any (fun z => z.tag != tag) then s
            else if !s.dbgAllows k.ctx ((Party.island k).identity s) tag || !s.stepAllows k.ctx p.islandHeader.step then s
            else if 2 ^ 24 ≤ n then
              (s.setIsland k { x with tag := tag }).islandFault k 0x3F (BitVec.ofNat 64 n) 0
            else if sent.isNone then s.sendCtl { code := 0x02, tag := tag, operand := n, ctx := some k.ctx, page := some k, part := k.ctx.part }
            else
              let lanesIn := p.lanes.any (fun l => !l.out)
              (s.noteChoice (0x8000 + s.regionByte k) 0).setIsland k { IslandState.empty with
                phase := if n = 0 then .ending else .running
                tag := tag
                tiles := n
                s := State.armedRegs p
                armq := if lanesIn then x.armq else x.armq.tail
                armSeen := x.armSeen
                cueDue := x.cueDue
                census := x.census
                cut := x.cut })
  | _ => .fault .noParty

/-- PASS_END (R189): behind the block's last instruction the tile count falls; the next pass starts at i0, or the section
ends. -/
def execPassEnd (s : State) : Out :=
  match s.cur with
  | some (.page k) =>
    .next (match s.page? k with
      | none => s
      | some p =>
        let x := p.dyn.island
        if !s.pageRuns k ∨ x.phase ≠ .running ∨ x.pc < p.islandHeader.nins ∨ x.stopped ∨ x.trap then s
        else if x.tiles ≤ 1 then s.setIsland k { x with tiles := 0, phase := .ending }
        else s.setIsland k { x with tiles := x.tiles - 1, pc := 0, loops := [] })
  | _ => .fault .noParty

/-- SECTION_END (R189, R194): the section's EOS consumed on every fed input lane, an EOS with the lane's count on every
output lane, and the completion reported. -/
def execSectionEnd (s : State) : Out :=
  match s.cur with
  | some (.page k) =>
    .next (match s.page? k with
      | none => s
      | some p =>
        let x := p.dyn.island
        if !s.pageRuns k ∨ x.phase ≠ .ending ∨ x.stopped ∨ x.trap then s
        else
          match (State.fedLanes p).find? (fun l => !x.eosTaken.contains l) with
          | some lane =>
            let r := s.laneHead k lane
            (match r.1 with
              | none => r.2
              | some i =>
                if i.tag? ≠ some x.tag then r.2.islandFault k 0x36 (State.headPay i) 0
                else if i.isKind .strike then r.2.islandFault k 0x37 (State.headPay i) 0
                else if i.isKind .eos then
                  let t := r.2.modDyn k (fun d => d.pop (.laneIn lane))
                  t.setIsland k { (t.dyn k).island with eosTaken := x.eosTaken ++ [lane] }
                else
                  let t : State := { r.2 with free := r.2.free + 1 }
                  t.islandFault k 0x3E (Config.islandReport r.2.free) 0)
          | none =>
            let outs := (p.lanes.filter LaneEntry.out).map LaneEntry.lane
            if outs.all (fun l => decide (p.dyn.used (.laneOut l) < Place.cap (.laneOut l))) then
              let eos (l : Nat) : Item := .tok { kind := .eos, tag := x.tag, pay := BitVec.ofNat 32 (x.count l), dep := x.sync }
              let t := s.modDyn k (fun d => outs.foldl (fun y l => y.push (.laneOut l) (eos l)) { d with island := { x with phase := .reported } })
              t.sendCtl { code := 0x03, tag := x.tag, operand := s.regionByte k % 64, page := some k, part := k.ctx.part }
            else s)
  | _ => .fault .noParty

/-- SECTION_DONE (R80, R275): the stage manager receives a completion report, and the island may be armed again. -/
def execSectionDone (s : State) : Out :=
  match s.cur with
  | some .device =>
    .next (match s.takeCtl 0x03 with
      | none => s
      | some (c, t) => match c.page with
        | none => t
        | some k => t.modDyn k (fun d =>
            if d.island.phase = .reported ∧ d.island.tag = c.tag then { d with island := { d.island with phase := .idle } } else d))
  | _ => .fault .noParty

/-- ISLAND_CUT (R212): once every fed input lane holds a mark, the island's state and its lanes up to the marks are
recorded, the marks are removed, and a cue goes out behind the entries of each output lane. -/
def execIslandCut (s : State) : Out :=
  match s.cur with
  | some (.page k) =>
    .next (match s.page? k with
      | none => s
      | some p =>
        let x := p.dyn.island
        if !p.hasIsland ∨ !s.pageRuns k ∨ x.cut then s
        else match State.islandCue p with
          | none => s
          | some t =>
            let r := (s.ctx k.ctx).round + 1
            let ins := (p.lanes.filter (fun l => !l.out)).map LaneEntry.lane
            let outs := (p.lanes.filter LaneEntry.out).map LaneEntry.lane
            s.modPage k (fun q =>
              let snap := (lookup r q.cuts).getD PageDyn.empty
              let snap1 := ins.foldl (fun d l => d.setFifo (.laneIn l) (State.aheadOfCue (q.dyn.fifo (.laneIn l)))) snap
              let live := ins.foldl (fun d l => d.setFifo (.laneIn l) (State.withoutCues (d.fifo (.laneIn l)))) q.dyn
              let live1 := outs.foldl (fun d l => d.push (.laneOut l) (.tok t)) live
              { q with
                dyn := { live1 with island := { x with cut := true, cueDue := none } }
                cuts := assign r { snap1 with island := { x with cut := false, cueDue := none } } q.cuts }))
  | _ => .fault .noParty

end Sys2Proof.Machine
end

