-- ==== Sys2Proof/Machine/Checks.lean ====
section
/-!
DEFINITION. The configuration loader's checks of one page image (R53 to R77, R86 to R96, R125, R128, R133, R164 to R171,
R191 to R193, R209, R214, R264, R273): every breach with the offset of its item.
-/
namespace Sys2Proof.Machine

/-- A breach: the offset of the offending item and the cause (R75). -/
abbrev Breach := Nat × Cause

/-- The causes of one item, at its offset. -/
def at_ (off : Nat) (cs : List Cause) : List Breach := cs.map (fun c => (off, c))

/-- The breach that is reported: lowest offset first, and within one item the lowest cause (R75). DEDUCED (log 81), unsafe. -/
def firstBreach : List Breach → Option Breach
  | [] => none
  | b :: bs => match firstBreach bs with
    | none => some b
    | some d => some (if d.1 < b.1 || (d.1 == b.1 && d.2 < b.2) then d else b)

/-- Reserved bytes of an image must be zero (R7): the first that is not is refused with 0x05. -/
def reservedIn (img : List Host.Cell) (lo hi : Nat) : List Breach :=
  match img.find? (fun c => lo ≤ c.1 && c.1 < hi && c.2 != 0) with
  | some c => [(c.1, 5)]
  | none => []

/-- What the checks of one page read beside its image: the page's own structures as far as they can be found. -/
structure PageView where
  page : Page
  ngarg : Nat
  /-- A privileged block may stand in the partition (R87). -/
  priv : Bool
  /-- The bound argument slots (R71). -/
  bound : List Nat
  /-- The blocks of the actor area (R67, R128), and the offset of the first that cannot be one. -/
  blocks : List Header
  broken : Option Nat
  deriving DecidableEq, Repr

/-- The end of a block with its port table. -/
def Header.next (h : Header) : Nat := h.off + h.len + h.tableLen

/-- The blocks packed from an offset to the end of the actor area (R62, R67, R128). -/
def blocksFrom (img : List Host.Cell) (stop : Nat) : Nat → Nat → List Header × Option Nat
  | 0, _ => ([], none)
  | n + 1, off =>
    if stop ≤ off then ([], none)
    else
      let h := Header.ofNat off (imgNat img off 16)
      if (h.bkind ≠ 0xA1 ∧ h.bkind ≠ 0xA3) ∨ 8 < h.nlis ∨ 8 < h.nemi ∨ stop < h.next then ([], some off)
      else
        let r := blocksFrom img stop n h.next
        (h :: r.1, r.2)

/-- The end of the actor area by ACTLEN (R68). -/
def actEnd (img : List Host.Cell) : Nat := 0x1800 + 16 * min (imgNat img 0x0E 2) 0x680

/-- An argument-slot binding (R71). -/
def binding (img : List Host.Cell) (slot : Nat) : Nat := imgNat img (0x340 + 4 * slot) 4

/-- The view of an image. -/
def PageView.of (img : List Host.Cell) (ngarg : Nat) (priv : Bool) : PageView :=
  let key : PageKey := { ctx := { part := 0, guest := 0, num := 0 }, graph := 0, lpn := 0 }
  let b := blocksFrom img (actEnd img) 1664 0x1800
  { page := { key := key, image := img, dyn := PageDyn.empty }
    ngarg := ngarg
    priv := priv
    bound := (List.range 32).filter (fun s => bitsOf (binding img s) 31 1 == 1)
    blocks := b.1
    broken := b.2 }

/-- The 64-byte units that a CB takes (R128). -/
def CbEntry.units (c : CbEntry) : Nat := ((if c.wide then 64 else 4) * 2 ^ c.slog + 63) / 64

namespace PageView

/-- The number of descriptors, at most eight. -/
def nmem (v : PageView) : Nat := min v.page.nmem 8
/-- The descriptor of a node, when the page has it. -/
def node? (v : PageView) (n : Nat) : Option Desc := if n < v.nmem then some (v.page.desc n) else none
/-- Page channels on which a listen port of the page listens (R64); a trap handler listens on 0x3F (R63). -/
def channels (h : Header) : List Nat := if h.bkind = 0xA3 then [0x3F] else (List.range h.nlis).map (h.chb + ·)
/-- A listen port of an actor listens on the channel (R55). -/
def listens (v : PageView) (c : Nat) : Bool := v.blocks.any (fun h => h.bkind != 0xA3 && (channels h).contains c)
/-- The declared island lanes of one direction (R193). -/
def lanes (v : PageView) (out : Bool) : List LaneEntry := v.page.lanes.filter (fun l => l.out == out)
/-- An input lane is declared. -/
def inLane (v : PageView) (l : Nat) : Bool := (v.lanes false).any (fun e => e.lane == l)

/-! ### Routes (R55, R167) -/

/-- A route's destination has a consumer; the causes of R76 where it has none. -/
def routeCauses (v : PageView) (r : Route) : List Cause :=
  match r with
  | .none => []
  | .pe c w q => chk 8 (let e := Page.elemOf c w; v.page.ecwOp e != 0 && (v.page.ecw e).queues.contains q)
  | .egress p => chk 0x0E (v.page.portValid (16 + p.toNat))
  | .lane l => chk 8 (v.inLane l.toNat)
  | .chan c => chk 0x10 (c != 0x3F && v.listens c.toNat)
  | .node n p => chk 8 (match v.node? n.toNat with
      | some d => d.ndim != 0 && p.toNat < 3 && (p.toNat != 0 || d.isWrite)
      | none => false)

/-- A route word: its own refusals and its consumer's. -/
def routeWord (v : PageView) (raw : Nat) : List Cause :=
  let r := Decode.routeOf (BitVec.ofNat 12 raw)
  r.2 ++ v.routeCauses r.1

/-! ### Switch words (R72) -/

/-- The neighbour of a PE in direction 0 to 3: N, E, S, W. -/
def neighbour (n dir : Nat) : Option Nat :=
  match dir with
  | 0 => if n / 16 = 0 then none else some (n - 16)
  | 1 => if n % 16 = 15 then none else some (n + 1)
  | 2 => if n / 16 = 7 then none else some (n + 16)
  | _ => if n % 16 = 0 then none else some (n - 1)

/-- The selector of output 0 to 7 (N, E, S, W, L, R, P, O) of a switch word. -/
def selector (w out : Nat) : Nat := bitsOf w (28 - 4 * out) 4

/-- The queues that a signal reaches from the input `code` of a switch, each with the number of hops (R72). -/
def reached (v : PageView) : Nat → Nat → Nat → List (Nat × Nat)
  | 0, _, _ => []
  | fuel + 1, n, code =>
    let w := v.page.switchSel n
    ((List.range 8).filter (fun o => selector w o == code)).flatMap (fun o =>
      if 4 ≤ o then [(n, o - 4)]
      else match neighbour n o with
        | none => []
        | some m => v.reached fuel m ((o + 2) % 4 + 1))

/-- A mesh route is realised from its source to exactly its queue (R76). -/
def realised (v : PageView) (e : Nat) (second : Bool) (r : Route) : Bool :=
  match r with
  | .pe c w q => v.reached 129 e (if second then 6 else 5) == [(Page.elemOf c w, (Encode.queue q).toNat)]
  | _ => true

/-- The switch words (R72). -/
def switchBreaches (v : PageView) : List Breach :=
  let img := v.page.image
  let n := min (imgNat img 0x0C 2) 256
  let swx (k : Nat) : Nat := bitsOf (imgNat img (0xC00 + 8 * k) 8) 57 7
  (List.range n).flatMap (fun k =>
    let w := imgNat img (0xC00 + 8 * k) 8
    let sels := (List.range 8).map (selector w)
    at_ (0xC00 + 8 * k)
      (chk 5 (bitsOf w 32 25 == 0) ++
       chk 7 (sels.zipIdx.all (fun s => s.1 < 7 && (s.1 == 0 || 4 ≤ s.2 || (neighbour (swx k) s.2).isSome) &&
         (s.1 == 0 || 5 ≤ s.1 || (neighbour (swx k) (s.1 - 1)).isSome))) ++
       chk 0x0D (!(List.range k).any (fun j => swx j == swx k)))) ++
  reservedIn img (0xC00 + 8 * n) 0x1400

/-! ### Memory nodes (R69, R164 to R167, R170) -/

/-- The access bit that an instruction needs in the node that X names: 0 read, 1 write, 2 atomic (R170). -/
def accessNeed : Instr → Option Nat
  | .ld _ | .ldx _ | .pf _ => some 0
  | .st _ | .stx _ => some 1
  | .aadd _ | .aadds _ | .amin _ | .amax _ | .aminn _ | .amaxn _ | .aand _ | .aor _ | .axor _ | .axch _ | .ainc _
  | .acas _ | .acasD _ | .afadd _ => some 2
  | _ => none

/-- The node exists and has the bit, and is an SRAM node where only one will do (R170, R197). -/
def nodeOk (v : PageView) (n need : Nat) (sram : Bool) : Bool :=
  match v.node? n with
  | some d => bitsOf d.access need 1 == 1 && (!sram || d.nkind == 1)
  | none => false

/-- The node that a memory instruction or LEA names (R107, R170). -/
def nodeCauses (v : PageView) (i : Instr) (x : Nat) : List Cause :=
  (match accessNeed i with
    | some b => chk 0x11 (v.nodeOk (x % 8) b false)
    | none => []) ++
  (match i with
    | .lea _ => chk 7 (decide (x % 8 < v.nmem))
    | _ => [])

/-- A descriptor below NMEM; one of NKIND 0 is unused and zero. -/
def descBreaches (v : PageView) (i : Nat) : List Breach :=
  let img := v.page.image
  let o := 0x40 + 64 * i
  let d := v.page.desc i
  let stream := d.nkind == 2 || d.nkind == 3
  let gen := d.ndim != 0
  let ewid := bitsOf d.gen 10 3
  let out := bitsOf d.gen 61 3
  let packets := ewid == 3 && out == 3
  let used (k : Nat) : Bool := k < v.nmem && (v.page.desc k).nkind != 0
  let dims := d.dims.zipIdx
  if d.nkind = 0 then at_ o (chk 5 (imgNat img o 64 == 0))
  else at_ o
    (chk 5 (d.access < 8 && imgNat img (o + 4) 4 == 0 && bitsOf d.gen 48 3 == 0) ++
     chk 0x11 (d.nkind < 4) ++ chk 0x11 (decide (d.low < d.limit)) ++
     chk 0x11 ((List.range 8).all (fun k => bitsOf d.order k 1 == 0 || used k)) ++
     chk 0x11 (gen || d.gen == 0) ++ chk 0x11 (d.ndim ≤ 4) ++
     chk 0x11 (!gen || (if d.isWrite then d.canWrite else d.canRead)) ++
     chk 0x11 (!gen || (1 ≤ out && out ≤ 5)) ++ chk 0x11 (ewid < 4) ++
     chk 0x11 (if stream then !gen || (1 ≤ d.winsz && d.winsz ≤ 4096 && 1 ≤ d.wincnt) else d.winsz == 0 && d.wincnt == 0 && d.sport == 0) ++
     chk 0x11 (d.nkind == 3 || d.gslot == 0) ++ chk 0x11 (d.eormask < 2 ^ d.ndim) ++
     chk 0x11 (if packets then 2 ≤ d.pfmt && d.pfmt ≤ 11 else d.pfmt == 0) ++ chk 0x11 (d.psmode < 3) ++
     chk 0x11 (dims.all (fun x => decide (d.ndim ≤ x.2) || x.1.2 != 0)) ++
     chk 5 (dims.all (fun x => decide (x.2 < d.ndim) || (x.1.1 == 0 && x.1.2 == 0))) ++
     chk 0x0F (v.bound.contains d.slot && (!stream || v.bound.contains (d.slot + 1))) ++
     chk 0x0F (d.nkind != 3 || !gen || (v.bound.contains d.gslot && v.bound.contains (d.gslot + 1))) ++
     (if gen then v.routeWord (bitsOf d.gen 52 12) else []))

/-! ### Element words (R53, R94) -/

/-- The word of an element with what the page shows of it: argument slot, node, the consumers of its routes, and the
mesh. -/
def elemBreaches (v : PageView) (n : Nat) : List Breach :=
  let w := v.page.ecwWord n
  let own : List Cause := match decodeEcw w with
    | .ok _ => []
    | .error c => [c]
  let more : List Cause := match Decode.elemInstr (v.page.ecwOp n) (v.page.ecw n) with
    | none => []
    | some i =>
      let e := v.page.ecw n
      chk 0x0F (e.csrc != .slot || v.bound.contains e.carg.toNat) ++ v.nodeCauses i e.x.toNat ++
        v.routeCauses e.route0 ++ v.routeCauses e.route1 ++
        chk 0x0D (v.realised n false e.route0) ++ chk 0x0D (v.realised n true e.route1)
  if w = 0 then [] else at_ (0x400 + 16 * n) (own ++ more)

/-! ### Actor and trap-handler blocks (R60 to R64, R95, R124 to R141, R214 to R216) -/

/-- How an instruction names a CB: the handle, the first and one past the last static position, and the direction: listen,
emit or either (R124, R138 to R141, R162, R215). -/
def cbUse (i : Instr) : Option (Nat × Nat × Nat × Option Bool) :=
  let at1 (b : Blk) (n : Nat) : Nat × Nat × Nat × Option Bool :=
    (bitsOf b.x.toNat 6 4, b.x.toNat % 64, b.x.toNat % 64 + n, some false)
  let send (b : Blk) : Nat × Nat × Nat × Option Bool :=
    (bitsOf b.imm.toNat 6 4, b.imm.toNat % 64, b.imm.toNat % 64 + 1, some false)
  let adv (b : Blk) (out : Bool) : Nat × Nat × Nat × Option Bool :=
    (bitsOf b.x.toNat 6 4, 0, if b.ri then b.imm.toNat else 0, some out)
  match i with
  | .recv b | .peek b | .launch b | .call b | .fxun b => some (at1 b 1)
  | .oneos (.block b) => some (at1 b 1)
  | .fxpk b | .fxsc b => some (at1 b 2)
  | .emit b => some (bitsOf b.x.toNat 6 4, b.x.toNat % 64, b.x.toNat % 64 + 1, some true)
  | .advr b => some (adv b false)
  | .advw b => some (adv b true)
  | .cbq b => some (bitsOf b.x.toNat 6 4, 0, 0, none)
  | .sendCopy b | .sendFill b | .sendGather b | .sendScatter b | .sendIstream b | .sendPublish b | .sendDiscard b
  | .sendPreload b | .sendMigrate b | .sendMark b | .sendTest b | .sendw b | .sendwCensus b | .sendwQuery b => some (send b)
  | _ => none

/-- The instruction needs 64-byte slots in the CB that it names (R124, R215). -/
def needsWide : Instr → Bool
  | .fxpk _ | .fxun _ | .fxsc _ | .sendCopy _ | .sendFill _ | .sendGather _ | .sendScatter _ | .sendIstream _ | .sendPublish _
  | .sendDiscard _ | .sendPreload _ | .sendMigrate _ | .sendMark _ | .sendTest _ | .sendw _ | .sendwCensus _
  | .sendwQuery _ => true
  | _ => false

/-- The FX4 forms write slots of the emit port that T1 names, from IMM16[5:0] on (R124): how many. -/
def fxWrites : Instr → Option Nat
  | .fxpk _ | .fxsc _ => some 1
  | .fxun _ => some 2
  | _ => none

/-- The CB entry of an emit port. -/
def emitEntry (v : PageView) (h : Header) (p : Nat) : Option CbEntry := (v.page.cbEntries h).find? (fun c => c.out && c.port == p)

/-- The rate of the port of a CB entry. -/
def rateOf (h : Header) (c : CbEntry) : Nat := if c.out then h.erate c.port else h.lrate c.port

/-- The CB handles, widths and static offsets of an instruction (R124, R128, R134, R138). -/
def cbCauses (v : PageView) (h : Header) (i : Instr) (b : Blk) : List Cause :=
  let named : List Cause := match cbUse i with
    | none => []
    | some (k, _, last, dir) =>
      if h.nlis + h.nemi ≤ k then [0x0B]
      else
        let c := v.page.cbEntry h k
        let word : Bool := match i with
          | .recv w | .emit w => c.wide || w.imm.toNat % 16 == 0
          | _ => true
        chk 0x0B (dir.all (fun d => d == c.out)) ++ chk 0x0B (!needsWide i || c.wide) ++ chk 7 word ++
          chk 0x0A (decide (last ≤ rateOf h c))
  let fx : List Cause := match fxWrites i, b.t1 with
    | some n, .emit p => match v.emitEntry h p.toNat with
      | some c => chk 0x0B c.wide ++ chk 0x0A (decide (b.imm.toNat % 64 + n ≤ rateOf h c))
      | none => [0x0B]
    | _, _ => []
  named ++ fx

/-- An LDX of the node at an index of the block (R175, R178). -/
def pairCauses (v : PageView) (h : Header) (i : Instr) : List Cause :=
  let ldxAt (j node : Nat) : Bool := decide (j < h.nins) && match v.page.ins? h j with
    | some (.ldx b) => b.x.toNat % 8 == node
    | _ => false
  match i with
  | .stx b => chk 7 (ldxAt (bitsOf b.x.toNat 3 7) (b.x.toNat % 8))
  | .acasD b => chk 7 (ldxAt (bitsOf b.x.toNat 4 6) (b.x.toNat % 8))
  | _ => []

/-- The instruction at an index, whatever refuses its word. -/
def blkAt (v : PageView) (h : Header) (j : Nat) : Option Instr :=
  let w := v.page.insWord h j
  Decode.blockInstr (w.extractLsb' 56 8).toNat (Decode.blkOf w).1

/-- A target names a slot that its consumer reads, an emit port of the block, or a declared input lane (R60). -/
def targetOk (v : PageView) (h : Header) (t : Target) : Bool :=
  let reads (j : BitVec 7) (f : Bool × Bool × Bool → Bool) : Bool := decide (j.toNat < h.nins) && match v.blkAt h j.toNat with
    | some i => f (slotsRead i)
    | none => false
  match t with
  | .none => true
  | .left j => reads j Prod.fst
  | .right j => reads j (fun r => r.2.1)
  | .pred j => reads j (fun r => r.2.2)
  | .emit p => decide (p.toNat < h.nemi)
  | .lane l => v.inLane l.toNat

/-- The word of a block instruction with what the block and the page show of it. -/
def insCauses (v : PageView) (h : Header) (j : Nat) : List Cause :=
  let w := v.page.insWord h j
  let b := (Decode.blkOf w).1
  let own : List Cause := match decodeBlk h.site w with
    | .ok _ => []
    | .error c => [c]
  match v.blkAt h j with
  | none => own
  | some i =>
    let x := b.x.toNat
    let const : List Cause := match ruleOf h.site i with
      | some (_, r, _) => chk 7 (!r.const || decide (x % 16 < h.ncon)) ++ chk 7 (!r.const4 || decide (bitsOf x 4 4 < h.ncon))
      | none => []
    let call : List Cause := match i with
      | .call c => chk 0x10 (v.listens (c.imm.toNat % 64))
      | .argw c => chk 0x0F (decide (c.x.toNat % 256 < v.ngarg))
      | _ => []
    own ++ const ++ call ++ v.nodeCauses i x ++ v.pairCauses h i ++ v.cbCauses h i b ++
      chk 8 (v.targetOk h b.t1) ++ chk 8 (v.targetOk h b.t2)

/-- The targets of a block in the order that counts positions: instruction index, T1 before T2; the T1 of an FX4 form names
a port and no position (R124, R133). -/
def targetsOf (v : PageView) (h : Header) : List (Nat × Target) :=
  (List.range h.nins).flatMap (fun j =>
    let b := (Decode.blkOf (v.page.insWord h j)).1
    match v.blkAt h j with
    | none => []
    | some i => (if (fxWrites i).isSome then [] else [(j, b.t1)]) ++ [(j, b.t2)])

/-- Slots with two producers, positions of emit ports beyond the rate, 64-byte ports named by a target, ports that targets
and EMIT both write (R60, R133). -/
def producerBreaches (v : PageView) (h : Header) : List Breach :=
  let ts := (v.targetsOf h).zipIdx
  let emits (p : Nat) : List Nat := (List.range h.nins).filter (fun j => match v.blkAt h j with
    | some (.emit b) => let k := bitsOf b.x.toNat 6 4; decide (k < h.nlis + h.nemi) && (v.page.cbEntry h k).out && (v.page.cbEntry h k).port == p
    | _ => false)
  ts.flatMap (fun t =>
    let before := (ts.take t.2).map (fun u => u.1.2)
    at_ (h.off + 16 + 8 * t.1.1)
      (match t.1.2 with
        | .none | .lane _ => []
        | .emit p =>
          chk 0x0A (decide ((before.filter (· == Target.emit p)).length < h.erate p.toNat)) ++
            chk 8 (match v.emitEntry h p.toNat with
              | some c => !c.wide
              | none => true) ++
            chk 8 (!(emits p.toNat).any (fun j => decide (j ≤ t.1.1)))
        | x => chk 8 (!before.contains x))) ++
  (List.range h.nins).flatMap (fun j => at_ (h.off + 16 + 8 * j)
    (match v.blkAt h j with
      | some (.emit b) =>
        let k := bitsOf b.x.toNat 6 4
        chk 8 (!(decide (k < h.nlis + h.nemi) && (v.targetsOf h).any (fun t => decide (t.1 < j) && match t.2 with
          | .emit p => (v.page.cbEntry h k).out && p.toNat == (v.page.cbEntry h k).port
          | _ => false)))
      | _ => []))

/-- Every slot that an instruction reads is filled by some target of the block (R60). -/
def unfilledBreaches (v : PageView) (h : Header) : List Breach :=
  let ts := (v.targetsOf h).map Prod.snd
  (List.range h.nins).flatMap (fun j =>
    let n := BitVec.ofNat 7 j
    match v.blkAt h j with
    | none => []
    | some i =>
      let r := slotsRead i
      at_ (h.off + 16 + 8 * j)
        (chk 8 (!r.1 || ts.contains (.left n)) ++ chk 8 (!r.2.1 || ts.contains (.right n)) ++ chk 8 (!r.2.2 || ts.contains (.pred n))))

/-- The port table of a block (R128, R289). DESIGN CHOICE (log 146), unsafe. -/
def tableBreaches (v : PageView) (h : Header) : List Breach :=
  let cs := v.page.cbEntries h
  let rowChannel (c : Nat) : Bool := (List.range v.nmem).any (fun n =>
    let d := v.page.desc n
    d.ndim != 0 && !d.isWrite && bitsOf d.gen 10 3 == 3 && d.outRoute == .chan (BitVec.ofNat 6 c))
  cs.flatMap (fun c =>
    let e := imgNat v.page.image (h.table + 8 * c.handle) 8
    let earlier := cs.take c.handle
    let dest := bitsOf e 32 12
    at_ (h.table + 8 * c.handle)
      (chk 5 (bitsOf e 44 1 == 0 && bitsOf e 0 32 == 0) ++ chk 0x0B (c.slog < 13) ++
       chk 0x0B (decide (c.base + c.units ≤ h.cba)) ++
       chk 0x0B (earlier.all (fun o => !overlaps o.base o.units c.base c.units)) ++
       chk 0x0B (earlier.all (fun o => !(o.out == c.out && o.port == c.port))) ++
       chk 0x0B (decide (c.port < if c.out then h.nemi else h.nlis)) ++
       (if c.out then chk 8 (1 ≤ bitsOf dest 9 3 && bitsOf dest 9 3 ≤ 5) ++ v.routeWord dest
        else chk 5 (dest == 0) ++ chk 0x0B (c.wide || h.bkind == 0xA3 || !rowChannel (h.chb + c.port)))))

/-- The header of an actor or trap-handler block and its own constraints (R62, R63, R130, R351). -/
def headerCauses (v : PageView) (h : Header) : List Cause :=
  let cs := v.page.cbEntries h
  let ports := (List.range h.nlis).all (fun k => cs.any (fun c => !c.out && c.port == k)) &&
    (List.range h.nemi).all (fun k => cs.any (fun c => c.out && c.port == k))
  chk 4 (!h.priv || v.priv) ++ chk 5 (h.bflg % 32 == 0) ++
  chk 9 ((List.range 8).all (fun k => (decide (k < h.nlis) || h.lrate k == 0) && (decide (k < h.nemi) || h.erate k == 0))) ++
  (if h.bkind = 0xA3 then
      chk 9 (h.chb == 0 && h.nlis == 1) ++ chk 9 (cs.all (fun c => c.out || (!c.wide && decide (2 ≤ c.slog))))
    else
      chk 9 (1 ≤ h.nlis && h.chb + h.nlis ≤ 0x3F) ++ chk 9 ((List.range h.nlis).any (fun k => h.lrate k != 0))) ++
  chk 0x0B ports

/-- One block of the actor area, with the blocks before it (R64). -/
def blockBreaches (v : PageView) (h : Header) (before : List Header) : List Breach :=
  at_ h.off (v.headerCauses h ++ chk 0x10 (!(channels h).any (fun c => before.any (fun o => (channels o).contains c))) ++
    chk 9 (h.bkind != 0xA3 || !before.any (fun o => o.bkind == 0xA3))) ++
  reservedIn v.page.image (h.off + 16 + 8 * (h.nins + h.ncon)) h.table ++
  reservedIn v.page.image (h.table + 8 * (h.nlis + h.nemi)) h.next ++
  v.tableBreaches h ++ (List.range h.nins).flatMap (fun j => at_ (h.off + 16 + 8 * j) (v.insCauses h j)) ++
  v.producerBreaches h ++ v.unfilledBreaches h

/-- The actor area (R67, R68, R92). -/
def actorBreaches (v : PageView) : List Breach :=
  let img := v.page.image
  let hs := v.blocks
  let handlers := hs.any (fun h => h.bkind == 0xA3)
  (hs.zipIdx.flatMap (fun x => v.blockBreaches x.1 (hs.take x.2))) ++
  (match v.broken with
    | some o => at_ o [9]
    | none => at_ 9 (chk 9 (hs.length == v.page.nact)) ++ at_ 0x0A (chk 9 (handlers == v.page.hasHandler))) ++
  at_ 0x18 (chk 0x0B (decide ((hs.map Header.cba).foldl (· + ·) 0 ≤ imgNat img 0x18 4))) ++
  at_ 0x1C (chk 0x0C (decide ((hs.map Header.msa).foldl (· + ·) 0 ≤ imgNat img 0x1C 2))) ++
  reservedIn img (actEnd img) 0x8000

/-! ### The island block (R62, R63, R188, R191 to R193, R197, R209, R273) -/

/-- The lanes that an island instruction names are declared, and of its kind (R191, R193). -/
def laneOk (v : PageView) (i : Instr) : Bool :=
  let out (w : Isl) (tokens : Bool) : Bool := (v.lanes true).any (fun l => l.lane == w.x.toNat % 16 && l.tokens == tokens)
  match i with
  | .ldt w => bitsOf w.x.toNat 9 1 == 1 || v.inLane (w.x.toNat % 16)
  | .iwait w => v.inLane (w.x.toNat % 16)
  | .rda w | .iemitTok w => out w true
  | .iemitPkt w => out w false
  | _ => true

/-- The scratchpad nodes of an island instruction (R197). -/
def scratchOk (v : PageView) (i : Instr) : Bool :=
  let mma (w : Isl) : Bool :=
    (!w.db.isPair || v.nodeOk (w.x.toNat % 8) 0 true) && (!w.dc.isPair || v.nodeOk (bitsOf w.x.toNat 3 3) 0 true)
  match i with
  | .mma w | .mmat w | .mmas w => mma w
  | .ldt w => bitsOf w.x.toNat 9 1 == 0 || v.nodeOk (w.x.toNat % 8) 0 true
  | .ldtt w | .lda w => v.nodeOk (w.x.toNat % 8) 0 true
  | .stt w | .sta w => v.nodeOk (w.x.toNat % 8) 1 true
  | _ => true

/-- The loops that enclose each instruction are legal (R209): a body ends inside the block, at most two deep, the inner
one before the outer one ends. -/
def loopsOk (v : PageView) (h : Header) (j : Nat) : Bool :=
  let endOf (k : Nat) : Option Nat :=
    let w := v.page.insWord h k
    if (w.extractLsb' 56 8).toNat = 0xD5 then some (k + (Decode.islOf w).1.x.toNat % 64) else none
  match endOf j with
  | none => true
  | some e =>
    let around := ((List.range j).filterMap endOf).filter (fun x => decide (j ≤ x))
    decide (e < h.nins) && decide (around.length < 2) && around.all (fun x => decide (e < x))

/-- The island block with its lane table and section record. -/
def islandBreaches (v : PageView) : List Breach :=
  let img := v.page.image
  let h := v.page.islandHeader
  let sec := h.table + h.tableLen
  let rec_ := imgNat img sec 8
  let lanes := v.page.lanes
  if !v.page.hasIsland then reservedIn img 0x1400 0x1800
  else if h.bkind ≠ 0xA2 ∨ 0x1800 < sec + 16 then at_ 0x1400 [9]
  else
    at_ 0x1400
      (chk 5 (h.bflg % 32 == 0) ++
       chk 4 (!h.priv || v.priv) ++
       chk 9 (h.nins ≤ 64 && h.ncon ≤ 8 && h.nlis ≤ 8 && h.nemi ≤ 8 && bitsOf h.raw 26 64 == 0 && h.chb == 0 && h.prio == 0 && h.cba == 0 && h.msa == 0 && h.bflg / 32 % 2 == 0 && !h.priv)) ++
    reservedIn img (h.off + 16 + 8 * (h.nins + h.ncon)) h.table ++ reservedIn img (h.table + 8 * (h.nlis + h.nemi)) sec ++
    (List.range h.nins).flatMap (fun j =>
      let w := v.page.insWord h j
      let own : List Cause := match decodeBlk .island w with
        | .ok _ => []
        | .error c => [c]
      let more : List Cause := match Decode.islandOp (w.extractLsb' 56 8).toNat (Decode.islOf w).1 with
        | some i => chk 8 (v.laneOk i) ++ chk 0x11 (v.scratchOk i)
        | none => []
      at_ (h.off + 16 + 8 * j) (own ++ more ++ chk 7 (v.loopsOk h j))) ++
    lanes.zipIdx.flatMap (fun x =>
      let l := x.1
      let e := imgNat img (h.table + 8 * x.2) 8
      let dest := bitsOf e 44 12
      let kind := bitsOf dest 9 3
      let node := v.node? (dest % 8)
      at_ (h.table + 8 * x.2)
        (chk 5 (bitsOf e 0 44 == 0 && (if l.out then l.sck == 0 else !l.tokens && dest == 0)) ++
         chk 7 (l.sck < 3) ++ chk 9 (l.out == decide (h.nlis ≤ x.2)) ++
         chk 8 (!(lanes.take x.2).any (fun o => o.out == l.out && o.lane == l.lane)) ++
         (if l.out then
            v.routeWord dest ++ chk 8 ([1, 2, 4, 5].contains kind) ++ chk 8 (l.tokens || (kind != 1 && kind != 4)) ++
              chk 8 (kind != 5 || (match node with
                | some d => if l.tokens then d.canWrite else d.isWrite && d.ndim != 0 && bitsOf d.gen 10 3 == 3
                | none => false))
          else []))) ++
    at_ sec
      (chk 5 (imgNat img (sec + 8) 8 == 0 && bitsOf rec_ 38 26 == 0 && bitsOf rec_ 24 8 == 0 &&
        (bitsOf rec_ 37 1 == 1 || bitsOf rec_ 32 5 == 0) && (bitsOf rec_ 37 1 == 0 || bitsOf rec_ 0 24 == 0)) ++
       chk 7 (bitsOf rec_ 37 1 == 1 || bitsOf rec_ 0 24 != 0) ++
       chk 0x0F (bitsOf rec_ 37 1 == 0 || v.bound.contains (bitsOf rec_ 32 5))) ++
    reservedIn img (sec + 16) 0x1800

/-! ### The page header, bindings and ports (R68 to R71) -/

/-- The page header of page `lpn` of graph `gid` (R68); FOLDSET of a variant is checked beside its group. -/
def headBreaches (v : PageView) (gid lpn : Nat) : List Breach :=
  let img := v.page.image
  let variant := imgNat img 0 1 == 2
  let entries := (List.range 4).map (fun k => (0x10 + 2 * k, imgNat img (0x10 + 2 * k) 2))
  at_ 0 (chk 1 (imgNat img 0 1 == 1 || variant)) ++
  at_ 1 (chk 1 (if variant then imgNat img 1 1 == 1 || imgNat img 1 1 == 2 else imgNat img 1 1 == 0)) ++
  at_ 2 (chk 1 (imgNat img 2 2 == lpn)) ++ at_ 4 (chk 1 (imgNat img 4 4 == gid)) ++
  at_ 8 (chk 0x11 (v.page.nmem ≤ 8)) ++ at_ 9 (chk 9 (v.page.nact ≤ 16)) ++ at_ 0x0A (chk 5 (imgNat img 0x0A 1 < 4)) ++
  reservedIn img 0x0B 0x0C ++ at_ 0x0C (chk 0x0D (imgNat img 0x0C 2 ≤ 256)) ++ at_ 0x0E (chk 9 (imgNat img 0x0E 2 ≤ 0x680)) ++
  entries.flatMap (fun e => at_ e.1 (chk 5 (if bitsOf e.2 15 1 == 1 then bitsOf e.2 12 3 == 0 else e.2 == 0))) ++
  at_ 0x18 (chk 0x0B (imgNat img 0x18 4 ≤ 8192)) ++ at_ 0x1C (chk 0x0C (imgNat img 0x1C 2 ≤ 512)) ++ reservedIn img 0x1E 0x20 ++
  at_ 0x20 (chk 1 (variant || imgNat img 0x20 8 == 0)) ++ reservedIn img 0x28 0x3C ++ at_ 0x3C (chk 0 (pageCrcOk img))

/-- The argument-slot bindings (R71). DESIGN CHOICE (log 143), unsafe. -/
def bindingBreaches (v : PageView) : List Breach :=
  (List.range 32).flatMap (fun s =>
    let e := binding v.page.image s
    at_ (0x340 + 4 * s)
      (if bitsOf e 31 1 = 1 then
        chk 5 (bitsOf e 8 21 == 0) ++ chk 7 (bitsOf e 29 2 != 3) ++ chk 0x0F (decide (bitsOf e 0 8 < v.ngarg))
      else chk 5 (e == 0)))

/-- The page-port table (R70). -/
def portBreaches (v : PageView) : List Breach :=
  (List.range 32).flatMap (fun k =>
    let e := v.page.portEntry k
    at_ (0x240 + 8 * k)
      (if bitsOf e 63 1 = 1 then
        chk 5 (bitsOf e 60 3 == 0 && bitsOf e 32 12 == 0 && bitsOf e 12 4 == 0) ++
          (if k < 16 then
            chk 5 (v.page.peer k != 0xFFF || v.page.pport k == 0) ++ chk 8 ([1, 3, 4, 5].contains (bitsOf e 9 3)) ++
              v.routeWord (bitsOf e 0 12)
          else chk 5 (bitsOf e 16 16 == 0 && bitsOf e 0 12 == 0))
      else chk 5 (e == 0)))

/-- Every breach that one page shows (R74 to R76). -/
def breaches (v : PageView) (gid lpn : Nat) : List Breach :=
  v.headBreaches gid lpn ++ (List.range v.nmem).flatMap v.descBreaches ++
  reservedIn v.page.image (0x40 + 64 * v.nmem) 0x240 ++ v.portBreaches ++ v.bindingBreaches ++
  reservedIn v.page.image 0x3C0 0x400 ++ (List.range 128).flatMap v.elemBreaches ++ v.switchBreaches ++ v.islandBreaches ++
  v.actorBreaches

end PageView

end Sys2Proof.Machine
end

