-- ==== Sys2Proof/Machine/Loader.lean ====
section
/-!
DEFINITION. The configuration loader (R73 to R77, R264, R280, R321, R322, R408): the graph header, the cross-page checks,
the race check, and the residency commands.
-/
namespace Sys2Proof.Machine

/-! ### The graph header (R73, R382, R408) -/

/-- The phase table: valid entries form a prefix with ascending LPNs below NPAGE (R408). -/
def phaseBreaches (hdr : List Host.Cell) (npage : Nat) : List Breach :=
  let e (k : Nat) : Nat := imgNat hdr (0x60 + 2 * k) 2
  let valid (k : Nat) : Bool := bitsOf (e k) 15 1 == 1
  (List.range 16).flatMap (fun k =>
    at_ (0x60 + 2 * k)
      (if valid k then
        chk 1 (bitsOf (e k) 12 3 == 0) ++
          chk 1 (if k = 0 then bitsOf (e k) 0 12 != 0 else valid (k - 1) && decide (bitsOf (e (k - 1)) 0 12 < bitsOf (e k) 0 12)) ++
          chk 1 (decide (bitsOf (e k) 0 12 < npage))
      else chk 1 (e k == 0)))

/-- The breaches of a graph header; `taken` when a resident graph of the partition bears its ID (R73, R408). DESIGN CHOICE (log 144), unsafe. -/
def graphBreaches (hdr : List Host.Cell) (taken : Bool) : List Breach :=
  let npage := imgNat hdr 4 2
  let sink (k : Nat) : Nat := imgNat hdr (0x20 + 4 * k) 4
  let valid := (List.range 16).filter (fun k => bitsOf (sink k) 31 1 == 1)
  let det := (customDet (customOf hdr)).natAbs
  at_ 0 (chk 1 (!taken)) ++ at_ 4 (chk 1 (1 ≤ npage && npage ≤ 4095)) ++ at_ 6 (chk 1 (imgNat hdr 6 2 ≤ 256)) ++
  at_ 8 (chk 1 (1 ≤ imgNat hdr 8 1 && imgNat hdr 8 1 ≤ 16) ++ chk 1 (valid.length == imgNat hdr 8 1)) ++
  at_ 9 (chk 1 (imgNat hdr 9 1 < 8)) ++ at_ 0x0A (chk 5 (imgNat hdr 0x0A 2 < 2)) ++ reservedIn hdr 0x0C 0x10 ++
  at_ 0x10 (chk 1 (imgNat hdr 9 1 != 7 || (det != 0 && det ≤ 256))) ++ reservedIn hdr 0x1C 0x20 ++
  (List.range 16).flatMap (fun k => at_ (0x20 + 4 * k)
    (if bitsOf (sink k) 31 1 = 1 then chk 5 (bitsOf (sink k) 28 3 == 0) ++ chk 1 (decide (bitsOf (sink k) 16 12 < npage))
      else chk 5 (sink k == 0))) ++
  phaseBreaches hdr npage ++ reservedIn hdr 0x80 0xFC ++
  at_ 0xFC (chk 0 (crc32c (Memory.readBytes hdr 0 0xFC) == imgNat hdr 0xFC 4))

/-! ### Fold variants (R64, R264) -/

/-- FOLDSET of a variant: the LPNs of its valid entries (R68). -/
def foldSet (img : List Host.Cell) : List Nat :=
  ((List.range 4).map (fun k => imgNat img (0x20 + 2 * k) 2)).filter (fun e => bitsOf e 15 1 == 1) |>.map (fun e => bitsOf e 0 12)

/-- The offsets at which a variant may differ from its member: KIND, FOLD, LPN, CBALLOT, MSALLOT, FOLDSET and CRC. -/
def variantHeader (o : Nat) : Bool := o < 4 || (0x18 ≤ o && o < 0x1E) || (0x20 ≤ o && o < 0x28) || (0x3C ≤ o && o < 0x40)

/-- An image with the fields that a variant may change taken as zero: CHB, CBA and MSA of each block's header, and BASE of
each port-table entry. -/
def foldMask (img : List Host.Cell) : List Host.Cell :=
  let hs := (blocksFrom img (actEnd img) 1664 0x1800).1
  let clear (m : List Host.Cell) (h : Header) : List Host.Cell :=
    let v := h.raw - h.chb * 2 ^ 90 - h.cba * 2 ^ 16 - h.msa * 2 ^ 8
    (List.range (h.nlis + h.nemi)).foldl (fun m k =>
      let o := h.table + 8 * k
      Memory.writeNat m o 8 (imgNat m o 8 % 2 ^ 54)) (Memory.writeNat m h.off 16 v)
  (hs.foldl clear img).filter (fun c => !variantHeader c.1)

/-- The offset of the first byte in which two lists of cells differ. -/
def firstDifference : List Host.Cell → List Host.Cell → Option Nat
  | [], [] => none
  | c :: _, [] => some c.1
  | [], c :: _ => some c.1
  | a :: as, b :: bs => if a = b then firstDifference as bs else some (min a.1 b.1)

/-- A variant's FOLDSET names two or four members of the graph, as its level has it, and the variant is its member but for
the fields of R264. DEDUCED (log 82), unsafe. -/
def variantBreaches (pages : List (Nat × List Host.Cell)) (img : List Host.Cell) : List Breach :=
  let raw := (List.range 4).map (fun k => imgNat img (0x20 + 2 * k) 2)
  let n := 2 ^ imgNat img 1 1
  let set := foldSet img
  let member (l : Nat) : Option (List Host.Cell) := (pages.find? (fun x => x.1 == l && imgNat x.2 0 1 == 1)).map Prod.snd
  let good := raw.zipIdx.all (fun e => if e.2 < n then bitsOf e.1 15 1 == 1 && bitsOf e.1 12 3 == 0 else e.1 == 0) &&
    set.eraseDups.length == set.length && set.all (fun l => (member l).isSome)
  if imgNat img 0 1 ≠ 2 then []
  else at_ 0x20 (chk 1 good) ++ (match (set[0]?).bind member with
    | some m => match firstDifference (foldMask img) (foldMask m) with
      | some o => at_ o [1]
      | none => []
    | none => [])

/-- The variants that stand together in one folded region with a variant: those of its level and its members. -/
def foldMates (pages : List (Nat × List Host.Cell)) (img : List Host.Cell) : List (Nat × List Host.Cell) :=
  let same (x : List Host.Cell) : Bool := imgNat x 0 1 == 2 && imgNat x 1 1 == imgNat img 1 1 && (foldSet x).all (foldSet img).contains
  pages.filter (fun x => same x.2)

/-- The page channels that a page claims. -/
def claimedChannels (img : List Host.Cell) : List Nat := (blocksFrom img (actEnd img) 1664 0x1800).1.flatMap PageView.channels

/-- The group of a variant fits one slot of the actor tile and has one island at most (0x13), and claims no page channel
that a mate of lower LPN claims (0x10). -/
def foldCauses (pages : List (Nat × List Host.Cell)) (lpn : Nat) (img : List Host.Cell) : List Cause :=
  let mates := foldMates pages img
  let total (o n : Nat) : Nat := (mates.map (fun x => imgNat x.2 o n)).foldl (· + ·) 0
  let islands := (mates.filter (fun x => imgNat x.2 0x0A 1 % 2 == 1)).length
  let mine := claimedChannels img
  if imgNat img 0 1 ≠ 2 then []
  else chk 0x10 (mates.all (fun x => decide (lpn ≤ x.1) || !(claimedChannels x.2).any mine.contains)) ++
    chk 0x13 (decide (total 0x18 4 ≤ 8192) && decide (total 0x1C 2 ≤ 512) && decide (islands ≤ 1))

/-! ### Links (R76, R280, R399, R408) -/

/-- The page of an LPN that is no variant. -/
def mainPage (pages : List (Nat × List Host.Cell)) (lpn : Nat) : Option (List Host.Cell) :=
  (pages.find? (fun x => x.1 == lpn && imgNat x.2 0 1 == 1)).map Prod.snd

/-- The DATA port of an EWID 3 write node (R280). -/
def rowData (v : PageView) (r : Route) : Bool :=
  match r with
  | .node n p => p.toNat == 0 && match v.node? n.toNat with
    | some d => d.ndim != 0 && d.isWrite && bitsOf d.gen 10 3 == 3
    | none => false
  | _ => false

/-- A packet-mode lane names the egress port; something else names it (R280). -/
def packetPort (v : PageView) (q : Nat) : Bool := (v.lanes true).any (fun l => !l.tokens && l.dest == .egress (BitVec.ofNat 4 q))
def tokenPort (v : PageView) (q : Nat) : Bool :=
  let r : Route := .egress (BitVec.ofNat 4 q)
  (v.lanes true).any (fun l => l.tokens && l.dest == r) ||
    v.page.elements.any (fun e => e.2.route0 == r || e.2.route1 == r) ||
    v.blocks.any (fun h => (v.page.cbEntries h).any (fun c => c.out && c.dest == r))

/-- The link of a valid port entry has a valid partner that names it back, stays inside its phase, and carries packets to
where packets may go. -/
def linkOk (g : Graph) (v : PageView) (lpn k : Nat) : Bool :=
  let back := if k < 16 then 16 + v.page.pport k else v.page.pport k
  match mainPage g.pages (v.page.peer k) with
  | none => false
  | some img =>
    let w := PageView.of img 256 true
    let data := rowData w (w.page.iroute back)
    let lane := match w.page.iroute back with
      | .lane l => w.inLane l.toNat
      | _ => false
    w.page.portValid back && w.page.peer back == lpn && w.page.pport back == k % 16 &&
      g.phaseOfPage lpn == g.phaseOfPage (v.page.peer k) &&
      (k < 16 || (if packetPort v (k - 16) then !tokenPort v (k - 16) && (lane || data) else !data))

/-- The first entry of a page's port table that is no legal link; a launch entry has none. -/
def badLink (g : Graph) (lpn : Nat) (img : List Host.Cell) : Option Nat :=
  let v := PageView.of img 256 true
  (List.range 32).find? (fun k => v.page.portValid k && !(k < 16 && v.page.peer k == 0xFFF) && !linkOk g v lpn k)

/-! ### Races (R321, R322) -/

/-- A race between two nodes: the writing node's page and number, the other's, and the overlap. -/
structure Race where
  lpnA : Nat
  nodeA : Nat
  nodeB : Nat
  lpnB : Nat
  low : Nat
  limit : Nat
  deriving DecidableEq, Repr

/-- The nodes of a graph's pages with their page's image. -/
def graphNodes (g : Graph) : List (Nat × Nat × List Host.Cell) :=
  g.mainPages.flatMap (fun x => ((List.range (min (imgNat x.2 8 1) 8)).filter (fun n => imgNat x.2 (0x40 + 64 * n) 1 != 0)).map
    (fun n => (x.1, n, x.2)))

/-- A pair of nodes races (R321): a stream's base is what its two slots bind, an SRAM node's what its one slot binds. -/
def raceOf (a b : Nat × Nat × List Host.Cell) : Option Race :=
  let d (x : Nat × Nat × List Host.Cell) : Desc :=
    ({ key := { ctx := { part := 0, guest := 0, num := 0 }, graph := 0, lpn := 0 }, image := x.2.2, dyn := PageDyn.empty } : Page).desc x.2.1
  let da := d a
  let db := d b
  let half (x : Nat × Nat × List Host.Cell) (slot : Nat) : Nat := let e := binding x.2.2 slot; bitsOf e 29 2 * 256 + bitsOf e 0 8
  let key (x : Nat × Nat × List Host.Cell) : Nat × Option Nat :=
    (half x (d x).slot, if (d x).nkind == 2 || (d x).nkind == 3 then some (half x ((d x).slot + 1)) else none)
  let low := max da.low db.low
  let limit := min da.limit db.limit
  let writer (e : Desc) : Bool := e.canWrite || e.canAtomic
  let ordered := a.1 == b.1 && (bitsOf da.order b.2.1 1 == 1 || bitsOf db.order a.2.1 1 == 1)
  let atomics := !da.canWrite && !db.canWrite && da.canAtomic && db.canAtomic
  if key a = key b ∧ (writer da || writer db) ∧ low < limit ∧ !ordered ∧ !atomics then
    some (if writer da then ⟨a.1, a.2.1, b.2.1, b.1, low, limit⟩ else ⟨b.1, b.2.1, a.2.1, a.1, low, limit⟩)
  else none

/-- Every race, in ascending page and node of the writing node and then of the other (R75, R322). DEDUCED (log 83), unsafe. -/
def racesOf (g : Graph) : List Race :=
  let ns := graphNodes g
  let rank (r : Race) : Nat := ((r.lpnA * 8 + r.nodeA) * 4096 + r.lpnB) * 8 + r.nodeB
  sortBy (fun a b => decide (rank a ≤ rank b)) (ns.zipIdx.flatMap (fun x => (ns.drop (x.2 + 1)).filterMap (raceOf x.1)))

/-- A race entry of 32 bytes (R322). -/
def Race.bytes (r : Race) (gid : Word) : List Byte :=
  bytesOfWord 32 (gid.toNat + r.lpnA * 2 ^ 32 + r.nodeA * 2 ^ 48 + r.nodeB * 2 ^ 56 + r.lpnB * 2 ^ 64 + r.low * 2 ^ 128 + r.limit * 2 ^ 192)

/-! ### The report and the residency commands (R75, R408) -/

/-- What the loader reports: cause, LPN, byte offset. -/
structure LoadReport where
  cause : Nat
  lpn : Nat := 0
  off : Nat := 0
  deriving DecidableEq, Repr

/-- The first cause of the pages in LPN order (R75). -/
def pagesReport (g : Graph) (priv : Bool) : Option LoadReport :=
  g.pages.findSome? (fun x =>
    match firstBreach ((PageView.of x.2 g.ngarg priv).breaches g.gid.toNat x.1 ++ variantBreaches g.pages x.2) with
    | some b => some { cause := b.2, lpn := x.1, off := b.1 }
    | none => none)

/-- The first cause across pages: links and launch entries, channels and slots under folds, races in strict mode last
(R75, R76, R280, R321, R399). -/
def crossReport (g : Graph) (permissive : Bool) : Option LoadReport :=
  let link := g.mainPages.findSome? (fun x => (badLink g x.1 x.2).map (fun k => ({ cause := 0x0E, lpn := x.1, off := 0x240 + 8 * k } : LoadReport)))
  let entry := (g.launchEntries[16]?).map (fun e => ({ cause := 0x0E, lpn := e.1, off := 0x240 + 8 * e.2 } : LoadReport))
  let fold := g.pages.findSome? (fun x => (lowest (foldCauses g.pages x.1 x.2)).map (fun c => ({ cause := c, lpn := x.1, off := 0 } : LoadReport)))
  let race := if permissive then none
    else (racesOf g).head?.map (fun r => ({ cause := 0x12, lpn := r.lpnA, off := 0x40 + 64 * r.nodeA } : LoadReport))
  link <|> entry <|> fold <|> race

namespace State

/-- The graph at a virtual address of a context, read through its translation; or the fault of a page, with its address (R73, R408). -/
def readGraph (s : State) (c : CtxId) (base : Nat) : Except (XFault × Nat) Graph :=
  match s.readImage c base 1 with
  | .error f => .error f
  | .ok h =>
    let hdr := Memory.ofBytes (h.1.take 256)
    let add (r : Except (XFault × Nat) (List (Nat × List Host.Cell) × List Nat)) (k : Nat) :
        Except (XFault × Nat) (List (Nat × List Host.Cell) × List Nat) :=
      match r with
      | .error f => .error f
      | .ok acc => match s.readImage c (base + 0x8000 * (k + 1)) 8 with
        | .error f => .error f
        | .ok p => .ok (acc.1 ++ [(k, Memory.ofBytes p.1)], acc.2 ++ p.2)
    match (List.range (min (imgNat hdr 4 2) 4095)).foldl add (.ok ([], h.2)) with
    | .error f => .error f
    | .ok r => .ok
        { part := c.part, gid := BitVec.ofNat 32 (imgNat hdr 0 4), owner := c, base := BitVec.ofNat 64 base, header := hdr,
          pages := r.1, frames := r.2.eraseDups }

/-- The loader's verdict on a graph: the header in offset order, the limit of 64 resident graphs, the pages, the
cross-page checks (R74, R75, R408). -/
def loadReport (s : State) (g : Graph) : Option LoadReport :=
  let p := s.part g.part
  match firstBreach (graphBreaches g.header (s.graph? g.part g.gid).isSome) with
  | some b => some { cause := b.2, lpn := 0xFFF, off := b.1 }
  | none =>
    if 64 ≤ (s.graphs.filter (fun x => x.part == g.part)).length then some { cause := 0x13, lpn := 0xFFF }
    else pagesReport g p.priv <|> crossReport g p.permissive

/-- What keeps bytes from being written at a virtual address of a context, with the address of the page: a fault, a resident image, a frame
that is duplicated or still to be pulled (R74, R331, R338, R340). -/
def putStop (s : State) (c : CtxId) (va n : Nat) : Option (XFault × Nat) :=
  (List.range ((va + n + 4095) / 4096 - va / 4096)).findSome? (fun i =>
    let a := max va ((va / 4096 + i) * 4096)
    match s.translate c .engineWrite a with
    | .error f => some (f, a)
    | .ok x => (s.writeStop c.part x).map (fun f => (f, a)))

/-- Bytes written at a virtual address of a context, committed at once, 4 KiB at a time. -/
def putBytes (s : State) (c : CtxId) (va : Nat) (bs : List Byte) : Nat → State
  | 0 => s
  | n + 1 =>
    let k := 4096 - va % 4096
    let t := match s.translate c .engineWrite va with
      | .ok x => s.writeNow x.space (s.backed none x.space x.pa) (bs.take k)
      | .error _ => s
    if bs.length ≤ k then t else t.putBytes c (va + k) (bs.drop k) n

/-- The 544-byte completion record (R408): the report, and the races of a graph that a permissive partition loads. -/
def completionRecord (gid : Word) (r : LoadReport) (races : List Race) : List Byte :=
  let head := gid.toNat + r.cause * 2 ^ 32 + r.lpn * 2 ^ 48 + r.off * 2 ^ 64 + (races.length - 16) * 2 ^ 96
  let body := (races.take 16).flatMap (fun x => x.bytes gid)
  bytesOfWord 32 head ++ body ++ List.replicate (512 - body.length) 0

/-- A RESIDE of a context: the graph becomes resident when every check passes, the record says what came of it, and a cause is noted
(R75, R368). None while the image cannot be read or the record written: the owner of a fault is told, and the command goes on once it has
been resolved (R231, R331 to R333). DEDUCED (log 84), unsafe. -/
def reside (s : State) (c : CtxId) (base out : Nat) : Bool × State :=
  match s.readGraph c base with
  | .error (f, va) => (false, s.deviceFault c va .config f)
  | .ok g =>
    match s.putStop c out 544 with
    | some (f, va) => (false, s.deviceFault c va .engineWrite f)
    | none => (true,
      match s.loadReport g with
      | some r => (s.putBytes c out (completionRecord g.gid r []) 2).noteCause 0x15 0xC002 r.cause (ctxWord c)
      | none =>
        ({ s with graphs := s.graphs ++ [g] } : State).putBytes c out
          (completionRecord g.gid { cause := 0 } (if (s.part c.part).permissive then racesOf g else [])) 2)

/-- The running residency command of a guest completes (R408): BUSY clears, and the guest's vector 3 is raised (R432); unless another
command waits, which begins. -/
def residencyDone (s : State) (g : GuestId) : State :=
  let t := s.modGuest g (fun x => { x with grQueue := x.grQueue.drop 1 })
  match (t.guest g).grQueue with
  | [] => t.guestIrq g 3
  | c :: _ => t.pushTurn (residencyInstr c.1) (.guest g)

/-- The running residency command of a guest, when it has this operation: its context and its two arguments. -/
def residency? (s : State) (g : GuestId) (op : Nat) : Option (CtxId × DWord × DWord) :=
  match (s.guest g).grQueue with
  | c :: _ => if bitsOf c.1.toNat 24 8 = op then some (⟨g.part, g.slot, bitsOf c.1.toNat 0 16⟩, c.2.1, c.2.2) else none
  | [] => none

end State

/-- RESIDE (R74, R408): the loader validates the graph at GRARG0 and completes with a record at GRARG1; an unknown context
makes no effect (R428). -/
def execReside (s : State) : Out :=
  match s.cur with
  | some (.guest g) =>
    .next (match s.residency? g 1 with
      | none => s
      | some (c, va, out) =>
        if s.storeFull then s else
        let q := match s.ctx? c with
          | some x => if x.exist then s.reside c (va.toNat / 0x8000 * 0x8000) out.toNat else (true, s)
          | none => (true, s)
        if q.1 then q.2.residencyDone g else q.2)
  | _ => .fault .noParty

/-- RELEASE (R408): the graph leaves residency once no live frame refers to it. -/
def execRelease (s : State) : Out :=
  match s.cur with
  | some (.guest g) =>
    .next (match s.residency? g 2 with
      | none => s
      | some (c, gid, _) =>
        if s.storeFull then s else
        let t := match s.ctx? c with
          | some x => if x.exist then (s.modGraph g.part (gid.setWidth 32) (fun y => { y with released := true })).dropReleased g.part else s
          | none => s
        t.residencyDone g)
  | _ => .fault .noParty

end Sys2Proof.Machine
end

