-- ==== Sys2Proof/Machine/Scalar.lean ====
section
/-!
DEFINITION. The meanings of the integer, logic, shift, bit-field, address, compare, select and packed opcodes (04).
-/
namespace Sys2Proof.Machine

/-- NOP (R91): an element of the word zero enables no queue and never fires; a block NOP takes its issue slot; an
island NOP takes one instruction of the section. -/
def execNop (place : NopPlace) (s : State) : Out :=
  match s.cur, place with
  | some (.party (.elem _ _)), .elem => .next s
  | some (.party (.actor k b i)), .block =>
    .next (fireBlock false false 0 (fun _ t => t.giveNone k b i)
      { pm := .always, ty := .i32, md := 0, ri := false, t1 := .none, t2 := .none, x := 0, imm := 0 } k b i s)
  | some (.party (.island k)), .island =>
    .next (if s.islandRuns k then
      (s.modDyn k (fun d => { d with island := d.island.advance })).touch k (s.dyn k).island.tag else s)
  | _, _ => .fault .noParty

/-- ADD (R101): a + b, wrapped. -/
def execAdd (f : Form) (s : State) : Out := scalar f 2 (fun g => wrapOp f.ty (fun x y => x + y) g.a.v g.b.v) s
/-- SUB (R101): a − b, wrapped. -/
def execSub (f : Form) (s : State) : Out := scalar f 2 (fun g => wrapOp f.ty (fun x y => x - y) g.a.v g.b.v) s
/-- RSUB (R101): b − a, wrapped. -/
def execRsub (f : Form) (s : State) : Out := scalar f 2 (fun g => wrapOp f.ty (fun x y => y - x) g.a.v g.b.v) s
/-- ADDS (R101): a + b, signed, clamped with SAT. -/
def execAdds (f : Form) (s : State) : Out := scalar f 2 (fun g => satOp f.ty (fun x y => x + y) g.a.v g.b.v) s
/-- ADDSN (R101): a + b, unsigned, clamped with SAT. -/
def execAddsn (f : Form) (s : State) : Out := scalar f 2 (fun g => satOp f.ty (fun x y => x + y) g.a.v g.b.v) s
/-- SUBS (R101): a − b, signed, clamped with SAT. -/
def execSubs (f : Form) (s : State) : Out := scalar f 2 (fun g => satOp f.ty (fun x y => x - y) g.a.v g.b.v) s
/-- SUBSN (R101): a − b, unsigned, clamped with SAT. -/
def execSubsn (f : Form) (s : State) : Out := scalar f 2 (fun g => satOp f.ty (fun x y => x - y) g.a.v g.b.v) s
/-- MUL (R101): the low w bits of a × b. -/
def execMul (f : Form) (s : State) : Out := scalar f 2 (fun g => wrapOp f.ty (fun x y => x * y) g.a.v g.b.v) s
/-- MULH (R101): floor(a × b / 2^w), signed. -/
def execMulh (f : Form) (s : State) : Out := scalar f 2 (fun g => mulhOp f.ty g.a.v g.b.v) s
/-- MULHN (R101): floor(a × b / 2^w), unsigned. -/
def execMulhn (f : Form) (s : State) : Out := scalar f 2 (fun g => mulhOp f.ty g.a.v g.b.v) s
/-- MAD (R101): a × b + c, wrapped. -/
def execMad (f : Form) (s : State) : Out := scalar f 3 (fun g => madOp f.ty g.a.v g.b.v g.c.v) s
/-- DIV (R33, R101): the signed quotient, DZ on a zero divisor. -/
def execDiv (f : Form) (s : State) : Out := scalar f 2 (fun g => divOp f.ty g.a.v g.b.v) s
/-- DIVN (R33, R101): the unsigned quotient, DZ on a zero divisor. -/
def execDivn (f : Form) (s : State) : Out := scalar f 2 (fun g => divOp f.ty g.a.v g.b.v) s
/-- REM (R33, R101): the signed remainder, DZ on a zero divisor. -/
def execRem (f : Form) (s : State) : Out := scalar f 2 (fun g => remOp f.ty g.a.v g.b.v) s
/-- REMN (R33, R101): the unsigned remainder, DZ on a zero divisor. -/
def execRemn (f : Form) (s : State) : Out := scalar f 2 (fun g => remOp f.ty g.a.v g.b.v) s
/-- MIN (R101): the smaller lane, signed. -/
def execMin (f : Form) (s : State) : Out := scalar f 2 (fun g => wrapOp f.ty (fun x y => min x y) g.a.v g.b.v) s
/-- MINN (R101): the smaller lane, unsigned. -/
def execMinn (f : Form) (s : State) : Out := scalar f 2 (fun g => wrapOp f.ty (fun x y => min x y) g.a.v g.b.v) s
/-- MAX (R101): the larger lane, signed. -/
def execMax (f : Form) (s : State) : Out := scalar f 2 (fun g => wrapOp f.ty (fun x y => max x y) g.a.v g.b.v) s
/-- MAXN (R101): the larger lane, unsigned. -/
def execMaxn (f : Form) (s : State) : Out := scalar f 2 (fun g => wrapOp f.ty (fun x y => max x y) g.a.v g.b.v) s
/-- ABS (R101): |a|, wrapped. -/
def execAbs (f : Form) (s : State) : Out := scalar f 1 (fun g => wrapOp1 f.ty (fun x => if x < 0 then -x else x) g.a.v) s
/-- NEG (R101): −a, wrapped. -/
def execNeg (f : Form) (s : State) : Out := scalar f 1 (fun g => wrapOp1 f.ty (fun x => -x) g.a.v) s
/-- CLAMP (R101): max(b, min(a, c)). -/
def execClamp (f : Form) (s : State) : Out := scalar f 3 (fun g => clampOp f.ty g.a.v g.b.v g.c.v) s
/-- AND (R102): a AND b. -/
def execAnd (f : Form) (s : State) : Out := scalar f 2 (fun g => (g.a.v &&& g.b.v, Flags.none)) s
/-- OR (R102): a OR b. -/
def execOr (f : Form) (s : State) : Out := scalar f 2 (fun g => (g.a.v ||| g.b.v, Flags.none)) s
/-- XOR (R102): a XOR b. -/
def execXor (f : Form) (s : State) : Out := scalar f 2 (fun g => (g.a.v ^^^ g.b.v, Flags.none)) s
/-- ANDN (R102): a AND NOT b. -/
def execAndn (f : Form) (s : State) : Out := scalar f 2 (fun g => (g.a.v &&& ~~~g.b.v, Flags.none)) s
/-- NOT (R102): NOT a. -/
def execNot (f : Form) (s : State) : Out := scalar f 1 (fun g => (~~~g.a.v, Flags.none)) s
/-- SHL (R103): shift left by the right lane. -/
def execShl (f : Form) (s : State) : Out := scalar f 2 (fun g => shlOp f.ty g.a.v g.b.v) s
/-- SHR (R103): logical shift right by the right lane. -/
def execShr (f : Form) (s : State) : Out := scalar f 2 (fun g => shrOp f.ty g.a.v g.b.v) s
/-- SAR (R103): arithmetic shift right by the right lane. -/
def execSar (f : Form) (s : State) : Out := scalar f 2 (fun g => sarOp f.ty g.a.v g.b.v) s
/-- SHRR (R103): shift right, rounded half to even by the right lane. -/
def execShrr (f : Form) (s : State) : Out := scalar f 2 (fun g => shrrOp f.ty g.a.v g.b.v) s
/-- ROL (R103): rotate left by b mod 32. -/
def execRol (f : Form) (s : State) : Out := scalar f 2 (fun g => rolOp g.a.v g.b.v) s
/-- ROR (R103): rotate right by b mod 32. -/
def execRor (f : Form) (s : State) : Out := scalar f 2 (fun g => rorOp g.a.v g.b.v) s
/-- CLZ (R104): leading zeros. -/
def execClz (f : Form) (s : State) : Out := scalar f 1 (fun g => clzOp g.a.v) s
/-- CTZ (R104): trailing zeros. -/
def execCtz (f : Form) (s : State) : Out := scalar f 1 (fun g => ctzOp g.a.v) s
/-- POPC (R104): set bits. -/
def execPopc (f : Form) (s : State) : Out := scalar f 1 (fun g => popcOp g.a.v) s
/-- BREV (R104): bit order reversed. -/
def execBrev (f : Form) (s : State) : Out := scalar f 1 (fun g => brevOp g.a.v) s
/-- BFX (R105): a field, zero-extended. -/
def execBfx (f : Form) (s : State) : Out := scalar f 1 (fun g => bfxOp f.x g.a.v) s
/-- BFXS (R105): a field, sign-extended. -/
def execBfxs (f : Form) (s : State) : Out := scalar f 1 (fun g => bfxsOp f.x g.a.v) s
/-- BFI (R105): a field inserted. -/
def execBfi (f : Form) (s : State) : Out := scalar f 2 (fun g => bfiOp f.x g.a.v g.b.v) s
/-- BYTEP (R106): bytes of both words chosen by the third. -/
def execBytep (f : Form) (s : State) : Out := scalar f 3 (fun g => bytepOp g.a.v g.b.v g.c.v) s
/-- SATW (R34): a signed clamp to a narrower range. -/
def execSatw (f : Form) (s : State) : Out := scalar f 1 (fun g => satwOp true f.md g.a.v) s
/-- SATWN (R34): an unsigned clamp to a narrower range. -/
def execSatwn (f : Form) (s : State) : Out := scalar f 1 (fun g => satwOp false f.md g.a.v) s
/-- CMP (R108): all ones where the condition holds. -/
def execCmp (f : Form) (s : State) : Out := scalar f 2 (fun g => cmpOp f.ty f.x g.a.v g.b.v) s
/-- TST (R109): all ones where a AND b is nonzero, or zero. -/
def execTst (f : Form) (s : State) : Out := scalar f 2 (fun g => tstOp f.ty f.md g.a.v g.b.v) s
/-- SEL (R110): bits of a under the mask, of b elsewhere. -/
def execSel (f : Form) (s : State) : Out := scalar f 3 (fun g => selOp g.a.v g.b.v g.c.v) s
/-- MOV (R111): a, with its SC. -/
def execMov (f : Form) (s : State) : Out := scalar f 1 (fun g => (g.a.v, Flags.none)) s
/-- DOT4 (R112): the dot product of the lanes added to c. -/
def execDot4 (f : Form) (s : State) : Out := scalar f 3 (fun g => dotOp f.ty f.md g.a.v g.b.v g.c.v) s
/-- DOT2 (R112): the dot product of the lanes added to c. -/
def execDot2 (f : Form) (s : State) : Out := scalar f 3 (fun g => dotOp f.ty f.md g.a.v g.b.v g.c.v) s
/-- SAD4 (R112): the sum of absolute differences added to c. -/
def execSad4 (f : Form) (s : State) : Out := scalar f 3 (fun g => sadOp f.ty f.md g.a.v g.b.v g.c.v) s
/-- PACK (R113): two words narrowed into one. -/
def execPack (f : Form) (s : State) : Out := scalar f 2 (fun g => packOp f.ty f.md g.a.v g.b.v) s
/-- UNPKL (R114): the lower lanes widened. -/
def execUnpkl (f : Form) (s : State) : Out := scalar f 1 (fun g => unpkOp f.ty false g.a.v) s
/-- UNPKH (R114): the upper lanes widened. -/
def execUnpkh (f : Form) (s : State) : Out := scalar f 1 (fun g => unpkOp f.ty true g.a.v) s

/-- LIT (R111): the C operand in an element; IMM16 or a constant in a block; never scaled (R98). -/
def execLit (f : Form) (s : State) : Out :=
  scalar f 0 (fun g => (match f with
    | .elem _ => g.c.v
    | .block b => if b.ri then g.b.v else g.c.v, Flags.none)) s

/-- LEA (R107): base + index × 2^MD within the node's declared range, else its limit with SAT. -/
def execLea (f : Form) (s : State) : Out :=
  let d : Desc := match s.cur with
    | some (.party p) => match s.page? p.page with
      | some g => g.desc (f.x % 8)
      | none => ⟨0, 0, 0, 0, 0, 0, 0, []⟩
    | _ => ⟨0, 0, 0, 0, 0, 0, 0, []⟩
  scalar f 2 (fun g => leaOp f.md d.low d.limit g.a.v g.b.v) s

end Sys2Proof.Machine
end

