-- ==== Sys2Proof/Machine/ScalarFloat.lean ====
section
/-!
DEFINITION. The meanings of the floating-point and conversion opcodes (04).
-/
namespace Sys2Proof.Machine

/-- FADD (R115): a + b, rounded once. -/
def execFadd (f : Form) (s : State) : Out := scalar f 2 (fun g => lanes2 f.ty (faddLane (Fmt.ofTy f.ty) f.md) g.a.v g.b.v) s
/-- FSUB (R115): a − b, rounded once. -/
def execFsub (f : Form) (s : State) : Out := scalar f 2 (fun g => lanes2 f.ty (fsubLane (Fmt.ofTy f.ty) f.md) g.a.v g.b.v) s
/-- FMUL (R115): a × b, rounded once. -/
def execFmul (f : Form) (s : State) : Out := scalar f 2 (fun g => lanes2 f.ty (fmulLane (Fmt.ofTy f.ty) f.md) g.a.v g.b.v) s
/-- FDIV (R115): a / b, rounded once. -/
def execFdiv (f : Form) (s : State) : Out := scalar f 2 (fun g => lanes2 f.ty (fdivLane (Fmt.ofTy f.ty) f.md) g.a.v g.b.v) s
/-- FFMA (R40, R115): a × b + c, rounded once. -/
def execFfma (f : Form) (s : State) : Out := scalar f 3 (fun g => lanes3 f.ty (ffmaLane (Fmt.ofTy f.ty) false f.md) g.a.v g.b.v g.c.v) s
/-- FFMS (R40, R115): a × b − c, rounded once. -/
def execFfms (f : Form) (s : State) : Out := scalar f 3 (fun g => lanes3 f.ty (ffmaLane (Fmt.ofTy f.ty) true f.md) g.a.v g.b.v g.c.v) s
/-- FMIN (R17, R117): the smaller, the number beside a NaN. -/
def execFmin (f : Form) (s : State) : Out := scalar f 2 (fun g => lanes2 f.ty (fminLane (Fmt.ofTy f.ty) false false) g.a.v g.b.v) s
/-- FMAX (R17, R117): the larger, the number beside a NaN. -/
def execFmax (f : Form) (s : State) : Out := scalar f 2 (fun g => lanes2 f.ty (fminLane (Fmt.ofTy f.ty) true false) g.a.v g.b.v) s
/-- FMINM (R17, R117): the smaller, a NaN kept. -/
def execFminm (f : Form) (s : State) : Out := scalar f 2 (fun g => lanes2 f.ty (fminLane (Fmt.ofTy f.ty) false true) g.a.v g.b.v) s
/-- FMAXM (R17, R117): the larger, a NaN kept. -/
def execFmaxm (f : Form) (s : State) : Out := scalar f 2 (fun g => lanes2 f.ty (fminLane (Fmt.ofTy f.ty) true true) g.a.v g.b.v) s
/-- FABS (R116): the sign bit of each lane cleared. -/
def execFabs (f : Form) (s : State) : Out := scalar f 1 (fun g => lanes1 f.ty (fun x => plain ((Fmt.ofTy f.ty).mag x)) g.a.v) s
/-- FNEG (R116): the sign bit of each lane inverted. -/
def execFneg (f : Form) (s : State) : Out := scalar f 1 (fun g => lanes1 f.ty (fun x => plain ((Fmt.ofTy f.ty).code (!(Fmt.ofTy f.ty).neg x) ((Fmt.ofTy f.ty).mag x))) g.a.v) s
/-- FCMP (R118): all ones where the condition holds. -/
def execFcmp (f : Form) (s : State) : Out := scalar f 2 (fun g => lanes2 f.ty (fcmpLane (Fmt.ofTy f.ty) f.ty.width (f.x % 8)) g.a.v g.b.v) s
/-- FCLS (R119): the class mask of each lane. -/
def execFcls (f : Form) (s : State) : Out := scalar f 1 (fun g => lanes1 f.ty (fun x => plain (fclsLane (Fmt.ofTy f.ty) x)) g.a.v) s
/-- FRCP (R115): 1 / a, rounded once. -/
def execFrcp (f : Form) (s : State) : Out := scalar f 1 (fun g => lanes1 f.ty (frcpLane (Fmt.ofTy f.ty) f.md) g.a.v) s
/-- FRSQ (R115): 1 / √a, rounded once. -/
def execFrsq (f : Form) (s : State) : Out := scalar f 1 (fun g => lanes1 f.ty (frsqLane (Fmt.ofTy f.ty) f.md) g.a.v) s
/-- FSQRT (R115): √a, rounded once. -/
def execFsqrt (f : Form) (s : State) : Out := scalar f 1 (fun g => lanes1 f.ty (fsqrtLane (Fmt.ofTy f.ty) f.md) g.a.v) s
/-- FEXP2 (R115): 2^a, rounded once. -/
def execFexp2 (f : Form) (s : State) : Out := scalar f 1 (fun g => lanes1 f.ty (fexp2Lane (Fmt.ofTy f.ty) f.md) g.a.v) s
/-- FLOG2 (R115): log2 a, rounded once. -/
def execFlog2 (f : Form) (s : State) : Out := scalar f 1 (fun g => lanes1 f.ty (flog2Lane (Fmt.ofTy f.ty) f.md) g.a.v) s
/-- FRND (R115): a rounded to an integer, rounded once. -/
def execFrnd (f : Form) (s : State) : Out := scalar f 1 (fun g => lanes1 f.ty (frndLane (Fmt.ofTy f.ty) f.md) g.a.v) s
/-- FLDX (R115): a × 2^n, rounded once; n is the right operand as I32. -/
def execFldx (f : Form) (s : State) : Out := scalar f 2 (fun g => lanes1 f.ty (fun x => fldxLane (Fmt.ofTy f.ty) f.md x g.b.v.toInt) g.a.v) s

/-- The SC that FSCL expects of its left operand, and the one it gives (R120). -/
def fsclWant (x : Nat) : Bool := x % 4 != 1

/-- FSCL (R120): a × b with the scale tag applied or removed; an operand of the wrong SC is 0x34. DESIGN CHOICE (log 133), unsafe. -/
def execFscl (f : Form) (s : State) : Out :=
  let op (g : Args) : Res := lanes2 f.ty (fmulLane (Fmt.ofTy f.ty) f.md) g.a.v g.b.v
  let bad (g : Args) : Bool := g.a.sc != fsclWant f.x || g.b.sc
  let out (g : Args) : Val := { v := (op g).1, sc := !fsclWant f.x, dep := g.dep }
  runForm f s
    (fun e k x => fireElem false (fun g _ => if bad g then some (0x34, g.a.v, 0) else none)
      (fun g t => (t.emitBoth k x e g.tag (out g)).raiseFlags (op g).2 (.elem k x) g.tag (op g).1) e k x s)
    (fun w k b i => fireBlock true true 0
      (fun g t => if bad g then t.faultP 0x34 (.actor k b i) g.tag g.a.v 0
        else (t.give k b i w g.tag (out g)).raiseFlags (op g).2 (.actor k b i) g.tag (op g).1) w k b i s)

/-- CVTI (R121): integer lanes to float lanes or back. -/
def execCvti (f : Form) (s : State) : Out := scalar f 1 (fun g => cvtiOp f.ty f.md f.x g.a.v) s

/-- CVTF (R122, R123): an arithmetic conversion; a form that inserts one lane reads the right operand. -/
def execCvtf (f : Form) (s : State) : Out :=
  scalar f (if cvtfInserts f.ty f.x then 2 else 1) (fun g => cvtfOp f.ty f.md f.x g.a.v g.b.v) s

/-- CVTW (R35, R122, R123): a conversion that keeps NaN payloads; the narrowing form reads the right operand. -/
def execCvtw (f : Form) (s : State) : Out :=
  scalar f (if bitsOf f.x 3 1 = 1 then 2 else 1) (fun g => cvtwOp f.ty f.md f.x g.a.v g.b.v) s

end Sys2Proof.Machine
end

