-- ==== Sys2Proof/Machine/Dispatch.lean ====
section
/-!
DEFINITION. One arm per constructor: the meaning of each row of the operation table.
-/
namespace Sys2Proof.Machine

def exec (i : Instr) (s : State) : Host.Outcome State Fault Refusal :=
  match i with
  | .nop place => Sys2Proof.Machine.execNop place s
  | .add f => Sys2Proof.Machine.execAdd f s
  | .sub f => Sys2Proof.Machine.execSub f s
  | .rsub f => Sys2Proof.Machine.execRsub f s
  | .adds f => Sys2Proof.Machine.execAdds f s
  | .subs f => Sys2Proof.Machine.execSubs f s
  | .addsn f => Sys2Proof.Machine.execAddsn f s
  | .subsn f => Sys2Proof.Machine.execSubsn f s
  | .mul f => Sys2Proof.Machine.execMul f s
  | .mulh f => Sys2Proof.Machine.execMulh f s
  | .mulhn f => Sys2Proof.Machine.execMulhn f s
  | .mad f => Sys2Proof.Machine.execMad f s
  | .div f => Sys2Proof.Machine.execDiv f s
  | .divn f => Sys2Proof.Machine.execDivn f s
  | .rem f => Sys2Proof.Machine.execRem f s
  | .remn f => Sys2Proof.Machine.execRemn f s
  | .min f => Sys2Proof.Machine.execMin f s
  | .max f => Sys2Proof.Machine.execMax f s
  | .minn f => Sys2Proof.Machine.execMinn f s
  | .maxn f => Sys2Proof.Machine.execMaxn f s
  | .abs f => Sys2Proof.Machine.execAbs f s
  | .neg f => Sys2Proof.Machine.execNeg f s
  | .clamp f => Sys2Proof.Machine.execClamp f s
  | .and f => Sys2Proof.Machine.execAnd f s
  | .or f => Sys2Proof.Machine.execOr f s
  | .xor f => Sys2Proof.Machine.execXor f s
  | .andn f => Sys2Proof.Machine.execAndn f s
  | .not f => Sys2Proof.Machine.execNot f s
  | .shl f => Sys2Proof.Machine.execShl f s
  | .shr f => Sys2Proof.Machine.execShr f s
  | .sar f => Sys2Proof.Machine.execSar f s
  | .rol f => Sys2Proof.Machine.execRol f s
  | .ror f => Sys2Proof.Machine.execRor f s
  | .clz f => Sys2Proof.Machine.execClz f s
  | .ctz f => Sys2Proof.Machine.execCtz f s
  | .popc f => Sys2Proof.Machine.execPopc f s
  | .brev f => Sys2Proof.Machine.execBrev f s
  | .bfx f => Sys2Proof.Machine.execBfx f s
  | .bfxs f => Sys2Proof.Machine.execBfxs f s
  | .bfi f => Sys2Proof.Machine.execBfi f s
  | .bytep f => Sys2Proof.Machine.execBytep f s
  | .shrr f => Sys2Proof.Machine.execShrr f s
  | .satw f => Sys2Proof.Machine.execSatw f s
  | .satwn f => Sys2Proof.Machine.execSatwn f s
  | .lea f => Sys2Proof.Machine.execLea f s
  | .cmp f => Sys2Proof.Machine.execCmp f s
  | .tst f => Sys2Proof.Machine.execTst f s
  | .sel f => Sys2Proof.Machine.execSel f s
  | .mov f => Sys2Proof.Machine.execMov f s
  | .lit f => Sys2Proof.Machine.execLit f s
  | .dot4 f => Sys2Proof.Machine.execDot4 f s
  | .dot2 f => Sys2Proof.Machine.execDot2 f s
  | .sad4 f => Sys2Proof.Machine.execSad4 f s
  | .pack f => Sys2Proof.Machine.execPack f s
  | .unpkl f => Sys2Proof.Machine.execUnpkl f s
  | .unpkh f => Sys2Proof.Machine.execUnpkh f s
  | .fadd f => Sys2Proof.Machine.execFadd f s
  | .fsub f => Sys2Proof.Machine.execFsub f s
  | .fmul f => Sys2Proof.Machine.execFmul f s
  | .ffma f => Sys2Proof.Machine.execFfma f s
  | .ffms f => Sys2Proof.Machine.execFfms f s
  | .fmin f => Sys2Proof.Machine.execFmin f s
  | .fmax f => Sys2Proof.Machine.execFmax f s
  | .fminm f => Sys2Proof.Machine.execFminm f s
  | .fmaxm f => Sys2Proof.Machine.execFmaxm f s
  | .fabs f => Sys2Proof.Machine.execFabs f s
  | .fneg f => Sys2Proof.Machine.execFneg f s
  | .fcmp f => Sys2Proof.Machine.execFcmp f s
  | .fcls f => Sys2Proof.Machine.execFcls f s
  | .frcp f => Sys2Proof.Machine.execFrcp f s
  | .frsq f => Sys2Proof.Machine.execFrsq f s
  | .fsqrt f => Sys2Proof.Machine.execFsqrt f s
  | .fdiv f => Sys2Proof.Machine.execFdiv f s
  | .fexp2 f => Sys2Proof.Machine.execFexp2 f s
  | .flog2 f => Sys2Proof.Machine.execFlog2 f s
  | .frnd f => Sys2Proof.Machine.execFrnd f s
  | .fldx f => Sys2Proof.Machine.execFldx f s
  | .fscl f => Sys2Proof.Machine.execFscl f s
  | .cvti f => Sys2Proof.Machine.execCvti f s
  | .cvtf f => Sys2Proof.Machine.execCvtf f s
  | .cvtw f => Sys2Proof.Machine.execCvtw f s
  | .fxpk b => Sys2Proof.Machine.execFxpk b s
  | .fxun b => Sys2Proof.Machine.execFxun b s
  | .fxsc b => Sys2Proof.Machine.execFxsc b s
  | .steer f => Sys2Proof.Machine.execSteer f s
  | .cmerge f => Sys2Proof.Machine.execCmerge f s
  | .merge f => Sys2Proof.Machine.execMerge f s
  | .omerge f => Sys2Proof.Machine.execOmerge f s
  | .gate f => Sys2Proof.Machine.execGate f s
  | .dup f => Sys2Proof.Machine.execDup f s
  | .drop f => Sys2Proof.Machine.execDrop f s
  | .repeatSeg e => Sys2Proof.Machine.execRepeatSeg e s
  | .count f => Sys2Proof.Machine.execCount f s
  | .iter f => Sys2Proof.Machine.execIter f s
  | .strikeMake f => Sys2Proof.Machine.execStrikeMake f s
  | .strikeAnnul e => Sys2Proof.Machine.execStrikeAnnul e s
  | .join f => Sys2Proof.Machine.execJoin f s
  | .reduce f => Sys2Proof.Machine.execReduce f s
  | .scanp f => Sys2Proof.Machine.execScanp f s
  | .mkeos f => Sys2Proof.Machine.execMkeos f s
  | .oneos f => Sys2Proof.Machine.execOneos f s
  | .tagr f => Sys2Proof.Machine.execTagr f s
  | .tagw f => Sys2Proof.Machine.execTagw f s
  | .nexti f => Sys2Proof.Machine.execNexti f s
  | .wid f => Sys2Proof.Machine.execWid f s
  | .arg f => Sys2Proof.Machine.execArg f s
  | .argw b => Sys2Proof.Machine.execArgw b s
  | .launch b => Sys2Proof.Machine.execLaunch b s
  | .call b => Sys2Proof.Machine.execCall b s
  | .rclose f => Sys2Proof.Machine.execRclose f s
  | .recv b => Sys2Proof.Machine.execRecv b s
  | .peek b => Sys2Proof.Machine.execPeek b s
  | .emit b => Sys2Proof.Machine.execEmit b s
  | .advr b => Sys2Proof.Machine.execAdvr b s
  | .advw b => Sys2Proof.Machine.execAdvw b s
  | .cbq b => Sys2Proof.Machine.execCbq b s
  | .ld f => Sys2Proof.Machine.execLd f s
  | .st f => Sys2Proof.Machine.execSt f s
  | .ldx b => Sys2Proof.Machine.execLdx b s
  | .stx b => Sys2Proof.Machine.execStx b s
  | .pf f => Sys2Proof.Machine.execPf f s
  | .aadd f => Sys2Proof.Machine.execAadd f s
  | .aadds f => Sys2Proof.Machine.execAadds f s
  | .amin f => Sys2Proof.Machine.execAmin f s
  | .amax f => Sys2Proof.Machine.execAmax f s
  | .aminn f => Sys2Proof.Machine.execAminn f s
  | .amaxn f => Sys2Proof.Machine.execAmaxn f s
  | .aand f => Sys2Proof.Machine.execAand f s
  | .aor f => Sys2Proof.Machine.execAor f s
  | .axor f => Sys2Proof.Machine.execAxor f s
  | .axch f => Sys2Proof.Machine.execAxch f s
  | .acas f => Sys2Proof.Machine.execAcas f s
  | .acasD b => Sys2Proof.Machine.execAcasD b s
  | .afadd f => Sys2Proof.Machine.execAfadd f s
  | .ainc f => Sys2Proof.Machine.execAinc f s
  | .fenceAcq f => Sys2Proof.Machine.execFenceAcq f s
  | .fenceRel f => Sys2Proof.Machine.execFenceRel f s
  | .fenceAr f => Sys2Proof.Machine.execFenceAr f s
  | .mma w => Sys2Proof.Machine.execMma w s
  | .mmat w => Sys2Proof.Machine.execMmat w s
  | .mmas w => Sys2Proof.Machine.execMmas w s
  | .ldt w => Sys2Proof.Machine.execLdt w s
  | .ldtt w => Sys2Proof.Machine.execLdtt w s
  | .stt w => Sys2Proof.Machine.execStt w s
  | .lda w => Sys2Proof.Machine.execLda w s
  | .sta w => Sys2Proof.Machine.execSta w s
  | .rda w => Sys2Proof.Machine.execRda w s
  | .zacc w => Sys2Proof.Machine.execZacc w s
  | .sca w => Sys2Proof.Machine.execSca w s
  | .vmaxr w => Sys2Proof.Machine.execVmaxr w s
  | .vsumr w => Sys2Proof.Machine.execVsumr w s
  | .vexp2 w => Sys2Proof.Machine.execVexp2 w s
  | .vadd w => Sys2Proof.Machine.execVadd w s
  | .vsub w => Sys2Proof.Machine.execVsub w s
  | .vmul w => Sys2Proof.Machine.execVmul w s
  | .vfma w => Sys2Proof.Machine.execVfma w s
  | .vmax w => Sys2Proof.Machine.execVmax w s
  | .vcvt w => Sys2Proof.Machine.execVcvt w s
  | .vbcast w => Sys2Proof.Machine.execVbcast w s
  | .iloop w => Sys2Proof.Machine.execIloop w s
  | .iwait w => Sys2Proof.Machine.execIwait w s
  | .iemitPkt w => Sys2Proof.Machine.execIemitPkt w s
  | .iemitTok w => Sys2Proof.Machine.execIemitTok w s
  | .isync w => Sys2Proof.Machine.execIsync w s
  | .sendCopy b => Sys2Proof.Machine.execSendCopy b s
  | .sendFill b => Sys2Proof.Machine.execSendFill b s
  | .sendGather b => Sys2Proof.Machine.execSendGather b s
  | .sendScatter b => Sys2Proof.Machine.execSendScatter b s
  | .sendIstream b => Sys2Proof.Machine.execSendIstream b s
  | .sendPublish b => Sys2Proof.Machine.execSendPublish b s
  | .sendDiscard b => Sys2Proof.Machine.execSendDiscard b s
  | .sendPreload b => Sys2Proof.Machine.execSendPreload b s
  | .sendMigrate b => Sys2Proof.Machine.execSendMigrate b s
  | .sendMark b => Sys2Proof.Machine.execSendMark b s
  | .sendTest b => Sys2Proof.Machine.execSendTest b s
  | .sendw b => Sys2Proof.Machine.execSendw b s
  | .sendwCensus b => Sys2Proof.Machine.execSendwCensus b s
  | .sendwQuery b => Sys2Proof.Machine.execSendwQuery b s
  | .trap f => Sys2Proof.Machine.execTrap f s
  | .brk f => Sys2Proof.Machine.execBrk f s
  | .wmark b => Sys2Proof.Machine.execWmark b s
  | .sealWindow b => Sys2Proof.Machine.execSealWindow b s
  | .rdsr b => Sys2Proof.Machine.execRdsr b s
  | .wrsrAflg b => Sys2Proof.Machine.execWrsrAflg b s
  | .wrsrRtmr b => Sys2Proof.Machine.execWrsrRtmr b s
  | .wrsrQuota b => Sys2Proof.Machine.execWrsrQuota b s
  | .inval b => Sys2Proof.Machine.execInval b s
  | .invalAll b => Sys2Proof.Machine.execInvalAll b s
  | .pgld b => Sys2Proof.Machine.execPgld b s
  | .pgev b => Sys2Proof.Machine.execPgev b s
  | .fold b => Sys2Proof.Machine.execFold b s
  | .yield b => Sys2Proof.Machine.execYield b s
  | .census b => Sys2Proof.Machine.execCensus b s
  | .actorSelect => Sys2Proof.Machine.execActorSelect s
  | .firingComplete => Sys2Proof.Machine.execFiringComplete s
  | .matchOverflowProbe => Sys2Proof.Machine.execMatchOverflowProbe s
  | .listenArrival => Sys2Proof.Machine.execListenArrival s
  | .emitForward => Sys2Proof.Machine.execEmitForward s
  | .tokenHop => Sys2Proof.Machine.execTokenHop s
  | .egressLookup => Sys2Proof.Machine.execEgressLookup s
  | .cueMark => Sys2Proof.Machine.execCueMark s
  | .censusToken => Sys2Proof.Machine.execCensusToken s
  | .unknownControlCode => Sys2Proof.Machine.execUnknownControlCode s
  | .notify => Sys2Proof.Machine.execNotify s
  | .arm => Sys2Proof.Machine.execArm s
  | .passEnd => Sys2Proof.Machine.execPassEnd s
  | .sectionEnd => Sys2Proof.Machine.execSectionEnd s
  | .sectionDone => Sys2Proof.Machine.execSectionDone s
  | .islandCut => Sys2Proof.Machine.execIslandCut s
  | .generatorStart => Sys2Proof.Machine.execGeneratorStart s
  | .generatorStop => Sys2Proof.Machine.execGeneratorStop s
  | .writeNodeData => Sys2Proof.Machine.execWriteNodeData s
  | .writeNodeEos => Sys2Proof.Machine.execWriteNodeEos s
  | .generatorEmit => Sys2Proof.Machine.execGeneratorEmit s
  | .windowReturn => Sys2Proof.Machine.execWindowReturn s
  | .homeArbitrate => Sys2Proof.Machine.execHomeArbitrate s
  | .accessResponse => Sys2Proof.Machine.execAccessResponse s
  | .roundTimer => Sys2Proof.Machine.execRoundTimer s
  | .closeRequest => Sys2Proof.Machine.execCloseRequest s
  | .cutReport => Sys2Proof.Machine.execCutReport s
  | .commit => Sys2Proof.Machine.execCommit s
  | .writeBack => Sys2Proof.Machine.execWriteBack s
  | .void => Sys2Proof.Machine.execVoid s
  | .freeze => Sys2Proof.Machine.execFreeze s
  | .trapDeliver => Sys2Proof.Machine.execTrapDeliver s
  | .trapAccept => Sys2Proof.Machine.execTrapAccept s
  | .pageSignal => Sys2Proof.Machine.execPageSignal s
  | .pageLoadDone => Sys2Proof.Machine.execPageLoadDone s
  | .wingDrain => Sys2Proof.Machine.execWingDrain s
  | .evictionSave => Sys2Proof.Machine.execEvictionSave s
  | .regionAssign => Sys2Proof.Machine.execRegionAssign s
  | .foldTurnEnd => Sys2Proof.Machine.execFoldTurnEnd s
  | .savePoolWaitEnd => Sys2Proof.Machine.execSavePoolWaitEnd s
  | .tlbWalkStep => Sys2Proof.Machine.execTlbWalkStep s
  | .drainAck => Sys2Proof.Machine.execDrainAck s
  | .placement => Sys2Proof.Machine.execPlacement s
  | .replicaCollapse => Sys2Proof.Machine.execReplicaCollapse s
  | .pullRetry => Sys2Proof.Machine.execPullRetry s
  | .pullComplete => Sys2Proof.Machine.execPullComplete s
  | .copy => Sys2Proof.Machine.execCopy s
  | .fill => Sys2Proof.Machine.execFill s
  | .gather => Sys2Proof.Machine.execGather s
  | .scatter => Sys2Proof.Machine.execScatter s
  | .publish => Sys2Proof.Machine.execPublish s
  | .discard => Sys2Proof.Machine.execDiscard s
  | .istream => Sys2Proof.Machine.execIstream s
  | .preload => Sys2Proof.Machine.execPreload s
  | .migrate => Sys2Proof.Machine.execMigrate s
  | .logbookMark => Sys2Proof.Machine.execLogbookMark s
  | .scanTest => Sys2Proof.Machine.execScanTest s
  | .scanPhaseEnd => Sys2Proof.Machine.execScanPhaseEnd s
  | .quadClaim => Sys2Proof.Machine.execQuadClaim s
  | .censusSweep => Sys2Proof.Machine.execCensusSweep s
  | .prompterQuery => Sys2Proof.Machine.execPrompterQuery s
  | .engineReply => Sys2Proof.Machine.execEngineReply s
  | .regionRetire => Sys2Proof.Machine.execRegionRetire s
  | .repairMapWrite => Sys2Proof.Machine.execRepairMapWrite s
  | .hang => Sys2Proof.Machine.execHang s
  | .logbookTimeRecord => Sys2Proof.Machine.execLogbookTimeRecord s
  | .qnotifyWrite => Sys2Proof.Machine.execQnotifyWrite s
  | .distributorSelect => Sys2Proof.Machine.execDistributorSelect s
  | .argBlockLoad => Sys2Proof.Machine.execArgBlockLoad s
  | .tagWait => Sys2Proof.Machine.execTagWait s
  | .walkerEmit => Sys2Proof.Machine.execWalkerEmit s
  | .sinkCounted => Sys2Proof.Machine.execSinkCounted s
  | .frameComplete => Sys2Proof.Machine.execFrameComplete s
  | .phaseRelease => Sys2Proof.Machine.execPhaseRelease s
  | .sliceEnd => Sys2Proof.Machine.execSliceEnd s
  | .sliceWatchdog => Sys2Proof.Machine.execSliceWatchdog s
  | .regionShrink => Sys2Proof.Machine.execRegionShrink s
  | .preemptUnfold => Sys2Proof.Machine.execPreemptUnfold s
  | .infillStart => Sys2Proof.Machine.execInfillStart s
  | .infillPoint => Sys2Proof.Machine.execInfillPoint s
  | .coverageUpdate => Sys2Proof.Machine.execCoverageUpdate s
  | .guestSuspend => Sys2Proof.Machine.execGuestSuspend s
  | .guestResume => Sys2Proof.Machine.execGuestResume s
  | .guestSwitch => Sys2Proof.Machine.execGuestSwitch s
  | .reside => Sys2Proof.Machine.execReside s
  | .release => Sys2Proof.Machine.execRelease s
  | .granuleAssign => Sys2Proof.Machine.execGranuleAssign s
  | .granuleRelease => Sys2Proof.Machine.execGranuleRelease s
  | .contextCreate => Sys2Proof.Machine.execContextCreate s
  | .contextDestroy => Sys2Proof.Machine.execContextDestroy s
  | .s1rootWrite => Sys2Proof.Machine.execS1rootWrite s
  | .s2rootWrite => Sys2Proof.Machine.execS2rootWrite s
  | .fresolveRetry => Sys2Proof.Machine.execFresolveRetry s
  | .fresolveStop => Sys2Proof.Machine.execFresolveStop s
  | .faultRingWrite => Sys2Proof.Machine.execFaultRingWrite s
  | .qdirtyClear => Sys2Proof.Machine.execQdirtyClear s
  | .covgstatWrite => Sys2Proof.Machine.execCovgstatWrite s
  | .lbctlWrite => Sys2Proof.Machine.execLbctlWrite s
  | .registerWrite => Sys2Proof.Machine.execRegisterWrite s
  | .logEnable => Sys2Proof.Machine.execLogEnable s
  | .logDisable => Sys2Proof.Machine.execLogDisable s
  | .mark => Sys2Proof.Machine.execMark s
  | .markEvery => Sys2Proof.Machine.execMarkEvery s
  | .drain => Sys2Proof.Machine.execDrain s
  | .breakEnable => Sys2Proof.Machine.execBreakEnable s
  | .stop => Sys2Proof.Machine.execStop s
  | .resume => Sys2Proof.Machine.execResume s
  | .rewind => Sys2Proof.Machine.execRewind s
  | .stepRounds => Sys2Proof.Machine.execStepRounds s
  | .stepFiring => Sys2Proof.Machine.execStepFiring s
  | .mask => Sys2Proof.Machine.execMask s
  | .create => Sys2Proof.Machine.execCreate s
  | .destroy => Sys2Proof.Machine.execDestroy s
  | .reset => Sys2Proof.Machine.execReset s
  | .grant => Sys2Proof.Machine.execGrant s
  | .remove => Sys2Proof.Machine.execRemove s
  | .scrubComplete => Sys2Proof.Machine.execScrubComplete s
  | .bind => Sys2Proof.Machine.execBind s
  | .exportPart => Sys2Proof.Machine.execExportPart s
  | .importPart => Sys2Proof.Machine.execImportPart s
  | .scrub => Sys2Proof.Machine.execScrub s
  | .port => Sys2Proof.Machine.execPort s
  | .granuleGrant => Sys2Proof.Machine.execGranuleGrant s
  | .granuleRevoke => Sys2Proof.Machine.execGranuleRevoke s
  | .s2inval => Sys2Proof.Machine.execS2inval s
  | .placefill => Sys2Proof.Machine.execPlacefill s
  | .donate => Sys2Proof.Machine.execDonate s
  | .reclaim => Sys2Proof.Machine.execReclaim s
  | .safectlClr => Sys2Proof.Machine.execSafectlClr s
  | .safectlForce => Sys2Proof.Machine.execSafectlForce s
  | .safetyTrigger => Sys2Proof.Machine.execSafetyTrigger s
  | .powerGood => Sys2Proof.Machine.execPowerGood s
  | .vfFlr => Sys2Proof.Machine.execVfFlr s
  | .pfFlr => Sys2Proof.Machine.execPfFlr s
  | .thermalWarn => Sys2Proof.Machine.execThermalWarn s
  | .thermalTrip => Sys2Proof.Machine.execThermalTrip s
  | .throttleEnd => Sys2Proof.Machine.execThrottleEnd s
  | .voltageWarn => Sys2Proof.Machine.execVoltageWarn s
  | .voltageFault => Sys2Proof.Machine.execVoltageFault s
  | .powerLimit => Sys2Proof.Machine.execPowerLimit s
  | .ucieFlitError => Sys2Proof.Machine.execUcieFlitError s
  | .gddrLinkCrc => Sys2Proof.Machine.execGddrLinkCrc s
  | .gddrRetrainDone => Sys2Proof.Machine.execGddrRetrainDone s
  | .prompterFailover => Sys2Proof.Machine.execPrompterFailover s
  | .pageBecomesEligible => Sys2Proof.Machine.execPageBecomesEligible s
  | .vacateDeadline => Sys2Proof.Machine.execVacateDeadline s
  | .pcieLinkUp => Sys2Proof.Machine.execPcieLinkUp s
  | .pcieLinkDown => Sys2Proof.Machine.execPcieLinkDown s
  | .triggerInputRise => Sys2Proof.Machine.execTriggerInputRise s
  | .ethernetTransmit => Sys2Proof.Machine.execEthernetTransmit s
  | .ethernetReceive => Sys2Proof.Machine.execEthernetReceive s
  | .gateControlInterval => Sys2Proof.Machine.execGateControlInterval s

end Sys2Proof.Machine
end

