-- ==== Sys2Proof/Machine/Sweep.lean ====
section
/-!
DEFINITION. The fetch of a party's word, the sweep that offers every agent of the device its turn in one cycle, the
cycle tick, and the placing of one word where the next step fetches it.
-/
namespace Sys2Proof.Machine

/-- What a fetch finds: an instruction, a fault, or the cause for which the loader refuses the word. -/
inductive Fetched where
  | ins (i : Instr)
  | none
  | bad (cause : Nat)
  deriving DecidableEq, Repr

/-- A decoder's answer as a fetch. -/
def Fetched.ofExcept : Except Cause Instr → Fetched
  | .ok i => .ins i
  | .error c => .bad c

/-- The bytes at a party's place, decoded at its site (R53, R58, R67, R86). DEDUCED (log 125), unsafe. -/
def fetch (s : State) : Party → Fetched
  | .elem k n => match s.page? k with
    | some p => .ofExcept (decode .elem (.ecw (p.ecwWord n)))
    | none => .none
  | .actor k b i => match s.page? k with
    | some p => match p.header? b with
      | some h => if i < h.nins then .ofExcept (decode h.site (.blk (p.insWord h i))) else .none
      | none => .none
    | none => .none
  | .island k => match s.page? k with
    | some p =>
      if p.dyn.island.phase = .running ∧ p.dyn.island.pc < p.islandHeader.nins then
        .ofExcept (decode .island (.blk (p.insWord p.islandHeader p.dyn.island.pc)))
      else .none
    | none => .none
  | .node _ _ => .none
  | .infill _ => .none

/-- The turns of a place of a page that holds something: census tokens, hops, arrivals and cues. -/
def placeTurns (k : PageKey) (f : Place) : List Turn :=
  .event .censusToken (.place k f) :: (match f with
    | .egress q => [.event .egressLookup (.part k q)]
    | .wing _ | .reply => [.event .wingDrain (.place k f)]
    | .node _ _ => []
    | _ => [.event .cueMark (.place k f), .event .listenArrival (.place k f), .event .tokenHop (.place k f)])

/-- The turns of a block: its firing's instructions, the completion, its cut, its emit ports. -/
def blockTurns (p : Page) (b : Nat) : List Turn :=
  let k := p.key
  match p.header? b with
  | none => []
  | some h =>
    (match (p.dyn.actor b).firing with
      | some _ => (List.range h.nins).map (fun i => Turn.party (.actor k b i)) ++ [.event .firingComplete (.part k b)]
      | none => []) ++
    [.event .cueMark (.part k b), .event .censusToken (.part k b)] ++ (List.range h.nemi).map (fun j => Turn.event .emitForward (.emitPort k b j))

/-- The turns of a page in one cycle. -/
def pageTurns (p : Page) : List Turn :=
  let k := p.key
  let island : List Turn := if p.hasIsland then
      [.party (.island k), .event .arm (.page k), .event .passEnd (.page k), .event .sectionEnd (.page k), .event .islandCut (.page k)] else []
  let nodes : List Turn := (List.range p.nmem).flatMap (fun n =>
    [.event .generatorStart (.part k n), .event .generatorStop (.part k n), .event .writeNodeData (.part k n),
     .event .writeNodeEos (.part k n), .event .generatorEmit (.part k n), .event .windowReturn (.part k n)])
  let state : List Turn := match p.st with
    | .loading => [.event .pageLoadDone (.page k)]
    | .stopping => [.event .evictionSave (.page k)]
    | .resident | .folded => [.event .trapDeliver (.page k), .event .pageBecomesEligible (.page k)]
    | _ => []
  p.elements.map (fun e => .party (.elem k e.1)) ++ (List.range p.nact).flatMap (blockTurns p) ++ island ++ nodes ++
    (p.dyn.fifos.filter (fun f => !f.2.isEmpty)).flatMap (fun f => placeTurns k f.1) ++ state

/-- The turns of a context: its rounds, and the command of its debugger that waits to be carried out. -/
def ctxTurns (x : Context) : List Turn :=
  let c := x.id
  [.event .roundTimer (.ctx c), .event .closeRequest (.ctx c), .event .cutReport (.ctx c), .event .commit (.ctx c), .event .void (.ctx c),
   .event .freeze (.ctx c), .event .preemptUnfold (.ctx c)] ++
  (if x.res = 1 ∧ x.stepsLeft.isNone ∧ x.stepParty.isNone then
    ((dbgInstr (bitsOf x.dbgCmd.toNat 24 8)).map (fun i => Turn.event i (.ctx c))).toList else [])

/-- The turns of a frame. -/
def frameTurns (f : Frame) : List Turn :=
  let k := f.key
  [.event .placement (.graph f.ctx f.graph), .event .argBlockLoad (.frame k), .event .walkerEmit (.frame k),
   .event .infillStart (.frame k), .event .infillPoint (.frame k), .event .coverageUpdate (.frame k), .event .phaseRelease (.frame k),
   .event .frameComplete (.frame k), .event .hang (.frame k)]

/-- The event of a scheduling command of a guest (R418). -/
def guestInstr (cmd : Word) : Instr :=
  match bitsOf cmd.toNat 24 8 with
  | 1 => .guestSuspend
  | 2 => .guestResume
  | _ => .guestSwitch

/-- The turns of a guest: its distributor, queue heads that wait for a tag, and its commands that are under way. -/
def guestTurns (g : Guest) : List Turn :=
  .event .distributorSelect (.guest g.id) ::
  (g.queues.filter (fun q => q.waiting.isSome && !q.tagWait)).map (fun q => Turn.event .tagWait (.queue g.id q.num)) ++
  (g.pendingCmds.take 1).map (fun c => Turn.event (guestInstr c.1) (.guest g.id)) ++
  (g.grQueue.take 1).map (fun c => Turn.event (residencyInstr c.1) (.guest g.id)) ++
  (if g.gnStat.getLsbD 31 then [.event (granuleInstr g.gnCmd) (.guest g.id)] else [])

/-- The turns of a partition. -/
def partTurns (p : Partition) : List Turn :=
  [.event .pageSignal (.unit p.num), .event .regionAssign (.unit p.num), .event .savePoolWaitEnd (.unit p.num),
   .event .matchOverflowProbe (.unit p.num), .event .sliceEnd (.unit p.num), .event .sliceWatchdog (.unit p.num),
   .event .regionShrink (.unit p.num)] ++
  p.collapsing.map (fun f => Turn.event .replicaCollapse (.units p.num f.1)) ++
  p.pullBits.map (fun f => Turn.event .pullRetry (.units p.num f))

/-- The engine event of a message (R93, R221 to R232). -/
def msgEvent (code : Nat) : Instr :=
  match code with
  | 0x01 => .copy
  | 0x02 => .fill
  | 0x03 => .gather
  | 0x04 => .scatter
  | 0x05 => .istream
  | 0x06 => .publish
  | 0x07 => .discard
  | 0x08 => .preload
  | 0x09 => .migrate
  | 0x0A => .logbookMark
  | 0x0B => .scanTest
  | 0x0C => .censusSweep
  | _ => .prompterQuery

/-- The turns of a message. -/
def msgTurns (m : Msg) : List Turn :=
  if m.phase = 3 then [.event .engineReply (.unit m.id)] else [.event (msgEvent m.code) (.unit m.id)]

/-- A control token reaches a unit that has a turn of its own for it, or no unit (R80); the tokens of the other codes are
taken by the turns of the Stagehand, the round controllers and the homes. -/
def ctlTurn (c : Ctl) : List Turn :=
  match c.code with
  | 0x01 => [.event .notify .device]
  | 0x03 => [.event .sectionDone .device]
  | 0x09 => [.event .trapAccept .device]
  | 0x0C => [.event .sinkCounted .device]
  | n => if n = 0 ∨ 0x0C < n then [.event .unknownControlCode .device] else []

/-- The turns of the homes that accesses and buffered writes name, port queue by port queue. -/
def homeTurns (s : State) : List Turn :=
  ((s.reqs.map Req.home) ++ (s.homeWrites.map HomeWrite.home)).eraseDups.flatMap (fun h =>
    (match h with
      | .tile _ => List.range 4
      | .mse _ => ((s.reqs.filter (fun (r : Req) => r.home == h)).map Req.port).eraseDups).map (fun q => Turn.event .homeArbitrate (.home h q)) ++
      [.event .writeBack (.home h 0)])

/-- The turns of the device's management: fault rings, the hypervisor's command, scrubs, retirements, links, flash, ports,
the Logbook. -/
def deviceTurns (s : State) : List Turn :=
  let d := s.dev
  (s.rings.filter (fun r => !r.waiting.isEmpty)).map (fun r => Turn.event .faultRingWrite (.record r.id 0)) ++
  (if d.hbusy then ((hcmdInstr (bitsOf d.hcmd.toNat 24 8) d.harg.toNat).map (fun i => Turn.event i (.unit (bitsOf d.hcmd.toNat 16 8)))).toList
    else []) ++
  d.blocks.zipIdx.filterMap (fun b => match b.1 with
    | .scrubbing _ => some (Turn.event .scrubComplete (.unit b.2))
    | _ => none) ++
  d.retiring.map (fun l => Turn.event .regionRetire (.unit l)) ++
  d.retraining.map (fun c => Turn.event .gddrRetrainDone (.unit c)) ++
  (if d.repairWrites = 0 then [] else [.event .repairMapWrite .device]) ++
  d.ports.flatMap (fun p => [Turn.event .ethernetTransmit (.unit p.num), .event .ethernetReceive (.unit p.num), .event .gateControlInterval (.unit p.num)]) ++
  [.event .prompterFailover .device, .event .logbookTimeRecord .device]

/-- Every turn of one cycle, agent by agent; a turn whose condition does not hold changes nothing. What the outside world
does to the machine is no turn of its own: register writes, resets, sensors, links, frames that arrive. DESIGN CHOICE (log 8), safe. -/
def sweep (s : State) : List Turn :=
  s.pages.flatMap pageTurns ++
  (List.range 16).map (fun q => .event .actorSelect (.unit q)) ++
  homeTurns s ++
  (s.reqs.map Req.issuer).eraseDups.map (fun p => .event .accessResponse (.party p)) ++
  s.ctxs.flatMap ctxTurns ++
  s.walks.map (fun w => .event .tlbWalkStep (.unit w.id)) ++
  (s.reqs.filter (fun r => (match r.phase with
    | .translating _ => !s.walks.any (fun w => w.id == r.id)
    | _ => false))).map (fun r => .event .tlbWalkStep (.unit r.id)) ++
  s.dev.coreWaits.map Turn.core ++
  s.invals.flatMap (fun v => v.pending.map (fun m => Turn.event .drainAck (.units v.id m))) ++
  s.msgs.flatMap (fun x => x.acks.map (fun m => Turn.event .drainAck (.units (x.waits.getD 0) m))) ++
  s.msgs.flatMap msgTurns ++
  s.scans.flatMap (fun c => [Turn.event .scanPhaseEnd (.unit c.quad), .event .quadClaim (.unit c.quad), .event .vacateDeadline (.unit c.quad)]) ++
  (s.censuses.flatMap (fun c => c.todo.map Prod.fst)).eraseDups.map (fun k => .event .censusToken (.page k)) ++
  s.ctl.flatMap ctlTurn ++
  (if s.callReplies.any (fun r => r.given.isNone) then [.event .frameComplete .device] else []) ++
  s.frames.flatMap frameTurns ++ s.guests.flatMap guestTurns ++ s.parts.flatMap partTurns ++
  (List.range 64).map (fun r => .event .foldTurnEnd (.unit r)) ++
  deviceTurns s

/-- Turns in an open order (R306). -/
def dealt : Nat → List Turn → State → List Turn × State
  | 0, ts, s => (ts, s)
  | n + 1, ts, s =>
    let c := s.choose ts.length
    match ts[c.1]? with
    | none => (ts, c.2)
    | some t => let r := dealt n (ts.eraseIdx c.1) c.2; (t :: r.1, r.2)

/-- One cycle of the fabric passes (R8, R239): the counters advance and every agent is offered a turn, in an open order. DESIGN CHOICE (log 2), safe. DEDUCED (log 5), unsafe. -/
def tick (s : State) : State :=
  let c := s.cycle.toNat
  let r := dealt (sweep s).length (sweep s) s
  { r.2 with
    cycle := s.cycle + 1
    time := s.time + BitVec.ofNat 64 ((c + 1) * 10 / Config.cyclesPerTenNanoseconds - c * 10 / Config.cyclesPerTenNanoseconds)
    agenda := r.1
    cur := none }

/-! ### Placing one word -/

/-- The page that stands for a load of one word: partition, context and page 0 of graph 0. -/
def slotKey : PageKey := { ctx := { part := 0, guest := 0, num := 0 }, graph := 0, lpn := 0 }

/-- Its partition, in a slice of guest 0. -/
def slotPart : Partition := { num := 0, exist := true, slice := .running, sliceGuest := 0 }

/-- Cells of a number's bytes at an address, in the canonical form. -/
def cellsAt (a n v : Nat) : List Host.Cell := Memory.writeNat [] a n v

/-- A page with one element word in PE 0: its enabled queues hold one data token each (R53, R67). -/
def elemPage (w : Nat) : Page :=
  let e := (Decode.ecwOf (BitVec.ofNat 128 w)).1
  let t : Item := .tok { kind := .data, tag := 0, pay := 0 }
  { key := slotKey
    st := .resident
    image := cellsAt 0x400 16 w
    dyn := { PageDyn.empty with fifos := e.queues.map (fun q => (.queue 0 q, [t])) } }

/-- The 128-bit header of a block of one instruction, of this kind and these flags (R62). -/
def oneHeader (kind flags : Nat) : Nat := kind * 2 ^ 120 + flags

/-- A page with a privileged actor block of one instruction and a matching-store allotment of 16 entries, whose firing is in
flight with every slot filled (R62, R132). -/
def actorPage (w : Nat) : Page :=
  let v : Val := { v := 0 }
  let f : Firing := { tag := 0, serial := 0, slots := [(0, .left, v), (0, .right, v), (0, .pred, v)] }
  { key := slotKey
    st := .resident
    image := cellsAt 0x09 1 1 ++ Memory.writeNat (cellsAt 0x1800 16 (oneHeader 0xA1 0x01A0)) 0x1810 8 w
    dyn := { PageDyn.empty with actors := [{ block := 0, firing := some f }] } }

/-- A page with an island block of one instruction, whose section runs (R62, R189). -/
def islandPage (w : Nat) : Page :=
  { key := slotKey
    st := .resident
    image := cellsAt 0x0A 1 1 ++ Memory.writeNat (cellsAt 0x1400 16 (oneHeader 0xA2 0)) 0x1410 8 w
    dyn := { PageDyn.empty with island := { IslandState.empty with phase := .running, tiles := 1 } } }

/-- The page and the party whose place holds the word: an element for 128 bits, else an island or an actor by the
opcode (R86). -/
def placed (nbits w : Nat) : Page × Party :=
  if nbits = 128 then (elemPage w, .elem slotKey 0)
  else if 0xC0 ≤ bitsOf w 56 8 ∧ bitsOf w 56 8 ≤ 0xD8 then (islandPage w, .island slotKey)
  else (actorPage w, .actor slotKey 0 0)

end Sys2Proof.Machine
end

