-- ==== Sys2Proof/Machine/Step.lean ====
section
/-!
DEFINITION. One step of the device: the next turn of the agenda, a party executing the word at its place or an
agent's event, an access of a core or the host, and a tick of the cycle counter when every turn has been taken. A turn whose party holds no word any more
passes.
-/
namespace Sys2Proof.Machine

/-- One step. -/
def step (s : State) : Host.Outcome State Fault Refusal :=
  match s.agenda with
  | [] => .next (tick s)
  | .event i u :: rest => exec i { s with agenda := rest, cur := some u }
  | .core a :: rest => .next (coreAccess a { s with agenda := rest, cur := none })
  | .party p :: rest =>
    match fetch s p with
    | .ins i => exec i { s with agenda := rest, cur := some (.party p) }
    | .none => .next { s with agenda := rest, cur := none }
    | .bad c => .refused (.undecodable c)

/-- The word stored where the next step fetches its instruction: a resident page that holds it, its partition in the slice
of the page's guest, and the party's turn first. DESIGN CHOICE (log 7), safe. -/
def State.withFetchWord (s : State) (nbits w : Nat) : State :=
  { s with parts := slotPart :: s.parts, pages := (placed nbits w).1 :: s.pages, agenda := .party (placed nbits w).2 :: s.agenda }

end Sys2Proof.Machine
end

