-- ==== Sys2Proof/Safety.lean ====
section
/-!
DEFINITION. The terms in which statements are made: when an instruction's own effect takes place, the state behind the
consumption of its operands, the results of the stateless opcodes, and the invariant of the memories.
-/
namespace Sys2Proof.Machine

/-! ### The memories -/

/-- Every memory is in its canonical form. -/
def MemOk (s : State) : Prop :=
  Memory.wf s.sram = true ∧ Memory.wf s.dram = true ∧ Memory.wf s.hostMem = true

/-- Every byte of memory reads as before, for every reader. -/
def SameBytes (s t : State) : Prop := ∀ (sp : Space) (c : Option CtxId) (a : Nat), t.byteAt sp c a = s.byteAt sp c a

/-- Every page but one stands as before. -/
def SamePages (k : PageKey) (s t : State) : Prop := ∀ k', k' ≠ k → t.page? k' = s.page? k'

/-! ### Elements -/

/-- An element's data firing takes place with these operands (R39, R54, R56, R79): its turn has come, every enabled
queue holds data of one tag, it may fire, its scale checks pass and its predicate holds. -/
def ElemFires (tri : Bool) (e : Ecw) (k : PageKey) (n : Nat) (s : State) (g : Args) : Prop :=
  s.cur = some (.party (.elem k n)) ∧ ∃ ts, s.elemHeads k n e = .data ts ∧ g = elemArgs tri (s.dyn k) n e ts ∧
    s.elemGate k n e g.tag = true ∧ e.sckl.fails g.a.sc = false ∧ (e.qR && e.sckr.fails g.b.sc) = false ∧
    predHolds e.pm (((headIn e ts .P).map Token.pay).getD 0) = true

/-- The state once an element has consumed its heads and the firing has been counted (R54, R57, R79). -/
def State.taken (s : State) (k : PageKey) (n : Nat) (e : Ecw) (tag : Tag) : State :=
  (s.touch k tag).modDyn k (fun d => (d.popAll n e.queues).countFiring n e tag)

/-- A head of one queue is taken alone (R143, R145, R147, R148, R150, R154): its turn has come, the head stands there with
its predicate and ordering tokens, the element may fire, and the scale check of a data head passes. -/
def HeadFires (q : QueueName) (e : Ecw) (k : PageKey) (n : Nat) (s : State) (t : Token) : Prop :=
  s.cur = some (.party (.elem k n)) ∧ s.fedCue k n e = none ∧ (s.dyn k).qhead n q = some t ∧
    s.elemGate k n e t.tag = true ∧ (t.kind = .data → (if q = .R then e.sckr else e.sckl).fails t.sc = false) ∧
    ∃ us, (s.dyn k).qheads n (auxQueues e) = some us ∧ us.all (fun u => u.tag == t.tag && u.kind == t.kind) = true ∧
      (t.kind = .data → predHolds e.pm (((us.find? (fun _ => e.qP && e.pm != .always)).map Token.pay).getD 0) = true)

/-- The state once a head taken alone has been consumed with its predicate and ordering tokens. -/
def State.tookHead (s : State) (k : PageKey) (n : Nat) (e : Ecw) (q : QueueName) (t : Token) : State :=
  (s.touch k t.tag).modDyn k (fun d =>
    let d1 := d.popAll n (q :: auxQueues e)
    if t.kind = .data then d1.countFiring n e t.tag else d1)

/-! ### Blocks -/

/-- An instruction of a block fires with these operands (R56, R60, R132): its turn has come, its firing runs, the slots
that it reads are filled and its predicate holds. -/
def BlockFires (left right : Bool) (third : Word) (w : Blk) (k : PageKey) (b i : Nat) (s : State) (g : Args) : Prop :=
  s.cur = some (.party (.actor k b i)) ∧ ∃ f p, s.blockGate k b i w = some f ∧
    blockArgs w left right third i f = some (g, p) ∧ predHolds w.pm p = true

/-! ### Islands -/

/-- An instruction of an island's section issues on this state of the island (R189, R209, R211). -/
def IslandFires (k : PageKey) (s : State) (x : IslandState) : Prop :=
  s.cur = some (.party (.island k)) ∧ s.islandRuns k = true ∧ (s.dyn k).island = x

/-- The state behind an island instruction that has been performed without a flag: its registers, the sequencer
advanced, its frame's activity noted (R209, R243). -/
def State.islandNext (s : State) (k : PageKey) (x : IslandState) : State :=
  (s.setIsland k x.advance).touch k x.tag

/-- The same with the flags that the instruction raises; the value that its trap reports is free (R31, R211). -/
def State.islandNextWith (s : State) (k : PageKey) (x : IslandState) (f : Flags) : State :=
  let t := s.islandNext k x
  if f = Flags.none then t
  else ({ t with free := t.free + 1 } : State).raiseFlags f (.island k) x.tag ((Config.islandReport t.free).setWidth 32)

/-- The state behind a vector instruction: every cell of DA by its row and column, SC the OR of the sources' (R206). -/
def State.vectorNext (s : State) (k : PageKey) (w : Isl) (x : IslandState) (srcs : List Accum) (f : Nat → Nat → Nat × Flags) : State :=
  s.islandNextWith k (x.setAcc w.da
    { int := false, sc := srcs.any Accum.sc, cells := (Accum.build f).1, dep := srcs.foldl (fun d a => d.join a.dep) {} }) (Accum.build f).2

/-! ### The stateless opcodes -/

/-- A stateless opcode: its word, how many operands it reads, its result and flags (R101 to R124). -/
structure Stateless where
  form : Form
  operands : Nat
  result : Args → Res

/-- The stateless integer, logic, shift and bit opcodes (R101 to R106, R34). -/
def integerOp : Instr → Option Stateless
  | .add f => some ⟨f, 2, fun g => wrapOp f.ty (fun x y => x + y) g.a.v g.b.v⟩
  | .sub f => some ⟨f, 2, fun g => wrapOp f.ty (fun x y => x - y) g.a.v g.b.v⟩
  | .rsub f => some ⟨f, 2, fun g => wrapOp f.ty (fun x y => y - x) g.a.v g.b.v⟩
  | .adds f => some ⟨f, 2, fun g => satOp f.ty (fun x y => x + y) g.a.v g.b.v⟩
  | .subs f => some ⟨f, 2, fun g => satOp f.ty (fun x y => x - y) g.a.v g.b.v⟩
  | .addsn f => some ⟨f, 2, fun g => satOp f.ty (fun x y => x + y) g.a.v g.b.v⟩
  | .subsn f => some ⟨f, 2, fun g => satOp f.ty (fun x y => x - y) g.a.v g.b.v⟩
  | .mul f => some ⟨f, 2, fun g => wrapOp f.ty (fun x y => x * y) g.a.v g.b.v⟩
  | .mulh f => some ⟨f, 2, fun g => mulhOp f.ty g.a.v g.b.v⟩
  | .mulhn f => some ⟨f, 2, fun g => mulhOp f.ty g.a.v g.b.v⟩
  | .mad f => some ⟨f, 3, fun g => madOp f.ty g.a.v g.b.v g.c.v⟩
  | .div f => some ⟨f, 2, fun g => divOp f.ty g.a.v g.b.v⟩
  | .divn f => some ⟨f, 2, fun g => divOp f.ty g.a.v g.b.v⟩
  | .rem f => some ⟨f, 2, fun g => remOp f.ty g.a.v g.b.v⟩
  | .remn f => some ⟨f, 2, fun g => remOp f.ty g.a.v g.b.v⟩
  | .min f => some ⟨f, 2, fun g => wrapOp f.ty (fun x y => min x y) g.a.v g.b.v⟩
  | .minn f => some ⟨f, 2, fun g => wrapOp f.ty (fun x y => min x y) g.a.v g.b.v⟩
  | .max f => some ⟨f, 2, fun g => wrapOp f.ty (fun x y => max x y) g.a.v g.b.v⟩
  | .maxn f => some ⟨f, 2, fun g => wrapOp f.ty (fun x y => max x y) g.a.v g.b.v⟩
  | .abs f => some ⟨f, 1, fun g => wrapOp1 f.ty (fun x => if x < 0 then -x else x) g.a.v⟩
  | .neg f => some ⟨f, 1, fun g => wrapOp1 f.ty (fun x => -x) g.a.v⟩
  | .clamp f => some ⟨f, 3, fun g => clampOp f.ty g.a.v g.b.v g.c.v⟩
  | .and f => some ⟨f, 2, fun g => (g.a.v &&& g.b.v, Flags.none)⟩
  | .or f => some ⟨f, 2, fun g => (g.a.v ||| g.b.v, Flags.none)⟩
  | .xor f => some ⟨f, 2, fun g => (g.a.v ^^^ g.b.v, Flags.none)⟩
  | .andn f => some ⟨f, 2, fun g => (g.a.v &&& ~~~g.b.v, Flags.none)⟩
  | .not f => some ⟨f, 1, fun g => (~~~g.a.v, Flags.none)⟩
  | .shl f => some ⟨f, 2, fun g => shlOp f.ty g.a.v g.b.v⟩
  | .shr f => some ⟨f, 2, fun g => shrOp f.ty g.a.v g.b.v⟩
  | .sar f => some ⟨f, 2, fun g => sarOp f.ty g.a.v g.b.v⟩
  | .shrr f => some ⟨f, 2, fun g => shrrOp f.ty g.a.v g.b.v⟩
  | .rol f => some ⟨f, 2, fun g => rolOp g.a.v g.b.v⟩
  | .ror f => some ⟨f, 2, fun g => rorOp g.a.v g.b.v⟩
  | .clz f => some ⟨f, 1, fun g => clzOp g.a.v⟩
  | .ctz f => some ⟨f, 1, fun g => ctzOp g.a.v⟩
  | .popc f => some ⟨f, 1, fun g => popcOp g.a.v⟩
  | .brev f => some ⟨f, 1, fun g => brevOp g.a.v⟩
  | .bfx f => some ⟨f, 1, fun g => bfxOp f.x g.a.v⟩
  | .bfxs f => some ⟨f, 1, fun g => bfxsOp f.x g.a.v⟩
  | .bfi f => some ⟨f, 2, fun g => bfiOp f.x g.a.v g.b.v⟩
  | .bytep f => some ⟨f, 3, fun g => bytepOp g.a.v g.b.v g.c.v⟩
  | .satw f => some ⟨f, 1, fun g => satwOp true f.md g.a.v⟩
  | .satwn f => some ⟨f, 1, fun g => satwOp false f.md g.a.v⟩
  | .cmp f => some ⟨f, 2, fun g => cmpOp f.ty f.x g.a.v g.b.v⟩
  | .tst f => some ⟨f, 2, fun g => tstOp f.ty f.md g.a.v g.b.v⟩
  | .sel f => some ⟨f, 3, fun g => selOp g.a.v g.b.v g.c.v⟩
  | .mov f => some ⟨f, 1, fun g => (g.a.v, Flags.none)⟩
  | .dot4 f => some ⟨f, 3, fun g => dotOp f.ty f.md g.a.v g.b.v g.c.v⟩
  | .dot2 f => some ⟨f, 3, fun g => dotOp f.ty f.md g.a.v g.b.v g.c.v⟩
  | .sad4 f => some ⟨f, 3, fun g => sadOp f.ty f.md g.a.v g.b.v g.c.v⟩
  | .pack f => some ⟨f, 2, fun g => packOp f.ty f.md g.a.v g.b.v⟩
  | .unpkl f => some ⟨f, 1, fun g => unpkOp f.ty false g.a.v⟩
  | .unpkh f => some ⟨f, 1, fun g => unpkOp f.ty true g.a.v⟩
  | _ => none

/-- The stateless floating-point and conversion opcodes, LIT and TAGR (R111, R115 to R123, R158). -/
def floatOp : Instr → Option Stateless
  | .fadd f => some ⟨f, 2, fun g => lanes2 f.ty (faddLane (Fmt.ofTy f.ty) f.md) g.a.v g.b.v⟩
  | .fsub f => some ⟨f, 2, fun g => lanes2 f.ty (fsubLane (Fmt.ofTy f.ty) f.md) g.a.v g.b.v⟩
  | .fmul f => some ⟨f, 2, fun g => lanes2 f.ty (fmulLane (Fmt.ofTy f.ty) f.md) g.a.v g.b.v⟩
  | .fdiv f => some ⟨f, 2, fun g => lanes2 f.ty (fdivLane (Fmt.ofTy f.ty) f.md) g.a.v g.b.v⟩
  | .ffma f => some ⟨f, 3, fun g => lanes3 f.ty (ffmaLane (Fmt.ofTy f.ty) false f.md) g.a.v g.b.v g.c.v⟩
  | .ffms f => some ⟨f, 3, fun g => lanes3 f.ty (ffmaLane (Fmt.ofTy f.ty) true f.md) g.a.v g.b.v g.c.v⟩
  | .fmin f => some ⟨f, 2, fun g => lanes2 f.ty (fminLane (Fmt.ofTy f.ty) false false) g.a.v g.b.v⟩
  | .fmax f => some ⟨f, 2, fun g => lanes2 f.ty (fminLane (Fmt.ofTy f.ty) true false) g.a.v g.b.v⟩
  | .fminm f => some ⟨f, 2, fun g => lanes2 f.ty (fminLane (Fmt.ofTy f.ty) false true) g.a.v g.b.v⟩
  | .fmaxm f => some ⟨f, 2, fun g => lanes2 f.ty (fminLane (Fmt.ofTy f.ty) true true) g.a.v g.b.v⟩
  | .fabs f => some ⟨f, 1, fun g => lanes1 f.ty (fun x => plain ((Fmt.ofTy f.ty).mag x)) g.a.v⟩
  | .fneg f => some ⟨f, 1, fun g => lanes1 f.ty (fun x => plain ((Fmt.ofTy f.ty).code (!(Fmt.ofTy f.ty).neg x) ((Fmt.ofTy f.ty).mag x))) g.a.v⟩
  | .fcmp f => some ⟨f, 2, fun g => lanes2 f.ty (fcmpLane (Fmt.ofTy f.ty) f.ty.width (f.x % 8)) g.a.v g.b.v⟩
  | .fcls f => some ⟨f, 1, fun g => lanes1 f.ty (fun x => plain (fclsLane (Fmt.ofTy f.ty) x)) g.a.v⟩
  | .frcp f => some ⟨f, 1, fun g => lanes1 f.ty (frcpLane (Fmt.ofTy f.ty) f.md) g.a.v⟩
  | .frsq f => some ⟨f, 1, fun g => lanes1 f.ty (frsqLane (Fmt.ofTy f.ty) f.md) g.a.v⟩
  | .fsqrt f => some ⟨f, 1, fun g => lanes1 f.ty (fsqrtLane (Fmt.ofTy f.ty) f.md) g.a.v⟩
  | .fexp2 f => some ⟨f, 1, fun g => lanes1 f.ty (fexp2Lane (Fmt.ofTy f.ty) f.md) g.a.v⟩
  | .flog2 f => some ⟨f, 1, fun g => lanes1 f.ty (flog2Lane (Fmt.ofTy f.ty) f.md) g.a.v⟩
  | .frnd f => some ⟨f, 1, fun g => lanes1 f.ty (frndLane (Fmt.ofTy f.ty) f.md) g.a.v⟩
  | .fldx f => some ⟨f, 2, fun g => lanes1 f.ty (fun x => fldxLane (Fmt.ofTy f.ty) f.md x g.b.v.toInt) g.a.v⟩
  | .cvti f => some ⟨f, 1, fun g => cvtiOp f.ty f.md f.x g.a.v⟩
  | .cvtf f => some ⟨f, if cvtfInserts f.ty f.x then 2 else 1, fun g => cvtfOp f.ty f.md f.x g.a.v g.b.v⟩
  | .cvtw f => some ⟨f, if bitsOf f.x 3 1 = 1 then 2 else 1, fun g => cvtwOp f.ty f.md f.x g.a.v g.b.v⟩
  | .lit f => some ⟨f, 0, fun g => (match f with
      | .elem _ => g.c.v
      | .block b => if b.ri then g.b.v else g.c.v, Flags.none)⟩
  | .tagr f => some ⟨f, 1, fun g => (g.tag.setWidth 32, Flags.none)⟩
  | _ => none

/-- The meaning of a stateless opcode (R101 to R124, R158). -/
def statelessOp (i : Instr) : Option Stateless := (integerOp i).orElse (fun _ => floatOp i)

/-- A result of a stateless opcode on the routes of its element, with its flags and their trap (R31, R38, R96, R99). -/
def State.emitResult (s : State) (k : PageKey) (n : Nat) (e : Ecw) (g : Args) (o : Stateless) : State :=
  (s.emitBoth k n e g.tag (g.val o.operands (o.result g).1)).raiseFlags (o.result g).2 (.elem k n) g.tag (o.result g).1

/-- A result of a stateless opcode in the targets of its instruction, with its flags and their trap (R31, R38, R96, R99). -/
def State.giveResult (s : State) (k : PageKey) (b i : Nat) (w : Blk) (g : Args) (o : Stateless) : State :=
  (s.give k b i w g.tag (g.val o.operands (o.result g).1)).raiseFlags (o.result g).2 (.actor k b i) g.tag (o.result g).1

/-- Every data firing of an opcode, in an element and in a block, completes and gives a word and flags that stand in the
given relation to the instruction and its operands. -/
def FiringGives (mk : Form → Instr) (n : Nat) (r : Form → Args → Word → Flags → Prop) : Prop :=
  (∀ (e : Ecw) (k : PageKey) (m : Nat) (s : State) (g : Args), ElemFires (n == 3) e k m s g →
    ∃ v f, r (.elem e) g v f ∧ exec (mk (.elem e)) s =
      .next (((s.taken k m e g.tag).emitBoth k m e g.tag (g.val n v)).raiseFlags f (.elem k m) g.tag v)) ∧
  (∀ (w : Blk) (k : PageKey) (b j : Nat) (s : State) (g : Args),
    BlockFires true (2 ≤ n) (if n = 3 ∨ n = 0 then thirdOf w k b s else 0) w k b j s g →
    ∃ v f, r (.block w) g v f ∧ exec (mk (.block w)) s =
      .next ((s.give k b j w g.tag (g.val n v)).raiseFlags f (.actor k b j) g.tag v))

end Sys2Proof.Machine
end

