-- ==== Sys2Proof/Certificates/Slice0/Obligations.lean ====
section
/-!
DEFINITION. The statements for the provers, one definition of a proposition each; OBLIGATIONS.json lists them.
-/
open Sys2Proof Sys2Proof.Machine

/-- R79, R96, R99: a stateless opcode fires in an element. -/
def Obligations.StatelessElementGivesResult : Prop :=
  ∀ (i : Instr) (o : Stateless) (e : Ecw) (k : PageKey) (n : Nat) (s : State) (g : Args),
    statelessOp i = some o → o.form = .elem e → ElemFires (o.operands == 3) e k n s g →
    exec i s = .next ((s.taken k n e g.tag).emitResult k n e g o)

/-- R95, R96, R99, R132: a stateless opcode fires in a block. -/
def Obligations.StatelessBlockGivesResult : Prop :=
  ∀ (i : Instr) (o : Stateless) (w : Blk) (k : PageKey) (b j : Nat) (s : State) (g : Args),
    statelessOp i = some o → o.form = .block w →
    BlockFires true (2 ≤ o.operands) (if o.operands = 3 ∨ o.operands = 0 then thirdOf w k b s else 0) w k b j s g →
    exec i s = .next (s.giveResult k b j w g o)

/-- R56: the predicate modes, and what a false predicate leaves. -/
def Obligations.FalsePredicateWithholdsResult : Prop :=
  (∀ p : Word, predHolds .always p = true ∧ (predHolds .ifNonzero p = true ↔ p ≠ 0) ∧ (predHolds .ifZero p = true ↔ p = 0) ∧
    predHolds .consume p = true) ∧
  (∀ (i : Instr) (o : Stateless) (e : Ecw) (k : PageKey) (n : Nat) (s : State) (ts : List Token) (g : Args),
    statelessOp i = some o → o.form = .elem e → s.cur = some (.party (.elem k n)) → s.elemHeads k n e = .data ts →
    g = elemArgs (o.operands == 3) (s.dyn k) n e ts → s.elemGate k n e g.tag = true → e.sckl.fails g.a.sc = false →
    (e.qR && e.sckr.fails g.b.sc) = false → predHolds e.pm (((headIn e ts .P).map Token.pay).getD 0) = false →
    exec i s = .next (s.taken k n e g.tag)) ∧
  (∀ (i : Instr) (o : Stateless) (w : Blk) (k : PageKey) (b j : Nat) (s : State) (f : Firing) (g : Args) (p : Word),
    statelessOp i = some o → o.form = .block w → s.cur = some (.party (.actor k b j)) → s.blockGate k b j w = some f →
    blockArgs w true (2 ≤ o.operands) (if o.operands = 3 ∨ o.operands = 0 then thirdOf w k b s else 0) j f = some (g, p) →
    predHolds w.pm p = false → exec i s = .next (s.giveNone k b j)) ∧
  (∀ (i : Instr) (o : Stateless) (e : Ecw), statelessOp i = some o → o.form = .elem e → WellFormed .elem i →
    e.pm ≠ .always → e.qP = true)

/-- R91, R107, R120, R160, R161: the scalar opcodes that read more than their operands. -/
def Obligations.ScalarWithStateGivesResult : Prop :=
  (∀ (s : State) (k : PageKey) (n : Nat), s.cur = some (.party (.elem k n)) → exec (.nop .elem) s = .next s) ∧
  (∀ (s : State) (k : PageKey) (b j : Nat) (g : Args),
    BlockFires false false 0 { pm := .always, ty := .i32, md := 0, ri := false, t1 := .none, t2 := .none, x := 0, imm := 0 } k b j s g →
    exec (.nop .block) s = .next (s.giveNone k b j)) ∧
  (∀ (s : State) (k : PageKey), s.cur = some (.party (.island k)) →
    exec (.nop .island) s = .next (if s.islandRuns k then
      (s.modDyn k (fun d => { d with island := d.island.advance })).touch k (s.dyn k).island.tag else s)) ∧
  (∀ (e : Ecw) (k : PageKey) (n : Nat) (s : State) (p : Page) (g : Args), ElemFires false e k n s g → s.page? k = some p →
    (let d := p.desc (e.x.toNat % 8)
     exec (.lea (.elem e)) s = .next ((s.taken k n e g.tag).emitResult k n e g
       ⟨.elem e, 2, fun g => leaOp e.md.toNat d.low d.limit g.a.v g.b.v⟩)) ∧
    exec (.arg (.elem e)) s = .next ((s.taken k n e g.tag).emitResult k n e g
      ⟨.elem e, 0, fun _ => (((s.turnArgs k)[e.x.toNat % 32]?).getD 0, Flags.none)⟩)) ∧
  (∀ (w : Blk) (k : PageKey) (b j : Nat) (s : State) (p : Page) (g : Args), s.page? k = some p →
    (BlockFires true true 0 w k b j s g →
      let d := p.desc (w.x.toNat % 8)
      exec (.lea (.block w)) s = .next (s.giveResult k b j w g ⟨.block w, 2, fun g => leaOp w.md.toNat d.low d.limit g.a.v g.b.v⟩)) ∧
    (BlockFires true false (thirdOf w k b s) w k b j s g →
      exec (.arg (.block w)) s = .next (s.giveResult k b j w g
        ⟨.block w, 0, fun _ => (((s.turnArgs k)[w.x.toNat % 32]?).getD 0, Flags.none)⟩))) ∧
  (∀ (e : Ecw) (k : PageKey) (n : Nat) (s : State) (g : Args), ElemFires false e k n s g →
    (let r := widResult (s.taken k n e g.tag) k.ctx.part (bitsOf e.x.toNat 0 4) g
     exec (.wid (.elem e)) s = .next (r.2.emitBoth k n e g.tag (g.val 2 r.1))) ∧
    (g.a.sc = fsclWant e.x.toNat → g.b.sc = false →
      let r := lanes2 e.ty (fmulLane (Fmt.ofTy e.ty) e.md.toNat) g.a.v g.b.v
      exec (.fscl (.elem e)) s = .next (((s.taken k n e g.tag).emitBoth k n e g.tag { v := r.1, sc := !fsclWant e.x.toNat, dep := g.dep }).raiseFlags
        r.2 (.elem k n) g.tag r.1))) ∧
  (∀ (w : Blk) (k : PageKey) (b j : Nat) (s : State) (g : Args), BlockFires true true 0 w k b j s g →
    (let r := widResult s k.ctx.part (bitsOf w.x.toNat 0 4) g
     exec (.wid (.block w)) s = .next (r.2.give k b j w g.tag (g.val 2 r.1))) ∧
    (g.a.sc = fsclWant w.x.toNat → g.b.sc = false →
      let r := lanes2 w.ty (fmulLane (Fmt.ofTy w.ty) w.md.toNat) g.a.v g.b.v
      exec (.fscl (.block w)) s = .next ((s.give k b j w g.tag { v := r.1, sc := !fsclWant w.x.toNat, dep := g.dep }).raiseFlags
        r.2 (.actor k b j) g.tag r.1)))

/-- R142, R146, R149, R150, R152, R153, R155, R157 to R159, R163: data heads in an element. -/
def Obligations.SteeringElementGivesResult : Prop :=
  ∀ (e : Ecw) (k : PageKey) (n : Nat) (s : State) (g : Args), ElemFires false e k n s g →
    let t := s.taken k n e g.tag
    exec (.steer (.elem e)) s = .next (t.emitOn k n e (g.b.v == 0) g.tag (g.val 2 g.a.v)) ∧
    exec (.dup (.elem e)) s = .next (t.emitBoth k n e g.tag (g.val 1 g.a.v)) ∧
    exec (.drop (.elem e)) s = .next t ∧
    (let t1 := t.modTag k n g.tag (fun st => { st with count := st.count + 1, acc := some (counted st.acc g.a.sc g.dep) })
     exec (.count (.elem e)) s = .next (if bitsOf e.x.toNat 4 1 = 1 then t1.emitOn k n e true g.tag (g.val 1 g.a.v) else t1)) ∧
    (((s.dyn k).elem n).tags.find? (fun st => st.acc.isSome || st.ended) = none → wordInt e.ty g.a.v < wordInt e.ty g.b.v →
      exec (.iter (.elem e)) s = .next (iterStep e k n g.tag (t.modTag k n g.tag (fun y => { y with
        acc := some (g.val 2 g.a.v), need := some g.b.v.toNat, count := g.c.v.toNat, ended := false })))) ∧
    exec (.strikeMake (.elem e)) s = .next (t.sendBoth k n e { kind := .strike, tag := g.tag, pay := g.a.v, dep := g.dep }) ∧
    (bitsOf e.x.toNat 2 1 = 1 →
      let r := foldIn e.ty e.md.toNat e.x.toNat (t.tagSt k n g.tag).acc { v := g.a.v, sc := g.a.sc, dep := g.dep }
      exec (.reduce (.elem e)) s = .next ((t.modTag k n g.tag (fun z => { z with acc := some r.1 })).raiseFlags r.2 (.elem k n) g.tag r.1.v)) ∧
    (bitsOf e.x.toNat 2 1 = 0 → rankBad (s.tagSt k n g.tag) g.b.v.toNat = false → g.b.v.toNat < (s.tagSt k n g.tag).next + 32 →
      let r := holdRank e.ty e.md.toNat e.x.toNat (t.tagSt k n g.tag) g.b.v.toNat (some { v := g.a.v, sc := g.a.sc, dep := g.dep })
      exec (.reduce (.elem e)) s = .next ((t.modTag k n g.tag (fun _ => r.1)).raiseFlags r.2 (.elem k n) g.tag ((r.1.acc.map Val.v).getD 0))) ∧
    (let r := scanStep e.ty e.md.toNat e.x.toNat (((t.tagSt k n g.tag).acc).getD g.c) { v := g.a.v, sc := g.a.sc, dep := g.dep }
     exec (.scanp (.elem e)) s = .next (((t.modTag k n g.tag (fun st => { st with acc := some r.1 })).emitBoth k n e g.tag r.2.1).raiseFlags
       r.2.2 (.elem k n) g.tag r.2.1.v)) ∧
    (s.liveTag k.ctx (g.b.v.setWidth 12) = true → exec (.tagw (.elem e)) s = .next (t.modDyn k (fun d =>
      if d.keeps n e g.tag then d.sendBoth n e ((g.val 1 g.a.v).token (g.b.v.setWidth 12)) else d))) ∧
    (let held := ((t.tagSt k n g.tag).acc).getD g.c
     exec (.nexti (.elem e)) s = .next ((t.modTag k n g.tag (fun st => { st with acc := some { v := g.a.v, sc := g.a.sc, dep := g.dep } })).emitBoth
       k n e g.tag { held with dep := held.dep.join g.dep })) ∧
    exec (.oneos (.elem e)) s = .next (if bitsOf e.x.toNat 0 1 = 1 then t else t.emitOn k n e false g.tag (g.val 1 g.a.v)) ∧
    exec (.rclose (.elem e)) s = .next ((t.emitBoth k n e g.tag (g.val 1 g.a.v)).requestClose k.ctx 2)

/-- R142 to R159, R163 in blocks. -/
def Obligations.SteeringBlockGivesResult : Prop :=
  (∀ (w : Blk) (k : PageKey) (b j : Nat) (s : State) (g : Args), BlockFires true true 0 w k b j s g →
    exec (.steer (.block w)) s = .next (s.giveOne k b j w (g.b.v == 0) g.tag (g.val 2 g.a.v)) ∧
    exec (.gate (.block w)) s = .next (if g.b.v = 0 then s.giveNone k b j else s.give k b j w g.tag (g.val 2 g.a.v)) ∧
    (let st := s.insSt k b j g.tag
     exec (.count (.block w)) s = .next ((s.setInsSt k b j { st with count := if g.b.v = 0 then (st.count + 1) % 2 ^ 32 else 0 }).give
       k b j w g.tag (g.val 2 (BitVec.ofNat 32 st.count)))) ∧
    (let st := s.insSt k b j g.tag
     exec (.join (.block w)) s = .next (if Nat.max 1 g.b.v.toNat ≤ st.count + 1 then
         (s.setInsSt k b j { st with count := 0 }).give k b j w g.tag (g.val 2 (BitVec.ofNat 32 (Nat.max 1 g.b.v.toNat)))
       else (s.setInsSt k b j { st with count := st.count + 1 }).giveNone k b j)) ∧
    (let st := s.insSt k b j g.tag
     let p := g.b.v.toNat % 2 ^ 31
     let r := holdRank w.ty w.md.toNat w.x.toNat st p (some { v := g.a.v, sc := g.a.sc || g.b.sc, dep := g.dep })
     rankBad st p = false → p < st.next + 32 → g.b.v.getLsbD 31 = true → ∀ v, r.1.acc = some v → p < r.1.next →
       exec (.reduce (.block w)) s = .next (((s.setInsSt k b j { tag := g.tag }).give k b j w g.tag v).raiseFlags r.2 (.actor k b j) g.tag v.v)) ∧
    (s.liveTag k.ctx (g.b.v.setWidth 12) = true →
      exec (.tagw (.block w)) s = .next (s.giveAs k b j w .data (g.b.v.setWidth 12) (g.val 1 g.a.v)))) ∧
  (∀ (w : Blk) (k : PageKey) (b j : Nat) (s : State) (g : Args), BlockFires true true (thirdOf w k b s) w k b j s g →
    exec (.iter (.block w)) s = .next (s.giveOne k b j w (!decide (wordInt w.ty (g.a.v + g.b.v) < wordInt w.ty g.c.v)) g.tag (g.val 3 (g.a.v + g.b.v)))) ∧
  (∀ (w : Blk) (k : PageKey) (b j : Nat) (s : State) (g : Args),
    BlockFires true true (s.blockConst k b (bitsOf w.x.toNat 4 4) (bitsOf w.x.toNat 8 2)) w k b j s g →
    let st := s.insSt k b j g.tag
    let r := scanStep w.ty w.md.toNat (w.x.toNat % 16) (st.acc.getD g.c) { v := g.a.v, sc := g.a.sc || g.b.sc, dep := g.dep }
    exec (.scanp (.block w)) s = .next (((s.setInsSt k b j { st with acc := if g.b.v = 0 then some r.1 else none }).give k b j w g.tag r.2.1).raiseFlags
      r.2.2 (.actor k b j) g.tag r.2.1.v)) ∧
  (∀ (w : Blk) (k : PageKey) (b j : Nat) (s : State) (g : Args), BlockFires true false 0 w k b j s g →
    exec (.dup (.block w)) s = .next (s.give k b j w g.tag (g.val 1 g.a.v)) ∧
    exec (.drop (.block w)) s = .next (s.giveNone k b j) ∧
    exec (.strikeMake (.block w)) s = .next (s.giveAs k b j w .strike g.tag { v := g.a.v, dep := g.dep }) ∧
    exec (.mkeos (.block w)) s = .next (if w.md = 1 then s.giveAs k b j w .eor g.tag { v := BitVec.ofNat 32 (w.x.toNat % 8), dep := g.dep }
      else s.giveAs k b j w .eos g.tag { v := g.a.v, dep := g.dep }) ∧
    (let v := g.val 1 g.a.v
     let put (x : Target) : List (Tag × Nat × Side × Val) := match x with
       | .left i => [(g.tag, i.toNat, .left, v)]
       | .right i => [(g.tag, i.toNat, .right, v)]
       | .pred i => [(g.tag, i.toNat, .pred, v)]
       | _ => []
     exec (.nexti (.block w)) s = .next ((s.giveNone k b j).modDyn k (fun d => d.modActor b (fun a => { a with nexts := a.nexts ++ put w.t1 ++ put w.t2 })))) ∧
    exec (.rclose (.block w)) s = .next ((s.give k b j w g.tag (g.val 1 g.a.v)).requestClose k.ctx 2)) ∧
  (∀ (w : Blk) (k : PageKey) (b j : Nat) (s : State) (g : Args) (x : Slot), BlockFires false false 0 w k b j s g →
    s.slotAt k b (handleOf w) (offsetOf w) = some x →
    exec (.oneos (.block w)) s = .next (s.give k b j w g.tag
      { v := if (x.kind == .eos && w.md.toNat != 1) || (x.kind == .eor && w.md.toNat != 0) then 0xFFFFFFFF else 0, dep := x.dep })) ∧
  (∀ (w : Blk) (k : PageKey) (b j : Nat) (s : State) (p : Page) (h : Header) (f : Firing) (c v : Val) (i : Instr),
    i = .merge (.block w) ∨ i = .omerge (.block w) ∨ i = .cmerge (.block w) →
    s.cur = some (.party (.actor k b j)) → s.blockGate k b j w = some f → s.page? k = some p → p.header? b = some h →
    (if w.pm = .always then some (Val.plain 0) else f.slot j .pred) = some c → predHolds w.pm c.v = true → f.slot j .left = some v →
    exec i s = .next (s.give k b j w f.tag { v with dep := v.dep.join c.dep }))

/-- R143, R145, R147, R148, R150, R154: heads taken one at a time in an element. -/
def Obligations.SingleHeadOpcodesTakeTheirHead : Prop :=
  (∀ (e : Ecw) (k : PageKey) (n : Nat) (s : State) (t : Token), t.ends = false →
    (HeadFires .L e k n s t → (s.dyn k).qhead n .R = none →
      exec (.merge (.elem e)) s = .next (((s.tookHead k n e .L t).modDyn k (fun d => d.modElem n (fun y => { y with last := some .L }))).passBoth k n e t)) ∧
    (HeadFires .R e k n s t → (s.dyn k).qhead n .L = none →
      exec (.merge (.elem e)) s = .next (((s.tookHead k n e .R t).modDyn k (fun d => d.modElem n (fun y => { y with last := some .R }))).passBoth k n e t))) ∧
  (∀ (e : Ecw) (k : PageKey) (n : Nat) (s : State) (a b : Token), a.kind = .data → b.kind = .data →
    (s.dyn k).qhead n .L = some a → (s.dyn k).qhead n .R = some b →
    let key (v : Word) : Int := if e.md.toNat = 1 then (v.toNat : Int) else v.toInt
    (HeadFires .L e k n s a → key a.pay ≤ key b.pay →
      exec (.omerge (.elem e)) s = .next (((s.tookHead k n e .L a).modDyn k (fun d => d.modElem n (fun y => { y with last := some .L }))).emitBoth k n e a.tag a.val)) ∧
    (HeadFires .R e k n s b → s.elemGate k n e a.tag = true → key b.pay < key a.pay →
      exec (.omerge (.elem e)) s = .next (((s.tookHead k n e .R b).modDyn k (fun d => d.modElem n (fun y => { y with last := some .R }))).emitBoth k n e b.tag b.val))) ∧
  (∀ (e : Ecw) (k : PageKey) (n : Nat) (s : State) (c t : Token), s.cur = some (.party (.elem k n)) → s.fedCue k n e = none →
    (s.dyn k).qhead n .R = some c → c.kind = .data → s.elemGate k n e c.tag = true → e.sckr.fails c.sc = false →
    (s.dyn k).qhead n (if c.pay = 0 then .P else .L) = some t → t.kind = .data → (c.pay ≠ 0 → e.sckl.fails t.sc = false) →
    ∀ us, (s.dyn k).qheads n (auxQueues e) = some us → (∀ u ∈ us, u.tag = t.tag ∧ u.kind = .data) →
    exec (.cmerge (.elem e)) s = .next (((s.touch k t.tag).modDyn k (fun d =>
      (d.popAll n ([.R, if c.pay = 0 then .P else .L] ++ auxQueues e)).countFiring n e t.tag)).emitBoth k n e t.tag
        { v := t.pay, sc := t.sc || c.sc, dep := us.foldl (fun (x : Dep) (u : Token) => x.join u.dep) (t.dep.join c.dep) })) ∧
  (∀ (e : Ecw) (k : PageKey) (n : Nat) (s : State) (t : Token), t.kind = .data →
    (HeadFires .L e k n s t → 0 < (s.tagSt k n t.tag).count →
      exec (.gate (.elem e)) s = .next (((s.tookHead k n e .L t).modTag k n t.tag (fun st => { st with count := st.count - 1 })).emitBoth k n e t.tag t.val)) ∧
    (HeadFires .R e k n s t → (s.dyn k).qhead n .L = none → e.sckr.fails t.sc = false →
      exec (.gate (.elem e)) s = .next (((s.touch k t.tag).modDyn k (fun d => d.pop (.queue n .R))).modTag k n t.tag
        (fun st => { st with count := Nat.min (st.count + t.pay.toNat) (2 ^ 32 - 1) })))) ∧
  (∀ (e : Ecw) (k : PageKey) (n : Nat) (s : State) (t : Token), t.kind = .data → bitsOf e.x.toNat 0 1 = 1 → HeadFires .L e k n s t →
    let u := s.tookHead k n e .L t
    let c := (u.tagSt k n t.tag).count + 1
    let seen := counted (u.tagSt k n t.tag).acc t.sc t.dep
    exec (.join (.elem e)) s = .next (if Nat.max 1 ((s.dyn k).cValue n e t.tag).toNat ≤ c then
        (u.modTag k n t.tag (fun st => { st with count := 0, acc := none })).emitBoth k n e t.tag { seen with v := BitVec.ofNat 32 c }
      else u.modTag k n t.tag (fun st => { st with count := c, acc := some seen }))) ∧
  (∀ (e : Ecw) (k : PageKey) (n : Nat) (s : State) (t : Token), t.kind = .data →
    (HeadFires .R e k n s t → (s.tagSt k n t.tag).need = none → (s.tagSt k n t.tag).ended = false → t.pay ≠ 0 → e.sckr.fails t.sc = false →
      exec (.mkeos (.elem e)) s = .next (((s.touch k t.tag).modDyn k (fun d => d.pop (.queue n .R))).modTag k n t.tag
        (fun st => { st with need := some t.pay.toNat, count := 0 }))) ∧
    (∀ c, HeadFires .L e k n s t → (s.dyn k).qhead n .R = none → (s.tagSt k n t.tag).need = some c → (s.tagSt k n t.tag).count + 1 < c →
      exec (.mkeos (.elem e)) s = .next (((s.tookHead k n e .L t).modTag k n t.tag
        (fun z => { z with count := (s.tagSt k n t.tag).count + 1 })).emitBoth k n e t.tag t.val))) ∧
  (∀ (e : Ecw) (k : PageKey) (n : Nat) (s : State) (t : Token),
    ((s.dyn k).elem n).tags.find? (fun st => 0 < st.passes && ((s.dyn k).elem n).openTag.isNone) = none → HeadFires .L e k n s t →
    (∀ r, ((s.dyn k).elem n).openTag = none → t.kind ≠ .cue → (s.dyn k).qhead n .R = some r → r.kind = .data → r.tag = t.tag → e.sckr.fails r.sc = false →
      exec (.repeatSeg e) s = .next ((((s.touch k t.tag).modDyn k (fun d => d.pop (.queue n .R))).modTag k n t.tag
        (fun st => { st with need := some r.pay.toNat, seg := [], replay := 0, passes := 0, count := 0 })).modDyn k
          (fun d => d.modElem n (fun y => { y with openTag := some t.tag })))) ∧
    (∀ c, ((s.dyn k).elem n).openTag = some t.tag → t.kind = .data → (s.tagSt k n t.tag).count < 64 → (s.tagSt k n t.tag).need = some (c + 1) →
      exec (.repeatSeg e) s = .next (((s.tookHead k n e .L t).modTag k n t.tag (fun st => { st with
        seg := st.seg ++ [t], count := st.count + 1 })).sendBoth k n e t))) ∧
  (∀ (e : Ecw) (k : PageKey) (n : Nat) (s : State) (l r : Token), l.kind = .data → r.kind = .strike → l.tag = r.tag →
    (s.dyn k).qhead n .R = some r → HeadFires .L e k n s l →
    let u := s.tookHead k n e .L l
    (r.pay.toNat = (s.tagSt k n l.tag).count →
      exec (.strikeAnnul e) s = .next (let u1 := (u.modDyn k (fun d => d.pop (.queue n .R))).modTag k n l.tag (fun st => { st with count := st.count + 1 })
        if bitsOf e.x.toNat 0 1 = 1 then u1.sendTok k n e true r else u1)) ∧
    ((s.tagSt k n l.tag).count < r.pay.toNat →
      exec (.strikeAnnul e) s = .next ((u.modTag k n l.tag (fun st => { st with count := st.count + 1 })).emitOn k n e false l.tag l.val)))

/-- R57, R79, R97, R149, R152, R155, R157: closing tokens in an element. -/
def Obligations.ClosingTokensEndWindows : Prop :=
  ∀ (e : Ecw) (k : PageKey) (n : Nat) (s : State) (t : Token), s.cur = some (.party (.elem k n)) →
    s.elemHeads k n e = .closing t → s.elemGate k n e t.tag = true →
    (∀ (i : Instr) (o : Stateless), statelessOp i = some o → o.form = .elem e → exec i s = .next (s.closeElem k n e t)) ∧
    exec (.steer (.elem e)) s = .next ((s.takeAll k n e t).modDyn k (fun d => ((d.sendClose n e false t).sendClose n e true t).endTag n t)) ∧
    exec (.drop (.elem e)) s = .next (s.closeElem k n e t) ∧
    (t.closes (e.x.toNat % 8) (bitsOf e.x.toNat 3 1 == 1) = true →
      let y := s.takeAll k n e t
      exec (.count (.elem e)) s = .next (((y.sendTok k n e false
        { kind := .data, sc := ((y.tagSt k n t.tag).acc.getD (Val.plain 0)).sc, tag := t.tag, pay := BitVec.ofNat 32 (y.tagSt k n t.tag).count
          dep := t.dep.join ((y.tagSt k n t.tag).acc.getD (Val.plain 0)).dep }).modTag k n t.tag
          (fun st => { st with count := 0, acc := none })).forwardEnd k n e t)) ∧
    (windowCloses e t = true → ∀ v f, foldAll e.ty e.md.toNat e.x.toNat (s.tagSt k n t.tag).acc
        ((((s.tagSt k n t.tag).held.foldr insertRank []).filterMap (·.2))) = (some v, f) →
      exec (.reduce (.elem e)) s = .next (((((s.takeAll k n e t).modTag k n t.tag (fun z => { z with acc := none, next := 0, held := [] })).sendBoth k n e
        (v.token t.tag)).forwardEnd k n e t).raiseFlags f (.elem k n) t.tag v.v)) ∧
    (windowCloses e t = true →
      exec (.scanp (.elem e)) s = .next (((s.takeAll k n e t).modTag k n t.tag (fun st => { st with acc := none })).forwardEnd k n e t)) ∧
    (((t.kind == .eos && e.md.toNat != 1) || (t.kind == .eor && e.md.toNat != 0)) = true → e.eosp ≠ .absorb →
      exec (.oneos (.elem e)) s = .next (((((s.takeAll k n e t).sendTok k n e true { kind := .data, tag := t.tag, pay := t.pay, dep := t.dep }).modDyn k
        (fun d => d.sendClose n e false t)).modDyn k (fun d => d.endTag n t))))

/-- R39, R79, R97, R346: the faults of an element's heads. -/
def Obligations.MixedHeadsStopTheElement : Prop :=
  ∀ (i : Instr) (o : Stateless) (e : Ecw) (k : PageKey) (n : Nat) (s : State), statelessOp i = some o → o.form = .elem e →
    s.cur = some (.party (.elem k n)) → s.page? k ≠ none →
    (∀ t, s.elemHeads k n e = .skew t → s.elemGate k n e t.tag = true →
      ∃ u, exec i s = .next u ∧ u = s.faultP 0x36 (.elem k n) t.tag t.pay 0 ∧ ((u.dyn k).elem n).stopped = true ∧
        ∀ q, (u.dyn k).fifo q = (s.dyn k).fifo q) ∧
    (∀ ts g, s.elemHeads k n e = .data ts → g = elemArgs (o.operands == 3) (s.dyn k) n e ts → s.elemGate k n e g.tag = true →
      (e.sckl.fails g.a.sc || (e.qR && e.sckr.fails g.b.sc)) = true →
      ∃ u, exec i s = .next u ∧ u = s.faultP 0x34 (.elem k n) g.tag g.a.v 0 ∧ ((u.dyn k).elem n).stopped = true ∧
        ∀ q, (u.dyn k).fifo q = (s.dyn k).fifo q)

/-- R124, R129, R132, R138 to R141: the instructions of circular buffers. -/
def Obligations.BufferInstructionsGiveResult : Prop :=
  (∀ (w : Blk) (k : PageKey) (b j : Nat) (s : State) (g : Args) (x : Slot), s.slotAt k b (handleOf w) (offsetOf w) = some x →
    BlockFires false false 0 w k b j s g →
    exec (.recv w) s = .next (s.give k b j w g.tag { v := x.word (bitsOf w.imm.toNat 0 4), sc := x.sc, dep := x.dep })) ∧
  (∀ (w : Blk) (k : PageKey) (b j : Nat) (s : State) (g : Args) (x : Slot), BlockFires false true 0 w k b j s g →
    let wide := ((s.cbEntry? k b (handleOf w)).map CbEntry.wide).getD false
    let pos := offsetOf w + (if wide then g.b.v.toNat / 16 else g.b.v.toNat)
    pos < s.cbSlots k b (handleOf w) → s.slotAt k b (handleOf w) pos = some x →
    exec (.peek w) s = .next (s.give k b j w g.tag
      { v := x.word (if wide then g.b.v.toNat % 16 else 0), sc := x.sc, dep := x.dep.join g.dep })) ∧
  (∀ (w : Blk) (k : PageKey) (b j : Nat) (s : State) (g : Args), BlockFires true false 0 w k b j s g →
    exec (.emit w) s = .next ((s.giveNone k b j).modFiring k b (fun f => { f with writes := f.writes ++ [
      { handle := handleOf w, pos := offsetOf w, word := bitsOf w.imm.toNat 0 4
        wide := ((s.cbEntry? k b (handleOf w)).map CbEntry.wide).getD false
        instr := j, kind := emitKind w.md.toNat, sc := emitKind w.md.toNat == .data && g.a.sc, tag := g.tag
        value := if emitKind w.md.toNat = .eor then BitVec.ofNat 32 (bitsOf w.imm.toNat 4 3) else g.a.v
        dep := g.dep }] })) ∧
    (∀ i, i = .advr w ∨ i = .advw w → w.ri = false →
      exec i s = .next ((s.giveNone k b j).modFiring k b (fun f => { f with advances := f.advances ++ [(handleOf w, g.a.v.toNat)] }))) ∧
    (let c := s.cb k b (handleOf w)
     let n := s.cbSlots k b (handleOf w)
     (bitsOf w.x.toNat 3 3 = 0 → exec (.cbq w) s = .next (s.give k b j w g.tag { v := BitVec.ofNat 32 c.visible.length, dep := g.dep })) ∧
     (bitsOf w.x.toNat 3 3 = 1 → exec (.cbq w) s = .next (s.give k b j w g.tag { v := BitVec.ofNat 32 (n - c.slots.length), dep := g.dep })) ∧
     (bitsOf w.x.toNat 3 3 = 2 → ((s.cbEntry? k b (handleOf w)).map CbEntry.out).getD false = false → exec (.cbq w) s = .next (s.give k b j w g.tag
       { v := kindWord ((s.slotAt k b (handleOf w) w.imm.toNat).map (fun x => (x.kind, x.sc, x.tag))), dep := g.dep })) ∧
     (bitsOf w.x.toNat 3 3 = 2 → ((s.cbEntry? k b (handleOf w)).map CbEntry.out).getD false = true → ∀ f, s.firing? k b = some f →
       let put := lastWrite (f.writes.filter (fun x => x.handle == handleOf w && x.pos == w.imm.toNat))
       exec (.cbq w) s = .next (s.give k b j w g.tag { v := kindWord (put.map (fun x => (x.kind, x.sc, x.tag))), dep := g.dep })) ∧
     (bitsOf w.x.toNat 3 3 = 3 → exec (.cbq w) s = .next (s.give k b j w g.tag { v := BitVec.ofNat 32 n, dep := g.dep })) ∧
     (bitsOf w.x.toNat 3 3 = 4 → exec (.cbq w) s = .next (s.give k b j w g.tag { v := BitVec.ofNat 32 c.rp, dep := g.dep })) ∧
     (bitsOf w.x.toNat 3 3 = 5 → exec (.cbq w) s = .next (s.give k b j w g.tag { v := BitVec.ofNat 32 c.wp, dep := g.dep })))) ∧
  (∀ (w : Blk) (k : PageKey) (b j : Nat) (s : State) (g : Args) (i : Instr), i = .advr w ∨ i = .advw w → w.ri = true →
    BlockFires false false 0 w k b j s g →
    exec i s = .next ((s.giveNone k b j).modFiring k b (fun f => { f with advances := f.advances ++ [(handleOf w, w.imm.toNat)] }))) ∧
  (∀ (w : Blk) (k : PageKey) (b j : Nat) (s : State) (g : Args) (xs : List Nat) (sc : Bool) (dep : Dep), fxSource s k b w = some (xs, sc, dep) →
    let n := bitsOf w.imm.toNat 0 6
    (BlockFires false false 0 w k b j s g → let r := Fx4.encode xs
      exec (.fxpk w) s = .next (fxWrite s k b j g.tag (blockSlot s k b j w n g.tag sc dep (fxWords r.1 r.2.1)) r.2.2)) ∧
    (BlockFires false true 0 w k b j s g → let r := Fx4.encodeWith (bitsOf g.b.v.toNat 0 16) xs
      exec (.fxsc w) s = .next (fxWrite s k b j g.tag
        (blockSlot s k b j w n g.tag (sc || g.b.sc) (dep.join g.dep) (fxWords r.1 r.2.1)) r.2.2))) ∧
  (∀ (w : Blk) (k : PageKey) (b j : Nat) (s : State) (g : Args) (x : Slot), s.slotAt k b (handleOf w) (offsetOf w) = some x →
    BlockFires false false 0 w k b j s g →
    let ys := (Fx4.unpackCodes (x.words.take 4)).map (Fx4.decodeElem (bitsOf (x.word 4).toNat 0 16))
    let ws := ys.map (fun y => BitVec.ofNat 32 y.1)
    let n := bitsOf w.imm.toNat 0 6
    exec (.fxun w) s = .next (fxWrite s k b j g.tag (blockSlot s k b j w n g.tag x.sc x.dep (ws.take 16) ++
      blockSlot s k b j w (n + 1) g.tag x.sc x.dep (ws.drop 16)) (unionAll ys)))

/-- R169, R172 to R174, R176 to R178, R180: accesses of elements. -/
def Obligations.ElementAccessIsIssued : Prop :=
  ∀ (e : Ecw) (k : PageKey) (n : Nat) (s : State) (g : Args),
    let node := nodeOf e.x
    let t := s.taken k n e g.tag
    let issued (op : MemOp) (va size : Nat) (a b : DWord) : State :=
      (t.issue (.elem k n) node op g.tag va size a b g.dep ((t.dyn k).keeps n e g.tag)).2
    let scope := scopeBits e.md.toNat
    s.nodeRoom k node = true →
    (ElemFires false e k n s g →
      (let pos := g.a.v.toNat + g.b.v.toNat
       let size := sizeOf2 e.md.toNat
       (∀ va, s.checkAccess k node pos size = .ok va →
         exec (.ld (.elem e)) s = .next (issued (.load (e.ty == .i32)) va size 0 0)) ∧
       (∀ c, s.checkAccess k node pos size = .error c → exec (.ld (.elem e)) s = .next (s.faultP c (.elem k n) g.tag g.a.v node)) ∧
       (∀ va, s.checkAccess k node pos 1 = .ok va → exec (.pf (.elem e)) s = .next t)) ∧
      (let pos := g.a.v.toNat
       let size := sizeOf2 e.md.toNat
       (∀ va, s.checkAccess k node pos size = .ok va →
         exec (.st (.elem e)) s = .next (issued .store va size 0 (g.b.v.setWidth 64))) ∧
       (∀ c, s.checkAccess k node pos size = .error c → exec (.st (.elem e)) s = .next (s.faultP c (.elem k n) g.tag g.a.v node))) ∧
      (∀ va, s.checkAccess k node g.a.v.toNat 4 = .ok va →
        let at_ (op : Nat) : Host.Outcome State Fault Refusal := .next (issued (.atomic op e.ty scope) va 4 0 (g.b.v.setWidth 64))
        exec (.aadd (.elem e)) s = at_ 0 ∧ exec (.aadds (.elem e)) s = at_ 1 ∧ exec (.amin (.elem e)) s = at_ 2 ∧
        exec (.amax (.elem e)) s = at_ 3 ∧ exec (.aminn (.elem e)) s = at_ 4 ∧ exec (.amaxn (.elem e)) s = at_ 5 ∧
        exec (.aand (.elem e)) s = at_ 6 ∧ exec (.aor (.elem e)) s = at_ 7 ∧ exec (.axor (.elem e)) s = at_ 8 ∧
        exec (.axch (.elem e)) s = at_ 9 ∧ exec (.ainc (.elem e)) s = at_ 10)) ∧
    (ElemFires true e k n s g → ∀ va, s.checkAccess k node g.a.v.toNat 4 = .ok va →
      exec (.acas (.elem e)) s = .next (issued (.cas scope) va 4 (g.c.v.setWidth 64) (g.b.v.setWidth 64)) ∧
      exec (.afadd (.elem e)) s = .next (issued (.fadd e.ty scope (if bitsOf e.x.toNat 3 1 = 1 then none else some g.c.v.toNat)) va 4 0
        (g.b.v.setWidth 64)))

/-- R172, R174 to R178, R180: accesses of blocks. -/
def Obligations.BlockAccessIsIssued : Prop :=
  ∀ (w : Blk) (k : PageKey) (b j : Nat) (s : State) (g : Args),
    let node := nodeOf w.x
    let scope := scopeBits w.md.toNat
    let issued (op : MemOp) (va size : Nat) (x y : DWord) : Nat × State := s.issue (.actor k b j) node op g.tag va size x y g.dep true
    let waits (r : Nat × State) : State := r.2.modFiring k b (fun f => { f.await j (.access r.1) with accs := f.accs ++ [(j, r.1)] })
    s.tileRoom k = true → s.lowerIssued k b j (some node) false = true →
    (BlockFires true false 0 w k b j s g →
      (let pos := g.a.v.toNat + (if w.ri then w.imm.toNat else 0)
       (∀ va, s.checkAccess k node pos (sizeOf2 w.md.toNat) = .ok va →
         exec (.ld (.block w)) s = .next (waits (issued (.load (w.ty == .i32)) va (sizeOf2 w.md.toNat) 0 0))) ∧
       (∀ va, s.checkAccess k node pos 1 = .ok va → exec (.pf (.block w)) s = .next (s.giveNone k b j))) ∧
      (∀ va, s.checkAccess k node g.a.v.toNat 8 = .ok va → let r := issued .load8 va 8 0 0
        exec (.ldx w) s = .next (r.2.modFiring k b (fun f =>
          let f1 := { f.await j (.access r.1) with accs := f.accs ++ [(j, r.1)] }
          { f1 with ldx := f1.ldx ++ [(j, BitVec.ofNat 32 g.a.v.toNat, none)] })))) ∧
    (BlockFires true true 0 w k b j s g →
      (∀ va, s.checkAccess k node g.a.v.toNat (sizeOf2 w.md.toNat) = .ok va →
        exec (.st (.block w)) s = .next (waits (issued .store va (sizeOf2 w.md.toNat) 0 (g.b.v.setWidth 64)))) ∧
      (∀ va, s.checkAccess k node g.a.v.toNat 4 = .ok va →
        let at_ (op : Nat) : Host.Outcome State Fault Refusal := .next (waits (issued (.atomic op w.ty scope) va 4 0 (g.b.v.setWidth 64)))
        exec (.aadd (.block w)) s = at_ 0 ∧ exec (.aadds (.block w)) s = at_ 1 ∧ exec (.amin (.block w)) s = at_ 2 ∧
        exec (.amax (.block w)) s = at_ 3 ∧ exec (.aminn (.block w)) s = at_ 4 ∧ exec (.amaxn (.block w)) s = at_ 5 ∧
        exec (.aand (.block w)) s = at_ 6 ∧ exec (.aor (.block w)) s = at_ 7 ∧ exec (.axor (.block w)) s = at_ 8 ∧
        exec (.axch (.block w)) s = at_ 9 ∧ exec (.ainc (.block w)) s = at_ 10 ∧
        exec (.acas (.block w)) s = .next (waits (issued (.cas scope) va 4
          ((s.blockConst k b (bitsOf w.x.toNat 4 4) (bitsOf w.x.toNat 8 2)).setWidth 64) (g.b.v.setWidth 64)))) ∧
      (∀ pos v va, ldxOf s k b (bitsOf w.x.toNat 3 7) = some (pos, v) → s.checkAccess k node pos.toNat 8 = .ok va →
        exec (.stx w) s = .next (waits (issued .store8 va 8 0 (g.b.v ++ g.a.v)))) ∧
      (∀ pos v va, ldxOf s k b (bitsOf w.x.toNat 4 6) = some (pos, some v) → s.checkAccess k node pos.toNat 8 = .ok va →
        exec (.acasD w) s = .next (waits (issued (.cas8 scope) va 8 v (g.b.v ++ g.a.v)))) ∧
      (∀ va, s.checkAccess k node g.a.v.toNat 4 = .ok va →
        let st := ((s.dyn k).actor b).instrSt j g.tag
        exec (.afadd (.block w)) s = .next ((waits (issued (.fadd w.ty scope (if bitsOf w.x.toNat 3 1 = 1 then none else some st.count)) va 4 0
          (g.b.v.setWidth 64))).modDyn k (fun d => d.modActor b (fun a => a.setInstr j { a.instrSt j g.tag with
            count := (a.instrSt j g.tag).count + 1 })))))

/-- R182, R302, R303: fences. -/
def Obligations.FencesGiveTheirToken : Prop :=
  (∀ (e : Ecw) (k : PageKey) (n : Nat) (s : State) (g : Args), ElemFires false e k n s g →
    let sc := scopeBits e.x.toNat
    let t := s.taken k n e g.tag
    let v := g.val 1 g.a.v
    let near (rel acq : Bool) : Host.Outcome State Fault Refusal :=
      let q := t.fenceDep (.elem k n) g.tag rel acq sc v.dep
      .next (q.2.emitBoth k n e g.tag { v with dep := q.1 })
    let far (acq : Bool) : Host.Outcome State Fault Refusal :=
      .next (t.queueFence (.elem k n) g.tag true acq sc v ((t.dyn k).keeps n e g.tag)).2
    (s.reqs.any (fun r => r.issuer == .elem k n && r.phase != .given) = false →
      exec (.fenceAcq (.elem e)) s = near false true ∧
      (Scope.wide sc = false → s.pendOver g.dep = true → exec (.fenceRel (.elem e)) s = near true false ∧ exec (.fenceAr (.elem e)) s = near true true)) ∧
    (Scope.wide sc = true → exec (.fenceRel (.elem e)) s = far false ∧ exec (.fenceAr (.elem e)) s = far true)) ∧
  (∀ (w : Blk) (k : PageKey) (b j : Nat) (s : State) (g : Args), BlockFires true false 0 w k b j s g →
    let sc := scopeBits w.x.toNat
    let v0 := g.val 1 g.a.v
    let v : Val := { v0 with dep := { v0.dep with pend := unionOf v0.dep.pend (s.lowerAccs k b j) } }
    let near (rel acq : Bool) : Host.Outcome State Fault Refusal :=
      let q := s.fenceDep (.actor k b j) g.tag rel acq sc v.dep
      .next (q.2.give k b j w g.tag { v with dep := q.1 })
    let far (acq : Bool) : Host.Outcome State Fault Refusal :=
      let q := s.queueFence (.actor k b j) g.tag true acq sc v true
      .next (q.2.modFiring k b (fun f => f.await j (.access q.1)))
    (s.lowerIssued k b j none false = true → exec (.fenceAcq (.block w)) s = near false true) ∧
    (s.lowerIssued k b j none true = true → s.pendOver v.dep = true →
      (Scope.wide sc = false → exec (.fenceRel (.block w)) s = near true false ∧ exec (.fenceAr (.block w)) s = near true true) ∧
      (Scope.wide sc = true → exec (.fenceRel (.block w)) s = far false ∧ exec (.fenceAr (.block w)) s = far true)))

/-- R214 to R218: SEND and SENDW. -/
def Obligations.MessageIsQueued : Prop :=
  ∀ (w : Blk) (k : PageKey) (b j : Nat) (s : State) (g : Args) (x : Slot),
    let ov := bitsOf w.md.toNat 2 1 == 1
    let scope := scopeBits w.md.toNat
    BlockFires ov ov 0 w k b j s g → s.slotAt k b (bitsOf w.imm.toNat 6 4) (bitsOf w.imm.toNat 0 6) = some x →
    let body := (List.range 6).map (fun i => x.dword (i + 2))
    let ops := if ov then (g.b.v ++ g.a.v) :: body.tail else body
    let queued (code : Nat) (wait : Bool) : Msg × State := s.queueMsg k b j code scope g.tag (x.dword 1) ops wait (x.dep.join g.dep)
    let sent (code : Nat) : Host.Outcome State Fault Refusal :=
      let q := queued code false
      let u := q.2.give k b j w g.tag { v := BitVec.ofNat 32 q.1.seq, dep := g.dep }
      .next (if heldCode code && Scope.wide scope then u.requestClose k.ctx 5 else u)
    let waits (code : Nat) : Host.Outcome State Fault Refusal :=
      let q := queued code true
      .next (q.2.modFiring k b (fun f => f.await j (.reply q.1.id)))
    let table : List (Instr × Nat) := [(.sendCopy w, 1), (.sendFill w, 2), (.sendGather w, 3), (.sendScatter w, 4), (.sendIstream w, 5),
      (.sendPublish w, 6), (.sendDiscard w, 7), (.sendPreload w, 8), (.sendMigrate w, 9), (.sendMark w, 10), (.sendTest w, 11)]
    let waiting : List (Instr × Nat) := [(.sendw w, bitsOf w.x.toNat 0 8), (.sendwCensus w, 12), (.sendwQuery w, 13)]
    (s.replyBad k false (x.dword 1) = false → ∀ i code, (i, code) ∈ table → s.sendRoom k code = true → exec i s = sent code) ∧
    (s.replyBad k true (x.dword 1) = false → ∀ i code, (i, code) ∈ waiting → s.sendRoom k code = true → exec i s = waits code) ∧
    (s.replyBad k false (x.dword 1) = true → ∀ i code, (i, code) ∈ table →
      exec i s = .next ((s.giveNone k b j).faultWide 0x3F (.actor k b j) g.tag (x.dword 1) 0))

/-- R161, R233, R235 to R240: the system instructions. -/
def Obligations.SystemInstructionsGiveResult : Prop :=
  ∀ (w : Blk) (k : PageKey) (b j : Nat) (s : State) (g : Args),
    let p : Party := .actor k b j
    let round := s.roundOf k.ctx (s.behindCut p)
    (∀ f q, s.cur = some (.party p) → s.firing? k b = some f → waitsFor f j Wait.invalId? = some q →
      let t := s.give k b j w f.tag { v := 0, sc := f.opndSc j }
      (s.invals.any (fun v => v.id == q) = true → exec (.inval w) s = .next s ∧ exec (.invalAll w) s = .next s) ∧
      (s.invals.any (fun v => v.id == q) = false → s.laneRoom k w = true → exec (.inval w) s = .next t ∧ exec (.invalAll w) s = .next t)) ∧
    (BlockFires true false 0 w k b j s g →
      ((s.ctx k.ctx).undo.on = true → exec (.wmark w) s = .next ((s.askAtClose p .wmark).give k b j w g.tag
        { v := BitVec.ofNat 32 (s.windowAfter k.ctx round), dep := g.dep })) ∧
      ((s.ctx k.ctx).undo.on = false → exec (.wmark w) s = .next (s.give k b j w g.tag { v := 0xFFFFFFFF, dep := g.dep })) ∧
      ((s.ctx k.ctx).undo.on = true → exec (.sealWindow w) s = .next ((s.askAtClose p .seal).give k b j w g.tag (g.val 1 g.a.v))) ∧
      ((s.ctx k.ctx).undo.on = false → exec (.sealWindow w) s = .next (s.give k b j w g.tag (g.val 1 g.a.v))) ∧
      (let r := s.readSys p w.x.toNat
       exec (.rdsr w) s = .next (r.2.give k b j w g.tag { v := r.1, dep := g.dep })) ∧
      exec (.wrsrAflg w) s = .next ((s.modDyn k (fun d => { d with aflg := g.a.v &&& 0x3F3F })).give k b j w g.tag (g.val 1 (s.dyn k).aflg)) ∧
      (2 ≤ g.a.v.toNat → g.a.v.toNat ≤ 64 →
        exec (.wrsrRtmr w) s = .next ((s.askAtClose p (.rtmr g.a.v)).give k b j w g.tag (g.val 1 (s.ctx k.ctx).rtmr))) ∧
      (bitsOf g.a.v.toNat 16 16 = 0 → s.quotaRefused k.ctx g.a.v = false →
        exec (.wrsrQuota w) s = .next ((s.askAtClose p (.quota g.a.v)).give k b j w g.tag (g.val 1 (s.ctx k.ctx).quota))) ∧
      (let q := s.startInval { State.invalAllOf k.ctx with lo := 0, hi := 2 ^ 64 }
       exec (.invalAll w) s = .next (q.2.modFiring k b (fun f => f.await j (.inval q.1)))) ∧
      ((s.part k.ctx.part).sliceGuest = k.ctx.guest → exec (.yield w) s = .next
        ((s.modPart k.ctx.part (fun p => { p with yields := true })).give k b j w g.tag (g.val 1 g.a.v))) ∧
      ((s.part k.ctx.part).sliceGuest ≠ k.ctx.guest → exec (.yield w) s = .next (s.give k b j w g.tag (g.val 1 g.a.v))) ∧
      (bitsOf g.a.v.toNat 12 20 = 0 →
        let q := s.beginCensus k.ctx.part (g.a.v.setWidth 12) none (some (k, b, j))
        exec (.census w) s = .next (q.2.modFiring k b (fun f => f.await j (.census q.1)))) ∧
      exec (.argw w) s = .next ((s.giveNone k b j).askAtClose p (.arg k.graph (bitsOf w.x.toNat 0 8) (bitsOf w.x.toNat 8 2) g.a.v))) ∧
    (BlockFires true true 0 w k b j s g →
      (let code := bitsOf g.b.v.toNat 20 3
       let va := g.a.v.toNat * 2 ^ 12 + bitsOf g.b.v.toNat 0 20 * 2 ^ 44
       let size := 2 ^ boundary code
       code ≤ 5 → bitsOf g.b.v.toNat 23 9 = 0 →
       let q := s.startInval { State.invalAllOf k.ctx with lo := va / size * size, hi := va / size * size + size }
       exec (.inval w) s = .next (q.2.modFiring k b (fun f => f.await j (.inval q.1)))) ∧
      (∀ gr, s.namedPage k.ctx g.a.v g.b.v = .ok gr →
        let key : PageKey := { ctx := k.ctx, graph := g.a.v, lpn := g.b.v.toNat }
        let t := s.mapGraph k.ctx gr
        let gave (u : State) (v : Word) : Host.Outcome State Fault Refusal := .next (u.give k b j w g.tag (g.val 2 v))
        ((t.page? key).map Page.placed = some true → exec (.pgld w) s = gave t 0) ∧
        ((t.page? key).map Page.st = some .absent → exec (.pgev w) s = gave t 0) ∧
        ((t.page? key).map Page.placed ≠ some true → exec (.pgld w) s = gave (t.modPart k.ctx.part (fun x =>
          if x.asked.any (fun a => a.1 == key) then x else { x with asked := x.asked ++ [(key, t.roundOf k.ctx (t.behindCut p))] })) 1) ∧
        (∀ x, t.page? key = some x → x.st ≠ .absent → exec (.pgev w) s = gave (t.modPage key (fun y =>
          { y with evict := y.evict.orElse (fun _ => some (t.roundOf k.ctx (t.behindCut p))) })) 1) ∧
        ((w.md.toNat % 4 = 0 ∨ (State.foldMembers gr g.b.v.toNat (bitsOf w.md.toNat 0 2)).isEmpty = false) →
          exec (.fold w) s = gave (t.askAtClose p (.fold g.a.v g.b.v.toNat (bitsOf w.md.toNat 0 2))) 0)))

/-- R233, R234, R351, R352: TRAP and BRK. -/
def Obligations.TrapInstructionsTakeTheirTrap : Prop :=
  (∀ (e : Ecw) (k : PageKey) (n : Nat) (s : State) (g : Args), ElemFires false e k n s g →
    ((s.dyn k).elem n).tags.find? (fun x => x.acc.isSome) = none →
    let t := ({ s with cur := none } : State).taken k n e g.tag
    let held := t.modTag k n g.tag (fun y => { y with acc := some (g.val 1 g.a.v) })
    (((t.page? k).map Page.hasHandler).getD false = true →
      exec (.trap (.elem e)) s = .next { held.trapT 0x1A e.x.toNat (.elem k n) g.tag g.a.v with cur := s.cur } ∧
      ((t.ctx k.ctx).brkEn = false → exec (.brk (.elem e)) s = .next { held.trapT 0x1B e.x.toNat (.elem k n) g.tag g.a.v with cur := s.cur })) ∧
    ((t.ctx k.ctx).brkEn = true → exec (.brk (.elem e)) s =
      .next { (held.breakAt (.elem k n) g.a.v).setTrap (.elem k n) true with cur := s.cur })) ∧
  (∀ (e : Ecw) (k : PageKey) (n : Nat) (s : State) (x : TagState) (v : Val), s.cur = some (.party (.elem k n)) →
    ((s.dyn k).elem n).tags.find? (fun x => x.acc.isSome) = some x → x.acc = some v → s.elemGate k n e x.tag = true →
    let t := ((s.modTag k n x.tag (fun y => { y with acc := none })).emitBoth k n e x.tag v).countStep (.elem k n) x.tag
    exec (.trap (.elem e)) s = .next t ∧ exec (.brk (.elem e)) s = .next t) ∧
  (∀ (w : Blk) (k : PageKey) (b j : Nat) (s : State) (g : Args), BlockFires true false 0 w k b j s g →
    (s.insSt k b j g.tag).count = 1 →
    let t := (s.setInsSt k b j { s.insSt k b j g.tag with count := 0 }).give k b j w g.tag (g.val 1 g.a.v)
    exec (.trap (.block w)) s = .next t ∧ exec (.brk (.block w)) s = .next t) ∧
  (∀ (w : Blk) (k : PageKey) (b j : Nat) (s : State) (g : Args), BlockFires true false 0 w k b j s g →
    (s.insSt k b j g.tag).count ≠ 1 →
    let p : Party := .actor k b j
    let mark (x : Wait) : State := (s.setInsSt k b j { s.insSt k b j g.tag with count := 1 }).modFiring k b (fun f => f.await j x)
    (((s.page? k).map Page.hasHandler).getD false = true → p.isHandler s = false →
      exec (.trap (.block w)) s = .next ((mark .trap).trapT 0x1A w.x.toNat p g.tag g.a.v) ∧
      ((s.ctx k.ctx).brkEn = false → exec (.brk (.block w)) s = .next ((mark .trap).trapT 0x1B w.x.toNat p g.tag g.a.v))) ∧
    ((s.ctx k.ctx).brkEn = true → exec (.brk (.block w)) s = .next ((mark .brk).breakAt p g.a.v)))

/-- R162, R399, R400, R403: LAUNCH and CALL. -/
def Obligations.LaunchMakesTheFrame : Prop :=
  ∀ (call : Bool) (w : Blk) (k : PageKey) (b j : Nat) (s : State) (g : Args) (x : Slot),
    let i : Instr := if call then .call w else .launch w
    let r := LaunchRec.ofNat ((List.range 16).foldl (fun n j => n + (x.word j).toNat * 2 ^ (32 * j)) 0)
    let dep := x.dep.join g.dep
    BlockFires false false 0 w k b j s g → s.slotAt k b (handleOf w) (offsetOf w) = some x →
    (∀ gr args t tag rest, s.launchGraph k.ctx.part r = some gr → s.argBlock k.ctx dep r gr = .ok (args, t) →
      (t.part k.ctx.part).tagWaiters = [] → (t.part k.ctx.part).tags = tag :: rest →
      ∃ u : State, exec i s = .next (u.give k b j w g.tag { v := tag.setWidth 32, dep := dep }) ∧
        ∃ f ∈ u.frames, f.key = ⟨k.ctx.part, tag⟩ ∧ f.ctx = k.ctx ∧ f.graph = gr.gid ∧ f.lrec = r ∧ f.call = call ∧
          f.parent = some (k, if call then bitsOf w.imm.toNat 0 6 else 0x3F, g.tag) ∧
          f.launchedIn = some (t.roundOf k.ctx (t.behindCut (.actor k b j)))) ∧
    (∀ gr x, s.launchGraph k.ctx.part r = some gr → s.argBlock k.ctx dep r gr = .error x → x.pull.isSome = true → exec i s = .next s) ∧
    ((s.launchGraph k.ctx.part r = none ∨ ∃ gr x, s.launchGraph k.ctx.part r = some gr ∧ s.argBlock k.ctx dep r gr = .error x ∧ x.pull = none) →
      exec i s = .next ((({ s with free := s.free + 1 } : State).advise k.ctx 0x4A ((Config.freeWord s.free).setWidth 64) (r.gid.setWidth 64) g.tag).give
        k b j w g.tag { v := 0x80000000, dep := dep }))

/-- R206: the vector instructions. -/
def Obligations.IslandVectorGivesCells : Prop :=
  ∀ (w : Isl) (k : PageKey) (s : State) (x : IslandState), IslandFires k s x →
    let b := x.acc w.db
    let c := x.acc w.dc
    let a := x.acc w.da
    let md := w.md.toNat
    let col := bitsOf w.x.toNat 0 4
    ((a.int || b.int) = false →
      exec (.vmaxr w) s = .next (s.vectorNext k w x [b] (fun i _ => b.rowMax i)) ∧
      exec (.vsumr w) s = .next (s.vectorNext k w x [b] (fun i _ => b.rowSum md i)) ∧
      exec (.vexp2 w) s = .next (s.vectorNext k w x [b] (fun i j => fexp2Lane .f32 md (b.cell i j))) ∧
      (w.ri = false → exec (.sca w) s = .next (s.vectorNext k w x [a, b] (fun i j => fmulLane .f32 md (b.cell i col) (a.cell i j)))) ∧
      (c.int = false →
        exec (.vadd w) s = .next (s.vectorNext k w x [b, c] (fun i j => faddLane .f32 md (b.cell i j) (c.cell i j))) ∧
        exec (.vsub w) s = .next (s.vectorNext k w x [b, c] (fun i j => fsubLane .f32 md (b.cell i j) (c.cell i j))) ∧
        exec (.vmul w) s = .next (s.vectorNext k w x [b, c] (fun i j => fmulLane .f32 md (b.cell i j) (c.cell i j))) ∧
        exec (.vmax w) s = .next (s.vectorNext k w x [b, c] (fun i j => fminLane .f32 true true (b.cell i j) (c.cell i j))) ∧
        exec (.vfma w) s = .next (s.vectorNext k w x [b, c, a] (fun i j => ffmaLane .f32 false md (b.cell i j) (c.cell i j) (a.cell i j))))) ∧
    (a.int = false → w.ri = true →
      exec (.sca w) s = .next (s.vectorNext k w x [a] (fun i j => fmulLane .f32 md (a.cell i j) (w.imm.toNat * 2 ^ 16)))) ∧
    ((a.int || b.int) = true → ∀ i ∈ ([.vmaxr w, .vsumr w, .vexp2 w, .vadd w, .vsub w, .vmul w, .vmax w, .vfma w] : List Instr),
      exec i s = .next (s.islandFault k 0x3D (s.islandWord k) 0))

/-- R199 to R201: the matrix step. -/
def Obligations.IslandMatrixStep : Prop :=
  ∀ (w : Isl) (k : PageKey) (s : State) (x : IslandState), IslandFires k s x →
    let a := x.acc w.da
    let nb := bitsOf w.x.toNat 0 3
    let nc := bitsOf w.x.toNat 3 3
    let apply := bitsOf w.x.toNat 8 2 == 1
    let done (b c : TileReg) (u : State) (r : Accum × Flags) (sc : Bool) : Host.Outcome State Fault Refusal :=
      let y := x.setAcc w.da { r.1 with sc := sc, dep := (a.dep.join b.dep).join c.dep }
      let y1 := if w.db.pair then State.advancePair y w.db.num (bitsOf w.x.toNat 6 1 == 1) else y
      let y2 := if w.dc.pair then State.advancePair y1 w.dc.num (bitsOf w.x.toNat 7 1 == 1) else y1
      .next (u.islandNextWith k { y2 with party := y2.party.join (b.dep.join c.dep) } r.2)
    (a.int = !w.ty.isFloat → State.badTile x w.ty w.db false = false →
      s.checkPair k x w.ty w.db nb = .ok () → s.checkPair k x w.ty w.dc nc = .ok () →
      ∀ b t c u, s.multiplicand k x w.ty w.db nb = .ok (b, t) → t.multiplicand k x w.ty w.dc nc = .ok (c, u) →
        (State.badTile x w.ty w.dc false = false →
          exec (.mma w) s = done b c u (a.step w.ty false none b c) (a.sc || (b.sc || c.sc)) ∧
          ((b.sc || c.sc) = !apply → exec (.mmas w) s =
            done b c u (a.step w.ty false (some (w.imm.toNat * 2 ^ 16)) b c) (a.sc || apply)) ∧
          ((b.sc || c.sc) = apply → exec (.mmas w) s =
            .next (({ s with free := s.free + 1 } : State).islandFault k 0x34 (Config.islandReport s.free) 0))) ∧
        (State.badTile x w.ty w.dc true = false → exec (.mmat w) s = done b c u (a.step w.ty true none b c) (a.sc || (b.sc || c.sc)))) ∧
    (a.int = w.ty.isFloat → ∀ i ∈ ([.mma w, .mmat w, .mmas w] : List Instr), exec i s = .next (s.islandFault k 0x3D (s.islandWord k) 0))

/-- R196, R197, R202 to R204: the island's loads and stores. -/
def Obligations.IslandMovesTiles : Prop :=
  ∀ (w : Isl) (k : PageKey) (s : State) (x : IslandState), IslandFires k s x →
    let node := bitsOf w.x.toNat 0 3
    let adv := bitsOf w.x.toNat 6 1 == 1
    let im := w.imm.toNat
    let loaded (y : IslandState) (q : List (BitVec 512) × Dep × State) : Host.Outcome State Fault Refusal :=
      .next (q.2.2.islandNext k { State.advancePair y w.db.num adv with party := x.party.join q.2.1 })
    let stored (q : Dep × State) : Host.Outcome State Fault Refusal :=
      .next (q.2.islandNext k { State.advancePair x w.db.num adv with party := x.party.join q.1 })
    (bitsOf w.x.toNat 9 1 = 0 →
      let lane := bitsOf w.x.toNat 0 4
      ∀ h dep t rows, s.takeHead k x.tag lane true = .ok (.head h dep, t) →
        State.packetRows ((t.dyn k).fifo (.laneIn lane)).tail (rowsBehind h) = some rows →
        exec (.ldt w) s = .next ((t.modDyn k (fun d => d.setFifo (.laneIn lane) ((d.fifo (.laneIn lane)).drop (1 + rowsBehind h)))).islandNext k
          (x.setTile w.da (State.tileOf (bitsOf h.toNat 60 4) (bitsOf h.toNat 58 2) (bitsOf h.toNat 52 4) (bitsOf h.toNat 57 1 == 1) rows dep)))) ∧
    (bitsOf w.x.toNat 9 1 = 1 →
      ∀ q, s.loadPair k x w.db.num node (List.range (bitsOf im 5 4 + 1) ++ sideRows (bitsOf im 10 2)) = .ok q →
        exec (.ldt w) s = loaded (x.setTile w.da
          (State.tileOf (bitsOf im 12 4) (bitsOf im 10 2) (bitsOf im 5 4) (bitsOf im 9 1 == 1) q.1 q.2.1)) q) ∧
    (∀ ty, Ty.ofCode (bitsOf im 12 4) = some ty → ∀ q, s.loadPair k x w.db.num node (List.range (depth ty)) = .ok q →
      let row (j : Nat) : BitVec 512 := BitVec.ofNat 512 (packNat ty.width ((List.range (depth ty)).map (fun i =>
        bitsOf ((q.1[i]?).getD 0).toNat (ty.width * j) ty.width)))
      exec (.ldtt w) s = loaded (x.setTile w.da
        { fmt := ty.code, sc := bitsOf im 9 1 == 1, nrow := 15, rows := (List.range 16).map row, dep := q.2.1 }) q) ∧
    (∀ q, s.loadPair k x w.db.num node (List.range 16) = .ok q →
      exec (.lda w) s = loaded (x.setAcc w.da { int := !w.ty.isFloat, sc := false, cells := q.1.flatMap State.rowWords, dep := q.2.1 }) q) ∧
    (let r := x.tile w.da
     let rows := (List.range (r.nrow + 1)).map (fun i => (i, (r.rows[i]?).getD 0)) ++ (sideRows r.smode).map (fun i => (i, r.sideRow (i - 16)))
     (r.fmt ≠ 0 → ∀ q, s.storePair k x w.db.num node r.dep rows = .ok q → exec (.stt w) s = stored q) ∧
     (r.fmt = 0 → exec (.stt w) s = .next (s.islandFault k 0x3D (s.islandWord k) 0))) ∧
    (let a := x.acc w.da
     let rows := (List.range 16).map (fun i => (i, State.rowOf ((a.cells.drop (16 * i)).take 16)))
     (a.int = !w.ty.isFloat → ∀ q, s.storePair k x w.db.num node a.dep rows = .ok q → exec (.sta w) s = stored q) ∧
     (a.int = w.ty.isFloat → exec (.sta w) s = .next (s.islandFault k 0x3D (s.islandWord k) 0)))

/-- R198, R204, R205, R207 to R210: the rest of the island's instructions. -/
def Obligations.IslandSequencesAndSends : Prop :=
  ∀ (w : Isl) (k : PageKey) (s : State) (x : IslandState), IslandFires k s x →
    let a := x.acc w.da
    let b := x.acc w.db
    let c := x.acc w.dc
    let lane := bitsOf w.x.toNat 0 4
    let r := bitsOf w.imm.toNat 0 4
    let fits (n : Nat) : Prop := (s.dyn k).used (.laneOut lane) + n ≤ Place.cap (.laneOut lane)
    let sent (l : List Item) (n : Nat) : Host.Outcome State Fault Refusal :=
      .next ((s.modDyn k (fun d => l.foldl (fun y i => y.push (.laneOut lane) i) d)).islandNext k
        { x with sent := assign lane (x.count lane + n) x.sent })
    (a.int = !w.ty.isFloat →
      let cells (idx : List Nat) : List Item := idx.map (fun n => State.laneTok x ((a.cells[n]?).getD 0) a.sc a.dep)
      (w.md = 0 → fits 16 → exec (.rda w) s = sent (cells ((List.range 16).map (fun j => 16 * r + j))) 16) ∧
      (w.md = 1 → fits 16 → exec (.rda w) s = sent (cells ((List.range 16).map (fun i => 16 * i + r))) 16) ∧
      (w.md = 2 → fits 1 → exec (.rda w) s = sent (cells [16 * r + bitsOf w.imm.toNat 4 4]) 1)) ∧
    exec (.zacc w) s = .next (s.islandNext k (x.setAcc w.da { Accum.zero with int := !w.ty.isFloat })) ∧
    (w.md = 0 → exec (.vbcast w) s = .next (s.islandNext k (x.setAcc w.da
      { sc := b.sc, cells := (List.range 256).map (fun n => (b.cells[n / 16 * 16 + lane]?).getD 0), dep := b.dep }))) ∧
    (w.md = 1 → exec (.vbcast w) s = .next (s.islandNext k (x.setAcc w.da
      { cells := List.replicate 256 (BitVec.ofNat 32 (w.imm.toNat * 2 ^ 16)) }))) ∧
    (w.md = 2 → exec (.vbcast w) s = .next (s.islandNext k (x.setAcc w.da
      { cells := List.replicate 256 (x.scalar w.db.num).v, dep := (x.scalar w.db.num).dep }))) ∧
    (b.int = !w.ty.isFloat → (w.ty = .fx4x8 → c.int = false) →
      let four := w.ty == .fx4x8
      let old := x.tile w.da
      let base := if old.fmt = w.ty.code then old else old.blank
      let q := vcvtRows w.ty w.md.toNat (bitsOf w.x.toNat 4 1 == 1) (bitsOf w.x.toNat 5 1 == 1) (bitsOf w.x.toNat 0 2) b c base
      exec (.vcvt w) s = .next (s.islandNextWith k (x.setTile w.da { q.1 with
        fmt := w.ty.code, smode := if four then 1 else 0, nrow := 15, sc := base.sc || b.sc || (four && c.sc)
        dep := ((if old.fmt = w.ty.code then old.dep else {}).join b.dep).join (if four then c.dep else {}) }) q.2)) ∧
    (let n := if w.ri then w.imm.toNat else (x.scalar w.da.num).v.toNat
     let len := bitsOf w.x.toNat 0 6
     (n = 0 → exec (.iloop w) s = .next ((s.setIsland k ({ x with pc := x.pc + len } : IslandState).advance).touch k x.tag)) ∧
     (n ≠ 0 → exec (.iloop w) s = .next ((s.setIsland k
       { x with pc := x.pc + 1, loops := { first := x.pc + 1, len := len, left := n } :: x.loops }).touch k x.tag))) ∧
    (∀ u t, s.takeHead k x.tag lane false = .ok (.tok u, t) →
      exec (.iwait w) s = .next ((t.modDyn k (fun d => d.pop (.laneIn lane))).islandNext k (x.setScalar w.da.num { v := u.pay, dep := u.dep }))) ∧
    (let p := State.packetOf x (x.tile w.da) (x.count lane)
     (x.tile w.da).fmt ≠ 0 → fits p.length → exec (.iemitPkt w) s = sent p 1) ∧
    (fits 1 → exec (.iemitTok w) s = sent [State.laneTok x (x.scalar w.da.num).v false (x.scalar w.da.num).dep] 1) ∧
    exec (.isync w) s = .next (s.islandNext k { x with sync := x.sync.join x.party })

/-- R80, R81, R129, R136, R219, R249, R251: the movement of tokens. -/
def Obligations.TokensMoveAlongTheirRoutes : Prop :=
  (∀ (s : State) (k : PageKey) (src : Place) (p : Page) (i : Item) (rest : List Item),
    s.cur = some (.place k src) → s.page? k = some p → s.pageRuns k = true → p.dyn.fifo src = i :: rest →
    (∀ q, src ≠ .ingress q) → i.isKind .cue = false → nextPlaces p src ≠ [] →
    let arrived : Option State := (nextPlaces p src).foldl (fun x q => x.bind (fun y => y.foldArrival k (some src) q i)) (some s)
    ((nextPlaces p src).all (fun q => p.dyn.takes q i) = true →
      (∀ u, arrived = some u → exec .tokenHop s =
        .next (u.modDyn k (fun d => (nextPlaces p src).foldl (fun d q => d.enter q i) (d.leave src)))) ∧
      (arrived = none → exec .tokenHop s = .next s) ∧
      ((∀ q ∈ nextPlaces p src, State.unordReducer p q = none) → arrived = some s)) ∧
    ((nextPlaces p src).all (fun q => p.dyn.takes q i) = false → exec .tokenHop s = .next s)) ∧
  (∀ (s : State) (k : PageKey) (q : Nat) (p c : Page) (i : Item) (rest : List Item),
    s.cur = some (.part k q) → s.page? k = some p → s.pageRuns k = true → p.dyn.fifo (.egress q) = i :: rest →
    let to_ : PageKey := { k with lpn := p.peer (16 + q) }
    let port := p.pport (16 + q)
    let u := s.modDyn k (fun d => d.pop (.egress q))
    to_ ≠ k → s.page? to_ = some c → c.fold = none → c.dyn.pend (.wing port) = 0 →
    (c.st = .resident → c.dyn.fifo (.wing port) = [] → c.dyn.takes (.ingress port) i = true →
      exec .egressLookup s = .next (((u.noteItem to_ i).getD u).modDyn to_ (fun d => d.enter (.ingress port) i))) ∧
    (c.st = .resident → c.dyn.fifo (.wing port) = [] → c.dyn.takes (.ingress port) i = false → exec .egressLookup s = .next s) ∧
    (c.st = .absent → i.weightless = false → u.wingRoom c port i = true →
      let v := u.modDyn to_ (fun d => (State.splitPacket d port i).enter (.wing port) i)
      exec .egressLookup s = .next ((if State.chunksOf (c.dyn.push (.wing port) i) ≤ State.chunksOf c.dyn then v else v.wingPoolNote to_.ctx).signal to_
        (if c.peer port = 0xFFF then 0 else u.regionByte { to_ with lpn := c.peer port })))) ∧
  (∀ (s : State) (k : PageKey) (n : Nat) (second : Bool) (p : Page) (t : Token) (ch : BitVec 6) (b : Nat) (h : Header) (c : CbEntry),
    s.cur = some (.place k (.out n second)) → s.page? k = some p → s.pageRuns k = true → (p.ecw n).route second = .chan ch →
    p.dyn.headTok (.out n second) = some t → s.listener? k ch.toNat = some (b, h, c) →
    (t.kind ≠ .cue → t.kind ≠ .census →
      ((s.cb k b c.handle).slots.length < 2 ^ c.slog → exec .listenArrival s =
        .next (((s.modCb k b c.handle (fun y => y.put (2 ^ c.slog) (State.slotOf c.wide t))).modDyn k (fun d => d.leave (.out n second))).noteChoice
          (0x6000 + s.regionByte k / 4) (s.regionByte k % 4))) ∧
      (2 ^ c.slog ≤ (s.cb k b c.handle).slots.length → exec .listenArrival s = .next s)) ∧
    (t.kind = .cue → t.pay = BitVec.ofNat 32 (s.ctx k.ctx).round → ((s.dyn k).actor b).cut = false →
      exec .cueMark s = .next ((s.modCb k b c.handle (fun y => { y with marks := y.marks ++ [(y.slots.length, t)] })).modDyn k
        (fun d => d.pop (.out n second))))) ∧
  (∀ (s : State) (k : PageKey) (b j : Nat) (p : Page) (h : Header) (c : CbEntry) (x : Slot) (rest : List Slot) (y : State),
    s.cur = some (.emitPort k b j) → s.page? k = some p → s.header? k b = some h → p.emitEntry? h j = some c → s.pageRuns k = true →
    c.wide = false → (∀ m ∈ (s.cb k b c.handle).marks, m.1 ≠ 0) → (s.cb k b c.handle).slots = x :: rest →
    s.sendRoute k c.dest { kind := x.kind, sc := x.sc, tag := x.tag, pay := (x.words[0]?).getD 0, dep := x.dep } = some y →
    exec .emitForward s = .next ((if x.kind = .data then y.countSend k b x.tag j else y).modCb k b c.handle (fun z =>
      { z with slots := z.slots.drop 1, rp := (z.rp + 1) % 2 ^ c.slog, marks := z.marks.map (fun m => (m.1 - 1, m.2)) }))) ∧
  (∀ (s : State) (k : PageKey) (t : Token) (port : Nat) (rest : List (Bool × Nat)),
    s.cur = some (.place k .reply) → s.pageRuns k = true → (s.dyn k).headTok .reply = some t → (s.dyn k).replies = (true, port) :: rest →
    (s.dyn k).takes (.ingress port) (.tok t) = true →
    exec .wingDrain s = .next (((s.noteItem k (.tok t)).getD s).modDyn k (fun d => { (d.pop .reply).enter (.ingress port) (.tok t) with replies := rest }))) ∧
  (∀ (s : State) (k : PageKey) (port : Nat), s.cur = some (.place k (.wing port)) → s.pageRuns k = true → (s.dyn k).fifo .reply ≠ [] →
    exec .wingDrain s = .next s) ∧
  (∀ (s : State) (k : PageKey) (port : Nat) (i : Item) (rest : List Item), s.cur = some (.place k (.wing port)) → s.pageRuns k = true →
    (s.dyn k).fifo .reply = [] → (s.dyn k).fifo (.wing port) = i :: rest →
    ((s.dyn k).takes (.ingress port) i = true → exec .wingDrain s =
      .next (((s.noteItem k i).getD s).modDyn k (fun d => (d.pop (.wing port)).enter (.ingress port) i))) ∧
    ((s.dyn k).takes (.ingress port) i = false → exec .wingDrain s = .next s)) ∧
  (∀ (s : State) (k : PageKey) (n : Nat) (q : QueueName) (p : Page) (t : Token), s.cur = some (.place k (.queue n q)) → s.page? k = some p →
    p.dyn.headTok (.queue n q) = some t → t.kind = .census → s.pageRuns k = true →
    (s.censusTakes k p (.elem n) t = true → exec .censusToken s = .next ((s.modDyn k (fun d => d.pop (.queue n q))).censusVisit k (.elem n) t)) ∧
    (s.censusTakes k p (.elem n) t = false → exec .censusToken s = .next s)) ∧
  (∀ (s : State) (c : Ctl), s.cur = some .device → s.ctl.find? (fun c => c.code == 0 || 0x0C < c.code) = some c →
    exec .unknownControlCode s = .next (({ s with ctl := s.ctl.erase c } : State).logEvent 0x10 0xC002 (c.code * 2 ^ 24 + c.operand)))

/-- R31, R131, R132, R135, R352: selection, completion and trap delivery. -/
def Obligations.FiringsAreSelectedAndComplete : Prop :=
  (∀ (s : State) (quad : Nat), s.cur = some (.unit quad) →
    let last (prio : Nat) : Nat := ((s.rr.find? (fun x => x.1 == quad && x.2.1 == prio)).map (fun x => x.2.2)).getD 255
    let far (prio ch : Nat) : Nat := (ch + 256 - (last prio + 1)) % 256
    (s.candidatesOf quad = [] → exec .actorSelect s = .next s) ∧
    let cs := (s.candidatesOf quad).filter (fun c => (s.replayInput (0x6000 + quad) c.1.ctx).all (fun x => x == c.2.2.2.2))
    (∀ k p b h ch, (k, p, b, h, ch) ∈ cs →
      (∀ c ∈ cs, c = (k, p, b, h, ch) ∨ c.2.2.2.1.prio < h.prio ∨
        (c.2.2.2.1.prio = h.prio ∧ far h.prio ch < far h.prio c.2.2.2.2)) →
      let rr := update (fun x => x.1 == quad && x.2.1 == h.prio) (fun _ => (quad, h.prio, ch)) (some (quad, h.prio, ch)) s.rr
      let s1 : State := (({ s with rr := rr } : State).decideBy (0x6000 + quad) k.ctx (s.ctx k.ctx).round ch).2
      let u := s1.modCtx k.ctx (fun x => if x.stepParty = some 0 then
        { x with stepParty := some (State.partyWord ((Party.actor k b 0).identity s)), stepOnly := true } else x)
      let tag := u.firingTag k p b h
      (u.tagSkew k p b h tag = false → exec .actorSelect s = .next ((u.touch k tag).modDyn k (fun d => d.modActor b (fun a =>
        { a with firing := some { tag := tag, serial := (lookup tag (p.dyn.actor b).serials).getD 0, slots := u.nextSlots k p b h tag },
                 nexts := a.nexts.filter (fun x => x.1 != tag) })))) ∧
      (u.tagSkew k p b h tag = true → exec .actorSelect s = .next (u.faultP 0x36 (.actor k b 0) tag 0 0)))) ∧
  (∀ (s : State) (k : PageKey) (b : Nat) (p : Page) (h : Header) (f : Firing), s.cur = some (.part k b) → s.page? k = some p →
    s.header? k b = some h → s.firing? k b = some f →
    let fits := (p.cbEntries h).all (fun c => if c.out then decide ((State.published p h f c).length ≤ s.freeSlots k b c)
      else decide (State.readAdvance p h f c ≤ (s.cb k b c.handle).visible.length))
    ((firingOver (insTable p h) f = false ∨ fits = false) → exec .firingComplete s = .next s) ∧
    (firingOver (insTable p h) f = true → fits = true → (p.dyn.actor b).stopped = false →
      let one (t : State) (c : CbEntry) : State :=
        if c.out then t.modCb k b c.handle (fun y => (State.published p h f c).foldl (fun y x => y.put (2 ^ c.slog) x) y)
        else t.modCb k b c.handle (fun y => y.drop (2 ^ c.slog) (State.readAdvance p h f c))
      let t := ((p.cbEntries h).foldl one s).modDyn k (fun d => d.modActor b (fun a =>
        let a1 : ActorState := { a with firing := none, serials := assign f.tag ((f.serial + 1) % 4096) a.serials }
        { a1 with spilled := a1.spilled.filter (fun x => (State.blockEntries p h b a1).contains x.1) }))
      exec .firingComplete s = .next
        ((({ t with seen := t.seen.filter (fun x => x.party != .actor k b 0) } : State).touch k f.tag).countStep (.actor k b 0) f.tag))) ∧
  (∀ (s : State) (part : Nat), s.cur = some (.unit part) → exec .matchOverflowProbe s = .next { s with pages := s.pages.map (fun p =>
    if p.key.ctx.part = part then
      { p with dyn := { p.dyn with
          actors := p.dyn.actors.map (fun a => { a with spilled := a.spilled.map (fun x => (x.1, true)) })
          elems := p.dyn.elems.map (fun a => { a with spilled := a.spilled.map (fun x => (x.1, true)) }) } }
    else p) }) ∧
  (∀ (s : State) (k : PageKey) (t : TrapMsg) (b : Nat) (h : Header) (c : CbEntry), s.cur = some (.page k) →
    s.traps.find? (fun t => t.page == k) = some t → s.listener? k 0x3F = some (b, h, c) →
    (2 ^ c.slog < (s.cb k b c.handle).slots.length + 4 → exec .trapDeliver s = .next s) ∧
    ((s.cb k b c.handle).slots.length + 4 ≤ 2 ^ c.slog →
      let put (x : State) (w : Word) : State := x.modCb k b c.handle (fun y => y.put (2 ^ c.slog)
        { kind := .data, sc := false, tag := t.tag, words := [w], dep := t.dep })
      let r := (s.ctx k.ctx).round + (if ((s.page? k).map Page.reported).getD false then 1 else 0)
      let u : State := ({ t.words.foldl put s with traps := s.traps.erase t } : State).modPage k (fun p =>
        { p with trapRounds := p.trapRounds ++ List.replicate t.words.length r })
      (t.accepts = false → exec .trapDeliver s = .next u) ∧
      (t.accepts = true → ∀ p, t.party = some p →
        let w := (p.identity s).toNat
        exec .trapDeliver s = .next (u.sendCtl
          { code := 0x09, tag := t.tag, page := some k, part := k.ctx.part, operand := bitsOf w 0 7 + bitsOf w 13 5 * 2 ^ 7 + bitsOf w 18 2 * 2 ^ 12 })))) ∧
  (∀ (s : State) (k : PageKey) (z : Ctl), s.cur = some .device → s.ctl.find? (fun c => c.code == 0x09) = some z → z.page = some k →
    let i := bitsOf z.operand 0 7
    let b := bitsOf z.operand 7 5
    let t : State := { s with ctl := s.ctl.erase z }
    let more (p : Party) : Bool := s.traps.any (fun x => x.accepts && x.party.map Party.whole == some p.whole)
    (bitsOf z.operand 12 2 = 0 → exec .trapAccept s = .next ((t.setTrap (.elem k i) (more (.elem k i))).modFiring k b (fun f => f))) ∧
    (bitsOf z.operand 12 2 = 2 → exec .trapAccept s = .next ((t.setTrap (.island k) (more (.island k))).modFiring k b (fun f => f))) ∧
    (bitsOf z.operand 12 2 = 1 → exec .trapAccept s = .next ((t.setTrap (.actor k b i) (more (.actor k b i))).modFiring k b
      (fun f => if f.waits.contains (i, .trap) then { f with waits := f.waits.erase (i, .trap) } else f))))

/-- R308, R309, R311, R313 to R317, R361: the course of rounds. -/
def Obligations.RoundsCloseCommitAndVoid : Prop :=
  ∀ (s : State) (c : CtxId), s.cur = some (.ctx c) →
    let x := s.ctx c
    let due := x.commitAt.toNat + bitsOf x.rtmr.toNat 0 7 * Config.cyclesPerMicrosecond
    (x.exist = true → x.close = none → x.wantClose = false → x.frozen = false → x.voided = none →
      (due ≤ s.cycle.toNat → exec .roundTimer s = .next (s.requestClose c 0)) ∧
      (s.cycle.toNat < due → exec .roundTimer s = .next s)) ∧
    (x.close = none → x.frozen = false → x.voided = none → x.voidFrom = none →
      (s.replayMark c = none → x.wantClose = true → exec .closeRequest s = .next (s.beginClose c)) ∧
      (∀ m, s.replayMark c = some m → s.marksReached c m = true → exec .closeRequest s = .next (s.beginClose c)) ∧
      (∀ m, s.replayMark c = some m → s.marksReached c m = false → exec .closeRequest s = .next s)) ∧
    (s.replayMark c = none → x.wantClose = false → exec .closeRequest s = .next s) ∧
    (x.close = none → exec .cutReport s = .next s) ∧
    (∀ cl, x.close = some cl →
      let t := ((s.pages.filter (fun p => p.key.ctx == c)).map Page.key).foldl (fun y k =>
        let y1 := y.injectLate k (State.cueTok cl.round)
        (if y1.pageRuns k && !((y1.page? k).map Page.reported).getD false then y1.cutUnfed k cl.round else y1).reportPage k cl.round)
        (s.takeReports c)
      ((∀ p ∈ t.pages, p.key.ctx = c → p.reported = true) → (∀ z ∈ t.ctl, z.code = 0x06 → z.ctx ≠ some c) →
        exec .cutReport s = .next (t.modCtx c (fun x => { x with close := some { cl with reported := true } }))) ∧
      ((∃ p ∈ t.pages, p.key.ctx = c ∧ p.reported = false) → exec .cutReport s = .next t)) ∧
    (∀ cl, x.close = some cl →
      let t := s.takeTokens c 0x07
      let n := (s.roundRecords c cl.round).length
      let full := x.undo.on && x.undo.stall && !x.undo.windows.isEmpty && x.undo.full n
      ((cl.reported = false ∨ x.dbg = .stopped ∨ ∃ v, x.voidFrom = some v ∧ v ≤ cl.round) → exec .commit s = .next t) ∧
      (cl.reported = true → (∀ v, x.voidFrom = some v → cl.round < v) → x.dbg ≠ .stopped →
        (∀ f, t.logHeld c n = some f → exec .commit s = .next (t.waitOn c.part f)) ∧
        (t.logHeld c n = none →
          (full = false → exec .commit s = .next (t.commitRound c cl.round)) ∧
          (full = true →
            (x.stalled = true → exec .commit s = .next t) ∧
            (x.stalled = false → exec .commit s = .next ((t.modCtx c (fun y => { y with stalled := true })).tellDebug c 0x30
              (BitVec.ofNat 64 ((x.undo.windows.head?.map UndoWindow.num).getD 0))
              (BitVec.ofNat 64 ((x.undo.window?.map UndoWindow.num).getD 0)))))))) ∧
    (∀ v, x.voidFrom = some v →
      let t := s.takeTokens c 0x08
      ((∀ cl, x.close = some cl → v ≤ cl.round) →
        ((s.firingWork c = none ∨ s.firingWork c = x.voidSeen) → exec .void s = .next (t.voidRounds c v)) ∧
        (s.firingWork c ≠ none → s.firingWork c ≠ x.voidSeen →
          exec .void s = .next (t.modCtx c (fun y => { y with voidSeen := s.firingWork c })))) ∧
      (∀ cl, x.close = some cl → cl.round < v → exec .void s = .next t)) ∧
    (x.voidFrom = none → x.voided ≠ none → (s.takeTokens c 0x08).voidsPending c = false →
      exec .void s = .next ((s.takeTokens c 0x08).modCtx c (fun y => { y with voided := none }))) ∧
    (∀ z, s.ctl.find? (fun z => z.code == 0x0B && z.ctx == some c) = some z → x.frozen = false →
      exec .freeze s = .next (({ s with ctl := s.ctl.erase z } : State).freezeCtx c x.frozenCause))

/-- R294, R295, R325, R334: arbitration, responses, walks and drains. -/
def Obligations.HomesServeInOrder : Prop :=
  (∀ (s : State) (h : Home) (n : Nat), s.cur = some (.home h n) →
    let u := (s.letIn h n).joinClose h
    let ready := (u.readyHeads h).filter (u.replayLets h)
    let take (v : State) (r : Req) : State := (if r.phase = .held then v else (v.decideBy (State.arbOf h) r.ctx r.round r.port).2).performReq r
    (∀ r ∈ u.reqs, r.home = h → r.phase = .queued → u.undoStalls r = false) →
    (u.readyHeads h = [] → exec .homeArbitrate s = .next u) ∧
    (∀ r, ready.filter (fun q => q.entered == r.entered) = [r] → (∀ q ∈ ready, r.entered.toNat ≤ q.entered.toNat) →
      exec .homeArbitrate s = .next (take u r)) ∧
    (∀ r q l, ready.filter (fun x => x.entered == r.entered) = r :: q :: l → (∀ q ∈ ready, r.entered.toNat ≤ q.entered.toNat) →
      let z := u.choose (l.length + 2)
      exec .homeArbitrate s = .next (take z.2 (((r :: q :: l)[z.1]?).getD r)))) ∧
  (∀ (s : State) (k : PageKey) (n : Nat) (p : Page) (r : Req), s.cur = some (.party (.elem k n)) → s.page? k = some p →
    s.reqs.find? (fun r => r.issuer == .elem k n && r.phase != .given) = some r → s.atHead r = true → r.closing = none →
    let v : Val := { v := r.value.setWidth 32, sc := r.sc, dep := r.dep }
    ((r.phase ≠ .done ∨ (s.dyn k).outFree n (p.ecw n) = false) → exec .accessResponse s = .next s) ∧
    (r.phase = .done → (s.dyn k).outFree n (p.ecw n) = true → exec .accessResponse s =
      .next ((if r.keep then (s.deliverDone r).sendBoth k n (p.ecw n) (v.token r.tag) else s.deliverDone r).raiseFlags
        (State.flagsOfBits r.flags) (.elem k n) r.tag v.v))) ∧
  (∀ (s : State) (k : PageKey) (n : Nat) (p : Page) (r : Req) (t : Token), s.cur = some (.party (.elem k n)) → s.page? k = some p →
    s.reqs.find? (fun r => r.issuer == .elem k n && r.phase != .given) = some r → s.atHead r = true → r.closing = some t →
    ((s.dyn k).outFree n (p.ecw n) = false → exec .accessResponse s = .next s) ∧
    ((s.dyn k).outFree n (p.ecw n) = true →
      (t.kind = .strike → exec .accessResponse s = .next ((s.deliverDone r).sendBoth k n (p.ecw n) t)) ∧
      (t.kind = .eor → exec .accessResponse s = .next ((s.deliverDone r).modDyn k (fun d => d.forward n (p.ecw n) t))) ∧
      (t.kind = .eos → exec .accessResponse s = .next ((s.deliverDone r).forwardEnd k n (p.ecw n) t)))) ∧
  (∀ (s : State) (id : Nat) (w : Walk), s.cur = some (.unit id) → s.walks.find? (fun w => w.id == id) = some w →
    let rest : State := { s with walks := s.walks.filter (fun x => x.id != id) }
    (∀ w', s.walkStep w = .more w' →
      exec .tlbWalkStep s = .next { s.cacheTable w with walks := update (fun x => x.id == id) (fun _ => w') none s.walks }) ∧
    (∀ x, s.walkStep w = .done x → permFault w.use x = none →
      let u := if w.cached then (rest.cacheTable w).tlbFill w.mse w.ctx w.va x else rest
      exec .tlbWalkStep s = .next (u.enterHome id x.space (u.backedFor id w.mse x.space x.pa))) ∧
    (∀ f, ((s.walkStep w = .fault f ∧ f.pull = none) ∨ ∃ x, s.walkStep w = .done x ∧ permFault w.use x = some f) → s.faultHeld w.mse w.ctx f.stage2 w.va = false →
      exec .tlbWalkStep s = .next ((rest.dropReq id).xlFault w.ctx w.va w.use f w.mse w.tag w.round w.window))) ∧
  (∀ (s : State) (id m : Nat) (v : Inval), s.cur = some (.units id m) → s.invals.find? (fun v => v.id == id) = some v →
    v.pending.contains m = true → m < 24 →
    ((s.invals.takeWhile (fun x => x.id != id)).filter (fun x => x.part == v.part)).length < 8 → v.publish = false →
    s.walks.any (fun w => w.mse == m && decide (w.id < id) && State.invalHits v w.ctx) = false →
    s.reqs.any (fun r => r.phase == .translating m && decide (r.id < id) && State.invalHits v r.ctx) = false →
    let v' : Inval := { v with drains := v.drains.filter (fun d => d.1 != m) }
    let u : State := { s with
      tlb := s.tlb.filter (fun e => !(e.mse == m && State.invalDrops v e))
      walkCache := s.walkCache.filter (fun e => !(e.mse == m && State.cacheDrops v e))
      walks := s.walks.map (fun w => if w.mse = m ∧ State.invalHits v w.ctx then { w with cached := false } else w)
      invals := update (fun x => x.id == id) (fun _ => v') none s.invals }
    (v'.pending ≠ [] → exec .drainAck s = .next u) ∧ (v'.pending = [] → exec .drainAck s = .next (u.invalDone v')))

/-- R294, R306, R311, R337: the frame of a write-back. -/
def Obligations.WriteBackStoresItsEntryAlone : Prop :=
  ∀ (s : State) (h : Home) (n : Nat) (w : HomeWrite), MemOk s → s.cur = some (.home h n) →
    s.homeWrites.find? (fun w => w.committed && w.home == h) = some w →
    s.windowHolds w.space w.addr w.bytes.length = false →
    let len := w.bytes.length
    let twin : Option Nat := if w.space = .dram then (s.twinOf (s.frameOf .dram w.addr)).map (fun f => f * 4096 + w.addr % 4096) else none
    ∃ t : State, exec .writeBack s = .next (t.noteChoice (State.arbOf h) 4) ∧ t.homeWrites = s.homeWrites.erase w ∧
      (∀ b, twin = some b → ∀ a, b ≤ a → a < b + len → Memory.read (t.mem w.space) a = (w.bytes[a - b]?).getD 0) ∧
      (∀ a, (∀ b, twin = some b → a < b ∨ b + len ≤ a) → Memory.read (t.mem w.space) a =
        if w.addr ≤ a ∧ a < w.addr + len then (w.bytes[a - w.addr]?).getD 0 else Memory.read (s.mem w.space) a) ∧
      (∀ sp, sp ≠ w.space → t.mem sp = s.mem sp) ∧
      t = { s with sram := t.sram, dram := t.dram, hostMem := t.hostMem, homeWrites := t.homeWrites }

/-- R166 to R168, R281: generators. -/
def Obligations.GeneratorsServeTheirFrames : Prop :=
  ∀ (s : State) (k : PageKey) (n : Nat), s.cur = some (.part k n) → s.pageRuns k = true →
    let d := s.nodeDesc k n
    (∀ t, (s.dyn k).headTok (.node n 1) = some t →
      (t.kind = .data → exec .generatorStart s = .next ((s.takePort k n 1 t).startGen k n t.tag t.pay.toNat none t.dep)) ∧
      (t.kind ≠ .data → t.kind ≠ .census → exec .generatorStart s = .next (s.takePort k n 1 t))) ∧
    (∀ t, (s.dyn k).headTok (.node n 2) = some t → t.kind = .data → (s.gen? k n t.tag).isSome = true →
      exec .generatorStop s = .next ((s.takePort k n 2 t).modGen k n t.tag (fun g => { g with last := true, eor := none, after := g.after.join t.dep }))) ∧
    (d.ndim ≠ 0 → d.isWrite = true →
      (∀ t rest g u, (s.dyn k).fifo (.node n 0) = .tok t :: rest → t.kind = .data → s.gen? k n t.tag = some g → s.genRuns k n g = true →
        d.esize ≠ 64 → s.storeNext k n d g (bytesOfWord d.esize t.pay.toNat) t.dep = .ok u →
        exec .writeNodeData s = .next (u.modDyn k (fun x => x.pop (.node n 0)))) ∧
      (∀ g u, s.writeEosDue k n = some g → s.genRuns k n g = true →
        s.sendRoute k d.outRoute { kind := .eos, tag := g.tag, pay := BitVec.ofNat 32 g.sent, dep := g.after } = some u →
        exec .writeNodeEos s = .next ((u.modGen k n g.tag (fun x => { x with done := true })).touch k g.tag)) ∧
      (∀ t rest g, s.writeEosDue k n = none → (s.dyn k).fifo (.node n 0) = .tok t :: rest → t.kind = .eos →
        ((s.dyn k).node n).gens.find? (fun g => g.tag == t.tag) = some g → g.done = false →
        exec .writeNodeEos s = .next ((s.modDyn k (fun x => x.pop (.node n 0))).modGen k n t.tag
          (fun x => { x with last := true, after := x.after.join t.dep })))) ∧
    (d.ndim ≠ 0 → d.isWrite = false → ((s.dyn k).node n).cue = none →
      ∀ g, ((s.dyn k).node n).gens.find? (fun g => !g.done) = some g → s.genRuns k n g = true → s.genHeld k n g = false →
        (∀ l u, g.eor = some l → s.sendRoute k d.outRoute { kind := .eor, tag := g.tag, pay := BitVec.ofNat 32 l, dep := g.after } = some u →
          exec .generatorEmit s = .next ((u.modGen k n g.tag (fun x => { x with eor := none })).touch k g.tag)) ∧
        (g.eor = none → (g.last = true ∨ d.total < g.k + d.perEmission) →
          ∀ u, s.sendRoute k d.outRoute { kind := .eos, tag := g.tag, pay := BitVec.ofNat 32 g.sent, dep := g.after } = some u →
            exec .generatorEmit s = .next ((u.modGen k n g.tag (fun x => { x with done := true })).touch k g.tag)) ∧
        (g.eor = none → g.last = false → g.k + d.perEmission ≤ d.total →
          (d.nkind ≠ 1 → g.returned ≤ (g.k + d.perEmission - 1) / max 1 d.winsz → exec .generatorEmit s = .next s) ∧
          ((d.nkind = 1 ∨ (g.k + d.perEmission - 1) / max 1 d.winsz < g.returned) →
            let idx := (List.range d.perEmission).map (· + g.k)
            ∀ rows dep t u, s.readPositions k n d g idx = .ok (rows, dep, t) → t.emitElement k d g dep rows = some u →
              exec .generatorEmit s = .next (((u.addNodeDep k n g.tag (s.roundOf k.ctx (s.behindCut (.node k n))) dep).modGen k n g.tag (fun x =>
                { x with k := x.k + d.perEmission, sent := x.sent + 1, after := x.after.join dep
                         eor := idx.foldl (fun m i => maxLevel m (wrapLevel d.eormask 0 d.used i)) none })).touch k g.tag)))) ∧
    (d.ndim ≠ 0 → d.isWrite = false → d.nkind ≠ 1 → ∀ g, ((s.dyn k).node n).gens.find? (fun g => !g.done) = some g →
      let wsz := max 1 d.winsz
      let goal := min ((d.total + wsz - 1) / wsz) ((g.k + d.perEmission - 1) / wsz + d.wincnt)
      (g.returned < goal → exec .windowReturn s = .next (s.modGen k n g.tag (fun x => { x with requested := goal, returned := x.returned + 1 }))) ∧
      (goal ≤ g.returned → exec .windowReturn s = .next s))

/-- R188, R189, R194, R212, R274, R275: sections. -/
def Obligations.IslandSectionsRun : Prop :=
  (∀ (s : State) (k : PageKey) (p : Page), s.cur = some (.page k) → s.page? k = some p → s.pageRuns k = true →
    let x := p.dyn.island
    let token (z : Ctl) : Bool := z.code == 0x02 && z.page == some k
    (s.ctl.find? token = none → x.phase ≠ .idle → exec .arm s = .next s) ∧
    (∀ tag, p.hasIsland = true → x.phase = .idle → x.stopped = false → x.trap = false → s.armHeld k p = false →
      (x.cut = true ∨ State.islandCue p = none) →
      (s.ctl.find? token = none → s.armTag k p = some tag → s.dbgAllows k.ctx ((Party.island k).identity s) tag = true →
        s.stepAllows k.ctx p.islandHeader.step = true → State.tileCount p < 2 ^ 24 →
        exec .arm s = .next (s.sendCtl { code := 0x02, tag := tag, operand := State.tileCount p, ctx := some k.ctx, page := some k, part := k.ctx.part })) ∧
      (∀ z, s.ctl.find? token = some z →
        let u : State := { s with ctl := s.ctl.erase z }
        z.tag = tag → z.operand < 2 ^ 24 → u.pageRuns k = true → u.armHeld k p = false → u.armTag k p = some tag →
        u.dbgAllows k.ctx ((Party.island k).identity u) tag = true → u.stepAllows k.ctx p.islandHeader.step = true →
        exec .arm s = .next ((u.noteChoice (0x8000 + u.regionByte k) 0).setIsland k { IslandState.empty with
          phase := if z.operand = 0 then .ending else .running, tag := tag, tiles := z.operand, s := State.armedRegs p
          armq := if p.lanes.any (fun l => !l.out) then x.armq else x.armq.tail
          armSeen := x.armSeen, cueDue := x.cueDue, census := x.census, cut := x.cut }))) ∧
    (x.phase = .running → p.islandHeader.nins ≤ x.pc → x.stopped = false → x.trap = false →
      (x.tiles ≤ 1 → exec .passEnd s = .next (s.setIsland k { x with tiles := 0, phase := .ending })) ∧
      (1 < x.tiles → exec .passEnd s = .next (s.setIsland k { x with tiles := x.tiles - 1, pc := 0, loops := [] }))) ∧
    (x.phase = .running → x.pc < p.islandHeader.nins → exec .passEnd s = .next s) ∧
    (x.phase = .ending → x.stopped = false → x.trap = false →
      (∀ lane i, (State.fedLanes p).find? (fun l => !x.eosTaken.contains l) = some lane → (s.laneHead k lane).1 = some i →
        i.tag? = some x.tag → i.isKind .eos = true →
        let t := (s.laneHead k lane).2.modDyn k (fun d => d.pop (.laneIn lane))
        exec .sectionEnd s = .next (t.setIsland k { (t.dyn k).island with eosTaken := x.eosTaken ++ [lane] })) ∧
      ((State.fedLanes p).find? (fun l => !x.eosTaken.contains l) = none →
        let outs := (p.lanes.filter LaneEntry.out).map LaneEntry.lane
        outs.all (fun l => decide (p.dyn.used (.laneOut l) < Place.cap (.laneOut l))) = true →
        exec .sectionEnd s = .next ((s.modDyn k (fun d => outs.foldl (fun y l => y.push (.laneOut l)
          (.tok { kind := .eos, tag := x.tag, pay := BitVec.ofNat 32 (x.count l), dep := x.sync })) { d with island := { x with phase := .reported } })).sendCtl
            { code := 0x03, tag := x.tag, operand := s.regionByte k % 64, page := some k, part := k.ctx.part }))) ∧
    (∀ t, p.hasIsland = true → x.cut = false → State.islandCue p = some t →
      let r := (s.ctx k.ctx).round + 1
      let ins := (p.lanes.filter (fun l => !l.out)).map LaneEntry.lane
      let outs := (p.lanes.filter LaneEntry.out).map LaneEntry.lane
      exec .islandCut s = .next (s.modPage k (fun q =>
        let kept := ins.foldl (fun d l => d.setFifo (.laneIn l) (State.aheadOfCue (q.dyn.fifo (.laneIn l)))) ((lookup r q.cuts).getD PageDyn.empty)
        let rest := ins.foldl (fun d l => d.setFifo (.laneIn l) (State.withoutCues (d.fifo (.laneIn l)))) q.dyn
        { q with
          dyn := { outs.foldl (fun d l => d.push (.laneOut l) (.tok t)) rest with island := { x with cut := true, cueDue := none } }
          cuts := assign r { kept with island := { x with cut := false, cueDue := none } } q.cuts }))) ∧
    ((x.cut = true ∨ State.islandCue p = none) → exec .islandCut s = .next s)) ∧
  (∀ (s : State) (k : PageKey) (z : Ctl), s.cur = some .device → s.ctl.find? (fun c => c.code == 0x03) = some z → z.page = some k →
    exec .sectionDone s = .next (({ s with ctl := s.ctl.erase z } : State).modDyn k (fun d =>
      if d.island.phase = .reported ∧ d.island.tag = z.tag then { d with island := { d.island with phase := .idle } } else d)))

/-- R253 to R264: the residency of pages. -/
def Obligations.PagesLoadAndLeave : Prop :=
  (∀ (s : State) (part : Nat) (k : PageKey) (rest : List PageKey), s.cur = some (.unit part) →
    (s.part part).signals ++ (s.part part).asked.map Prod.fst = k :: rest →
    let u := s.modPart part (fun p => { p with signals := p.signals.drop 1, asked := if p.signals.isEmpty then p.asked.drop 1 else p.asked })
    let l := if (s.part part).signals.isEmpty then u.logEvent 0x17 0xC001 (k.lpn + 2 ^ 20) else u
    let v := ({ l with ctl := l.ctl.filter (fun c => !(c.code == 0x04 && c.page == some k)) } : State).noteChoice 0xC001 (l.regionByte k)
    let listed := (v.modPage k (fun x => { x with signalled := true })).makePending k
    (∀ p, v.page? k = some p → (p.st = .absent ∨ p.st = .pending) → exec .pageSignal s = .next (listed.chooseFor k)) ∧
    (∀ p, v.page? k = some p → p.st = .stopping → exec .pageSignal s = .next listed) ∧
    (∀ p, v.page? k = some p → p.st ≠ .absent → p.st ≠ .pending → p.st ≠ .stopping → exec .pageSignal s = .next v)) ∧
  (∀ (s : State) (part : Nat), s.cur = some (.unit part) →
    let ready := (s.part part).pending.filter (fun k => s.nextPending k.ctx == some k)
    let below (f : CtxId → Nat) (k : PageKey) : Bool := decide (s.regionCount k.ctx < f k.ctx) && s.ctxServed k.ctx
    let chosen := (s.leastPass (ready.filter (below s.quotaMin))).orElse (fun _ => ready.find? (below s.quotaMax))
    (∀ k p l, chosen = some k → s.page? k = some p → s.bestRegion p = some l → exec .regionAssign s = .next (s.assignRegion k l)) ∧
    (∀ k p, chosen = some k → s.page? k = some p → s.bestRegion p = none → exec .regionAssign s = .next s) ∧
    (chosen = none → exec .regionAssign s = .next s)) ∧
  (∀ (s : State) (k : PageKey) (p : Page), s.cur = some (.page k) → s.page? k = some p → p.st = .loading → (s.ctx k.ctx).frozen = false →
    let die := p.region.getD 0 / 32
    let lpn := imgNat p.image 2 2
    let hit := s.dev.configCache.any (State.isImage die k.ctx.part k.graph lpn)
    (∀ img, (if hit then .ok p.image else s.fetchImage p) = .ok img → hit = true ∨ pageCrcOk img = true →
      exec .pageLoadDone s = .next (((s.modPage k (fun x => { x with
          st := if x.fold.isSome then .folded else .resident
          since := s.cycle, crcTried := false, frames := [], image := img
          dyn := { x.dyn with
            args := s.boundArgs k.ctx k.graph img
            argsNext := s.boundNext k.ctx k.graph img
            nodes := x.dyn.nodes.map (fun n => { n with gens := n.gens.map (rewindow ({ x with image := img }.desc n.node)) }) } })).cacheImage die k.ctx.part k.graph lpn false).logEvent 0x17 0xC001 k.lpn)) ∧
    (∀ img, hit = false → s.fetchImage p = .ok img → pageCrcOk img = false → p.crcTried = false →
      exec .pageLoadDone s = .next (s.modPage k (fun x => { x with crcTried := true }))) ∧
    (∀ img, hit = false → s.fetchImage p = .ok img → pageCrcOk img = false → p.crcTried = true →
      exec .pageLoadDone s = .next ((s.modPage k (fun x => { x with st := .absent, region := none, crcTried := false })).post (State.guestRing k.ctx)
        { cause := 0x00, info0 := BitVec.ofNat 64 k.lpn, info1 := k.graph.setWidth 64, ctxid := State.ctxWord k.ctx,
          round := (s.ctx k.ctx).round % 2 ^ 32, ctx := some k.ctx })) ∧
    (∀ f va g, hit = false → s.fetchImage p = .error (f, va) → s.graph? k.ctx.part k.graph = some g →
      exec .pageLoadDone s = .next (s.deviceFault g.owner va .config f))) ∧
  (∀ (s : State) (k : PageKey) (p : Page), s.cur = some (.page k) → s.page? k = some p → p.st = .stopping →
    (State.settled p = true → (s.ctx k.ctx).frozen = false → exec .evictionSave s = .next (s.finishEviction k)) ∧
    (State.settled p = false ∨ (s.ctx k.ctx).frozen = true → exec .evictionSave s = .next s)) ∧
  (∀ (s : State) (p : Page), p.fold = none → s.page? p.key = some p → (s.framePool p.key.ctx.part (State.pageDie p)).length < Config.snapshotFrames (State.stored p.dyn) →
    ((s.evict p).page? p.key).map Page.st = some p.st) ∧
  (∀ (s : State) (l : Nat) (p : Page) (f : FoldInfo), s.cur = some (.unit l) → p.fold = some f →
    s.pages.find? (fun p => p.region == some l && (match p.fold with
        | some f => f.running == p.key.lpn
        | none => false)) = some p →
    let next := ((f.members[f.members.idxOf f.running + 1]?).getD (f.members.headD f.running))
    (s.turnOver p = true → State.settled p = true → exec .foldTurnEnd s = .next
      (f.members.foldl (fun t m => t.modPage { p.key with lpn := m } (fun x => { x with fold := some { f with running := next, since := s.cycle } })) s)) ∧
    (s.turnOver p = false ∨ State.settled p = false → exec .foldTurnEnd s = .next s)) ∧
  (∀ (s : State) (part : Nat), s.cur = some (.unit part) →
    exec .savePoolWaitEnd s = .next (s.modPart part (fun p => { p with saveWaits := p.saveWaits.filter (fun w => s.saveStands w.1) }))) ∧
  (∀ (s : State) (k : PageKey) (p : Page), s.cur = some (.page k) → s.page? k = some p → p.evict = none → s.eligible p = true →
    ((∃ l, p.region = some l ∧ s.scans.any (fun x => x.phase == 0 && x.held.contains l) = true) → exec .pageBecomesEligible s = .next (s.evict p)) ∧
    ((∀ l, p.region = some l → s.scans.any (fun x => x.phase == 0 && x.held.contains l) = false) →
      (∀ v, s.quotaMax k.ctx < s.regionCount k.ctx → s.stoppingOf k.ctx = 0 →
        s.victim (s.pages.filter (fun q => q.key.ctx == k.ctx && s.eligible q)) = some v →
        exec .pageBecomesEligible s = .next (s.evict v)) ∧
      (∀ q, (s.regionCount k.ctx ≤ s.quotaMax k.ctx ∨ s.stoppingOf k.ctx ≠ 0) → s.nextPending k.ctx = some q →
        exec .pageBecomesEligible s = .next (s.chooseFor q)) ∧
      ((s.regionCount k.ctx ≤ s.quotaMax k.ctx ∨ s.stoppingOf k.ctx ≠ 0) → s.nextPending k.ctx = none → exec .pageBecomesEligible s = .next s)))

/-- R371 to R391, R403 to R407, R414: frames, their walkers and their infill. -/
def Obligations.FramesAreWalkedAndInfilled : Prop :=
  (∀ (s : State) (k : FrameKey) (f : Frame), s.cur = some (.frame k) → s.frame? k = some f → f.walk = .running → s.frameFree f = true →
    (s.walkHeld f = true → exec .walkerEmit s = .next s) ∧ (s.walkHeld f = false →
    let p := s.planeOf f
    let skips := f.kind != 0 && p.skipped f.pos
    (∀ d t, f.eor = some d → s.deliverAll ((s.walkPorts f).map (fun e => (e.1, e.2.1, State.walkTok f .eor d))) = some t →
      exec .walkerEmit s = .next (t.modFrame f.key (fun x => { x with eor := none }))) ∧
    (f.eor = none → f.pos < f.lrec.limit → (skips = false ∨ p.audited f.skip = true) →
      (∀ t, s.emitId f f.pos = some t → exec .walkerEmit s = .next (t.modFrame f.key (fun x =>
        { x with pos := f.pos + 1, sent := f.sent + 1, skip := f.skip + (if skips then 1 else 0), eor := f.lrec.wraps f.pos }))) ∧
      (s.emitId f f.pos = none → exec .walkerEmit s = .next s)) ∧
    (f.eor = none → f.pos < f.lrec.limit → skips = true → p.audited f.skip = false →
      exec .walkerEmit s = .next (s.modFrame f.key (fun x =>
        { x with pos := f.pos + 1, sent := f.sent, skip := f.skip + 1, eor := f.lrec.wraps f.pos }))) ∧
    (f.eor = none → f.lrec.limit ≤ f.pos → ∀ t,
      s.deliverAll ((s.walkPorts f).map (fun e =>
        (e.1, e.2.1, State.walkTok f .eos (f.sent * ((if e.2.2.1 then 1 else 0) + (if e.2.2.2 then 1 else 0)))))) = some t →
      exec .walkerEmit s = .next (t.modFrame f.key (fun x => { x with walk := .done }))))) ∧
  (∀ (s : State) (k : FrameKey) (f : Frame), s.cur = some (.frame k) → s.frame? k = some f →
    (∀ r, f.walk = .waitClose r →
      ((s.ctx f.ctx).round ≤ r → exec .walkerEmit s = .next s) ∧
      (r < (s.ctx f.ctx).round → f.placer = true → exec .walkerEmit s = .next (s.modFrame k (fun x => { x with walk := .placing }))) ∧
      (r < (s.ctx f.ctx).round → f.placer = false → exec .walkerEmit s = .next (s.startWalk f))) ∧
    (f.walk = .placing →
      ((s.ctx f.ctx).placed.contains f.graph = true → exec .walkerEmit s = .next (s.startWalk f)) ∧
      ((s.ctx f.ctx).placed.contains f.graph = false → exec .walkerEmit s = .next s)) ∧
    (∀ vs, f.walk = .loadingArgs → f.argBlock = some vs →
      let u := s.modGraph k.part f.graph (fun g => { g with args := vs.zipIdx.foldl (fun (l : List (Nat × DWord)) v => assign v.2 v.1 l) g.args })
      exec .argBlockLoad s = .next ((u.requestClose f.ctx 5).modFrame k (fun x => { x with walk := .waitClose (s.nextClose f.ctx), argBlock := none })))) ∧
  (∀ (s : State) (c : CtxId) (gid : Word) (g : Graph), s.cur = some (.graph c gid) → (s.ctx c).placed.contains gid = false →
    (∀ ids, lookup gid (s.ctx c).placing = some ids →
      (s.invals.any (fun v => ids.contains v.id) = false → exec .placement s = .next (s.modCtx c (fun y =>
        { y with placing := y.placing.filter (fun p => p.1 != gid), placed := y.placed ++ [gid] }))) ∧
      (s.invals.any (fun v => ids.contains v.id) = true → exec .placement s = .next s)) ∧
    (lookup gid (s.ctx c).placing = none → s.graph? c.part gid = some g →
      s.frames.any (fun f => f.ctx == c && f.graph == gid && f.walk == .placing) = true → exec .placement s = .next (s.placeGraph c g))) ∧
  (∀ (s : State) (z : Ctl) (t : State) (f : Frame), s.cur = some .device → s.takeCtl 0x0C = some (z, t) → t.frame? ⟨z.part, z.tag⟩ = some f →
    let f1 : Frame := { f with sinks := if f.sinks.contains z.operand then f.sinks else f.sinks ++ [z.operand] }
    ((f.infill.order.isSome = true ∨ t.allCounted f1 = false) → exec .sinkCounted s = .next (t.modFrame f.key (fun _ => f1))) ∧
    (f.infill.order = none → t.allCounted f1 = true → exec .sinkCounted s =
      .next (t.fresh.2.modFrame f.key (fun _ => { f1 with infill := { f1.infill with order := some t.fresh.1 } })))) ∧
  (∀ (s : State) (k : FrameKey) (f : Frame), s.cur = some (.frame k) → s.frame? k = some f → s.frameFree f = true →
    (f.phaseOf = .live → s.allCounted f = true → (f.infills = true → f.infill.done = true) → s.sectionArmed f = false → s.storeFull = false → exec .frameComplete s =
      .next ((s.modFrame k (fun x => { x with phaseOf := .census })).beginCensus k.part k.tag (some k) none).2) ∧
    (f.phaseOf = .live → (s.allCounted f = false ∨ (f.infills = true ∧ f.infill.done = false) ∨ s.sectionArmed f = true ∨ s.storeFull = true) → exec .frameComplete s = .next s) ∧
    (∀ z q v u, f.phaseOf = .census → s.censuses.find? (fun z => z.frame == some k) = some z → s.censusNext z.seq = (q, some v, u) →
      exec .frameComplete s = .next (u.censusAnswer f v)) ∧
    (∀ z q u, f.phaseOf = .census → s.censuses.find? (fun z => z.frame == some k) = some z → s.censusNext z.seq = (q, none, u) →
      exec .frameComplete s = .next u)) ∧
  (∀ s : State, s.cur = some .device → exec .frameComplete s = .next s.giveCallReplies) ∧
  (∀ (s : State) (k : FrameKey) (f : Frame) (g : Graph), s.cur = some (.frame k) → s.frame? k = some f → s.graph? k.part f.graph = some g →
    let ps := s.phasePages f g f.phase
    f.phase < g.phaseStarts.length → s.frameFree f = true → s.phaseOver f ps = true →
    let mine (z : Ctl) : Bool := z.code == 0x0A && z.ctx == some f.ctx && z.tag == k.tag
    let t : State := { s with ctl := s.ctl.filter (fun z => !mine z) }
    (s.ctl.any mine = false → exec .phaseRelease s =
      .next (s.sendCtl { code := 0x0A, tag := k.tag, operand := (f.phase + 1) % 16, ctx := some f.ctx, part := k.part })) ∧
    (s.ctl.any mine = true → s.holdAsked f.ctx = true → exec .phaseRelease s = .next (t.modFrame k (fun x => { x with held := true }))) ∧
    (s.ctl.any mine = true → s.holdAsked f.ctx = false → ((t.releasePhase f g ps).frame? k).map Frame.phase ≠ some f.phase →
      exec .phaseRelease s = .next (t.releasePhase f g ps)) ∧
    (s.ctl.any mine = true → s.holdAsked f.ctx = false → ((t.releasePhase f g ps).frame? k).map Frame.phase = some f.phase →
      exec .phaseRelease s = .next s)) ∧
  (∀ (s : State) (k : FrameKey) (f : Frame), s.cur = some (.frame k) → s.frame? k = some f → s.frameFree f = true →
    (∀ r, f.infill.waitRound = some r → r < (s.ctx f.ctx).round →
      exec .infillStart s = .next (s.modInfill k (fun i => { i with active := true, waitRound := none }))) ∧
    (f.infill.waitRound = none → s.infillWants f = true → f.infill.active = false → s.infillTurn f = true → exec .infillStart s =
      .next ((s.modInfill k (fun i => { i with waitRound := some (s.nextClose f.ctx), last := s.allCounted f && f.infill.asked == 0 })).requestClose f.ctx 2)) ∧
    (s.pageRuns (State.infillPage f) = true → exec .infillPoint s = .next (s.infillSteps k 4)) ∧
    (s.pageRuns (State.infillPage f) = false → exec .infillPoint s = .next s) ∧
    (f.infill.due = true →
      let i := f.infill
      let past (t : State) (n : Nat) : State := t.modFrame k (fun x => { x with
        updates := n
        infill := { i with due := false, sd := 0, sc := 0, n := 0, updates := i.updates + 1, asked := i.asked - 1, done := i.last } })
      (i.updates < f.updates → exec .coverageUpdate s = .next (past s f.updates)) ∧
      (f.updates ≤ i.updates → (i.n = 0 ∨ sumZero f.lrec.kernel i.sc = true) → exec .coverageUpdate s = .next (past s (f.updates + 1))) ∧
      (f.updates ≤ i.updates → i.n ≠ 0 → sumZero f.lrec.kernel i.sc = false →
        exec .coverageUpdate s = .next (past (s.modCtx f.ctx (fun x => { x with covers := x.covers.map (fun v =>
          if v.graph = f.graph then v.update x (s.coverBound f.ctx f.graph) (metricOf f.lrec.kernel i.n i.sd i.sc) else v) })) (f.updates + 1))))) ∧
  (∀ (s : State) (c : CtxId) (v : DWord), s.cur = some (.ctxWrite c v) →
    exec .covgstatWrite s = .next (s.modCtx c (fun x => { x with covers := x.covers.map (fun z => if z.graph = (s.ctx c).covGsel
      then { z with below := 0, level := min (bitsOf v.toNat 0 4) (s.coverBound c (s.ctx c).covGsel) } else z) })))

/-- R398, R406, R409 to R411, R415 to R418: queues, the distributor, slices and guest commands. -/
def Obligations.QueuesAndSlicesAreServed : Prop :=
  (∀ (s : State) (g : GuestId) (n : Nat) (v : Word), s.cur = some (.queueWrite g n v) →
    exec .qnotifyWrite s = .next ((s.modQueue g n (fun q => { q with tail := v })).sendCtl
      { code := 0x01, operand := g.part * 2 ^ 21 + g.slot * 2 ^ 19 + n * 2 ^ 13 })) ∧
  (∀ (s t : State) (z : Ctl) (g : GuestId) (n : Nat), s.cur = some .device → s.takeCtl 0x01 = some (z, t) →
    bitsOf z.operand 21 3 = g.part → bitsOf z.operand 19 2 = g.slot → bitsOf z.operand 13 6 = n →
    let tail := (t.queue g n).tail
    let u := t.modQueue g n (fun q => { q with
      shown := tail
      known := unionOf q.known q.told
      dirty := q.dirty ||| 0x80000000
      notes := (q.notes.filter (fun x => decide (0 < (x.2 - q.head).toNat ∧ (x.2 - q.head).toNat < 2 ^ 31))) ++ [(t.nextNotify, tail)] })
    exec .notify s = .next (({ u with nextNotify := u.nextNotify + 1 } : State).logEvent 0x10 0xC002 z.operand)) ∧
  (∀ (s : State) (g : GuestId), s.cur = some (.guest g) →
    let p := s.part g.part
    (∀ t, s.serveTagWaiter g = some t → exec .distributorSelect s = .next t) ∧
    (s.serveTagWaiter g = none →
      (∀ q, (s.guest g).queues.find? (fun q => decide (s.lookQueue g q = .stop)) = some q →
        exec .distributorSelect s = .next (s.stopQueue g q.num)) ∧
      ((s.guest g).queues.find? (fun q => decide (s.lookQueue g q = .stop)) = none →
        (p.slice = .running → p.sliceGuest = g.slot → p.frozen = false → p.exporting = false →
          exec .distributorSelect s = .next (s.selectRecord g)) ∧
        ((p.slice ≠ .running ∨ p.sliceGuest ≠ g.slot ∨ p.frozen = true ∨ p.exporting = true) → exec .distributorSelect s = .next s)))) ∧
  (∀ (s : State) (g : GuestId) (n : Nat) (r : LaunchRec) (args : Option (List DWord)) (prio : Nat) (since : BitVec 64),
    s.cur = some (.queue g n) → (s.queue g n).waiting = some (r, args, prio, since) →
    ((s.queue g n).tagWait = false → since.toNat + 1000 * Config.cyclesPerMicrosecond ≤ s.cycle.toNat →
      exec .tagWait s = .next ((s.modQueue g n (fun x => { x with tagWait := true })).adviseQueue g (s.queue g n) 0x4B (BitVec.ofNat 64 n) 0)) ∧
    (((s.queue g n).tagWait = true ∨ s.cycle.toNat < since.toNat + 1000 * Config.cyclesPerMicrosecond) → exec .tagWait s = .next s)) ∧
  (∀ (s : State) (part : Nat), s.cur = some (.unit part) →
    let p := s.part part
    (∀ c, (∀ x ∈ s.ctxs, x.id.part = part → x.runsOn = none) → p.exist = true → p.frozen = false →
      (p.slice = .running → s.cycle.toNat < p.sliceEnd.toNat → p.yields = false → exec .sliceEnd s = .next s) ∧
      (p.slice = .running → p.sliceEnd.toNat ≤ s.cycle.toNat → (s.sliceOrder part).any (fun n => n != p.sliceGuest) = true →
        exec .sliceEnd s = .next (s.modPart part (fun q => { q with slice := .past, watchFrom := if p.yields then s.cycle else q.watchFrom }))) ∧
      (p.slice = .past → (∀ x ∈ s.guestCtxs part p.sliceGuest, State.mustYield x = true → s.ctxYielded x.id = true) →
        let xs := (s.guestCtxs part p.sliceGuest).filter State.mustYield
        exec .sliceEnd s = .next (((xs.foldl (fun (t : State) x => t.requestClose x.id 5) s).charge part p.sliceGuest
          (s.cycle.toNat - p.sliceEnd.toNat)).modPart part (fun q => { q with slice := .closing (xs.map (fun x => (x.id, s.nextClose x.id))) }))) ∧
      (p.slice = .idle → exec .sliceEnd s = .next (s.chooseSlice part (s.sliceOrder part))) ∧
      (p.slice = .running → (p.sliceEnd.toNat ≤ s.cycle.toNat ∨ p.yields = true) → (s.sliceOrder part).all (fun n => n == p.sliceGuest) = true →
        State.sliceOn p p.sliceGuest = true →
        let e := s.cycle + BitVec.ofNat 64 (State.sliceLen p p.sliceGuest)
        exec .sliceEnd s = .next (s.modPart part (fun q => { q with sliceEnd := e, watchFrom := e, yields := false }))) ∧
      (∀ rounds, p.slice = .closing rounds → exec .sliceEnd s = .next (s.leaveSlice part rounds)) ∧
      (p.slice = .past → c ∈ s.guestCtxs part p.sliceGuest → State.mustYield c = true → s.ctxYielded c.id = false →
        exec .sliceEnd s = .next s)) ∧
    (let due := p.watchFrom.toNat + p.watchdog * Config.cyclesPerMicrosecond * 100 < s.cycle.toNat
     (p.slice = .past → p.watchdogRaised = false → due → exec .sliceWatchdog s = .next
       ((((s.guestCtxs part p.sliceGuest).filter (fun x => State.mustYield x && !s.ctxYielded x.id)).foldl
         (fun (t : State) x => (t.modCtx x.id (fun y => { y with atClose := y.atClose ++ [(t.nextClose x.id, .watchdog)] })).requestClose x.id 5) s).modPart
           part (fun p => { p with watchdogRaised := true }))) ∧
     ((p.slice ≠ .past ∨ p.watchdogRaised = true ∨ ¬ due) → exec .sliceWatchdog s = .next s)) ∧
    (∀ ks k x, s.shrinking part = false → (∃ l, s.shrinkFor part = ks ++ k :: l) →
      (∀ j ∈ ks, ∀ y ∈ s.shrinkOrder j.ctx (s.pagePrio j), s.shrinkFold y = none ∧ s.shrinkEvict y = none) →
      (s.shrinkOrder k.ctx (s.pagePrio k)).find? (fun x => (s.shrinkFold x).isSome || (s.shrinkEvict x).isSome) = some x →
      exec .regionShrink s = .next ((s.modCtx x (fun y => { y with atClose := y.atClose ++ [(s.nextClose x, .shrink k.ctx)] })).requestClose x 5))) ∧
  (∀ (s : State) (c : CtxId) (g : Word) (lpn level : Nat) (rest : List (Word × Nat × Nat)), s.cur = some (.ctx c) → (s.ctx c).shrunk = (g, lpn, level) :: rest →
    (∀ a ∈ (s.ctx c).atClose, ∀ g' l n, a.2 ≠ .unfold g' l n) →
    (∀ k ∈ (s.part c.part).pending, k.ctx.guest = c.guest → s.pagePrio k ≤ s.ctxPrio c) → s.ctxServed c = true → (s.foldNow c g lpn level).1 = true →
    exec .preemptUnfold s = .next ((s.modCtx c (fun y => { y with atClose := y.atClose ++ [(s.nextClose c, .unfold g lpn level)] })).requestClose c 5)) ∧
  (∀ (s : State) (g : GuestId), s.cur = some (.guest g) →
    (∀ z, s.gcmdHead g 0x01 = some z → (s.ctx (State.gcmdCtx g z.1)).exist = false → exec .guestSuspend s = .next (s.gcmdDone g)) ∧
    (∀ z, s.gcmdHead g 0x02 = some z → (s.ctx (State.gcmdCtx g z.1)).exist = false → exec .guestResume s = .next (s.gcmdDone g)) ∧
    (∀ z, s.gcmdHead g 0x03 = some z → ((s.ctx (State.gcmdCtx g z.1)).exist = false ∨ (s.ctx (State.gcmdCtx g z.2)).exist = false) →
      exec .guestSwitch s = .next (s.gcmdDone g)) ∧
    (∀ z, s.gcmdHead g 0x01 = some z → (s.ctx (State.gcmdCtx g z.1)).exist = true →
      (∀ t, s.suspendNow (State.gcmdCtx g z.1) = (true, t) → exec .guestSuspend s = .next (t.gcmdDone g)) ∧
      (∀ t, s.suspendNow (State.gcmdCtx g z.1) = (false, t) → exec .guestSuspend s = .next t)) ∧
    (∀ z, s.gcmdHead g 0x02 = some z → (s.ctx (State.gcmdCtx g z.1)).exist = true →
      exec .guestResume s = .next ((s.resumeNow (State.gcmdCtx g z.1)).gcmdDone g)) ∧
    (∀ z, s.gcmdHead g 0x03 = some z → (s.ctx (State.gcmdCtx g z.1)).exist = true → (s.ctx (State.gcmdCtx g z.2)).exist = true →
      (∀ t, s.suspendNow (State.gcmdCtx g z.1) = (true, t) → exec .guestSwitch s = .next ((t.resumeNow (State.gcmdCtx g z.2)).gcmdDone g)) ∧
      (∀ t, s.suspendNow (State.gcmdCtx g z.1) = (false, t) → exec .guestSwitch s = .next t)))

/-- R219 to R229: the engines. -/
def Obligations.EnginesServeTheirMessages : Prop :=
  ∀ (s : State) (id : Nat) (m : Msg), s.cur = some (.unit id) → s.msg? id = some m →
    (m.phase = 2 →
      let d := m.op 0
      let b := m.op 1
      let c := m.op 2
      let takes (t : State) (x : Xl) (whole : Bool) : Prop :=
        bitsOf x.leaf1 11 1 = 1 ∧ t.writeStop m.ctx.part x = none ∧ ((t.studyOf x.space (x.pa / 4096)).isSome = true ∨ whole = true)
      (∀ va bs whole fails next t x, s.engineXl m .engineWrite va fails = .ok x t →
        (takes t x whole → s.engineWrite m va bs whole fails next = next (t.writeStudy m x va bs whole)) ∧
        (bitsOf x.leaf1 11 1 = 1 → t.writeStop m.ctx.part x = none → t.studyOf x.space (x.pa / 4096) = none → whole = false →
          let q := t.unreadable m va x.space (t.studySource x.space (x.pa / 4096) * 4096) 4096
          (q.1 = none → s.engineWrite m va bs whole fails next = next (q.2.writeStudy m x va bs whole)) ∧
          (∀ e, q.1 = some e → s.engineWrite m va bs whole fails next = q.2.endMsg m e 0)) ∧
        (bitsOf x.leaf1 11 1 = 0 → s.engineWrite m va bs whole fails next = t.endMsg m 0x2F 0) ∧
        (bitsOf x.leaf1 11 1 = 1 → t.imageAt x.space x.pa = true → s.engineWrite m va bs whole fails next =
          t.engineFault m va .engineWrite { cause := 0x25, stage2 := true, gpa := x.gpa, level := x.level2 } (State.engineMse m)) ∧
        (∀ y, bitsOf x.leaf1 11 1 = 1 → t.imageAt x.space x.pa = false → t.awaited m.ctx.part x.space x.pa true = some y → y.pull.isSome = true →
          s.engineWrite m va bs whole fails next = t.waitOn m.ctx.part y)) ∧
      (d % 64 ≠ 0 ∨ b % 64 ≠ 0 ∨ c < 64 ∨ 2 ^ 32 < c ∨ c % 64 ≠ 0 → exec .copy s = .next (s.endMsg m 0x3F 0)) ∧
      (d % 64 = 0 → b % 64 = 0 → 64 ≤ c → c ≤ 2 ^ 32 → c % 64 = 0 →
        (∀ bs u x t, s.engineRead m (b + m.pos) 64 false = .ok (some bs, u) → u.engineXl m .engineWrite (d + m.pos) false = .ok x t →
          takes t x (State.coversPage d c (d + m.pos)) →
          exec .copy s = .next ((t.writeStudy m x (d + m.pos) bs (State.coversPage d c (d + m.pos))).moved m 64 c)) ∧
        (∀ e u, s.engineRead m (b + m.pos) 64 false = .error (e, u) → exec .copy s = .next (u.endMsg m e 0))) ∧
      (d % 8 ≠ 0 ∨ c < 8 ∨ 2 ^ 32 < c ∨ c % 8 ≠ 0 → exec .fill s = .next (s.endMsg m 0x3F 0)) ∧
      (d % 8 = 0 → 8 ≤ c → c ≤ 2 ^ 32 → c % 8 = 0 → ∀ x t, s.engineXl m .engineWrite (d + m.pos) false = .ok x t → takes t x (State.coversPage d c (d + m.pos)) →
        let n := min (64 - (d + m.pos) % 64) (c - m.pos)
        exec .fill s = .next ((t.writeStudy m x (d + m.pos) (List.replicate (n / 8) (bytesOfWord 8 b)).flatten
          (State.coversPage d c (d + m.pos))).moved m n c)) ∧
      (let n := gatherSize m
       (gatherBad m d b = true → exec .gather s = .next (s.endMsg m 0x3F 0)) ∧
       (gatherBad m b d = true → exec .scatter s = .next (s.endMsg m 0x3F 0)) ∧
       (∀ ix u bs v x t, s.engineRead m (c + 4 * m.pos) 4 false = .ok (some ix, u) →
         (gatherBad m d b = false → u.engineRead m (b + wordOfBytes ix * n) n true = .ok (some bs, v) →
           v.engineXl m .engineWrite (d + m.pos * n) false = .ok x t → takes t x (State.coversPage d (gatherCount m * n) (d + m.pos * n)) →
           exec .gather s = .next ((t.writeStudy m x (d + m.pos * n) bs
             (State.coversPage d (gatherCount m * n) (d + m.pos * n))).moved m 1 (gatherCount m))) ∧
         (gatherBad m b d = false → u.engineRead m (b + m.pos * n) n false = .ok (some bs, v) →
           v.engineXl m .engineWrite (d + wordOfBytes ix * n) true = .ok x t → takes t x false →
           exec .scatter s = .next ((t.writeStudy m x (d + wordOfBytes ix * n) bs false).moved m 1 (gatherCount m))))) ∧
      (State.swapBad m = true → (m.waits = none → exec .publish s = .next (s.endMsg m 0x3F 0)) ∧ exec .discard s = .next (s.endMsg m 0x3F 0)) ∧
      (State.swapBad m = false →
        (∀ u, s.studiesIn m = .error u → (m.waits = none → exec .publish s = .next u) ∧ exec .discard s = .next u) ∧
        (∀ us, s.studiesIn m = .ok us →
          let off (x : State) (u : Understudy) : State :=
            let y := (x.settleStore u).swapRecord m.ctx u.va
            { y with
              nextId := y.nextId + 1
              understudies := if (s.ctx m.ctx).undo.on then
                update (fun z => z.store == u.store) (fun z => { z with state := .discarded, va := u.va, since := y.nextId }) none y.understudies
                else y.understudies.filter (fun z => z.store != u.store) }
          let t := if m.scope = .system then s.modCtx m.ctx (fun c => { c with atClose := c.atClose ++ [(c.round, .engineSeal)] }) else s
          exec .discard s = .next ((us.foldl off s).endMsg m 0 0) ∧
          (m.waits = none → us = [] → exec .publish s = .next (t.endMsg m 0 0)) ∧
          (m.waits = none → us ≠ [] →
            let q := (us.foldl (fun x u => x.settleStore u) t).startInval
              { id := 0, part := m.ctx.part, ctx := some m.ctx, stage1 := true, lo := d, hi := d + c, msg := some m.id, publish := true }
            let v : State := { q.2 with understudies := q.2.understudies.map (fun y =>
              match us.find? (fun z => z.store == y.store) with
              | some z => { y with publish := some q.1, va := z.va, maker := none }
              | none => y) }
            exec .publish s = .next (v.modMsg m.id (fun x => { x with waits := some q.1, acks := if m.scope = .system then [24, 25] else [] }))))) ∧
      (∀ i, m.waits = some i → m.acks ≠ [] → exec .publish s = .next s) ∧
      (∀ i v, m.waits = some i → m.acks = [] → s.invals.find? (fun v => v.id == i) = some v →
        ((∀ x ∈ s.scopeMses m, x ∉ v.pending) → exec .publish s = .next (s.endMsg m 0 0)) ∧
        (∀ x ∈ s.scopeMses m, x ∈ v.pending → exec .publish s = .next s)) ∧
      (∀ p, s.page? m.page = some p →
        (8 ≤ d ∨ 2 ^ 32 ≤ b ∨ p.nmem ≤ d ∨ (p.desc d).nkind ≠ 3 → exec .istream s = .next (s.endMsg m 0x3F 0)) ∧
        (d < 8 → b < 2 ^ 32 → d < p.nmem → (p.desc d).nkind = 3 → exec .istream s =
          .next ((s.startGen m.page d m.tag b (if c = 0 then none else m.opnds[2]?) m.dep).endMsg m 0 0))) ∧
      (let gid : Word := ((m.opnds[0]?).getD 0).extractLsb' 0 32
       let lpn := b % 2 ^ 12
       ∀ g, s.graph? m.ctx.part gid = some g →
         (c = 0 ∨ 256 < c ∨ Memory.readNat g.header 4 2 < lpn + c → exec .preload s = .next (s.endMsg m 0x3F 0)) ∧
         (0 < c → c ≤ 256 → lpn + c ≤ Memory.readNat g.header 4 2 → exec .preload s =
           .next (((List.range c).foldl (fun (u : State) i => u.cacheImage (m.region / 32) m.ctx.part gid (lpn + i) true) s).endMsg m 0 0))) ∧
      (d % 4096 ≠ 0 ∨ c % 4096 ≠ 0 ∨ 24 ≤ b % 32 → exec .migrate s = .next (s.endMsg m 0x3F 0)) ∧
      (d % 4096 = 0 → c % 4096 = 0 → b % 32 < 24 →
        (∀ i, m.waits = some i → s.invals.any (fun v => v.id == i) = true → exec .migrate s = .next s) ∧
        (m.waits = none → c ≤ m.pos → exec .migrate s = .next (s.endMsg m 0 0)) ∧
        (m.waits = none → m.pos < c →
          let w := s.walkAll { id := s.nextId, ctx := m.ctx, va := d + m.pos, use := .engineRead } 128
          (∀ f, w = .error f → f.pull = none → exec .migrate s = .next (s.engineFault m (d + m.pos) .engineRead f (State.engineMse m))) ∧
          (∀ f, w = .error f → f.pull.isSome = true → exec .migrate s = .next s) ∧
          (∀ x, w = .ok x →
            ((s.awaited m.ctx.part x.space x.pa false).isSome = true → exec .migrate s = .next s) ∧
            (s.awaited m.ctx.part x.space x.pa false = none →
              let q := if x.space = .dram then s.unreadable m (d + m.pos) .dram (s.storeOf none .dram (x.pa / 4096) * 4096) 4096 else (none, s)
              (∀ e, q.1 = some e → exec .migrate s = .next (q.2.endMsg m e 0)) ∧
              (q.1 = none → ∀ i u, q.2.migratePage m.ctx (d + m.pos) (b % 32) = some (i, u) →
                exec .migrate s = .next (u.modMsg m.id (fun x => { x with pos := m.pos + 4096, waits := some i }))) ∧
              (q.1 = none → q.2.migratePage m.ctx (d + m.pos) (b % 32) = none →
                let u := q.2.modMsg m.id (fun y => { y with pos := m.pos + 4096, waits := none })
                exec .migrate s = .next (if x.space = .dram ∧ x.pa / 4096 % 24 = b % 32 then u else u.logEvent 0x17 0xC002 0x31)))))) ∧
      exec .logbookMark s = .next (((s.logEvent 0x18 (0x8000 + m.region) (m.seq + m.tag.toNat * 2 ^ 16 + m.region * 2 ^ 28)).logEvent 0x18
        (0x8000 + m.region) d).endMsg m 0 0) ∧
      (let tag : Tag := ((m.opnds[0]?).getD 0).extractLsb' 0 12
       let pages := s.pages.filter (fun p => p.key.ctx.part == m.ctx.part)
       let all := (pages.map (fun p => p.dyn.countTag tag)).foldl (· + ·) 0
       let moving := (pages.map (fun p => p.dyn.countPlaces Place.inPort tag)).foldl (· + ·) 0
       let n := all - moving + Config.sweepError s.free % (2 * moving + 1)
       exec .censusSweep s = .next (({ s with free := s.free + 1 } : State).endMsg m 0 (BitVec.ofNat 32 (min n 0xFFFFFFFF))) ∧
         (moving ≤ all → all - moving ≤ n ∧ n ≤ all + moving)) ∧
      (∀ v, queryResult s m (d % 256) = some v → exec .prompterQuery s = .next (s.endMsg m 0 (BitVec.ofNat 32 v))) ∧
      (7 < d % 256 → exec .prompterQuery s = .next (s.endMsg m 0x3F 0))) ∧
    (m.phase = 3 → (m.voided = true ∨ (s.ctx m.ctx).frozen = true) → exec .engineReply s = .next (s.replied m)) ∧
    (m.phase = 3 → m.voided = false → (s.ctx m.ctx).frozen = false → s.page? m.page = none →
      exec .engineReply s = .next ((s.advise m.ctx 0x43 ((replyPayload m).setWidth 64) 0 m.tag).replied m)) ∧
    (m.phase = 3 → m.voided = false → (s.ctx m.ctx).frozen = false → (s.page? m.page).isSome = true →
      (∀ b i, m.sendw = some (b, i) → exec .engineReply s = .next (s.replySendw m b i)) ∧ (m.sendw = none →
      (m.rkind = 0 → m.cause = 0 → exec .engineReply s = .next (s.replied m)) ∧
      (m.rkind = 0 → m.cause ≠ 0 → exec .engineReply s = .next ((s.messageFault m).replied m)) ∧
      (m.rkind ≠ 0 → ∀ tok, tok = ({ kind := .data, tag := m.tag, pay := replyPayload m, dep := m.dep } : Token) →
        (∀ t, s.deliverReply m.page (m.rkind != 1) m.rdst tok m.region = some t → exec .engineReply s = .next ((t.noteReply m).replied m)) ∧
        (s.deliverReply m.page (m.rkind != 1) m.rdst tok m.region = none → exec .engineReply s = .next s))))

/-- R347 to R349, R367, R369: fault rings, resolutions and the Foghorn. -/
def Obligations.FaultRecordsAreWrittenAndResolved : Prop :=
  (∀ (s : State) (r : RingId) (n : Nat), s.cur = some (.record r n) →
    let q := s.ring r
    (q.enabled = false → exec .faultRingWrite s = .next s) ∧
    (∀ f rest, q.enabled = true → q.waiting = f :: rest →
      (∀ t, q.room = true → s.ringWrite r q.place (f.bits q.nextNum) = some t →
        exec .faultRingWrite s = .next ((t.modRing r (fun x => { x with
          waiting := rest
          head := x.head + 1
          nextNum := (x.nextNum + 1) % 2 ^ 16
          outstanding := if f.advisory then x.outstanding else x.outstanding ++ [{ f with fnum := q.nextNum }] })).ringIrq r)) ∧
      (q.room = true → s.ringWrite r q.place (f.bits q.nextNum) = none → exec .faultRingWrite s = .next (s.ringWait r q.place)) ∧
      (q.room = false → ∀ g, q.waiting.find? FaultRec.advisory = some g →
        exec .faultRingWrite s = .next (s.modRing r (fun x => { x with
          waiting := x.waiting.erase g
          ctl := if bitsOf x.ctl.toNat 8 16 = 0xFFFF then x.ctl else x.ctl + 0x100#32 }))) ∧
      (q.room = false → (∀ g ∈ q.waiting, g.advisory = false) → exec .faultRingWrite s = .next s)) ∧
    (∀ f, s.outstanding? r n = some f →
      exec .fresolveRetry s = .next (s.retryRecord r f) ∧ exec .fresolveStop s = .next (s.stopRecord r f) ∧
      (s.stopRecord r f).outstanding? r n = none) ∧
    (s.outstanding? r n = none → exec .fresolveRetry s = .next s ∧ exec .fresolveStop s = .next s)) ∧
  (∀ (s : State) (k : FrameKey) (f : Frame), s.cur = some (.frame k) → s.frame? k = some f →
    ((s.ctx f.ctx).frozen = true → exec .hang s = .next s) ∧
    ((s.ctx f.ctx).frozen = false → s.clockPaused f.ctx = true →
      exec .hang s = .next (s.modFrame k (fun x => { x with pausedAt := some (x.pausedAt.getD s.cycle) }))) ∧
    ((s.ctx f.ctx).frozen = false → s.clockPaused f.ctx = false →
      (∀ t, f.pausedAt = some t → exec .hang s = .next (s.modFrame k (fun x =>
        { x with pausedAt := none, lastFire := if t < x.lastFire then s.cycle else x.lastFire + (s.cycle - t) }))) ∧
      (f.pausedAt = none →
        let limit := f.lastFire.toNat + (s.part k.part).foghornMs * 1000 * Config.cyclesPerMicrosecond
        (limit ≤ s.cycle.toNat → s.mapHeld f = none → exec .hang s = .next (s.hangNow f)) ∧
        (∀ x, limit ≤ s.cycle.toNat → s.mapHeld f = some x → exec .hang s = .next (s.waitOn f.ctx.part x)) ∧
        (s.cycle.toNat < limit → exec .hang s = .next s)))) ∧
  (∀ (s : State), s.cur = some .device →
    (s.dev.logTimeAt.toNat + 2 ^ 22 ≤ s.cycle.toNat → exec .logbookTimeRecord s = .next s.logTime) ∧
    (s.cycle.toNat < s.dev.logTimeAt.toNat + 2 ^ 22 → exec .logbookTimeRecord s = .next s))

/-- R427 to R429: register writes. -/
def Obligations.RegisterWritesTakeEffect : Prop :=
  (∀ (s : State) (o size : Nat) (v : DWord), s.cur = some (.regWrite o size v) →
    (∀ r, regAt o = some r → r.size = size →
      exec .registerWrite s = .next (s.regWrite r v) ∧
      (∀ c, r = .cweight c → ((s.regWrite r v).ctx c).weight = max 1 (bitsOf v.toNat 0 8)) ∧
      (r = .plimit → (s.regWrite r v).dev.plimit = (if 200 ≤ bitsOf v.toNat 0 9 ∧ bitsOf v.toNat 0 9 ≤ 480 then bitsOf v.toNat 0 9 else s.dev.plimit))) ∧
    (∀ r, regAt o = some r → r.size ≠ size → exec .registerWrite s = .next s) ∧
    (regAt o = none → exec .registerWrite s = .next s)) ∧
  (∀ (s : State) (o size : Nat) (v : DWord), s.cur = some (.regWrite o size v) →
    let w : Word := v.setWidth 32
    let t : State := { s with dev := { s.dev with lbCtl := (w &&& 0xB8000000#32) ||| (s.dev.lbCtl &&& w &&& 0x40000000#32) } }
    ((s.dev.lbCtl.getLsbD 30 = true ∧ w.getLsbD 30 = false) → exec .lbctlWrite s = .next t.logTime) ∧
    ((s.dev.lbCtl.getLsbD 30 = false ∨ w.getLsbD 30 = true) → exec .lbctlWrite s = .next t)) ∧
  (∀ (s : State) (g : GuestId) (n : Nat), s.cur = some (.queue g n) →
    exec .qdirtyClear s = .next (s.modQueue g n (fun q => { q with dirty := 0 }))) ∧
  (∀ (s : State) (c : CtxId), s.cur = some (.ctx c) →
    ((s.ctx c).exist = true → exec .contextCreate s = .next s ∧ exec .contextDestroy s = .next (s.dropContext c)) ∧
    ((s.ctx c).exist = false → c.num < Config.contextsPerGuest → (s.part c.part).exist = true →
      let t : State := State.modCtx { s with ctxs := s.ctxs.filter (fun x => x.id != c) } c (fun x => { x with exist := true, commitAt := s.cycle })
      exec .contextCreate s = .next t ∧ t.ctx c = { id := c, exist := true, commitAt := s.cycle }) ∧
    ((s.ctx c).exist = false → (Config.contextsPerGuest ≤ c.num ∨ (s.part c.part).exist = false) → exec .contextCreate s = .next s) ∧
    ((s.ctx c).exist = false → exec .contextDestroy s = .next s)) ∧
  (∀ (s : State) (c : CtxId) (v : DWord), s.cur = some (.ctxWrite c v) →
    exec .s1rootWrite s = .next ((s.modCtx c (fun x => { x with s1root := v &&& 0xFFFFFFFFFFFFE001#64 })).startInval
      { State.invalAllOf c with root1 := some (s.ctx c).s1root }).2) ∧
  (∀ (s : State) (p : Nat) (v : DWord), s.cur = some (.partWrite p v) →
    exec .s2rootWrite s = .next ((s.modPart p (fun x => { x with s2root := v &&& 0xFFFFFFFFFFFFE003#64 })).startInval
      { State.invalPart p with root2 := some (s.part p).s2root }).2)

/-- R420 to R424, R438: the hypervisor's commands. -/
def Obligations.HypervisorCommandsAreServed : Prop :=
  (∀ (s : State) (part : Nat), s.cur = some (.unit part) → part < 8 → (s.part part).exist = true →
    (∀ op, s.hcmdIs op part = true → s.hcmdHeld op part = false) →
    let a := s.harg
    let k := bitsOf a 0 6
    let g := bitsOf a 0 12
    (s.hcmdIs 0x03 part = true → exec .reset s = .next ((s.resetPartition part).hcmdDone 0)) ∧
    (s.hcmdIs 0x02 part = true → ∃ t : State, exec .destroy s = .next t ∧
      (let u := ((s.resetPartition part).ctxs.filter (fun x => x.id.part == part)).foldl (fun u x => u.dropContext x.id) (s.resetPartition part)
      let v := (u.blocksOf part).foldl (fun u k => u.zeroRange .dram (k * 2 ^ 31) ((k + 1) * 2 ^ 31)) u
      t = State.hcmdDone { v with
        parts := v.parts.filter (fun p => p.num != part)
        guests := v.guests.filter (fun g => g.id.part != part)
        tlb := v.tlb.filter (fun e => e.ctx.part != part)
        walkCache := v.walkCache.filter (fun e => e.part != part)
        understudies := v.understudies.filter (fun u => u.ctx.part != part)
        granules := v.granules.filter (fun g => bitsOf g.2.toNat 28 3 != part)
        dev := { v.dev with
          blocks := v.dev.blocks.map (fun b => if b == .granted part then .free else b)
          ports := v.dev.ports.map (fun p => if p.part = some part then { p with part := none } else p) } } 0) ∧
      (t.parts.all (fun p => p.num != part)) = true ∧
      (t.guests.all (fun x => x.id.part != part)) = true ∧ BlockState.granted part ∉ t.dev.blocks ∧ t.dev.hbusy = false ∧ t.dev.hcause = 0) ∧
    (s.hcmdIs 0x04 part = true →
      (s.dev.blocks[k]? = some .free → exec .grant s = .next (({ s with dev := { s.dev with blocks := s.dev.blocks.set k (.granted part) } } : State).hcmdDone 0)) ∧
      (s.dev.blocks[k]? ≠ some .free → exec .grant s = .next (s.hcmdDone 0x4A))) ∧
    (s.hcmdIs 0x05 part = true → s.dev.blocks[k]? = some (.granted part) →
      let table := (s.part part).ovfBase != 0 && decide ((s.part part).ovfBase.toNat < (k + 1) * 2 ^ 31 ∧ k * 2 ^ 31 < (s.part part).ovfBase.toNat + 2 ^ 24)
      ((s.donatedUsed part).any (fun f => f / 2 ^ 19 == k) = false → table = false → exec .remove s = .next
        (((State.modPart { s with dev := { s.dev with
            blocks := s.dev.blocks.set k (.removing part (if bitsOf a 11 1 = 1 then none else some (bitsOf a 8 3))) } } part (fun p => { p with
          donated := p.donated.filter (fun f => !(f / 2 ^ 19 == k))
          placement := p.placement.filter (fun f => !(f / 2 ^ 19 == k)) })).startInval { State.invalPart part with block := some k }).2)) ∧
      (table = true → exec .remove s = .next (s.hcmdDone 0x4A))) ∧
    (s.hcmdIs 0x05 part = true → (s.dev.blocks[k]? = some .free ∨ (s.donatedUsed part).any (fun f => f / 2 ^ 19 == k) = true) →
      (∀ q d, s.dev.blocks[k]? ≠ some (.removing q d)) → (∀ d, s.dev.blocks[k]? ≠ some (.scrubbing d)) → exec .remove s = .next (s.hcmdDone 0x4A)) ∧
    (s.hcmdIs 0x09 part = true → exec .scrub s =
      .next (((s.blocksOf part).foldl (fun u k => u.zeroRange .dram (k * 2 ^ 31) ((k + 1) * 2 ^ 31)) s).hcmdDone 0)) ∧
    (s.hcmdIs 0x06 part = true → exec .bind s = .next ((State.modGuest { s with
        guests := s.guests.map (fun x => if x.vf = some (bitsOf a 0 5) then { x with vf := none } else x) }
        ⟨part, bitsOf a 8 2⟩ (fun x => { x with vf := some (bitsOf a 0 5) })).hcmdDone 0)) ∧
    (s.hcmdIs 0x0A part = true → exec .port s = .next (State.hcmdDone { s with dev := { s.dev with
        ports := s.dev.ports.map (fun p => if p.num = bitsOf a 0 1 then { p with part := if bitsOf a 1 1 = 1 then none else some part } else p) } } 0)) ∧
    (s.hcmdIs 0x0B part = true → bitsOf a 12 1 = 1 →
      let bad := bitsOf (s.granule g) 31 1 = 1 ∨ bitsOf (s.part part).quads (bitsOf g 5 6 / 4) 1 = 0
      (bad → exec .granuleGrant s = .next (s.hcmdDone 0x2E)) ∧
      (¬ bad → exec .granuleGrant s = .next ((s.setGranule g (2 ^ 31 + part * 2 ^ 28)).hcmdDone 0))) ∧
    (s.hcmdIs 0x0B part = true → bitsOf a 12 1 = 0 →
      let bad := bitsOf (s.granule g) 31 1 = 0 ∨ bitsOf (s.granule g) 28 3 ≠ part
      (bad → exec .granuleRevoke s = .next (s.hcmdDone 0x2E)) ∧
      (¬ bad → s.granuleBusy g = true → exec .granuleRevoke s = .next s) ∧
      (¬ bad → s.granuleBusy g = false →
        exec .granuleRevoke s = .next (((s.zeroGranule g).setGranule g (s.granule g % 2 ^ 31)).hcmdDone 0))) ∧
    (s.hcmdIs 0x0C part = true → s.invals.any (fun v => v.hcmd && v.part == part) = false →
      (bitsOf a 3 1 = 1 → exec .s2inval s = .next (s.startInval { State.invalPart part with hcmd := true }).2) ∧
      (bitsOf a 3 1 = 0 → bitsOf a 0 3 ≤ 5 →
        let size := 2 ^ boundary (bitsOf a 0 3)
        let lo := a / 4096 * 4096 / size * size
        exec .s2inval s = .next (s.startInval { State.invalPart part with lo := lo, hi := lo + size, hcmd := true }).2) ∧
      (bitsOf a 3 1 = 0 → 5 < bitsOf a 0 3 → exec .s2inval s = .next (s.hcmdDone 0x4A))) ∧
    (s.listBad part s.listPage = true → (s.hcmdIs 0x0D part = true → exec .placefill s = .next (s.hcmdDone 0x26)) ∧
      (s.hcmdIs 0x0E part = true → exec .donate s = .next (s.hcmdDone 0x26))) ∧
    (s.listBad part s.listPage = false →
      (s.hcmdIs 0x0D part = true → exec .placefill s =
        .next ((s.modPart part (fun p => { p with placement := p.placement ++ s.listPage.map (· / 4096) })).hcmdDone 0)) ∧
      (s.hcmdIs 0x0E part = true → exec .donate s =
        .next ((s.modPart part (fun p => { p with donated := p.donated ++ s.listPage.map (· / 4096) })).hcmdDone 0))) ∧
    (s.hcmdIs 0x0F part = true →
      let first := s.devNat (a / 4096 * 4096) 8
      let place := bitsOf first 16 1 == 1
      let p := s.part part
      let out := (if place then p.placement else p.donated.filter (fun f => !(s.donatedUsed part).contains f)).take (bitsOf first 0 9)
      exec .reclaim s = .next (((s.modPart part (fun p => if place then { p with placement := p.placement.filter (fun f => !out.contains f) }
          else { p with donated := p.donated.filter (fun f => !out.contains f) })).writeNow .dram
          ((s.modPart part (fun p => if place then { p with placement := p.placement.filter (fun f => !out.contains f) }
            else { p with donated := p.donated.filter (fun f => !out.contains f) })).backed none .dram (a / 4096 * 4096))
          (bytesOfWord 8 (first - bitsOf first 0 9 + out.length) ++ out.flatMap (fun f => bytesOfWord 8 (f * 4096)))).hcmdDone 0)) ∧
    (s.hcmdIs 0x07 part = true →
      ((s.part part).exporting = false → exec .exportPart s = .next
        (((s.ctxs.filter (fun x => x.id.part == part && x.exist && !x.frozen)).map Context.id).foldl (fun u c => u.requestClose c 7)
          (s.modPart part (fun p => { p with exporting := true })))) ∧
      ((s.part part).exporting = true → s.exportReady part = true →
        let e := s.exportArea part a
        exec .exportPart s = .next ((({ s with exports := s.exports.filter (fun x => x.area != e.area) ++ [e] } : State).writeQueues part a).hcmdDone 0))) ∧
    (s.hcmdIs 0x08 part = true →
      (s.exports.find? (fun e => e.area == a) = none → exec .importPart s = .next (s.hcmdDone 0x4A)) ∧
      (∀ e, s.exports.find? (fun e => e.area == a) = some e →
        let used := s.frames.any (fun f => f.key.part == part) || s.graphs.any (fun g => g.part == part)
        let sums := (List.range 4).map (fun g => ((e.ctxs.filter (fun x => x.id.guest == g)).map (fun x => bitsOf x.quota.toNat 0 8)).foldl (· + ·) 0)
        (used = false → sums.foldl max 0 ≤ (s.regionsOf part).length → exec .importPart s = .next ((s.importArea part e).hcmdDone 0)) ∧
        (used = true ∨ (s.regionsOf part).length < sums.foldl max 0 → exec .importPart s = .next (s.hcmdDone 0x4A))))) ∧
  (∀ (s : State) (part : Nat), s.cur = some (.unit part) → (s.part part).exist = false →
    (∀ op, s.hcmdIs op part = true → s.hcmdHeld op part = false) →
    (s.hcmdIs 0x04 part = true → exec .grant s = .next (s.hcmdDone 0x4A)) ∧
    (s.hcmdIs 0x02 part = true → exec .destroy s = .next (s.hcmdDone 0x4A)) ∧
    (s.hcmdIs 0x01 part = true →
      let h := s.harg
      let quads := s.devNat h 2
      let blocks := s.devNat (h + 0x08) 8 % 2 ^ 46
      let save := s.devNat (h + 0x10) 2
      let rb := s.devNat (h + 0x30) 2
      let fog := s.devNat (h + 0x32) 2
      let flags := s.devNat (h + 0x34) 1
      let dog := s.devNat (h + 0x36) 2
      (s.createBad part quads blocks save rb fog dog = true → exec .create s = .next (s.hcmdDone 0x4A)) ∧
      (s.createBad part quads blocks save rb fog dog = false →
        let made : Partition :=
          { num := part
            exist := true
            quads := quads
            s2root := (s.part part).s2root
            gslice := (s.part part).gslice
            covFloor := BitVec.ofNat 32 (flags % 16)
            saveAllow := save
            wingBase := BitVec.ofNat 64 (s.devNat (h + 0x18) 8)
            wingChunks := s.devNat (h + 0x20) 4
            ovfBase := BitVec.ofNat 64 (s.devNat (h + 0x28) 8)
            rbAllow := rb
            foghornMs := if fog = 0 then 100 else fog
            mapBase := BitVec.ofNat 64 (s.devNat (h + 0x38) 8)
            priv := bitsOf flags 4 1 == 1
            permissive := bitsOf flags 5 1 == 1
            stallMode := bitsOf flags 6 1 == 1
            watchdog := if dog = 0 then 10 else dog
            tags := (List.range 4095).map (BitVec.ofNat 12)
            sliceGuest := 3 }
        exec .create s = .next ((State.modPart { s with dev := { s.dev with
          blocks := s.dev.blocks.zipIdx.map (fun b => if bitsOf blocks b.2 1 = 1 then .granted part else b.1) } } part (fun _ => made)).hcmdDone 0)))) ∧
  (∀ (s : State) (part op : Nat) (i : Instr), s.cur = some (.unit part) → s.hcmdIs op part = true → s.hcmdHeld op part = true →
    (op, i) ∈ [(0x01, .create), (0x02, .destroy), (0x03, .reset), (0x04, .grant), (0x05, .remove), (0x06, .bind), (0x07, .exportPart), (0x08, .importPart),
      (0x09, .scrub), (0x0A, .port), (0x0C, .s2inval), (0x0D, .placefill), (0x0E, .donate), (0x0F, .reclaim)] → exec i s = .next s) ∧
  (∀ (s : State) (k : Nat) (dst : Option Nat), s.cur = some (.unit k) → s.dev.blocks[k]? = some (.scrubbing dst) →
    s.dev.deadLines.find? (fun l => l / 2 ^ 25 == k) = none →
    let z := s.zeroRange .dram (k * 2 ^ 31) ((k + 1) * 2 ^ 31)
    let t : State := { z with dev := { z.dev with
      poisoned := z.dev.poisoned.filter (fun f => f / 2 ^ 19 != k)
      suspect := z.dev.suspect.filter (fun x => !(x.1 == .dram && x.2 / 2 ^ 25 == k))
      blocks := z.dev.blocks.set k (match dst with
        | some q => .granted q
        | none => .free) } }
    exec .scrubComplete s = .next (if s.dev.hbusy && bitsOf s.dev.hcmd.toNat 24 8 == 0x05 && bitsOf s.dev.harg.toNat 0 6 == k then t.hcmdDone 0 else t))

/-- R408, R439: the guests' granule and residency commands. -/
def Obligations.GuestCommandsAreServed : Prop :=
  ∀ (s : State) (g : GuestId), s.cur = some (.guest g) →
    let x := s.guest g
    let v := x.gnCmd.toNat
    let i := bitsOf v 52 12
    let e := s.granule i
    (x.gnStat.getLsbD 31 = true → bitsOf v 49 1 = 0 →
      let bad := bitsOf e 31 1 = 0 ∨ bitsOf e 28 3 ≠ g.part ∨ (bitsOf e 23 1 = 1 ∧ bitsOf e 24 2 ≠ g.slot)
      (bad → exec .granuleAssign s = .next (s.gncmdDone g 0x2E)) ∧
      (¬ bad → exec .granuleAssign s =
        .next ((s.setGranule i (2 ^ 31 + g.part * 2 ^ 28 + bitsOf v 50 2 * 2 ^ 26 + g.slot * 2 ^ 24 + 2 ^ 23 + bitsOf v 0 16)).gncmdDone g 0)) ∧
      exec .granuleRelease s = .next s) ∧
    (x.gnStat.getLsbD 31 = true → bitsOf v 49 1 = 1 →
      let bad := bitsOf e 31 1 = 0 ∨ bitsOf e 28 3 ≠ g.part ∨ bitsOf e 23 1 = 0 ∨ bitsOf e 24 2 ≠ g.slot
      (bad → exec .granuleRelease s = .next (s.gncmdDone g 0x2E)) ∧
      (¬ bad → s.granuleBusy i = true → exec .granuleRelease s = .next s) ∧
      (¬ bad → s.granuleBusy i = false → exec .granuleRelease s = .next (((s.zeroGranule i).setGranule i (e / 2 ^ 28 * 2 ^ 28)).gncmdDone g 0)) ∧
      exec .granuleAssign s = .next s) ∧
    (x.gnStat.getLsbD 31 = false → exec .granuleAssign s = .next s ∧ exec .granuleRelease s = .next s) ∧
    (∀ c va out y, s.residency? g 1 = some (c, va, out) → s.ctx? c = some y → y.exist = true →
      s.storeFull = false → (∀ t, s.reside c (va.toNat / 0x8000 * 0x8000) out.toNat = (true, t) → exec .reside s = .next (t.residencyDone g)) ∧
        (∀ t, s.reside c (va.toNat / 0x8000 * 0x8000) out.toNat = (false, t) → exec .reside s = .next t)) ∧
    (∀ c gid out y, s.residency? g 2 = some (c, gid, out) → s.ctx? c = some y → y.exist = true → s.storeFull = false →
      exec .release s = .next (((s.modGraph g.part (gid.setWidth 32) (fun y => { y with released := true })).dropReleased g.part).residencyDone g)) ∧
    (∀ op i, (op, i) ∈ [(1, Instr.reside), (2, Instr.release)] → ∀ c x out, s.residency? g op = some (c, x, out) →
      (s.storeFull = true → exec i s = .next s) ∧
      (s.storeFull = false → s.ctx? c = none ∨ (s.ctx c).exist = false → exec i s = .next (s.residencyDone g))) ∧
    (s.residency? g 1 = none → exec .reside s = .next s) ∧ (s.residency? g 2 = none → exec .release s = .next s)

/-- R358, R363 to R366: the debug interface. -/
def Obligations.DebugCommandsAct : Prop :=
  ∀ (s : State) (c : CtxId), s.cur = some (.ctx c) →
    let x := s.ctx c
    let a := x.dbgArg1.toNat
    let n := x.dbgArg0.toNat
    (s.dbgAsks c 0x01 = false → exec .logEnable s = .next s) ∧
    (s.dbgAsks c 0x01 = true →
      let l : UndoLog := { on := true, base := n / 4096 * 4096, units := bitsOf a 0 9, stall := bitsOf a 16 1 == 1 }
      let u := s.modUndo c (fun _ => l)
      (bitsOf a 0 9 = 0 → exec .logEnable s = .next (s.dbgDone c 0)) ∧
      (bitsOf a 0 9 ≠ 0 → s.idleRound c = true → u.logHeld c 0 = none → exec .logEnable s = .next ((u.openWindow c x.round).dbgDone c 0)) ∧
      (bitsOf a 0 9 ≠ 0 → s.idleRound c = false ∨ (u.logHeld c 0).isSome = true → exec .logEnable s = .next (u.dbgDone c 0))) ∧
    (s.dbgAsks c 0x02 = true → exec .logDisable s = .next ((s.modUndo c (fun _ => {})).dbgDone c 0)) ∧
    (s.dbgAsks c 0x03 = true → (x.undo.on = false → exec .mark s = .next (s.dbgDone c 0)) ∧
      (x.undo.on = true → exec .mark s = .next (((s.modCtx c (fun y => { y with atClose := y.atClose ++ [(s.nextClose c, .wmark)] })).requestClose c 6).dbgDone c 0))) ∧
    (s.dbgAsks c 0x04 = true → exec .markEvery s = .next ((s.modUndo c (fun l => { l with every := bitsOf (s.dbgArg c) 0 1 == 1 })).dbgDone c 0)) ∧
    (s.dbgAsks c 0x05 = true →
      (s.logHeld c 0 = none → exec .drain s = .next
        (((s.modUndo c (fun l => Nat.repeat UndoLog.dropOldest (min (s.dbgArg c) (x.undo.windows.length - 1)) l)).freeEntries c x.undo.windows).dbgDone c 0)) ∧
      (∀ f, s.logHeld c 0 = some f → exec .drain s = .next (s.waitOn c.part f))) ∧
    (s.dbgAsks c 0x06 = true → exec .breakEnable s = .next ((s.modCtx c (fun y => { y with brkEn := bitsOf y.dbgArg0.toNat 0 1 == 1 })).dbgDone c 0)) ∧
    (s.dbgAsks c 0x07 = true → exec .stop s = .next ((s.dbgStop c).dbgDone c 0)) ∧
    (s.dbgAsks c 0x08 = true →
      let u := s.releaseBrks c
      exec .resume s = .next (((if (u.ctx c).frozen then u.thaw c else u).modCtx c
        (fun y => { y with dbg := .running, stepsLeft := none, stepParty := none, stepOnly := false })).dbgDone c 0)) ∧
    (s.dbgAsks c 0x09 = true →
      (x.dbg ≠ .stopped → x.frozen = false → exec .rewind s = .next (s.dbgDone c 5)) ∧
      ((x.dbg = .stopped ∨ x.frozen = true) → x.brks ≠ [] → exec .rewind s = .next (s.releaseBrks c)) ∧
      ((x.dbg = .stopped ∨ x.frozen = true) → x.brks = [] → (∃ w ∈ x.released, s.brkOver c w = false) → exec .rewind s = .next s) ∧
      ((x.dbg = .stopped ∨ x.frozen = true) → x.brks = [] → (∀ w ∈ x.released, s.brkOver c w = true) →
        let i := x.undo.windows.findIdx (fun w => w.num == s.dbgArg c)
        (x.undo.windows[i]? = none → exec .rewind s = .next (s.dbgDone c 3)) ∧
        (∀ w, x.undo.windows[i]? = some w →
          let later := x.undo.windows.drop i
          let recs := x.undo.records.filter (fun r => later.any (fun v => v.num == r.window))
          (later.any UndoWindow.sealed = true → exec .rewind s = .next (s.dbgDone c 2)) ∧
          (later.any UndoWindow.sealed = false → w.truncated = true → exec .rewind s = .next (s.dbgDone c 4)) ∧
          (later.any UndoWindow.sealed = false → w.truncated = false →
            (∀ cause, recs.findSome? (s.recordBad c) = some cause →
              exec .rewind s = .next ((s.modCtx c (fun z => { z with report := some (cause, 0, 0) })).dbgDone c 7)) ∧
            (recs.findSome? (s.recordBad c) = none → (s.firingWork c).isSome = true → s.firingWork c ≠ x.voidSeen → x.frozen = false →
              exec .rewind s = .next (s.modCtx c (fun y => { y with voidSeen := s.firingWork c }))) ∧
            (∀ f, recs.findSome? (s.recordBad c) = none → ((s.firingWork c).isSome = false ∨ s.firingWork c = x.voidSeen ∨ x.frozen = true) →
              s.rewindWaits c recs = some f → exec .rewind s = .next (s.waitOn c.part f)) ∧
            (recs.findSome? (s.recordBad c) = none → ((s.firingWork c).isSome = false ∨ s.firingWork c = x.voidSeen ∨ x.frozen = true) →
              s.rewindWaits c recs = none → exec .rewind s = .next ((((recs.reverse.foldl (fun u r => u.undoOne c r) (s.voidRounds c x.round)).emptyWindows c i w).unlaunch c w).restoreWindow c w
                |>.dbgDone c 0)))))) ∧
    (s.dbgAsks c 0x0A = true →
      ((x.dbg ≠ .stopped ∨ x.frozen = true) → exec .stepRounds s = .next (s.dbgDone c 5)) ∧
      (x.dbg = .stopped → x.frozen = false → x.stepsLeft = none →
        (s.dbgArg c = 0 → exec .stepRounds s = .next (s.dbgDone c 0)) ∧
        (s.dbgArg c ≠ 0 →
          let u := (s.releaseBrks c).modCtx c (fun y => { y with
            dbg := .stepping
            stepsLeft := some (s.dbgArg c)
            steps := s.dbgArg c
            free := !s.dev.choices.any (fun z => z.ctx == some c && z.round == x.round) })
          exec .stepRounds s = .next ((if x.round < x.removed then u else u.requestClose c 6).debugIrq c)))) ∧
    (s.dbgAsks c 0x0B = true → x.stepParty = none →
      let w := State.partyWord (x.dbgArg0.setWidth 32)
      ((x.dbg ≠ .stopped ∨ x.frozen = true) → exec .stepFiring s = .next (s.dbgDone c 5)) ∧
      (x.dbg = .stopped → x.frozen = false →
        (w ≠ 0 → s.steppable c w = false → exec .stepFiring s = .next (s.dbgDone c 6)) ∧
        ((w = 0 ∨ s.steppable c w = true) → exec .stepFiring s =
          .next (((s.releaseBrks c).modCtx c (fun y => { y with dbg := .stepping, stepParty := some w, stepOnly := false, free := false })).debugIrq c)))) ∧
    (s.dbgAsks c 0x0C = true →
      let w := State.partyWord (x.dbgArg0.setWidth 32)
      let rest := x.masked.filter (fun z => z != w)
      exec .mask s = .next ((s.modCtx c (fun y => { y with masked := if bitsOf n 32 1 = 1 then rest ++ [w] else rest })).dbgDone c 0))

/-- R425, R426, R431, R434 to R437, R441, R442: health, links, resets and triggers. -/
def Obligations.HealthEventsAct : Prop :=
  (∀ (s : State) (n die temp : Nat), s.cur = some (.sensor n die temp) →
    let t := s.noteTemp die temp
    let i := (BitVec.ofNat 16 temp).toInt
    (i < 95 * 16 → exec .thermalWarn s = .next t) ∧ (i < 110 * 16 → exec .thermalTrip s = .next t) ∧
    (95 * 16 ≤ i → exec .thermalWarn s = .next ((t.throttleDie die 0x53).tellAll 0x53 (BitVec.ofNat 64 n) (BitVec.ofNat 64 temp))) ∧
    (110 * 16 ≤ i → exec .thermalTrip s = .next
      ((t.ctxsOn die).foldl (fun u c => u.freezeFor 0x54 true c) (t.tellAll 0x54 (BitVec.ofNat 64 n) (BitVec.ofNat 64 temp))))) ∧
  (∀ (s : State) (a b : Nat), s.cur = some (.units a b) →
    exec .throttleEnd s = .next { s with dev := { s.dev with throttle := s.dev.throttle.filter (fun x => x != (a, b)) } } ∧
    (outsideBand a b 3 = true → exec .voltageWarn s = .next (s.tellAll 0x55 (BitVec.ofNat 64 a) (BitVec.ofNat 64 b))) ∧
    (outsideBand a b 3 = false → exec .voltageWarn s = .next s) ∧
    (outsideBand a b 6 = true → exec .voltageFault s = .next (((s.parts.filter Partition.exist).map Partition.num).foldl
      (fun t p => t.resetPartition p) (s.tellAll 0x56 (BitVec.ofNat 64 a) (BitVec.ofNat 64 b)))) ∧
    (outsideBand a b 6 = false → exec .voltageFault s = .next s)) ∧
  (∀ (s : State) (n : Nat), s.cur = some (.unit n) →
    (let t : State := { s with dev := { s.dev with mgtPwr := s.dev.mgtPwr.extractLsb' 16 16 ++ BitVec.ofNat 16 n } }
     (n ≤ s.dev.plimit → exec .powerLimit s = .next t) ∧
     (s.dev.plimit < n → exec .powerLimit s = .next (((t.throttleDie 0 0x5E).throttleDie 1 0x5E).tellAll 0x5E (BitVec.ofNat 64 n) 0))) ∧
    (Config.retrySucceeds s.free = true → exec .ucieFlitError s = .next { s with free := s.free + 1 } ∧
      exec .gddrLinkCrc s = .next (State.noteTransient { s with free := s.free + 1 } none (0x4000 + n) 0x59)) ∧
    (Config.retrySucceeds s.free = false →
      let t : State := { s with free := s.free + 2 }
      let line := Config.burstLine s.free
      let lost := if Config.retrySucceeds (s.free + 1) then [] else [(Space.dram, (line / 64 % 2 ^ 20 * 24 + n) * 64 + line % 64)]
      (Config.retrySucceeds (s.free + 1) = true → exec .ucieFlitError s = .next (t.noteTransient none 0xC002 0x59)) ∧
      (Config.retrySucceeds (s.free + 1) = false →
        exec .ucieFlitError s = .next (t.ctxsAcross.foldl (fun u c => u.freezeFor 0x51 false c) (t.tellAll 0x51 (BitVec.ofNat 64 n) 0))) ∧
      exec .gddrLinkCrc s = .next (State.tellAll { s with free := s.free + 2, dev := { s.dev with
        failing := s.dev.failing ++ lost
        retraining := if s.dev.retraining.contains n then s.dev.retraining else s.dev.retraining ++ [n] } } 0x5A (BitVec.ofNat 64 n) 0)) ∧
    exec .gddrRetrainDone s = .next { s with dev := { s.dev with retraining := s.dev.retraining.filter (fun x => x != n) } } ∧
    (∀ g, s.guests.find? (fun g => g.vf == some n) = some g →
      let cs := (s.ctxs.filter (fun x => x.id.part == g.id.part && x.id.guest == g.id.slot && x.exist)).map Context.id
      exec .vfFlr s = .next (((cs.foldl (fun t c => t.dropContext c) s).modGuest g.id (fun x => { x with queues := x.queues.map (fun q =>
        { q with ctl := q.ctl &&& 0x7FFFFFFF#32, waiting := none, pages := [] }) })).modPart g.id.part
          (fun p => { p with tagWaiters := p.tagWaiters.filter (fun w => w.1 != g.id.slot) }))) ∧
    (s.guests.find? (fun g => g.vf == some n) = none → exec .vfFlr s = .next s) ∧
    (let t : State := { s with dev := { s.dev with in0 := if n = 0 then true else s.dev.in0, in1 := if n = 1 then true else s.dev.in1 } }
     ((n < 2 ∧ s.dev.lbCtl.getLsbD (28 + n) = true) → exec .safetyTrigger s = .next ((t.tellAll 0x5D (BitVec.ofNat 64 n) 0).lbFreeze 0x5D)) ∧
     ((2 ≤ n ∨ s.dev.lbCtl.getLsbD (28 + n) = false) → exec .safetyTrigger s = .next (t.tellAll 0x5D (BitVec.ofNat 64 n) 0))) ∧
    (exec .triggerInputRise s = .next { s with dev := { s.dev with in0 := if n = 0 then false else s.dev.in0, in1 := if n = 1 then false else s.dev.in1 } })) ∧
  (∀ (s : State), s.cur = some .device →
    (Config.prompterBeats s.free = true → exec .prompterFailover s = .next { s with free := s.free + 1, dev := { s.dev with beatAt := s.cycle } }) ∧
    (Config.prompterBeats s.free = false →
      let late := s.dev.beatAt.toNat + 100 * Config.cyclesPerMicrosecond
      (s.cycle.toNat < late → exec .prompterFailover s = .next { s with free := s.free + 1 }) ∧
      (late ≤ s.cycle.toNat → exec .prompterFailover s = .next (State.tellAll
        { s with free := s.free + 1, dev := { s.dev with activeDie := 1 - s.dev.activeDie, beatAt := s.cycle } } 0x5B (s.dev.fwver.setWidth 64) 0))) ∧
    exec .pcieLinkUp s = .next { s with dev := { s.dev with pcieUp := true } } ∧
    exec .pcieLinkDown s = .next { s with dev := { s.dev with pcieUp := false } } ∧
    exec .safectlForce s = .next { s with dev := { s.dev with incident := true } } ∧
    exec .safectlClr s = .next { s with dev := { s.dev with incident := false } } ∧
    (s.dev.powered = true → exec .powerGood s = .next s) ∧
    (s.dev.powered = false →
      (bootImage s.dev.firmware = none → exec .powerGood s = .next { s with dev := { s.dev with powered := true, bootStep := 2, activeDie := 0, fwver := 0 } }) ∧
      (∀ v, bootImage s.dev.firmware = some v →
        let z := s.zeroRange .dram (46 * 2 ^ 31) (48 * 2 ^ 31)
        exec .powerGood s = .next { z with
          free := s.free + 1
          dev := { s.dev with
            powered := true
            bootStep := 6
            activeDie := 0
            beatAt := s.cycle
            fwver := BitVec.ofNat 32 v
            mgtTemp := Config.freeWord s.free
            logTimeAt := s.cycle
            cast := (List.range 64).map (castAtBoot s.dev.retired s.dev.shift)
            coresReleased := true } })) ∧
    (∃ t : State, exec .pfFlr s = .next t ∧ t.parts = [] ∧ t.ctxs = [] ∧ t.pages = [] ∧ t.frames = []))

/-- R434, R435: the Ethernet ports. The layout of descriptors and lists is an open value (log 166). -/
def Obligations.EthernetPortsAct : Prop :=
  (∀ (s : State) (n : Nat), s.cur = some (.unit n) →
    (s.port? n = none → exec .ethernetTransmit s = .next s ∧ exec .ethernetReceive s = .next s ∧ exec .gateControlInterval s = .next s) ∧
    (∀ p, s.port? n = some p →
      (p.part = none → exec .ethernetTransmit s = .next s ∧ exec .ethernetReceive s = .next s) ∧
      (∀ part, p.part = some part →
        (∀ d, p.tx.find? (fun d => p.mask.getLsbD (d.cls % 8)) = some d →
          let off := (State.pieces d.addr d.len).any (fun x => s.addressBad part s.nextId false x.1) = true
          (off → exec .ethernetTransmit s = .next (s.modPort n (fun x => { x with tx := x.tx.erase d }))) ∧
          (¬ off → s.dmaWaits part d.addr d.len false = true → exec .ethernetTransmit s = .next s) ∧
          (¬ off → s.dmaWaits part d.addr d.len false = false →
            let t := s.modPort n (fun x => { x with tx := x.tx.erase d, sent := x.sent ++ [s.readPages d.addr d.len] })
            (d.ctx = none → exec .ethernetTransmit s = .next t) ∧
            (∀ c, d.ctx = some c → exec .ethernetTransmit s =
              .next (t.modCtx c (fun x => { x with atClose := x.atClose ++ [(x.round, .engineSeal)] }))))) ∧
        (p.tx.find? (fun d => p.mask.getLsbD (d.cls % 8)) = none →
          (s.etherFetch n part false p.txNext = none → exec .ethernetTransmit s = .next s) ∧
          (∀ d, s.etherFetch n part false p.txNext = some d →
            exec .ethernetTransmit s = .next (s.modPort n (fun x => { x with tx := x.tx ++ [d], txNext := x.txNext + 1 })))) ∧
        (p.inbox = [] → exec .ethernetReceive s = .next s) ∧
        (∀ data more, p.inbox = data :: more →
          let dropped := s.modPort n (fun x => { x with inbox := more })
          (p.rx = [] →
            (∀ d, s.etherFetch n part true p.rxNext = some d →
              exec .ethernetReceive s = .next (s.modPort n (fun x => { x with rx := [d], rxNext := x.rxNext + 1 }))) ∧
            (s.etherFetch n part true p.rxNext = none →
              (s.dmaWaits part (Config.etherRing n true p.rxNext) 64 false = true → exec .ethernetReceive s = .next s) ∧
              (s.dmaWaits part (Config.etherRing n true p.rxNext) 64 false = false → exec .ethernetReceive s = .next dropped))) ∧
          (∀ d rest, p.rx = d :: rest →
            let bad := d.len < data.length ∨ (State.pieces d.addr data.length).any (fun x => s.addressBad part s.nextId false x.1 || s.imageAt .dram x.1) = true
            (bad → exec .ethernetReceive s = .next dropped) ∧
            (¬ bad → s.dmaWaits part d.addr data.length true = false →
              exec .ethernetReceive s = .next ((s.modPort n (fun x => { x with inbox := more, rx := rest })).writePages d.addr data)) ∧
            (¬ bad → s.dmaWaits part d.addr data.length true = true → exec .ethernetReceive s =
              .next (((State.pieces d.addr data.length).filter (fun x => s.replicaAt part .dram x.1)).foldl (fun t x => t.startCollapse part (s.frameOf .dram x.1)) s))))) ∧
      (p.gates[p.pos]? = none → exec .gateControlInterval s = .next (State.modPort { s with free := s.free + 1 } n (fun x =>
        { x with gates := (Config.gateList n s.free).2.take 256, gateAt := (Config.gateList n s.free).1, pos := 0 }))) ∧
      (∀ m ns, p.gates[p.pos]? = some (m, ns) →
        (s.time.toNat < p.gateAt.toNat → exec .gateControlInterval s = .next s) ∧
        (p.gateAt.toNat ≤ s.time.toNat → exec .gateControlInterval s = .next (s.modPort n (fun x =>
          { x with mask := m, pos := (x.pos + 1) % x.gates.length, gateAt := x.gateAt + ns.setWidth 64 })))))) ∧
  (∀ (s : State) (n : Nat) (data : List Byte), s.cur = some (.bytes n data) →
    let keep (x : EthPort) : EthPort := if x.part.isSome then { x with inbox := x.inbox ++ [data] } else x
    (∀ v, n = s.timePort → Config.syncFrame data = some v → exec .ethernetReceive s = .next (State.modPort { s with time := v } n keep)) ∧
    (n ≠ s.timePort ∨ Config.syncFrame data = none → exec .ethernetReceive s = .next (s.modPort n keep)))

/-- R255, R335, R394 to R397, R423: in-field test, repair and pulls. -/
def Obligations.ScansRepairsAndPullsAct : Prop :=
  (∀ (s : State) (id : Nat) (m : Msg), s.cur = some (.unit id) → s.msg? id = some m → m.phase = 2 → s.scans.find? (fun c => c.msg == m.id) = none →
    let quad := m.region / 4
    let sel := ((List.range 4).filter (fun i => bitsOf (m.op 0) i 1 == 1)).map (fun i => 4 * quad + i)
    (sel = [] ∨ m.op 2 % 64 ≠ 0 ∨ m.region ∈ sel → exec .scanTest s = .next (s.endMsg m 0x3F 0)) ∧
    (sel ≠ [] → m.op 2 % 64 = 0 → m.region ∉ sel →
      (s.scans.any (fun c => c.part == m.ctx.part || c.quad == quad) = true → exec .scanTest s = .next s) ∧
      (s.scans.any (fun c => c.part == m.ctx.part || c.quad == quad) = false → exec .scanTest s = .next (({ s with scans := s.scans ++
        [{ quad := quad, msg := m.id, part := m.ctx.part, ctx := m.ctx, seed := (m.opnds[1]?).getD 0, since := s.cycle, held := sel }] } : State).logEvent 0x17 0xC001 quad)))) ∧
  (∀ (s : State) (id : Nat) (m : Msg) (c : Scan), s.cur = some (.unit id) → s.msg? id = some m → m.phase = 2 → s.scans.find? (fun c => c.msg == m.id) = some c →
    exec .scanTest s = .next (if c.phase = 3 then s.scanReport m c else s)) ∧
  (∀ (s : State) (quad : Nat) (c : Scan), s.cur = some (.unit quad) → s.scans.find? (fun c => c.quad == quad) = some c →
    (c.phase = 0 → s.scanHolders c = [] → exec .scanPhaseEnd s = .next (s.modScan quad (fun x => { x with phase := 1, since := s.cycle }))) ∧
    (c.phase = 1 → (c.since.toNat + 200 * Config.cyclesPerMicrosecond ≤ s.cycle.toNat → exec .scanPhaseEnd s = .next (s.compareRun c)) ∧
      (s.cycle.toNat < c.since.toNat + 200 * Config.cyclesPerMicrosecond → exec .scanPhaseEnd s = .next s)) ∧
    (c.phase = 2 → c.since.toNat + 200 * Config.cyclesPerMicrosecond ≤ s.cycle.toNat → exec .scanPhaseEnd s = .next (s.compareAgain c)) ∧
    (c.phase = 0 → s.scanHolders c ≠ [] → exec .scanPhaseEnd s = .next
      (((s.scanHolders c).filter (fun p => s.eligible p)).foldl (fun (t : State) p => if ((t.page? p.key).map Page.placed).getD false then t.evict p else t) s)) ∧
    (∀ m, c.phase = 0 → c.since.toNat + 100 * Config.cyclesPerMicrosecond ≤ s.cycle.toNat → s.scanHolders c ≠ [] → s.msg? c.msg = some m →
      exec .vacateDeadline s = .next (({ s with scans := s.scans.filter (fun x => x.quad != quad) } : State).endMsg m 0x3F 0)) ∧
    (c.phase ≠ 0 → exec .vacateDeadline s = .next s) ∧
    (let urgent := (s.part c.part).pending.any (fun k => decide (s.pagePrio k = 7) && s.ctxServed k.ctx && decide (s.regionCount k.ctx < s.quotaMax k.ctx))
     (c.phase < 3 → urgent = true → s.freeRegions c.part = [] → exec .quadClaim s = .next (s.abortScan c)) ∧
     (3 ≤ c.phase ∨ urgent = false ∨ s.freeRegions c.part ≠ [] → exec .quadClaim s = .next s))) ∧
  (∀ (s : State) (l : Nat), s.cur = some (.unit l) →
    (l ∉ s.dev.retiring → exec .regionRetire s = .next s) ∧
    (l ∈ s.dev.retiring → l < 64 →
      (s.pages.find? (fun p => p.region == some l) = none → exec .regionRetire s = .next (s.rewriteCast l)) ∧
      (∀ p, s.pages.find? (fun p => p.region == some l) = some p →
        let t := s.evict p
        (p.st = .stopping ∨ (s.ctx p.key.ctx).frozen = true → exec .regionRetire s = .next s) ∧
        ((s.ctx p.key.ctx).frozen = false → p.st = .loading → exec .regionRetire s = .next (((State.evictGroup p).foldl (fun (t : State) k =>
          t.modPage k (fun y => { y with st := .absent, region := none })) s).makePending p.key)) ∧
        ((s.ctx p.key.ctx).frozen = false → p.st ≠ .stopping → p.st ≠ .loading →
          (s.groupArmed p = true → exec .regionRetire s = .next s) ∧
          (s.groupArmed p = false → ((t.page? p.key).map Page.st) = some .stopping → exec .regionRetire s = .next (t.makePending p.key)) ∧
          (s.groupArmed p = false → ((t.page? p.key).map Page.st) ≠ some .stopping → exec .regionRetire s = .next t))))) ∧
  (∀ (s : State), s.cur = some .device →
    (s.dev.repairWrites = 0 → exec .repairMapWrite s = .next s) ∧
    (s.dev.repairWrites ≠ 0 →
      let t : State := { s with dev := { s.dev with repairWrites := 0, repairFor := [], repairSeq := s.dev.repairSeq + 1 } }
      (s.dev.repairFor = [] → exec .repairMapWrite s = .next (t.healthIrq 0x5C)) ∧
      (s.dev.repairFor ≠ [] → exec .repairMapWrite s = .next
        (s.dev.repairFor.eraseDups.foldl (fun u p => u.tellHyp p 0x5C (BitVec.ofNat 64 (0x200 + (s.dev.repairSeq + 1) % 2)) 0 none) t)))) ∧
  (∀ (s : State) (part frame : Nat), s.cur = some (.units part frame) →
    let p := s.part part
    (s.invals.any (fun v => v.part == part && v.collapse == some frame) = true → exec .replicaCollapse s = .next s) ∧
    (s.invals.any (fun v => v.part == part && v.collapse == some frame) = false → exec .replicaCollapse s = .next (s.modPart part (fun p => { p with
      collapsing := p.collapsing.filter (fun c => c.1 != frame)
      placement := p.placement ++ (p.collapsing.filter (fun c => c.1 == frame)).map Prod.snd }))) ∧
    (frame ∉ p.pullBits → exec .pullRetry s = .next s) ∧
    (frame ∈ p.pullBits → p.frozen = false →
      (p.pulls.find? (fun x => x.1 == frame) = none →
        exec .pullRetry s = .next (s.modPart part (fun y => { y with pulls := y.pulls ++ [(frame, 0, s.cycle)] }))) ∧
      (∀ f n since, p.pulls.find? (fun x => x.1 == frame) = some (f, n, since) →
        (s.cycle.toNat < since.toNat + 2000 * Config.cyclesPerMicrosecond → exec .pullRetry s = .next s) ∧
        (since.toNat + 2000 * Config.cyclesPerMicrosecond ≤ s.cycle.toNat → n < 3 → exec .pullRetry s = .next (s.modPart part (fun y =>
          { y with pulls := y.pulls.map (fun x => if x.1 = frame then (frame, n + 1, s.cycle) else x) }))) ∧
        (since.toNat + 2000 * Config.cyclesPerMicrosecond ≤ s.cycle.toNat → 3 ≤ n →
          let told := s.postVoid (.hypervisor part) (s.pullRec part frame)
          let others := (s.pullReqs part frame).map (fun r => (r.ctx, r.round)) ++
            (p.pullWaits.filter (fun x => x.1 == frame)).filterMap (fun x => x.2.ctx.map (fun c => (c, x.2.round)))
          exec .pullRetry s = .next ((others.foldl (fun t x => t.requestVoid x.1 x.2) told).modPart part (fun y => { y with
            frozen := true
            pulls := y.pulls.filter (fun x => x.1 != frame)
            pullWaits := y.pullWaits.filter (fun x => x.1 != frame) }))))) ∧
    (p.frozen = true → exec .pullRetry s = .next s)) ∧
  (∀ (s : State) (frame : Nat) (data : List Byte), s.cur = some (.bytes frame data) →
    (s.parts.any (fun p => p.pullBits.contains frame) = true →
      let t := s.writeNow .dram (frame * 4096) (data.take 4096)
      exec .pullComplete s = .next { t with parts := t.parts.map (fun p => { p with
        pullBits := p.pullBits.filter (fun f => f != frame)
        pulls := p.pulls.filter (fun x => x.1 != frame)
        pullWaits := p.pullWaits.filter (fun x => x.1 != frame) }) }) ∧
    (s.parts.any (fun p => p.pullBits.contains frame) = false → exec .pullComplete s = .next s))

/-- R102: the logic opcodes. -/
def Obligations.LogicOpcodesActOnAllBits : Prop :=
  let bits (h : Bool → Bool → Bool) (_ : Form) (g : Args) (v : Word) (f : Flags) : Prop :=
    f = Flags.none ∧ ∀ i < 32, v.getLsbD i = h (g.a.v.getLsbD i) (g.b.v.getLsbD i)
  FiringGives .and 2 (bits (fun a b => a && b)) ∧ FiringGives .or 2 (bits (fun a b => a || b)) ∧
  FiringGives .xor 2 (bits (fun a b => a != b)) ∧ FiringGives .andn 2 (bits (fun a b => a && !b)) ∧
  FiringGives .not 1 (bits (fun a _ => !a)) ∧
  ∀ (f : Form), (∀ p ∈ [(Instr.and f, 0x17), (.or f, 0x18), (.xor f, 0x19), (.andn f, 0x1A), (.not f, 0x1B)],
    ((opInfo p.1).map OpInfo.code = some p.2 ∧ (opInfo p.1).map OpInfo.tys = some []) ∧ ∀ site, WellFormed site p.1 → f.md = 0)

/-- R104: the unary bit opcodes. -/
def Obligations.UnaryBitOpcodesCountAndReverse : Prop :=
  FiringGives .clz 1 (fun _ g v f => f = Flags.none ∧ v.toNat ≤ 32 ∧ (∀ i < v.toNat, g.a.v.getLsbD (31 - i) = false) ∧
    (v.toNat < 32 → g.a.v.getLsbD (31 - v.toNat) = true)) ∧
  FiringGives .ctz 1 (fun _ g v f => f = Flags.none ∧ v.toNat ≤ 32 ∧ (∀ i < v.toNat, g.a.v.getLsbD i = false) ∧
    (v.toNat < 32 → g.a.v.getLsbD v.toNat = true)) ∧
  FiringGives .popc 1 (fun _ g v f => f = Flags.none ∧ v.toNat = ((List.range 32).filter (fun i => g.a.v.getLsbD i)).length) ∧
  FiringGives .brev 1 (fun _ g v f => f = Flags.none ∧ ∀ i < 32, v.getLsbD (31 - i) = g.a.v.getLsbD i) ∧
  ∀ f : Form, (opInfo (.clz f)).map OpInfo.code = some 0x21 ∧ (opInfo (.ctz f)).map OpInfo.code = some 0x22 ∧
    (opInfo (.popc f)).map OpInfo.code = some 0x23 ∧ (opInfo (.brev f)).map OpInfo.code = some 0x24

/-- R106: byte permutation. -/
def Obligations.BytepSelectsBytes : Prop :=
  FiringGives .bytep 3 (fun _ g v f => f = Flags.none ∧
    (∀ i < 4, laneNat 8 i v =
      (if g.c.v.getLsbD (4 * i + 3) then 0
       else
        let k := bitsOf g.c.v.toNat (4 * i) 3
        if k < 4 then laneNat 8 k g.a.v else laneNat 8 (k - 4) g.b.v)) ∧
    (g.a.v = 0x44332211 → g.b.v = 0x88776655 → g.c.v = 0x00008405 → v = 0x00551166)) ∧
  ∀ f : Form, (opInfo (.bytep f)).map OpInfo.code = some 0x28 ∧ (opInfo (.bytep f)).map OpInfo.tys = some []

/-- R116: FABS and FNEG. -/
def Obligations.SignOpcodesChangeTheSignBit : Prop :=
  FiringGives .fabs 1 (fun w g v f => w.ty ∈ [Ty.f32, .bf16x2, .f16x2] → f = Flags.none ∧
    ∀ i < 32, v.getLsbD i = (if (i + 1) % w.ty.width = 0 then false else g.a.v.getLsbD i)) ∧
  FiringGives .fneg 1 (fun w g v f => w.ty ∈ [Ty.f32, .bf16x2, .f16x2] → f = Flags.none ∧
    ∀ i < 32, v.getLsbD i = (if (i + 1) % w.ty.width = 0 then !g.a.v.getLsbD i else g.a.v.getLsbD i)) ∧
  ∀ f : Form, (∀ p ∈ [(Instr.fabs f, 0x49), (.fneg f, 0x4A)], ((opInfo p.1).map OpInfo.code = some p.2 ∧
      (opInfo p.1).map OpInfo.tys = some [.f32, .bf16x2, .f16x2]) ∧ ∀ site, WellFormed site p.1 → f.md = 0)

/-- R33: integer division. -/
def Obligations.DivisionTruncates : Prop :=
  let lane (t : Ty) (j : Nat) (v : Word) : Int := laneInt t (laneNat t.width j v)
  let quot (t : Ty) (a b : Int) : Int :=
    if b = 0 then (if t.signed then -1 else 2 ^ t.width - 1)
    else if t.signed = true ∧ a = -(2 ^ (t.width - 1)) ∧ b = -1 then a else a.tdiv b
  let rem (t : Ty) (a b : Int) : Int :=
    if b = 0 then a else if t.signed = true ∧ a = -(2 ^ (t.width - 1)) ∧ b = -1 then 0 else a - a.tdiv b * b
  let holds (h : Ty → Int → Int → Int) (tys : List Ty) (w : Form) (g : Args) (v : Word) (f : Flags) : Prop :=
    w.ty ∈ tys → (∀ j < w.ty.lanes, lane w.ty j v = h w.ty (lane w.ty j g.a.v) (lane w.ty j g.b.v)) ∧
      f = { dz := f.dz } ∧ (f.dz = true ↔ ∃ j < w.ty.lanes, lane w.ty j g.b.v = 0)
  FiringGives .div 2 (holds quot [.i32, .i16x2, .i8x4]) ∧ FiringGives .divn 2 (holds quot [.n32, .n16x2, .n8x4]) ∧
  FiringGives .rem 2 (holds rem [.i32, .i16x2, .i8x4]) ∧ FiringGives .remn 2 (holds rem [.n32, .n16x2, .n8x4])

/-- R59: immediates. -/
def Obligations.ImmediatesFillTheirLanes : Prop :=
  (∀ (w : Blk) (left right : Bool) (third : Word) (i : Nat) (f : Firing) (g : Args) (p : Word),
    blockArgs w left right third i f = some (g, p) → w.ri = true →
    (w.ty = .i32 → g.b.v.toInt = w.imm.toInt) ∧ (w.ty = .n32 → g.b.v.toNat = w.imm.toNat) ∧
    (w.ty = .f32 → laneNat 16 1 g.b.v = w.imm.toNat ∧ laneNat 16 0 g.b.v = 0) ∧
    (w.ty ∈ [Ty.i16x2, .n16x2, .bf16x2, .f16x2] → ∀ j < 2, laneNat 16 j g.b.v = w.imm.toNat) ∧
    (w.ty ∈ [Ty.i8x4, .n8x4, .e4m3x4, .e5m2x4] → ∀ j < 4, laneNat 8 j g.b.v = w.imm.toNat % 256)) ∧
  (∀ (site : Site) (i : Instr) (b : Blk) (r : Rule) (p : Bool), (∀ q, i ≠ .nop q) → islandRule i = none →
    ruleOf site i = some (.block b, r, p) → WellFormed site i →
    (b.ri = true → r.immRaw = false → b.ty ≠ .fx4x8 ∧ (b.ty.width = 8 → b.imm.toNat < 256)) ∧ (b.ri = false → r.imm = 0 → b.imm = 0))

/-- R86, R306: one step (the agenda is the model's own, log 2). -/
def Obligations.StepRunsTheDecodedWord : Prop :=
  ∀ (s : State) (rest : List Turn),
    let run (p : Party) (i : Instr) : Prop := step s = exec i { s with agenda := rest, cur := some (.party p) }
    (∀ k n p i, s.agenda = .party (.elem k n) :: rest → s.page? k = some p → decode .elem (.ecw (p.ecwWord n)) = .ok i → run (.elem k n) i) ∧
    (∀ k b j p h i, s.agenda = .party (.actor k b j) :: rest → s.page? k = some p → p.header? b = some h → j < h.nins →
      decode h.site (.blk (p.insWord h j)) = .ok i → run (.actor k b j) i) ∧
    (∀ k p i, s.agenda = .party (.island k) :: rest → s.page? k = some p → p.dyn.island.phase = .running →
      p.dyn.island.pc < p.islandHeader.nins → decode .island (.blk (p.insWord p.islandHeader p.dyn.island.pc)) = .ok i → run (.island k) i) ∧
    (∀ k n p c, s.agenda = .party (.elem k n) :: rest → s.page? k = some p → decode .elem (.ecw (p.ecwWord n)) = .error c →
      step s = .refused (.undecodable c)) ∧
    (∀ k n, s.agenda = .party (.elem k n) :: rest → s.page? k = none → step s = .next { s with agenda := rest, cur := none }) ∧
    (∀ i u, s.agenda = .event i u :: rest → step s = exec i { s with agenda := rest, cur := some u }) ∧
    (∀ a, s.agenda = .core a :: rest → step s = .next (coreAccess a { s with agenda := rest, cur := none })) ∧
    (s.agenda = [] → ∃ t, step s = .next t ∧ t.cycle = s.cycle + 1 ∧ t.agenda.Perm (sweep s) ∧ t.pages = s.pages ∧ t.ctxs = s.ctxs ∧
      t.sram = s.sram ∧ t.dram = s.dram)

/-- R74, R303, R305, R429, R430, R433: the accesses of the cores and the host (log 129). -/
def Obligations.CoresReachMemoryAndRegisters : Prop :=
  ∀ (s : State) (a : CoreAccess) (addr : Nat),
    (a.size ≠ 0 → a.bar = none → a.core ≠ State.hostParty ∧ coreTarget s a.addr = some (.memory .dram addr) ∨ a.core = State.hostParty ∧ addr = a.addr →
      s.coreBehind a = false →
      let pa := s.backed none .dram addr
      let frame := addr / 4096
      let clear := s.imageFrame frame = false ∧ s.parts.any (fun p => p.frozen && p.pullBits.contains frame) = false ∧
        pa / 4096 ∉ s.dev.poisoned
      let s0 := s.noteChoice (State.arbOf (homeOf .dram pa)) State.coreInput
      let open' := (s.blockOwner addr).bind (fun p => if s.replicated p frame then some p else none) = none
      (∀ bs, a.store = some bs → s.imageFrame frame = true → coreAccess a s = s.coreAnswer a .refused ∧
        (s.coreAnswer a .refused).dram = s.dram ∧ (s.coreAnswer a .refused).homeWrites = s.homeWrites) ∧
      (∀ bs, a.store = some bs → clear → open' → s.coreHeld .dram pa a.size true = false →
        coreAccess a s = ((if a.release then s0.coreRelease a.core else s0).coreStore a.core .dram pa (bs.take a.size)).coreAnswer a .stored) ∧
      (a.store = none → s.parts.any (fun p => p.frozen && p.pullBits.contains frame) = false → pa / 4096 ∉ s.dev.poisoned →
        s.coreHeld .dram pa a.size false = false → (.dram, pa / 64) ∉ s.dev.failing → (.dram, pa / 64) ∉ s.dev.suspect →
        let r := s0.coreLoad a.core .dram pa a.size (wordsOf pa a.size)
        coreAccess a s = (if a.acquire then r.2.coreAcquire a.core else r.2).coreAnswer a (.value (wordOfBytes r.1))) ∧
      (clear → s.coreHeld .dram pa a.size a.store.isSome = true → coreAccess a s = s.coreWait a)) ∧
    (a.size = 0 → s.coreBehind a = false →
      let t := if a.acquire then s.coreAcquire a.core else s
      coreAccess a s = (if a.release then t.coreRelease a.core else t).coreAnswer a .stored) ∧
    (∀ vf, a.size ≠ 0 → a.bar = some (some vf) → a.addr < 2 ^ 20 → vfWindow s vf a.addr = none →
      coreAccess a s = s.coreAnswer a (if a.store.isSome then .stored else .value 0)) ∧
    (∀ o, a.size ≠ 0 → (a.bar = none ∧ a.core ≠ State.hostParty ∧ coreTarget s a.addr = some (.window o)) ∨
        (a.bar = some none ∧ o = a.addr ∧ o < 2 ^ 26) ∨ (∃ vf, a.bar = some (some vf) ∧ a.addr < 2 ^ 20 ∧ vfWindow s vf a.addr = some o) →
      (s.coreBehind a = true → coreAccess a s = s.coreWait a) ∧
      (s.coreBehind a = false → (a.size ≠ 4 ∧ a.size ≠ 8) ∨ o % a.size ≠ 0 → coreAccess a s = s.coreAnswer a .refused) ∧
      (s.coreBehind a = false → a.size = 4 ∨ a.size = 8 → o % a.size = 0 →
        (a.size = 4 → ∀ bs, a.store = some bs → (∃ r, regAt o = some r ∧ r.size = 8) ∨ (∃ r, regAt (o - 4) = some r ∧ r.size = 8) →
          coreAccess a s = s.coreAnswer a .stored) ∧
        (a.size = 4 → a.store = none → (∃ r, regAt (o - 4) = some r ∧ r.size = 8) → coreAccess a s = s.coreAnswer a .refused) ∧
        ((∀ r, regAt (o - 4) = some r → r.size = 4 ∨ a.size = 8) → ∀ r, regAt o = some r → r.size = a.size →
          (∀ bs, a.store = some bs → coreAccess a s = ((s.regWrite r (BitVec.ofNat 64 (wordOfBytes bs))).coreTells a.core r).coreAnswer a .stored) ∧
          (a.store = none → coreAccess a s = s.coreAnswer a (.value (s.regValue r)))) ∧
        (regAt o = none → (∀ r, regAt (o - 4) = some r → r.size = 4 ∨ a.size = 8) → a.store = none → coreAccess a s = s.coreAnswer a (.value 0)) ∧
        (regAt o = none → a.store ≠ none → coreAccess a s = s.coreAnswer a .stored)))

/-- R53 to R61, R89: worked words. -/
def Obligations.WordsDecodeAsWritten : Prop :=
  decode (.actor false false) (.blk 0x4218885804000000) =
    .ok (.fmul (.block { pm := .always, ty := .f32, md := 1, ri := false, t1 := .left 5, t2 := .emit 1, x := 0, imm := 0 })) ∧
  decode (.actor false false) (.blk 0x4224885804000000) = .error 0x06 ∧
  decode (.actor false false) (.blk 0xC018885804000000) = .error 0x03 ∧
  decode (.actor false false) (.blk 0x8900000000000000) = .error 0x02 ∧
  decode .elem (.ecw 0x29004000009900000000000000000002) =
    .ok (.shrr (.elem { pm := .always, ty := .i32, md := 0, qL := true, qR := false, qP := false, qO := false, csrc := .literal, carg := 0, x := 0, route0 := .pe 3 1 .L, route1 := .none, rpt := 0, pat := .plain, eosp := .forward, rwin := 0, sckl := .any, sckr := .any, const := 2 })) ∧
  decode .island (.blk 0xD418D00000003F80) =
    .ok (.vbcast { ty := .f32, md := 1, ri := true, da := .a 0, db := .t 0, dc := .t 0, x := 0, imm := 0x3F80 })

/-- R53 to R61, R86, R89: the encoding loses nothing. -/
def Obligations.EncodeThenDecode : Prop :=
  ∀ (site : Site) (i : Instr), WellFormed site i → ∃ c, encode i = some c ∧ decode site c = .ok i

/-- R53 to R61, R86, R89: the encoding is unambiguous. -/
def Obligations.DecodeThenEncode : Prop :=
  ∀ (site : Site) (c : Code) (i : Instr), decode site c = .ok i → WellFormed site i ∧ encode i = some c

/-- R254, R292, R339, R348, R368, R392, R398, R411, R427, R437, R441: reset. -/
def Obligations.ResetState : Prop :=
  (let s := State.reset
   s.dev.mgtTemp = 0x80008000 ∧ s.dev.mgtPwr = 0 ∧ s.dev.plimit = 480 ∧ s.dev.incident = false ∧ s.dev.lbCtl = 0x80000000 ∧ s.dev.lbWptr = 0 ∧
   s.dev.cast.length = 64 ∧ (∀ e ∈ s.dev.cast, e = 0) ∧ (∀ g, s.granule g = 0) ∧
   (∀ k < 46, s.dev.blocks[k]? = some .free) ∧ s.dev.blocks[46]? = some .logbook ∧ s.dev.blocks[47]? = some .logbook ∧
   s.parts = [] ∧ s.guests = [] ∧ s.ctxs = [] ∧ s.graphs = [] ∧ s.pages = [] ∧ s.frames = []) ∧
  (∀ c : CtxId,
    let x : Context := { id := c }
    x.weight = 1 ∧ x.rtmr = 16 ∧ x.covUp = 0x3D800000 ∧ x.covLo = 0x3C000000 ∧ x.covCtl = 4 ∧ x.s1root = 0 ∧ x.round = 0) ∧
  (∀ r : RingId,
    let x : Ring := { id := r }
    x.base = 0 ∧ x.ctl = 0 ∧ x.head = 0 ∧ x.tail = 0) ∧
  (∀ n : Nat,
    let q : Queue := { num := n }
    q.base = 0 ∧ q.ctl = 0 ∧ q.tail = 0 ∧ q.head = 0)

/-- R291, R310: the invariant of the memories at reset (log 1). -/
def Obligations.MemoriesAreCanonicalAtReset : Prop := MemOk State.reset

/-- R291, R310, R311: the invariant of the memories (log 1). -/
def Obligations.EveryStepKeepsMemoriesCanonical : Prop :=
  ∀ s t : State, MemOk s → step s = .next t → MemOk t

/-- R29 to R31, R54, R79: the frame of a stateless element. -/
def Obligations.ElementsChangeOnlyTheirOwnState : Prop :=
  ∀ (i : Instr) (o : Stateless) (e : Ecw) (k : PageKey) (n : Nat) (s t : State),
    statelessOp i = some o → o.form = .elem e → s.cur = some (.party (.elem k n)) → exec i s = .next t →
    SameBytes s t ∧ SamePages k s t ∧ (∀ p, t.part p = { s.part p with ovfWaits := (t.part p).ovfWaits }) ∧
    (let d := s.dyn k
     let d' := t.dyn k
     (∀ m, m ≠ n → d'.elem m = d.elem m) ∧ (∀ b, d'.actor b = d.actor b) ∧ d'.island = d.island ∧ d'.args = d.args ∧
     (∀ m, d'.node m = d.node m) ∧ d.aflg &&& d'.aflg = d.aflg ∧
     (∀ p : Place, (∀ q, p ≠ .queue n q) → (∀ b, p ≠ .out n b) → d'.fifo p = d.fifo p))

/-- R29 to R31, R58, R60, R132: the frame of a stateless instruction of a block. -/
def Obligations.BlocksChangeOnlyTheirOwnState : Prop :=
  ∀ (i : Instr) (o : Stateless) (w : Blk) (k : PageKey) (b j : Nat) (s t : State),
    statelessOp i = some o → o.form = .block w → s.cur = some (.party (.actor k b j)) → exec i s = .next t →
    SameBytes s t ∧ SamePages k s t ∧
    (let d := s.dyn k
     let d' := t.dyn k
     (∀ m, d'.elem m = d.elem m) ∧ (∀ c, c ≠ b → d'.actor c = d.actor c) ∧ d'.island = d.island ∧ d'.args = d.args ∧
     (∀ m, d'.node m = d.node m) ∧ d.aflg &&& d'.aflg = d.aflg ∧
     (∀ p : Place, (∀ l, p ≠ .laneIn l) → d'.fifo p = d.fifo p))

/-- R172, R173, R177, R294: an issue stores nothing. -/
def Obligations.IssuingAnAccessStoresNothing : Prop :=
  ∀ (e : Ecw) (k : PageKey) (n : Nat) (i : Instr) (s t : State),
    let f : Form := .elem e
    i ∈ [.ld f, .st f, .pf f, .aadd f, .aadds f, .amin f, .amax f, .aminn f, .amaxn f, .aand f, .aor f, .axor f, .axch f, .ainc f, .acas f, .afadd f] →
    s.cur = some (.party (.elem k n)) → exec i s = .next t →
    SameBytes s t ∧ SamePages k s t ∧ (∀ m, m ≠ n → (t.dyn k).elem m = (s.dyn k).elem m) ∧ (∀ b, (t.dyn k).actor b = (s.dyn k).actor b)

/-- R173, R294, R300, R310: the bytes of a store. -/
def Obligations.StoreReachesItsBytesAlone : Prop :=
  ∀ (s : State) (h : Home) (n : Nat) (r : Req), s.cur = some (.home h n) →
    let u := (s.letIn h n).joinClose h
    u.readyHeads h = [r] → u.replayLets h r = true → r.phase = .queued → r.needClose = false → r.space = .sram →
    (r.op = .store ∨ (r.op = .store8 ∧ r.size = 8)) → r.ctx = r.issuer.page.ctx → 0 < r.size →
    ∃ t : State, exec .homeArbitrate s = .next t ∧
      ∀ (sp : Space) (c : Option CtxId) (a : Nat), t.byteAt sp c a =
        (if sp = .sram ∧ c = some r.ctx ∧ r.addr ≤ a ∧ a < r.addr + r.size then BitVec.ofNat 8 (r.b.toNat / 2 ^ (8 * (a - r.addr)))
         else s.byteAt sp c a)

/-- R300, R307, R310: uncommitted writes are private to their context. -/
def Obligations.TheWorkOfTheHomeKeepsOtherContexts : Prop :=
  ∀ (s : State) (w : Who) (sp : Space) (a va : Nat) (bs : List Byte) (atomic : Bool) (sp' : Space) (c : Option CtxId) (x : Nat),
    (s.performWrite w sp a va bs atomic false).2.byteAt sp' c x =
      (if sp' = sp ∧ c = some w.ctx ∧ a ≤ x ∧ x < a + bs.length then (bs[x - a]?).getD 0 else s.byteAt sp' c x)
end

