-- ==== Sys2Proof/Laws/State.lean ====
section
/-!
SUPPORT. What the updates of the state leave unchanged, field by field, and reading a collection behind an update of it.
-/
namespace Sys2Proof.Machine

/-! ### modPage -/

@[simp] theorem State.modPage_cycle (s : State) (k : PageKey) (f : Page → Page) : (s.modPage k f).cycle = s.cycle := rfl
@[simp] theorem State.modPage_time (s : State) (k : PageKey) (f : Page → Page) : (s.modPage k f).time = s.time := rfl
@[simp] theorem State.modPage_dev (s : State) (k : PageKey) (f : Page → Page) : (s.modPage k f).dev = s.dev := rfl
@[simp] theorem State.modPage_sram (s : State) (k : PageKey) (f : Page → Page) : (s.modPage k f).sram = s.sram := rfl
@[simp] theorem State.modPage_dram (s : State) (k : PageKey) (f : Page → Page) : (s.modPage k f).dram = s.dram := rfl
@[simp] theorem State.modPage_hostMem (s : State) (k : PageKey) (f : Page → Page) : (s.modPage k f).hostMem = s.hostMem := rfl
@[simp] theorem State.modPage_granules (s : State) (k : PageKey) (f : Page → Page) : (s.modPage k f).granules = s.granules := rfl
@[simp] theorem State.modPage_parts (s : State) (k : PageKey) (f : Page → Page) : (s.modPage k f).parts = s.parts := rfl
@[simp] theorem State.modPage_exports (s : State) (k : PageKey) (f : Page → Page) : (s.modPage k f).exports = s.exports := rfl
@[simp] theorem State.modPage_guests (s : State) (k : PageKey) (f : Page → Page) : (s.modPage k f).guests = s.guests := rfl
@[simp] theorem State.modPage_ctxs (s : State) (k : PageKey) (f : Page → Page) : (s.modPage k f).ctxs = s.ctxs := rfl
@[simp] theorem State.modPage_rings (s : State) (k : PageKey) (f : Page → Page) : (s.modPage k f).rings = s.rings := rfl
@[simp] theorem State.modPage_graphs (s : State) (k : PageKey) (f : Page → Page) : (s.modPage k f).graphs = s.graphs := rfl
@[simp] theorem State.modPage_frames (s : State) (k : PageKey) (f : Page → Page) : (s.modPage k f).frames = s.frames := rfl
@[simp] theorem State.modPage_reqs (s : State) (k : PageKey) (f : Page → Page) : (s.modPage k f).reqs = s.reqs := rfl
@[simp] theorem State.modPage_hist (s : State) (k : PageKey) (f : Page → Page) : (s.modPage k f).hist = s.hist := rfl
@[simp] theorem State.modPage_seen (s : State) (k : PageKey) (f : Page → Page) : (s.modPage k f).seen = s.seen := rfl
@[simp] theorem State.modPage_nodeDeps (s : State) (k : PageKey) (f : Page → Page) : (s.modPage k f).nodeDeps = s.nodeDeps := rfl
@[simp] theorem State.modPage_releases (s : State) (k : PageKey) (f : Page → Page) : (s.modPage k f).releases = s.releases := rfl
@[simp] theorem State.modPage_homeWrites (s : State) (k : PageKey) (f : Page → Page) : (s.modPage k f).homeWrites = s.homeWrites := rfl
@[simp] theorem State.modPage_windows (s : State) (k : PageKey) (f : Page → Page) : (s.modPage k f).windows = s.windows := rfl
@[simp] theorem State.modPage_fadds (s : State) (k : PageKey) (f : Page → Page) : (s.modPage k f).fadds = s.fadds := rfl
@[simp] theorem State.modPage_msgs (s : State) (k : PageKey) (f : Page → Page) : (s.modPage k f).msgs = s.msgs := rfl
@[simp] theorem State.modPage_seqs (s : State) (k : PageKey) (f : Page → Page) : (s.modPage k f).seqs = s.seqs := rfl
@[simp] theorem State.modPage_tlb (s : State) (k : PageKey) (f : Page → Page) : (s.modPage k f).tlb = s.tlb := rfl
@[simp] theorem State.modPage_walks (s : State) (k : PageKey) (f : Page → Page) : (s.modPage k f).walks = s.walks := rfl
@[simp] theorem State.modPage_invals (s : State) (k : PageKey) (f : Page → Page) : (s.modPage k f).invals = s.invals := rfl
@[simp] theorem State.modPage_heldFaults (s : State) (k : PageKey) (f : Page → Page) : (s.modPage k f).heldFaults = s.heldFaults := rfl
@[simp] theorem State.modPage_understudies (s : State) (k : PageKey) (f : Page → Page) : (s.modPage k f).understudies = s.understudies := rfl
@[simp] theorem State.modPage_scans (s : State) (k : PageKey) (f : Page → Page) : (s.modPage k f).scans = s.scans := rfl
@[simp] theorem State.modPage_censuses (s : State) (k : PageKey) (f : Page → Page) : (s.modPage k f).censuses = s.censuses := rfl
@[simp] theorem State.modPage_ctl (s : State) (k : PageKey) (f : Page → Page) : (s.modPage k f).ctl = s.ctl := rfl
@[simp] theorem State.modPage_traps (s : State) (k : PageKey) (f : Page → Page) : (s.modPage k f).traps = s.traps := rfl
@[simp] theorem State.modPage_rr (s : State) (k : PageKey) (f : Page → Page) : (s.modPage k f).rr = s.rr := rfl
@[simp] theorem State.modPage_nextId (s : State) (k : PageKey) (f : Page → Page) : (s.modPage k f).nextId = s.nextId := rfl
@[simp] theorem State.modPage_nextNotify (s : State) (k : PageKey) (f : Page → Page) : (s.modPage k f).nextNotify = s.nextNotify := rfl
@[simp] theorem State.modPage_agenda (s : State) (k : PageKey) (f : Page → Page) : (s.modPage k f).agenda = s.agenda := rfl
@[simp] theorem State.modPage_cur (s : State) (k : PageKey) (f : Page → Page) : (s.modPage k f).cur = s.cur := rfl
@[simp] theorem State.modPage_free (s : State) (k : PageKey) (f : Page → Page) : (s.modPage k f).free = s.free := rfl

/-! ### modDyn -/

@[simp] theorem State.modDyn_cycle (s : State) (k : PageKey) (f : PageDyn → PageDyn) : (s.modDyn k f).cycle = s.cycle := rfl
@[simp] theorem State.modDyn_time (s : State) (k : PageKey) (f : PageDyn → PageDyn) : (s.modDyn k f).time = s.time := rfl
@[simp] theorem State.modDyn_dev (s : State) (k : PageKey) (f : PageDyn → PageDyn) : (s.modDyn k f).dev = s.dev := rfl
@[simp] theorem State.modDyn_sram (s : State) (k : PageKey) (f : PageDyn → PageDyn) : (s.modDyn k f).sram = s.sram := rfl
@[simp] theorem State.modDyn_dram (s : State) (k : PageKey) (f : PageDyn → PageDyn) : (s.modDyn k f).dram = s.dram := rfl
@[simp] theorem State.modDyn_hostMem (s : State) (k : PageKey) (f : PageDyn → PageDyn) : (s.modDyn k f).hostMem = s.hostMem := rfl
@[simp] theorem State.modDyn_granules (s : State) (k : PageKey) (f : PageDyn → PageDyn) : (s.modDyn k f).granules = s.granules := rfl
@[simp] theorem State.modDyn_parts (s : State) (k : PageKey) (f : PageDyn → PageDyn) : (s.modDyn k f).parts = s.parts := rfl
@[simp] theorem State.modDyn_exports (s : State) (k : PageKey) (f : PageDyn → PageDyn) : (s.modDyn k f).exports = s.exports := rfl
@[simp] theorem State.modDyn_guests (s : State) (k : PageKey) (f : PageDyn → PageDyn) : (s.modDyn k f).guests = s.guests := rfl
@[simp] theorem State.modDyn_ctxs (s : State) (k : PageKey) (f : PageDyn → PageDyn) : (s.modDyn k f).ctxs = s.ctxs := rfl
@[simp] theorem State.modDyn_rings (s : State) (k : PageKey) (f : PageDyn → PageDyn) : (s.modDyn k f).rings = s.rings := rfl
@[simp] theorem State.modDyn_graphs (s : State) (k : PageKey) (f : PageDyn → PageDyn) : (s.modDyn k f).graphs = s.graphs := rfl
@[simp] theorem State.modDyn_frames (s : State) (k : PageKey) (f : PageDyn → PageDyn) : (s.modDyn k f).frames = s.frames := rfl
@[simp] theorem State.modDyn_reqs (s : State) (k : PageKey) (f : PageDyn → PageDyn) : (s.modDyn k f).reqs = s.reqs := rfl
@[simp] theorem State.modDyn_hist (s : State) (k : PageKey) (f : PageDyn → PageDyn) : (s.modDyn k f).hist = s.hist := rfl
@[simp] theorem State.modDyn_seen (s : State) (k : PageKey) (f : PageDyn → PageDyn) : (s.modDyn k f).seen = s.seen := rfl
@[simp] theorem State.modDyn_nodeDeps (s : State) (k : PageKey) (f : PageDyn → PageDyn) : (s.modDyn k f).nodeDeps = s.nodeDeps := rfl
@[simp] theorem State.modDyn_releases (s : State) (k : PageKey) (f : PageDyn → PageDyn) : (s.modDyn k f).releases = s.releases := rfl
@[simp] theorem State.modDyn_homeWrites (s : State) (k : PageKey) (f : PageDyn → PageDyn) : (s.modDyn k f).homeWrites = s.homeWrites := rfl
@[simp] theorem State.modDyn_windows (s : State) (k : PageKey) (f : PageDyn → PageDyn) : (s.modDyn k f).windows = s.windows := rfl
@[simp] theorem State.modDyn_fadds (s : State) (k : PageKey) (f : PageDyn → PageDyn) : (s.modDyn k f).fadds = s.fadds := rfl
@[simp] theorem State.modDyn_msgs (s : State) (k : PageKey) (f : PageDyn → PageDyn) : (s.modDyn k f).msgs = s.msgs := rfl
@[simp] theorem State.modDyn_seqs (s : State) (k : PageKey) (f : PageDyn → PageDyn) : (s.modDyn k f).seqs = s.seqs := rfl
@[simp] theorem State.modDyn_tlb (s : State) (k : PageKey) (f : PageDyn → PageDyn) : (s.modDyn k f).tlb = s.tlb := rfl
@[simp] theorem State.modDyn_walks (s : State) (k : PageKey) (f : PageDyn → PageDyn) : (s.modDyn k f).walks = s.walks := rfl
@[simp] theorem State.modDyn_invals (s : State) (k : PageKey) (f : PageDyn → PageDyn) : (s.modDyn k f).invals = s.invals := rfl
@[simp] theorem State.modDyn_heldFaults (s : State) (k : PageKey) (f : PageDyn → PageDyn) : (s.modDyn k f).heldFaults = s.heldFaults := rfl
@[simp] theorem State.modDyn_understudies (s : State) (k : PageKey) (f : PageDyn → PageDyn) : (s.modDyn k f).understudies = s.understudies := rfl
@[simp] theorem State.modDyn_scans (s : State) (k : PageKey) (f : PageDyn → PageDyn) : (s.modDyn k f).scans = s.scans := rfl
@[simp] theorem State.modDyn_censuses (s : State) (k : PageKey) (f : PageDyn → PageDyn) : (s.modDyn k f).censuses = s.censuses := rfl
@[simp] theorem State.modDyn_ctl (s : State) (k : PageKey) (f : PageDyn → PageDyn) : (s.modDyn k f).ctl = s.ctl := rfl
@[simp] theorem State.modDyn_traps (s : State) (k : PageKey) (f : PageDyn → PageDyn) : (s.modDyn k f).traps = s.traps := rfl
@[simp] theorem State.modDyn_rr (s : State) (k : PageKey) (f : PageDyn → PageDyn) : (s.modDyn k f).rr = s.rr := rfl
@[simp] theorem State.modDyn_nextId (s : State) (k : PageKey) (f : PageDyn → PageDyn) : (s.modDyn k f).nextId = s.nextId := rfl
@[simp] theorem State.modDyn_nextNotify (s : State) (k : PageKey) (f : PageDyn → PageDyn) : (s.modDyn k f).nextNotify = s.nextNotify := rfl
@[simp] theorem State.modDyn_agenda (s : State) (k : PageKey) (f : PageDyn → PageDyn) : (s.modDyn k f).agenda = s.agenda := rfl
@[simp] theorem State.modDyn_cur (s : State) (k : PageKey) (f : PageDyn → PageDyn) : (s.modDyn k f).cur = s.cur := rfl
@[simp] theorem State.modDyn_free (s : State) (k : PageKey) (f : PageDyn → PageDyn) : (s.modDyn k f).free = s.free := rfl

/-! ### modCtx -/

@[simp] theorem State.modCtx_cycle (s : State) (c : CtxId) (f : Context → Context) : (s.modCtx c f).cycle = s.cycle := rfl
@[simp] theorem State.modCtx_time (s : State) (c : CtxId) (f : Context → Context) : (s.modCtx c f).time = s.time := rfl
@[simp] theorem State.modCtx_dev (s : State) (c : CtxId) (f : Context → Context) : (s.modCtx c f).dev = s.dev := rfl
@[simp] theorem State.modCtx_sram (s : State) (c : CtxId) (f : Context → Context) : (s.modCtx c f).sram = s.sram := rfl
@[simp] theorem State.modCtx_dram (s : State) (c : CtxId) (f : Context → Context) : (s.modCtx c f).dram = s.dram := rfl
@[simp] theorem State.modCtx_hostMem (s : State) (c : CtxId) (f : Context → Context) : (s.modCtx c f).hostMem = s.hostMem := rfl
@[simp] theorem State.modCtx_granules (s : State) (c : CtxId) (f : Context → Context) : (s.modCtx c f).granules = s.granules := rfl
@[simp] theorem State.modCtx_parts (s : State) (c : CtxId) (f : Context → Context) : (s.modCtx c f).parts = s.parts := rfl
@[simp] theorem State.modCtx_exports (s : State) (c : CtxId) (f : Context → Context) : (s.modCtx c f).exports = s.exports := rfl
@[simp] theorem State.modCtx_guests (s : State) (c : CtxId) (f : Context → Context) : (s.modCtx c f).guests = s.guests := rfl
@[simp] theorem State.modCtx_rings (s : State) (c : CtxId) (f : Context → Context) : (s.modCtx c f).rings = s.rings := rfl
@[simp] theorem State.modCtx_graphs (s : State) (c : CtxId) (f : Context → Context) : (s.modCtx c f).graphs = s.graphs := rfl
@[simp] theorem State.modCtx_pages (s : State) (c : CtxId) (f : Context → Context) : (s.modCtx c f).pages = s.pages := rfl
@[simp] theorem State.modCtx_frames (s : State) (c : CtxId) (f : Context → Context) : (s.modCtx c f).frames = s.frames := rfl
@[simp] theorem State.modCtx_reqs (s : State) (c : CtxId) (f : Context → Context) : (s.modCtx c f).reqs = s.reqs := rfl
@[simp] theorem State.modCtx_hist (s : State) (c : CtxId) (f : Context → Context) : (s.modCtx c f).hist = s.hist := rfl
@[simp] theorem State.modCtx_seen (s : State) (c : CtxId) (f : Context → Context) : (s.modCtx c f).seen = s.seen := rfl
@[simp] theorem State.modCtx_nodeDeps (s : State) (c : CtxId) (f : Context → Context) : (s.modCtx c f).nodeDeps = s.nodeDeps := rfl
@[simp] theorem State.modCtx_releases (s : State) (c : CtxId) (f : Context → Context) : (s.modCtx c f).releases = s.releases := rfl
@[simp] theorem State.modCtx_homeWrites (s : State) (c : CtxId) (f : Context → Context) : (s.modCtx c f).homeWrites = s.homeWrites := rfl
@[simp] theorem State.modCtx_windows (s : State) (c : CtxId) (f : Context → Context) : (s.modCtx c f).windows = s.windows := rfl
@[simp] theorem State.modCtx_fadds (s : State) (c : CtxId) (f : Context → Context) : (s.modCtx c f).fadds = s.fadds := rfl
@[simp] theorem State.modCtx_msgs (s : State) (c : CtxId) (f : Context → Context) : (s.modCtx c f).msgs = s.msgs := rfl
@[simp] theorem State.modCtx_seqs (s : State) (c : CtxId) (f : Context → Context) : (s.modCtx c f).seqs = s.seqs := rfl
@[simp] theorem State.modCtx_tlb (s : State) (c : CtxId) (f : Context → Context) : (s.modCtx c f).tlb = s.tlb := rfl
@[simp] theorem State.modCtx_walks (s : State) (c : CtxId) (f : Context → Context) : (s.modCtx c f).walks = s.walks := rfl
@[simp] theorem State.modCtx_invals (s : State) (c : CtxId) (f : Context → Context) : (s.modCtx c f).invals = s.invals := rfl
@[simp] theorem State.modCtx_heldFaults (s : State) (c : CtxId) (f : Context → Context) : (s.modCtx c f).heldFaults = s.heldFaults := rfl
@[simp] theorem State.modCtx_understudies (s : State) (c : CtxId) (f : Context → Context) : (s.modCtx c f).understudies = s.understudies := rfl
@[simp] theorem State.modCtx_scans (s : State) (c : CtxId) (f : Context → Context) : (s.modCtx c f).scans = s.scans := rfl
@[simp] theorem State.modCtx_censuses (s : State) (c : CtxId) (f : Context → Context) : (s.modCtx c f).censuses = s.censuses := rfl
@[simp] theorem State.modCtx_ctl (s : State) (c : CtxId) (f : Context → Context) : (s.modCtx c f).ctl = s.ctl := rfl
@[simp] theorem State.modCtx_traps (s : State) (c : CtxId) (f : Context → Context) : (s.modCtx c f).traps = s.traps := rfl
@[simp] theorem State.modCtx_rr (s : State) (c : CtxId) (f : Context → Context) : (s.modCtx c f).rr = s.rr := rfl
@[simp] theorem State.modCtx_nextId (s : State) (c : CtxId) (f : Context → Context) : (s.modCtx c f).nextId = s.nextId := rfl
@[simp] theorem State.modCtx_nextNotify (s : State) (c : CtxId) (f : Context → Context) : (s.modCtx c f).nextNotify = s.nextNotify := rfl
@[simp] theorem State.modCtx_agenda (s : State) (c : CtxId) (f : Context → Context) : (s.modCtx c f).agenda = s.agenda := rfl
@[simp] theorem State.modCtx_cur (s : State) (c : CtxId) (f : Context → Context) : (s.modCtx c f).cur = s.cur := rfl
@[simp] theorem State.modCtx_free (s : State) (c : CtxId) (f : Context → Context) : (s.modCtx c f).free = s.free := rfl

/-! ### modPart -/

@[simp] theorem State.modPart_cycle (s : State) (n : Nat) (f : Partition → Partition) : (s.modPart n f).cycle = s.cycle := rfl
@[simp] theorem State.modPart_time (s : State) (n : Nat) (f : Partition → Partition) : (s.modPart n f).time = s.time := rfl
@[simp] theorem State.modPart_dev (s : State) (n : Nat) (f : Partition → Partition) : (s.modPart n f).dev = s.dev := rfl
@[simp] theorem State.modPart_sram (s : State) (n : Nat) (f : Partition → Partition) : (s.modPart n f).sram = s.sram := rfl
@[simp] theorem State.modPart_dram (s : State) (n : Nat) (f : Partition → Partition) : (s.modPart n f).dram = s.dram := rfl
@[simp] theorem State.modPart_hostMem (s : State) (n : Nat) (f : Partition → Partition) : (s.modPart n f).hostMem = s.hostMem := rfl
@[simp] theorem State.modPart_granules (s : State) (n : Nat) (f : Partition → Partition) : (s.modPart n f).granules = s.granules := rfl
@[simp] theorem State.modPart_exports (s : State) (n : Nat) (f : Partition → Partition) : (s.modPart n f).exports = s.exports := rfl
@[simp] theorem State.modPart_guests (s : State) (n : Nat) (f : Partition → Partition) : (s.modPart n f).guests = s.guests := rfl
@[simp] theorem State.modPart_ctxs (s : State) (n : Nat) (f : Partition → Partition) : (s.modPart n f).ctxs = s.ctxs := rfl
@[simp] theorem State.modPart_rings (s : State) (n : Nat) (f : Partition → Partition) : (s.modPart n f).rings = s.rings := rfl
@[simp] theorem State.modPart_graphs (s : State) (n : Nat) (f : Partition → Partition) : (s.modPart n f).graphs = s.graphs := rfl
@[simp] theorem State.modPart_pages (s : State) (n : Nat) (f : Partition → Partition) : (s.modPart n f).pages = s.pages := rfl
@[simp] theorem State.modPart_frames (s : State) (n : Nat) (f : Partition → Partition) : (s.modPart n f).frames = s.frames := rfl
@[simp] theorem State.modPart_reqs (s : State) (n : Nat) (f : Partition → Partition) : (s.modPart n f).reqs = s.reqs := rfl
@[simp] theorem State.modPart_hist (s : State) (n : Nat) (f : Partition → Partition) : (s.modPart n f).hist = s.hist := rfl
@[simp] theorem State.modPart_seen (s : State) (n : Nat) (f : Partition → Partition) : (s.modPart n f).seen = s.seen := rfl
@[simp] theorem State.modPart_nodeDeps (s : State) (n : Nat) (f : Partition → Partition) : (s.modPart n f).nodeDeps = s.nodeDeps := rfl
@[simp] theorem State.modPart_releases (s : State) (n : Nat) (f : Partition → Partition) : (s.modPart n f).releases = s.releases := rfl
@[simp] theorem State.modPart_homeWrites (s : State) (n : Nat) (f : Partition → Partition) : (s.modPart n f).homeWrites = s.homeWrites := rfl
@[simp] theorem State.modPart_windows (s : State) (n : Nat) (f : Partition → Partition) : (s.modPart n f).windows = s.windows := rfl
@[simp] theorem State.modPart_fadds (s : State) (n : Nat) (f : Partition → Partition) : (s.modPart n f).fadds = s.fadds := rfl
@[simp] theorem State.modPart_msgs (s : State) (n : Nat) (f : Partition → Partition) : (s.modPart n f).msgs = s.msgs := rfl
@[simp] theorem State.modPart_seqs (s : State) (n : Nat) (f : Partition → Partition) : (s.modPart n f).seqs = s.seqs := rfl
@[simp] theorem State.modPart_tlb (s : State) (n : Nat) (f : Partition → Partition) : (s.modPart n f).tlb = s.tlb := rfl
@[simp] theorem State.modPart_walks (s : State) (n : Nat) (f : Partition → Partition) : (s.modPart n f).walks = s.walks := rfl
@[simp] theorem State.modPart_invals (s : State) (n : Nat) (f : Partition → Partition) : (s.modPart n f).invals = s.invals := rfl
@[simp] theorem State.modPart_heldFaults (s : State) (n : Nat) (f : Partition → Partition) : (s.modPart n f).heldFaults = s.heldFaults := rfl
@[simp] theorem State.modPart_understudies (s : State) (n : Nat) (f : Partition → Partition) : (s.modPart n f).understudies = s.understudies := rfl
@[simp] theorem State.modPart_scans (s : State) (n : Nat) (f : Partition → Partition) : (s.modPart n f).scans = s.scans := rfl
@[simp] theorem State.modPart_censuses (s : State) (n : Nat) (f : Partition → Partition) : (s.modPart n f).censuses = s.censuses := rfl
@[simp] theorem State.modPart_ctl (s : State) (n : Nat) (f : Partition → Partition) : (s.modPart n f).ctl = s.ctl := rfl
@[simp] theorem State.modPart_traps (s : State) (n : Nat) (f : Partition → Partition) : (s.modPart n f).traps = s.traps := rfl
@[simp] theorem State.modPart_rr (s : State) (n : Nat) (f : Partition → Partition) : (s.modPart n f).rr = s.rr := rfl
@[simp] theorem State.modPart_nextId (s : State) (n : Nat) (f : Partition → Partition) : (s.modPart n f).nextId = s.nextId := rfl
@[simp] theorem State.modPart_nextNotify (s : State) (n : Nat) (f : Partition → Partition) : (s.modPart n f).nextNotify = s.nextNotify := rfl
@[simp] theorem State.modPart_agenda (s : State) (n : Nat) (f : Partition → Partition) : (s.modPart n f).agenda = s.agenda := rfl
@[simp] theorem State.modPart_cur (s : State) (n : Nat) (f : Partition → Partition) : (s.modPart n f).cur = s.cur := rfl
@[simp] theorem State.modPart_free (s : State) (n : Nat) (f : Partition → Partition) : (s.modPart n f).free = s.free := rfl

/-! ### modGuest -/

@[simp] theorem State.modGuest_cycle (s : State) (g : GuestId) (f : Guest → Guest) : (s.modGuest g f).cycle = s.cycle := rfl
@[simp] theorem State.modGuest_time (s : State) (g : GuestId) (f : Guest → Guest) : (s.modGuest g f).time = s.time := rfl
@[simp] theorem State.modGuest_dev (s : State) (g : GuestId) (f : Guest → Guest) : (s.modGuest g f).dev = s.dev := rfl
@[simp] theorem State.modGuest_sram (s : State) (g : GuestId) (f : Guest → Guest) : (s.modGuest g f).sram = s.sram := rfl
@[simp] theorem State.modGuest_dram (s : State) (g : GuestId) (f : Guest → Guest) : (s.modGuest g f).dram = s.dram := rfl
@[simp] theorem State.modGuest_hostMem (s : State) (g : GuestId) (f : Guest → Guest) : (s.modGuest g f).hostMem = s.hostMem := rfl
@[simp] theorem State.modGuest_granules (s : State) (g : GuestId) (f : Guest → Guest) : (s.modGuest g f).granules = s.granules := rfl
@[simp] theorem State.modGuest_parts (s : State) (g : GuestId) (f : Guest → Guest) : (s.modGuest g f).parts = s.parts := rfl
@[simp] theorem State.modGuest_exports (s : State) (g : GuestId) (f : Guest → Guest) : (s.modGuest g f).exports = s.exports := rfl
@[simp] theorem State.modGuest_ctxs (s : State) (g : GuestId) (f : Guest → Guest) : (s.modGuest g f).ctxs = s.ctxs := rfl
@[simp] theorem State.modGuest_rings (s : State) (g : GuestId) (f : Guest → Guest) : (s.modGuest g f).rings = s.rings := rfl
@[simp] theorem State.modGuest_graphs (s : State) (g : GuestId) (f : Guest → Guest) : (s.modGuest g f).graphs = s.graphs := rfl
@[simp] theorem State.modGuest_pages (s : State) (g : GuestId) (f : Guest → Guest) : (s.modGuest g f).pages = s.pages := rfl
@[simp] theorem State.modGuest_frames (s : State) (g : GuestId) (f : Guest → Guest) : (s.modGuest g f).frames = s.frames := rfl
@[simp] theorem State.modGuest_reqs (s : State) (g : GuestId) (f : Guest → Guest) : (s.modGuest g f).reqs = s.reqs := rfl
@[simp] theorem State.modGuest_hist (s : State) (g : GuestId) (f : Guest → Guest) : (s.modGuest g f).hist = s.hist := rfl
@[simp] theorem State.modGuest_seen (s : State) (g : GuestId) (f : Guest → Guest) : (s.modGuest g f).seen = s.seen := rfl
@[simp] theorem State.modGuest_nodeDeps (s : State) (g : GuestId) (f : Guest → Guest) : (s.modGuest g f).nodeDeps = s.nodeDeps := rfl
@[simp] theorem State.modGuest_releases (s : State) (g : GuestId) (f : Guest → Guest) : (s.modGuest g f).releases = s.releases := rfl
@[simp] theorem State.modGuest_homeWrites (s : State) (g : GuestId) (f : Guest → Guest) : (s.modGuest g f).homeWrites = s.homeWrites := rfl
@[simp] theorem State.modGuest_windows (s : State) (g : GuestId) (f : Guest → Guest) : (s.modGuest g f).windows = s.windows := rfl
@[simp] theorem State.modGuest_fadds (s : State) (g : GuestId) (f : Guest → Guest) : (s.modGuest g f).fadds = s.fadds := rfl
@[simp] theorem State.modGuest_msgs (s : State) (g : GuestId) (f : Guest → Guest) : (s.modGuest g f).msgs = s.msgs := rfl
@[simp] theorem State.modGuest_seqs (s : State) (g : GuestId) (f : Guest → Guest) : (s.modGuest g f).seqs = s.seqs := rfl
@[simp] theorem State.modGuest_tlb (s : State) (g : GuestId) (f : Guest → Guest) : (s.modGuest g f).tlb = s.tlb := rfl
@[simp] theorem State.modGuest_walks (s : State) (g : GuestId) (f : Guest → Guest) : (s.modGuest g f).walks = s.walks := rfl
@[simp] theorem State.modGuest_invals (s : State) (g : GuestId) (f : Guest → Guest) : (s.modGuest g f).invals = s.invals := rfl
@[simp] theorem State.modGuest_heldFaults (s : State) (g : GuestId) (f : Guest → Guest) : (s.modGuest g f).heldFaults = s.heldFaults := rfl
@[simp] theorem State.modGuest_understudies (s : State) (g : GuestId) (f : Guest → Guest) : (s.modGuest g f).understudies = s.understudies := rfl
@[simp] theorem State.modGuest_scans (s : State) (g : GuestId) (f : Guest → Guest) : (s.modGuest g f).scans = s.scans := rfl
@[simp] theorem State.modGuest_censuses (s : State) (g : GuestId) (f : Guest → Guest) : (s.modGuest g f).censuses = s.censuses := rfl
@[simp] theorem State.modGuest_ctl (s : State) (g : GuestId) (f : Guest → Guest) : (s.modGuest g f).ctl = s.ctl := rfl
@[simp] theorem State.modGuest_traps (s : State) (g : GuestId) (f : Guest → Guest) : (s.modGuest g f).traps = s.traps := rfl
@[simp] theorem State.modGuest_rr (s : State) (g : GuestId) (f : Guest → Guest) : (s.modGuest g f).rr = s.rr := rfl
@[simp] theorem State.modGuest_nextId (s : State) (g : GuestId) (f : Guest → Guest) : (s.modGuest g f).nextId = s.nextId := rfl
@[simp] theorem State.modGuest_nextNotify (s : State) (g : GuestId) (f : Guest → Guest) : (s.modGuest g f).nextNotify = s.nextNotify := rfl
@[simp] theorem State.modGuest_agenda (s : State) (g : GuestId) (f : Guest → Guest) : (s.modGuest g f).agenda = s.agenda := rfl
@[simp] theorem State.modGuest_cur (s : State) (g : GuestId) (f : Guest → Guest) : (s.modGuest g f).cur = s.cur := rfl
@[simp] theorem State.modGuest_free (s : State) (g : GuestId) (f : Guest → Guest) : (s.modGuest g f).free = s.free := rfl

/-! ### modRing -/

@[simp] theorem State.modRing_cycle (s : State) (r : RingId) (f : Ring → Ring) : (s.modRing r f).cycle = s.cycle := rfl
@[simp] theorem State.modRing_time (s : State) (r : RingId) (f : Ring → Ring) : (s.modRing r f).time = s.time := rfl
@[simp] theorem State.modRing_dev (s : State) (r : RingId) (f : Ring → Ring) : (s.modRing r f).dev = s.dev := rfl
@[simp] theorem State.modRing_sram (s : State) (r : RingId) (f : Ring → Ring) : (s.modRing r f).sram = s.sram := rfl
@[simp] theorem State.modRing_dram (s : State) (r : RingId) (f : Ring → Ring) : (s.modRing r f).dram = s.dram := rfl
@[simp] theorem State.modRing_hostMem (s : State) (r : RingId) (f : Ring → Ring) : (s.modRing r f).hostMem = s.hostMem := rfl
@[simp] theorem State.modRing_granules (s : State) (r : RingId) (f : Ring → Ring) : (s.modRing r f).granules = s.granules := rfl
@[simp] theorem State.modRing_parts (s : State) (r : RingId) (f : Ring → Ring) : (s.modRing r f).parts = s.parts := rfl
@[simp] theorem State.modRing_exports (s : State) (r : RingId) (f : Ring → Ring) : (s.modRing r f).exports = s.exports := rfl
@[simp] theorem State.modRing_guests (s : State) (r : RingId) (f : Ring → Ring) : (s.modRing r f).guests = s.guests := rfl
@[simp] theorem State.modRing_ctxs (s : State) (r : RingId) (f : Ring → Ring) : (s.modRing r f).ctxs = s.ctxs := rfl
@[simp] theorem State.modRing_graphs (s : State) (r : RingId) (f : Ring → Ring) : (s.modRing r f).graphs = s.graphs := rfl
@[simp] theorem State.modRing_pages (s : State) (r : RingId) (f : Ring → Ring) : (s.modRing r f).pages = s.pages := rfl
@[simp] theorem State.modRing_frames (s : State) (r : RingId) (f : Ring → Ring) : (s.modRing r f).frames = s.frames := rfl
@[simp] theorem State.modRing_reqs (s : State) (r : RingId) (f : Ring → Ring) : (s.modRing r f).reqs = s.reqs := rfl
@[simp] theorem State.modRing_hist (s : State) (r : RingId) (f : Ring → Ring) : (s.modRing r f).hist = s.hist := rfl
@[simp] theorem State.modRing_seen (s : State) (r : RingId) (f : Ring → Ring) : (s.modRing r f).seen = s.seen := rfl
@[simp] theorem State.modRing_nodeDeps (s : State) (r : RingId) (f : Ring → Ring) : (s.modRing r f).nodeDeps = s.nodeDeps := rfl
@[simp] theorem State.modRing_releases (s : State) (r : RingId) (f : Ring → Ring) : (s.modRing r f).releases = s.releases := rfl
@[simp] theorem State.modRing_homeWrites (s : State) (r : RingId) (f : Ring → Ring) : (s.modRing r f).homeWrites = s.homeWrites := rfl
@[simp] theorem State.modRing_windows (s : State) (r : RingId) (f : Ring → Ring) : (s.modRing r f).windows = s.windows := rfl
@[simp] theorem State.modRing_fadds (s : State) (r : RingId) (f : Ring → Ring) : (s.modRing r f).fadds = s.fadds := rfl
@[simp] theorem State.modRing_msgs (s : State) (r : RingId) (f : Ring → Ring) : (s.modRing r f).msgs = s.msgs := rfl
@[simp] theorem State.modRing_seqs (s : State) (r : RingId) (f : Ring → Ring) : (s.modRing r f).seqs = s.seqs := rfl
@[simp] theorem State.modRing_tlb (s : State) (r : RingId) (f : Ring → Ring) : (s.modRing r f).tlb = s.tlb := rfl
@[simp] theorem State.modRing_walks (s : State) (r : RingId) (f : Ring → Ring) : (s.modRing r f).walks = s.walks := rfl
@[simp] theorem State.modRing_invals (s : State) (r : RingId) (f : Ring → Ring) : (s.modRing r f).invals = s.invals := rfl
@[simp] theorem State.modRing_heldFaults (s : State) (r : RingId) (f : Ring → Ring) : (s.modRing r f).heldFaults = s.heldFaults := rfl
@[simp] theorem State.modRing_understudies (s : State) (r : RingId) (f : Ring → Ring) : (s.modRing r f).understudies = s.understudies := rfl
@[simp] theorem State.modRing_scans (s : State) (r : RingId) (f : Ring → Ring) : (s.modRing r f).scans = s.scans := rfl
@[simp] theorem State.modRing_censuses (s : State) (r : RingId) (f : Ring → Ring) : (s.modRing r f).censuses = s.censuses := rfl
@[simp] theorem State.modRing_ctl (s : State) (r : RingId) (f : Ring → Ring) : (s.modRing r f).ctl = s.ctl := rfl
@[simp] theorem State.modRing_traps (s : State) (r : RingId) (f : Ring → Ring) : (s.modRing r f).traps = s.traps := rfl
@[simp] theorem State.modRing_rr (s : State) (r : RingId) (f : Ring → Ring) : (s.modRing r f).rr = s.rr := rfl
@[simp] theorem State.modRing_nextId (s : State) (r : RingId) (f : Ring → Ring) : (s.modRing r f).nextId = s.nextId := rfl
@[simp] theorem State.modRing_nextNotify (s : State) (r : RingId) (f : Ring → Ring) : (s.modRing r f).nextNotify = s.nextNotify := rfl
@[simp] theorem State.modRing_agenda (s : State) (r : RingId) (f : Ring → Ring) : (s.modRing r f).agenda = s.agenda := rfl
@[simp] theorem State.modRing_cur (s : State) (r : RingId) (f : Ring → Ring) : (s.modRing r f).cur = s.cur := rfl
@[simp] theorem State.modRing_free (s : State) (r : RingId) (f : Ring → Ring) : (s.modRing r f).free = s.free := rfl

/-! ### modFrame -/

@[simp] theorem State.modFrame_cycle (s : State) (k : FrameKey) (f : Frame → Frame) : (s.modFrame k f).cycle = s.cycle := rfl
@[simp] theorem State.modFrame_time (s : State) (k : FrameKey) (f : Frame → Frame) : (s.modFrame k f).time = s.time := rfl
@[simp] theorem State.modFrame_dev (s : State) (k : FrameKey) (f : Frame → Frame) : (s.modFrame k f).dev = s.dev := rfl
@[simp] theorem State.modFrame_sram (s : State) (k : FrameKey) (f : Frame → Frame) : (s.modFrame k f).sram = s.sram := rfl
@[simp] theorem State.modFrame_dram (s : State) (k : FrameKey) (f : Frame → Frame) : (s.modFrame k f).dram = s.dram := rfl
@[simp] theorem State.modFrame_hostMem (s : State) (k : FrameKey) (f : Frame → Frame) : (s.modFrame k f).hostMem = s.hostMem := rfl
@[simp] theorem State.modFrame_granules (s : State) (k : FrameKey) (f : Frame → Frame) : (s.modFrame k f).granules = s.granules := rfl
@[simp] theorem State.modFrame_parts (s : State) (k : FrameKey) (f : Frame → Frame) : (s.modFrame k f).parts = s.parts := rfl
@[simp] theorem State.modFrame_exports (s : State) (k : FrameKey) (f : Frame → Frame) : (s.modFrame k f).exports = s.exports := rfl
@[simp] theorem State.modFrame_guests (s : State) (k : FrameKey) (f : Frame → Frame) : (s.modFrame k f).guests = s.guests := rfl
@[simp] theorem State.modFrame_ctxs (s : State) (k : FrameKey) (f : Frame → Frame) : (s.modFrame k f).ctxs = s.ctxs := rfl
@[simp] theorem State.modFrame_rings (s : State) (k : FrameKey) (f : Frame → Frame) : (s.modFrame k f).rings = s.rings := rfl
@[simp] theorem State.modFrame_graphs (s : State) (k : FrameKey) (f : Frame → Frame) : (s.modFrame k f).graphs = s.graphs := rfl
@[simp] theorem State.modFrame_pages (s : State) (k : FrameKey) (f : Frame → Frame) : (s.modFrame k f).pages = s.pages := rfl
@[simp] theorem State.modFrame_reqs (s : State) (k : FrameKey) (f : Frame → Frame) : (s.modFrame k f).reqs = s.reqs := rfl
@[simp] theorem State.modFrame_hist (s : State) (k : FrameKey) (f : Frame → Frame) : (s.modFrame k f).hist = s.hist := rfl
@[simp] theorem State.modFrame_seen (s : State) (k : FrameKey) (f : Frame → Frame) : (s.modFrame k f).seen = s.seen := rfl
@[simp] theorem State.modFrame_nodeDeps (s : State) (k : FrameKey) (f : Frame → Frame) : (s.modFrame k f).nodeDeps = s.nodeDeps := rfl
@[simp] theorem State.modFrame_releases (s : State) (k : FrameKey) (f : Frame → Frame) : (s.modFrame k f).releases = s.releases := rfl
@[simp] theorem State.modFrame_homeWrites (s : State) (k : FrameKey) (f : Frame → Frame) : (s.modFrame k f).homeWrites = s.homeWrites := rfl
@[simp] theorem State.modFrame_windows (s : State) (k : FrameKey) (f : Frame → Frame) : (s.modFrame k f).windows = s.windows := rfl
@[simp] theorem State.modFrame_fadds (s : State) (k : FrameKey) (f : Frame → Frame) : (s.modFrame k f).fadds = s.fadds := rfl
@[simp] theorem State.modFrame_msgs (s : State) (k : FrameKey) (f : Frame → Frame) : (s.modFrame k f).msgs = s.msgs := rfl
@[simp] theorem State.modFrame_seqs (s : State) (k : FrameKey) (f : Frame → Frame) : (s.modFrame k f).seqs = s.seqs := rfl
@[simp] theorem State.modFrame_tlb (s : State) (k : FrameKey) (f : Frame → Frame) : (s.modFrame k f).tlb = s.tlb := rfl
@[simp] theorem State.modFrame_walks (s : State) (k : FrameKey) (f : Frame → Frame) : (s.modFrame k f).walks = s.walks := rfl
@[simp] theorem State.modFrame_invals (s : State) (k : FrameKey) (f : Frame → Frame) : (s.modFrame k f).invals = s.invals := rfl
@[simp] theorem State.modFrame_heldFaults (s : State) (k : FrameKey) (f : Frame → Frame) : (s.modFrame k f).heldFaults = s.heldFaults := rfl
@[simp] theorem State.modFrame_understudies (s : State) (k : FrameKey) (f : Frame → Frame) : (s.modFrame k f).understudies = s.understudies := rfl
@[simp] theorem State.modFrame_scans (s : State) (k : FrameKey) (f : Frame → Frame) : (s.modFrame k f).scans = s.scans := rfl
@[simp] theorem State.modFrame_censuses (s : State) (k : FrameKey) (f : Frame → Frame) : (s.modFrame k f).censuses = s.censuses := rfl
@[simp] theorem State.modFrame_ctl (s : State) (k : FrameKey) (f : Frame → Frame) : (s.modFrame k f).ctl = s.ctl := rfl
@[simp] theorem State.modFrame_traps (s : State) (k : FrameKey) (f : Frame → Frame) : (s.modFrame k f).traps = s.traps := rfl
@[simp] theorem State.modFrame_rr (s : State) (k : FrameKey) (f : Frame → Frame) : (s.modFrame k f).rr = s.rr := rfl
@[simp] theorem State.modFrame_nextId (s : State) (k : FrameKey) (f : Frame → Frame) : (s.modFrame k f).nextId = s.nextId := rfl
@[simp] theorem State.modFrame_nextNotify (s : State) (k : FrameKey) (f : Frame → Frame) : (s.modFrame k f).nextNotify = s.nextNotify := rfl
@[simp] theorem State.modFrame_agenda (s : State) (k : FrameKey) (f : Frame → Frame) : (s.modFrame k f).agenda = s.agenda := rfl
@[simp] theorem State.modFrame_cur (s : State) (k : FrameKey) (f : Frame → Frame) : (s.modFrame k f).cur = s.cur := rfl
@[simp] theorem State.modFrame_free (s : State) (k : FrameKey) (f : Frame → Frame) : (s.modFrame k f).free = s.free := rfl

/-! ### modGraph -/

@[simp] theorem State.modGraph_cycle (s : State) (p : Nat) (g : Word) (f : Graph → Graph) : (s.modGraph p g f).cycle = s.cycle := rfl
@[simp] theorem State.modGraph_time (s : State) (p : Nat) (g : Word) (f : Graph → Graph) : (s.modGraph p g f).time = s.time := rfl
@[simp] theorem State.modGraph_dev (s : State) (p : Nat) (g : Word) (f : Graph → Graph) : (s.modGraph p g f).dev = s.dev := rfl
@[simp] theorem State.modGraph_sram (s : State) (p : Nat) (g : Word) (f : Graph → Graph) : (s.modGraph p g f).sram = s.sram := rfl
@[simp] theorem State.modGraph_dram (s : State) (p : Nat) (g : Word) (f : Graph → Graph) : (s.modGraph p g f).dram = s.dram := rfl
@[simp] theorem State.modGraph_hostMem (s : State) (p : Nat) (g : Word) (f : Graph → Graph) : (s.modGraph p g f).hostMem = s.hostMem := rfl
@[simp] theorem State.modGraph_granules (s : State) (p : Nat) (g : Word) (f : Graph → Graph) : (s.modGraph p g f).granules = s.granules := rfl
@[simp] theorem State.modGraph_parts (s : State) (p : Nat) (g : Word) (f : Graph → Graph) : (s.modGraph p g f).parts = s.parts := rfl
@[simp] theorem State.modGraph_exports (s : State) (p : Nat) (g : Word) (f : Graph → Graph) : (s.modGraph p g f).exports = s.exports := rfl
@[simp] theorem State.modGraph_guests (s : State) (p : Nat) (g : Word) (f : Graph → Graph) : (s.modGraph p g f).guests = s.guests := rfl
@[simp] theorem State.modGraph_ctxs (s : State) (p : Nat) (g : Word) (f : Graph → Graph) : (s.modGraph p g f).ctxs = s.ctxs := rfl
@[simp] theorem State.modGraph_rings (s : State) (p : Nat) (g : Word) (f : Graph → Graph) : (s.modGraph p g f).rings = s.rings := rfl
@[simp] theorem State.modGraph_pages (s : State) (p : Nat) (g : Word) (f : Graph → Graph) : (s.modGraph p g f).pages = s.pages := rfl
@[simp] theorem State.modGraph_frames (s : State) (p : Nat) (g : Word) (f : Graph → Graph) : (s.modGraph p g f).frames = s.frames := rfl
@[simp] theorem State.modGraph_reqs (s : State) (p : Nat) (g : Word) (f : Graph → Graph) : (s.modGraph p g f).reqs = s.reqs := rfl
@[simp] theorem State.modGraph_hist (s : State) (p : Nat) (g : Word) (f : Graph → Graph) : (s.modGraph p g f).hist = s.hist := rfl
@[simp] theorem State.modGraph_seen (s : State) (p : Nat) (g : Word) (f : Graph → Graph) : (s.modGraph p g f).seen = s.seen := rfl
@[simp] theorem State.modGraph_nodeDeps (s : State) (p : Nat) (g : Word) (f : Graph → Graph) : (s.modGraph p g f).nodeDeps = s.nodeDeps := rfl
@[simp] theorem State.modGraph_releases (s : State) (p : Nat) (g : Word) (f : Graph → Graph) : (s.modGraph p g f).releases = s.releases := rfl
@[simp] theorem State.modGraph_homeWrites (s : State) (p : Nat) (g : Word) (f : Graph → Graph) : (s.modGraph p g f).homeWrites = s.homeWrites := rfl
@[simp] theorem State.modGraph_windows (s : State) (p : Nat) (g : Word) (f : Graph → Graph) : (s.modGraph p g f).windows = s.windows := rfl
@[simp] theorem State.modGraph_fadds (s : State) (p : Nat) (g : Word) (f : Graph → Graph) : (s.modGraph p g f).fadds = s.fadds := rfl
@[simp] theorem State.modGraph_msgs (s : State) (p : Nat) (g : Word) (f : Graph → Graph) : (s.modGraph p g f).msgs = s.msgs := rfl
@[simp] theorem State.modGraph_seqs (s : State) (p : Nat) (g : Word) (f : Graph → Graph) : (s.modGraph p g f).seqs = s.seqs := rfl
@[simp] theorem State.modGraph_tlb (s : State) (p : Nat) (g : Word) (f : Graph → Graph) : (s.modGraph p g f).tlb = s.tlb := rfl
@[simp] theorem State.modGraph_walks (s : State) (p : Nat) (g : Word) (f : Graph → Graph) : (s.modGraph p g f).walks = s.walks := rfl
@[simp] theorem State.modGraph_invals (s : State) (p : Nat) (g : Word) (f : Graph → Graph) : (s.modGraph p g f).invals = s.invals := rfl
@[simp] theorem State.modGraph_heldFaults (s : State) (p : Nat) (g : Word) (f : Graph → Graph) : (s.modGraph p g f).heldFaults = s.heldFaults := rfl
@[simp] theorem State.modGraph_understudies (s : State) (p : Nat) (g : Word) (f : Graph → Graph) : (s.modGraph p g f).understudies = s.understudies := rfl
@[simp] theorem State.modGraph_scans (s : State) (p : Nat) (g : Word) (f : Graph → Graph) : (s.modGraph p g f).scans = s.scans := rfl
@[simp] theorem State.modGraph_censuses (s : State) (p : Nat) (g : Word) (f : Graph → Graph) : (s.modGraph p g f).censuses = s.censuses := rfl
@[simp] theorem State.modGraph_ctl (s : State) (p : Nat) (g : Word) (f : Graph → Graph) : (s.modGraph p g f).ctl = s.ctl := rfl
@[simp] theorem State.modGraph_traps (s : State) (p : Nat) (g : Word) (f : Graph → Graph) : (s.modGraph p g f).traps = s.traps := rfl
@[simp] theorem State.modGraph_rr (s : State) (p : Nat) (g : Word) (f : Graph → Graph) : (s.modGraph p g f).rr = s.rr := rfl
@[simp] theorem State.modGraph_nextId (s : State) (p : Nat) (g : Word) (f : Graph → Graph) : (s.modGraph p g f).nextId = s.nextId := rfl
@[simp] theorem State.modGraph_nextNotify (s : State) (p : Nat) (g : Word) (f : Graph → Graph) : (s.modGraph p g f).nextNotify = s.nextNotify := rfl
@[simp] theorem State.modGraph_agenda (s : State) (p : Nat) (g : Word) (f : Graph → Graph) : (s.modGraph p g f).agenda = s.agenda := rfl
@[simp] theorem State.modGraph_cur (s : State) (p : Nat) (g : Word) (f : Graph → Graph) : (s.modGraph p g f).cur = s.cur := rfl
@[simp] theorem State.modGraph_free (s : State) (p : Nat) (g : Word) (f : Graph → Graph) : (s.modGraph p g f).free = s.free := rfl

/-! ### modMsg -/

@[simp] theorem State.modMsg_cycle (s : State) (i : Nat) (f : Msg → Msg) : (s.modMsg i f).cycle = s.cycle := rfl
@[simp] theorem State.modMsg_time (s : State) (i : Nat) (f : Msg → Msg) : (s.modMsg i f).time = s.time := rfl
@[simp] theorem State.modMsg_dev (s : State) (i : Nat) (f : Msg → Msg) : (s.modMsg i f).dev = s.dev := rfl
@[simp] theorem State.modMsg_sram (s : State) (i : Nat) (f : Msg → Msg) : (s.modMsg i f).sram = s.sram := rfl
@[simp] theorem State.modMsg_dram (s : State) (i : Nat) (f : Msg → Msg) : (s.modMsg i f).dram = s.dram := rfl
@[simp] theorem State.modMsg_hostMem (s : State) (i : Nat) (f : Msg → Msg) : (s.modMsg i f).hostMem = s.hostMem := rfl
@[simp] theorem State.modMsg_granules (s : State) (i : Nat) (f : Msg → Msg) : (s.modMsg i f).granules = s.granules := rfl
@[simp] theorem State.modMsg_parts (s : State) (i : Nat) (f : Msg → Msg) : (s.modMsg i f).parts = s.parts := rfl
@[simp] theorem State.modMsg_exports (s : State) (i : Nat) (f : Msg → Msg) : (s.modMsg i f).exports = s.exports := rfl
@[simp] theorem State.modMsg_guests (s : State) (i : Nat) (f : Msg → Msg) : (s.modMsg i f).guests = s.guests := rfl
@[simp] theorem State.modMsg_ctxs (s : State) (i : Nat) (f : Msg → Msg) : (s.modMsg i f).ctxs = s.ctxs := rfl
@[simp] theorem State.modMsg_rings (s : State) (i : Nat) (f : Msg → Msg) : (s.modMsg i f).rings = s.rings := rfl
@[simp] theorem State.modMsg_graphs (s : State) (i : Nat) (f : Msg → Msg) : (s.modMsg i f).graphs = s.graphs := rfl
@[simp] theorem State.modMsg_pages (s : State) (i : Nat) (f : Msg → Msg) : (s.modMsg i f).pages = s.pages := rfl
@[simp] theorem State.modMsg_frames (s : State) (i : Nat) (f : Msg → Msg) : (s.modMsg i f).frames = s.frames := rfl
@[simp] theorem State.modMsg_reqs (s : State) (i : Nat) (f : Msg → Msg) : (s.modMsg i f).reqs = s.reqs := rfl
@[simp] theorem State.modMsg_hist (s : State) (i : Nat) (f : Msg → Msg) : (s.modMsg i f).hist = s.hist := rfl
@[simp] theorem State.modMsg_seen (s : State) (i : Nat) (f : Msg → Msg) : (s.modMsg i f).seen = s.seen := rfl
@[simp] theorem State.modMsg_nodeDeps (s : State) (i : Nat) (f : Msg → Msg) : (s.modMsg i f).nodeDeps = s.nodeDeps := rfl
@[simp] theorem State.modMsg_releases (s : State) (i : Nat) (f : Msg → Msg) : (s.modMsg i f).releases = s.releases := rfl
@[simp] theorem State.modMsg_homeWrites (s : State) (i : Nat) (f : Msg → Msg) : (s.modMsg i f).homeWrites = s.homeWrites := rfl
@[simp] theorem State.modMsg_windows (s : State) (i : Nat) (f : Msg → Msg) : (s.modMsg i f).windows = s.windows := rfl
@[simp] theorem State.modMsg_fadds (s : State) (i : Nat) (f : Msg → Msg) : (s.modMsg i f).fadds = s.fadds := rfl
@[simp] theorem State.modMsg_seqs (s : State) (i : Nat) (f : Msg → Msg) : (s.modMsg i f).seqs = s.seqs := rfl
@[simp] theorem State.modMsg_tlb (s : State) (i : Nat) (f : Msg → Msg) : (s.modMsg i f).tlb = s.tlb := rfl
@[simp] theorem State.modMsg_walks (s : State) (i : Nat) (f : Msg → Msg) : (s.modMsg i f).walks = s.walks := rfl
@[simp] theorem State.modMsg_invals (s : State) (i : Nat) (f : Msg → Msg) : (s.modMsg i f).invals = s.invals := rfl
@[simp] theorem State.modMsg_heldFaults (s : State) (i : Nat) (f : Msg → Msg) : (s.modMsg i f).heldFaults = s.heldFaults := rfl
@[simp] theorem State.modMsg_understudies (s : State) (i : Nat) (f : Msg → Msg) : (s.modMsg i f).understudies = s.understudies := rfl
@[simp] theorem State.modMsg_scans (s : State) (i : Nat) (f : Msg → Msg) : (s.modMsg i f).scans = s.scans := rfl
@[simp] theorem State.modMsg_censuses (s : State) (i : Nat) (f : Msg → Msg) : (s.modMsg i f).censuses = s.censuses := rfl
@[simp] theorem State.modMsg_ctl (s : State) (i : Nat) (f : Msg → Msg) : (s.modMsg i f).ctl = s.ctl := rfl
@[simp] theorem State.modMsg_traps (s : State) (i : Nat) (f : Msg → Msg) : (s.modMsg i f).traps = s.traps := rfl
@[simp] theorem State.modMsg_rr (s : State) (i : Nat) (f : Msg → Msg) : (s.modMsg i f).rr = s.rr := rfl
@[simp] theorem State.modMsg_nextId (s : State) (i : Nat) (f : Msg → Msg) : (s.modMsg i f).nextId = s.nextId := rfl
@[simp] theorem State.modMsg_nextNotify (s : State) (i : Nat) (f : Msg → Msg) : (s.modMsg i f).nextNotify = s.nextNotify := rfl
@[simp] theorem State.modMsg_agenda (s : State) (i : Nat) (f : Msg → Msg) : (s.modMsg i f).agenda = s.agenda := rfl
@[simp] theorem State.modMsg_cur (s : State) (i : Nat) (f : Msg → Msg) : (s.modMsg i f).cur = s.cur := rfl
@[simp] theorem State.modMsg_free (s : State) (i : Nat) (f : Msg → Msg) : (s.modMsg i f).free = s.free := rfl

/-! ### modReq -/

@[simp] theorem State.modReq_cycle (s : State) (i : Nat) (f : Req → Req) : (s.modReq i f).cycle = s.cycle := rfl
@[simp] theorem State.modReq_time (s : State) (i : Nat) (f : Req → Req) : (s.modReq i f).time = s.time := rfl
@[simp] theorem State.modReq_dev (s : State) (i : Nat) (f : Req → Req) : (s.modReq i f).dev = s.dev := rfl
@[simp] theorem State.modReq_sram (s : State) (i : Nat) (f : Req → Req) : (s.modReq i f).sram = s.sram := rfl
@[simp] theorem State.modReq_dram (s : State) (i : Nat) (f : Req → Req) : (s.modReq i f).dram = s.dram := rfl
@[simp] theorem State.modReq_hostMem (s : State) (i : Nat) (f : Req → Req) : (s.modReq i f).hostMem = s.hostMem := rfl
@[simp] theorem State.modReq_granules (s : State) (i : Nat) (f : Req → Req) : (s.modReq i f).granules = s.granules := rfl
@[simp] theorem State.modReq_parts (s : State) (i : Nat) (f : Req → Req) : (s.modReq i f).parts = s.parts := rfl
@[simp] theorem State.modReq_exports (s : State) (i : Nat) (f : Req → Req) : (s.modReq i f).exports = s.exports := rfl
@[simp] theorem State.modReq_guests (s : State) (i : Nat) (f : Req → Req) : (s.modReq i f).guests = s.guests := rfl
@[simp] theorem State.modReq_ctxs (s : State) (i : Nat) (f : Req → Req) : (s.modReq i f).ctxs = s.ctxs := rfl
@[simp] theorem State.modReq_rings (s : State) (i : Nat) (f : Req → Req) : (s.modReq i f).rings = s.rings := rfl
@[simp] theorem State.modReq_graphs (s : State) (i : Nat) (f : Req → Req) : (s.modReq i f).graphs = s.graphs := rfl
@[simp] theorem State.modReq_pages (s : State) (i : Nat) (f : Req → Req) : (s.modReq i f).pages = s.pages := rfl
@[simp] theorem State.modReq_frames (s : State) (i : Nat) (f : Req → Req) : (s.modReq i f).frames = s.frames := rfl
@[simp] theorem State.modReq_hist (s : State) (i : Nat) (f : Req → Req) : (s.modReq i f).hist = s.hist := rfl
@[simp] theorem State.modReq_seen (s : State) (i : Nat) (f : Req → Req) : (s.modReq i f).seen = s.seen := rfl
@[simp] theorem State.modReq_nodeDeps (s : State) (i : Nat) (f : Req → Req) : (s.modReq i f).nodeDeps = s.nodeDeps := rfl
@[simp] theorem State.modReq_releases (s : State) (i : Nat) (f : Req → Req) : (s.modReq i f).releases = s.releases := rfl
@[simp] theorem State.modReq_homeWrites (s : State) (i : Nat) (f : Req → Req) : (s.modReq i f).homeWrites = s.homeWrites := rfl
@[simp] theorem State.modReq_windows (s : State) (i : Nat) (f : Req → Req) : (s.modReq i f).windows = s.windows := rfl
@[simp] theorem State.modReq_fadds (s : State) (i : Nat) (f : Req → Req) : (s.modReq i f).fadds = s.fadds := rfl
@[simp] theorem State.modReq_msgs (s : State) (i : Nat) (f : Req → Req) : (s.modReq i f).msgs = s.msgs := rfl
@[simp] theorem State.modReq_seqs (s : State) (i : Nat) (f : Req → Req) : (s.modReq i f).seqs = s.seqs := rfl
@[simp] theorem State.modReq_tlb (s : State) (i : Nat) (f : Req → Req) : (s.modReq i f).tlb = s.tlb := rfl
@[simp] theorem State.modReq_walks (s : State) (i : Nat) (f : Req → Req) : (s.modReq i f).walks = s.walks := rfl
@[simp] theorem State.modReq_invals (s : State) (i : Nat) (f : Req → Req) : (s.modReq i f).invals = s.invals := rfl
@[simp] theorem State.modReq_heldFaults (s : State) (i : Nat) (f : Req → Req) : (s.modReq i f).heldFaults = s.heldFaults := rfl
@[simp] theorem State.modReq_understudies (s : State) (i : Nat) (f : Req → Req) : (s.modReq i f).understudies = s.understudies := rfl
@[simp] theorem State.modReq_scans (s : State) (i : Nat) (f : Req → Req) : (s.modReq i f).scans = s.scans := rfl
@[simp] theorem State.modReq_censuses (s : State) (i : Nat) (f : Req → Req) : (s.modReq i f).censuses = s.censuses := rfl
@[simp] theorem State.modReq_ctl (s : State) (i : Nat) (f : Req → Req) : (s.modReq i f).ctl = s.ctl := rfl
@[simp] theorem State.modReq_traps (s : State) (i : Nat) (f : Req → Req) : (s.modReq i f).traps = s.traps := rfl
@[simp] theorem State.modReq_rr (s : State) (i : Nat) (f : Req → Req) : (s.modReq i f).rr = s.rr := rfl
@[simp] theorem State.modReq_nextId (s : State) (i : Nat) (f : Req → Req) : (s.modReq i f).nextId = s.nextId := rfl
@[simp] theorem State.modReq_nextNotify (s : State) (i : Nat) (f : Req → Req) : (s.modReq i f).nextNotify = s.nextNotify := rfl
@[simp] theorem State.modReq_agenda (s : State) (i : Nat) (f : Req → Req) : (s.modReq i f).agenda = s.agenda := rfl
@[simp] theorem State.modReq_cur (s : State) (i : Nat) (f : Req → Req) : (s.modReq i f).cur = s.cur := rfl
@[simp] theorem State.modReq_free (s : State) (i : Nat) (f : Req → Req) : (s.modReq i f).free = s.free := rfl

/-! ### Lists read behind an update -/

theorem find?_update_same {α : Type} {p : α → Bool} {f : α → α} {l : List α} {x : α} (h : l.find? p = some x) (hf : p (f x) = true)
    (new : Option α) : (update p f new l).find? p = some (f x) := by
  induction l with
  | nil => simp at h
  | cons y ys ih =>
    by_cases hy : p y = true
    · simp [hy] at h; subst h; simp [update, hy, hf]
    · simp [hy] at h; simp [update, hy, ih h]

theorem find?_update_none {α : Type} {p : α → Bool} {f : α → α} {l : List α} (h : l.find? p = none) (new : Option α) :
    (update p f new l).find? p = new.bind (fun x => if p x then some x else none) := by
  induction l with
  | nil => cases new <;> simp [update]
  | cons y ys ih =>
    simp only [List.find?_cons] at h
    split at h
    · cases h
    · next hy => simp [update, hy, ih h]

theorem find?_update_other {α : Type} {p q : α → Bool} {f : α → α} {new : Option α} (hq : ∀ x, p x = true → q x = false)
    (hf : ∀ x, p x = true → q (f x) = false) (hn : ∀ x ∈ new, q x = false) (l : List α) :
    (update p f new l).find? q = l.find? q := by
  induction l with
  | nil => cases new <;> simp [update]; exact hn _ rfl
  | cons y ys ih =>
    by_cases hy : p y = true
    · simp [update, hy, hq y hy, hf y hy]
    · have : (update p f new (y :: ys)).find? q = (y :: update p f new ys).find? q := by simp [update, hy]
      rw [this, List.find?_cons, List.find?_cons, ih]

theorem lookup_assign_same {κ ν : Type} [DecidableEq κ] (k : κ) (v : ν) (l : List (κ × ν)) : lookup k (assign k v l) = some v := by
  induction l with
  | nil => simp [assign, update, lookup]
  | cons x xs ih =>
    obtain ⟨k', v'⟩ := x
    by_cases h : k' = k
    · simp [assign, update, lookup, h]
    · simp only [assign] at ih; simp [assign, update, lookup, h, ih]

theorem lookup_assign_other {κ ν : Type} [DecidableEq κ] {k k' : κ} (h : k' ≠ k) (v : ν) (l : List (κ × ν)) :
    lookup k' (assign k v l) = lookup k' l := by
  induction l with
  | nil => simp [assign, update, lookup, h.symm]
  | cons x xs ih =>
    obtain ⟨a, b⟩ := x
    by_cases ha : a = k
    · subst ha; simp [assign, update, lookup, h.symm]
    · simp only [assign] at ih; simp [assign, update, lookup, ha, ih]

/-! ### Pages -/

theorem State.page?_modPage_same {s : State} {k : PageKey} {f : Page → Page} {p : Page} (h : s.page? k = some p) (hf : (f p).key = p.key) :
    (s.modPage k f).page? k = some (f p) := by
  have hk : p.key = k := by simpa using List.find?_some h
  exact find?_update_same h (by simp [hf, hk]) none

theorem State.page?_modPage_none {s : State} {k : PageKey} {f : Page → Page} (h : s.page? k = none) : (s.modPage k f).page? k = none := by
  simpa [State.page?, State.modPage] using find?_update_none (f := f) h none

theorem State.page?_modPage_other {s : State} {k k' : PageKey} {f : Page → Page} (hk : k' ≠ k) (hf : ∀ p, (f p).key = p.key) :
    (s.modPage k f).page? k' = s.page? k' := by
  refine find?_update_other ?_ ?_ (by simp) _
  · intro x hx; simp at hx; subst hx; simp [hk.symm]
  · intro x hx; simp at hx; subst hx; simp [hf, hk.symm]

@[simp] theorem State.page?_modDyn (s : State) (k : PageKey) (f : PageDyn → PageDyn) :
    (s.modDyn k f).page? k = (s.page? k).map (fun p => { p with dyn := f p.dyn }) := by
  cases h : s.page? k with
  | none => exact State.page?_modPage_none h
  | some p => exact State.page?_modPage_same (f := fun p => { p with dyn := f p.dyn }) h rfl

theorem State.page?_modDyn_other {s : State} {k k' : PageKey} {f : PageDyn → PageDyn} (hk : k' ≠ k) : (s.modDyn k f).page? k' = s.page? k' :=
  State.page?_modPage_other hk (fun _ => rfl)

theorem State.dyn_modDyn {s : State} {k : PageKey} {f : PageDyn → PageDyn} (h : s.page? k ≠ none) : (s.modDyn k f).dyn k = f (s.dyn k) := by
  obtain ⟨p, hp⟩ := Option.ne_none_iff_exists'.mp h
  simp [State.dyn, hp]

theorem State.page?_of_pages {s t : State} (h : t.pages = s.pages) (k : PageKey) : t.page? k = s.page? k := by simp [State.page?, h]

theorem State.dyn_of_pages {s t : State} (h : t.pages = s.pages) (k : PageKey) : t.dyn k = s.dyn k := by
  simp [State.dyn, State.page?_of_pages h]

@[simp] theorem PageDyn.fifo_modElem (d : PageDyn) (n : Nat) (f : ElemState → ElemState) (p : Place) : (d.modElem n f).fifo p = d.fifo p := rfl

theorem PageDyn.elem_modElem {d : PageDyn} {n : Nat} {f : ElemState → ElemState} (hf : ∀ x, (f x).elem = x.elem) :
    (d.modElem n f).elem n = f (d.elem n) := by
  unfold PageDyn.elem PageDyn.modElem
  cases h : d.elems.find? (fun x => x.elem == n) with
  | none => simp [find?_update_none h, hf]
  | some x =>
    have hx : x.elem = n := by simpa using List.find?_some h
    simp [find?_update_same h (f := f) (by simp [hf, hx])]

end Sys2Proof.Machine
end

