-- ==== Sys2Proof/Laws/Firing.lean ====
section
/-!
SUPPORT. What the shared runners of element and block instructions answer: a firing, a false predicate, a closing token,
heads that stop the element, a head taken alone.
-/
namespace Sys2Proof.Machine

/-! ### Elements -/

/-- A data firing runs the opcode's own effect on the state behind its heads. -/
theorem fireWith_fires {r : ElemRule} {check data} {e k n s g} (h : ElemFires r.tri e k n s g) (hr : r.ready g s = true) (hc : check g s = none) :
    fireWith r check data e k n s = data g (s.taken k n e g.tag) := by
  obtain ⟨_, ts, hh, hg, hgate, hl, hrr, hp⟩ := h
  unfold fireWith
  rw [hh]; simp only
  rw [← hg]
  simp [hgate, hr, hl, hrr, hc, State.taken]
  intro hcon; exact absurd (hp.symm.trans hcon) (by decide)

theorem fireElem_fires {tri : Bool} {check data} {e k n s g} (h : ElemFires tri e k n s g) (hc : check g s = none) :
    fireElem tri check data e k n s = data g (s.taken k n e g.tag) := fireWith_fires (r := stdRule tri e k n) h rfl hc

/-- A false predicate consumes the heads and does nothing else. -/
theorem fireWith_false {r : ElemRule} {check data} {e k n s ts g} (hh : s.elemHeads k n e = .data ts) (hg : g = elemArgs r.tri (s.dyn k) n e ts)
    (hr : r.ready g s = true) (hc : check g s = none)
    (hgate : s.elemGate k n e g.tag = true) (hl : e.sckl.fails g.a.sc = false) (hrr : (e.qR && e.sckr.fails g.b.sc) = false)
    (hp : predHolds e.pm (((headIn e ts .P).map Token.pay).getD 0) = false) :
    fireWith r check data e k n s = s.taken k n e g.tag := by
  unfold fireWith
  rw [hh]; simp only
  rw [← hg]
  simp [hgate, hr, hl, hrr, hc, State.taken]
  intro hcon; exact absurd (hp.symm.trans hcon) (by decide)

/-- An opcode's own check that fails leaves the heads in place under its fault. -/
theorem fireWith_check {r : ElemRule} {check data} {e k n s g} {c : Nat} {v : Word} {node : Nat} (h : ElemFires r.tri e k n s g)
    (hr : r.ready g s = true) (hc : check g s = some (c, v, node)) : fireWith r check data e k n s = s.faultP c (.elem k n) g.tag v node := by
  obtain ⟨_, ts, hh, hg, hgate, hl, hrr, hp⟩ := h
  unfold fireWith
  rw [hh]; simp only
  rw [← hg]
  simp [hgate, hr, hl, hrr, hc]
  intro hcon; exact absurd (hp.symm.trans hcon) (by decide)

/-- A scale check that fails raises 0x34. -/
theorem fireWith_scale {r : ElemRule} {check data} {e k n s ts g} (hh : s.elemHeads k n e = .data ts) (hg : g = elemArgs r.tri (s.dyn k) n e ts)
    (hr : r.ready g s = true) (hgate : s.elemGate k n e g.tag = true) (hl : (e.sckl.fails g.a.sc || (e.qR && e.sckr.fails g.b.sc)) = true) :
    fireWith r check data e k n s = s.faultP 0x34 (.elem k n) g.tag g.a.v 0 := by
  unfold fireWith
  rw [hh]; simp only
  rw [← hg]
  simp only [hgate, hr, hl]; rfl

/-- Heads of different tags or kinds raise 0x36. -/
theorem fireWith_skew {r : ElemRule} {check data} {e k n s t} (h : s.elemHeads k n e = .skew t) (hg : s.elemGate k n e t.tag = true) :
    fireWith r check data e k n s = s.faultP 0x36 (.elem k n) t.tag t.pay 0 := by
  unfold fireWith; simp [h, hg]

/-- Closing tokens run the opcode's own closing. -/
theorem fireWith_closing {r : ElemRule} {check data} {e k n s t} (h : s.elemHeads k n e = .closing t) (hg : s.elemGate k n e t.tag = true) :
    fireWith r check data e k n s = r.closing t s := by
  unfold fireWith; simp [h, hg]

/-- A head taken alone runs the effect on the state behind it. -/
theorem takeHead_fires {q f e k n s t} (h : HeadFires q e k n s t) : takeHead q f e k n s = f t (s.tookHead k n e q t) := by
  obtain ⟨_, _, hq, hg, hs, us, hu, ha, hp⟩ := h
  unfold takeHead
  simp only [hq, hu, hg, ha]
  by_cases hd : t.kind = .data
  · have h1 := hs hd; have h2 := hp hd
    simp only [hd]; simp only [State.tookHead, hd]
    simp [h1]
    intro _ hc; exact absurd (h2.symm.trans hc) (by decide)
  · have : (t.kind == Kind.data) = false := by simp [hd]
    simp [this, State.tookHead, hd]

/-! ### Blocks -/

/-- A firing runs the instruction's own effect. -/
theorem fireBlock_fires {left right third data w k b i s g} (h : BlockFires left right third w k b i s g) :
    fireBlock left right third data w k b i s = data g s := by
  obtain ⟨_, f, p, hf, ha, hp⟩ := h
  unfold fireBlock; simp [hf, ha, hp]

/-- A false predicate marks the instruction fired and does nothing else. -/
theorem fireBlock_false {left right third data w k b i s f g p} (hf : s.blockGate k b i w = some f)
    (ha : blockArgs w left right third i f = some (g, p)) (hp : predHolds w.pm p = false) :
    fireBlock left right third data w k b i s = s.giveNone k b i := by
  unfold fireBlock; simp [hf, ha, hp]

/-! ### Stateless opcodes -/

theorem scalar_elem {f : Form} {n op e k x s g} (hf : f = .elem e) (h : ElemFires (n == 3) e k x s g) :
    scalar f n op s = .next ((s.taken k x e g.tag).emitResult k x e g ⟨f, n, op⟩) := by
  subst hf
  unfold scalar runForm; simp only [h.1]
  rw [fireElem_fires h rfl]; rfl

theorem scalar_blk {f : Form} {n op w k b i s g} (hf : f = .block w) (h : BlockFires true (2 ≤ n) (if n = 3 ∨ n = 0 then thirdOf w k b s else 0) w k b i s g) :
    scalar f n op s = .next (s.giveResult k b i w g ⟨f, n, op⟩) := by
  subst hf
  unfold scalar runForm; simp only [h.1]
  rw [fireBlock_fires h]; rfl

theorem scalar_closing {f : Form} {n op e k x s t} (hf : f = .elem e) (h0 : s.cur = some (.party (.elem k x))) (h : s.elemHeads k x e = .closing t)
    (hg : s.elemGate k x e t.tag = true) : scalar f n op s = .next (s.closeElem k x e t) := by
  subst hf
  unfold scalar runForm; simp only [h0]
  rw [fireElem, fireWith_closing h hg]; rfl

theorem scalar_skew {f : Form} {n op e k x s t} (hf : f = .elem e) (h0 : s.cur = some (.party (.elem k x))) (h : s.elemHeads k x e = .skew t)
    (hg : s.elemGate k x e t.tag = true) : scalar f n op s = .next (s.faultP 0x36 (.elem k x) t.tag t.pay 0) := by
  subst hf
  unfold scalar runForm; simp only [h0]
  rw [fireElem, fireWith_skew h hg]

theorem scalar_scale {f : Form} {n op e k x s ts g} (hf : f = .elem e) (h0 : s.cur = some (.party (.elem k x))) (hh : s.elemHeads k x e = .data ts)
    (hg : g = elemArgs (n == 3) (s.dyn k) x e ts) (hgate : s.elemGate k x e g.tag = true)
    (hl : (e.sckl.fails g.a.sc || (e.qR && e.sckr.fails g.b.sc)) = true) :
    scalar f n op s = .next (s.faultP 0x34 (.elem k x) g.tag g.a.v 0) := by
  subst hf
  unfold scalar runForm; simp only [h0]
  rw [fireElem, fireWith_scale (r := stdRule (n == 3) e k x) hh hg rfl hgate hl]

theorem scalar_false {f : Form} {n op e k x s ts g} (hf : f = .elem e) (h0 : s.cur = some (.party (.elem k x)))
    (hh : s.elemHeads k x e = .data ts) (hg : g = elemArgs (n == 3) (s.dyn k) x e ts) (hgate : s.elemGate k x e g.tag = true)
    (hl : e.sckl.fails g.a.sc = false) (hr : (e.qR && e.sckr.fails g.b.sc) = false)
    (hp : predHolds e.pm (((headIn e ts .P).map Token.pay).getD 0) = false) :
    scalar f n op s = .next (s.taken k x e g.tag) := by
  subst hf
  unfold scalar runForm; simp only [h0]
  rw [fireElem, fireWith_false (r := stdRule (n == 3) e k x) hh hg rfl rfl hgate hl hr hp]

theorem scalar_false_blk {f : Form} {n op w k b i s fr g p} (hf : f = .block w) (h0 : s.cur = some (.party (.actor k b i)))
    (h1 : s.blockGate k b i w = some fr) (h2 : blockArgs w true (2 ≤ n) (if n = 3 ∨ n = 0 then thirdOf w k b s else 0) i fr = some (g, p))
    (hp : predHolds w.pm p = false) :
    scalar f n op s = .next (s.giveNone k b i) := by
  subst hf
  unfold scalar runForm; simp only [h0]
  rw [fireBlock_false h1 h2 hp]

/-! ### Faults by path P -/

/-- An event of the Logbook changes the device alone. -/
theorem logEvent_dev (s : State) (a b c : Nat) : ∃ d, s.logEvent a b c = { s with dev := d } := by
  unfold State.logEvent; simp only; split
  · exact ⟨_, rfl⟩
  · exact ⟨s.dev, rfl⟩

/-- A choice in the Logbook changes the device alone. -/
theorem noteChoice_dev (s : State) (a b : Nat) : ∃ d, s.noteChoice a b = { s with dev := d } := by
  unfold State.noteChoice State.logChoice; simp only; split
  · split
    · exact ⟨_, rfl⟩
    · exact logEvent_dev s 1 a b
  · exact logEvent_dev s 1 a b

theorem logTime_dev (s : State) : ∃ d, s.logTime = { s with dev := d } := by
  unfold State.logTime; simp only; split
  · exact ⟨_, rfl⟩
  · exact ⟨s.dev, rfl⟩

theorem lbFreeze_dev (s : State) (c : Nat) : ∃ d, s.lbFreeze c = { s with dev := d } := by
  obtain ⟨d1, h1⟩ := logTime_dev s
  obtain ⟨d2, h2⟩ := logEvent_dev s.logTime 0x1A 0xC002 c
  unfold State.lbFreeze; simp only; split
  · rw [h2, h1]; exact ⟨_, rfl⟩
  · exact ⟨s.dev, rfl⟩

/-- Noting a cause changes the device alone. -/
theorem noteCause_dev (s : State) (a b c : Nat) (d : Word) : ∃ x, s.noteCause a b c d = { s with dev := x } := by
  obtain ⟨d1, h1⟩ := logEvent_dev s a b (c * 2 ^ 32 + d.toNat)
  unfold State.noteCause; simp only; split
  · obtain ⟨d2, h2⟩ := lbFreeze_dev (s.logEvent a b (c * 2 ^ 32 + d.toNat)) c
    rw [h2, h1]; exact ⟨_, rfl⟩
  · rw [h1]; exact ⟨_, rfl⟩

/-- Handing a record to a ring changes the device and the rings alone. -/
theorem post_rings (s : State) (r : RingId) (f : FaultRec) : ∃ d l, s.post r f = { s with dev := d, rings := l } := by
  unfold State.post
  obtain ⟨d, h⟩ := noteCause_dev (s.modRing r (fun x => { x with waiting := x.waiting ++ [f] })) 0x15 (State.recArb f) f.cause f.ctxid
  rw [h]; exact ⟨_, _, rfl⟩

theorem post_pages (s : State) (r : RingId) (f : FaultRec) : (s.post r f).pages = s.pages := by
  obtain ⟨_, _, h⟩ := post_rings s r f; rw [h]

/-- A fault of an element by path P stops it and leaves its page's queues as they are. -/
theorem faultP_elem {s : State} {k : PageKey} {n cause node : Nat} {tag : Tag} {v : Word} (h : s.page? k ≠ none) :
    (s.faultP cause (.elem k n) tag v node).dyn k = (s.dyn k).modElem n (fun x => { x with stopped := true }) := by
  unfold State.faultP State.faultWide State.setStopped
  simp only
  have h1 : ∀ r f, (((s.post r f).modDyn k (fun d => d.modElem n (fun x => { x with stopped := true }))).dyn k) =
      (s.dyn k).modElem n (fun x => { x with stopped := true }) := by
    intro r f
    have : (s.post r f).page? k ≠ none := by rwa [State.page?_of_pages (post_pages s r f)]
    rw [State.dyn_modDyn this, State.dyn_of_pages (post_pages s r f)]
  exact iteInduction (motive := fun t => State.dyn t k = _) (fun _ => h1 _ _) (fun _ => h1 _ _)

end Sys2Proof.Machine
end

