-- ==== Sys2Proof/Laws/Access.lean ====
section
/-!
SUPPORT. The address check behind a firing, and what the runners of memory instructions answer.
-/
namespace Sys2Proof.Machine

/-- An interrupt of a guest changes the device and the guests alone. -/
theorem State.guestIrq_guest (s : State) (g : GuestId) (n : Nat) : ∃ d m, s.guestIrq g n = { s with dev := d, guests := m } := by
  unfold State.guestIrq; simp only; split
  · exact ⟨_, _, rfl⟩
  · exact ⟨_, _, rfl⟩

/-- A stop told to the debugger changes the context, its guest and the device alone. -/
theorem State.tellDebug_guest (s : State) (c : CtxId) (cause : Nat) (x y : DWord) :
    ∃ d l m, s.tellDebug c cause x y = { s with dev := d, ctxs := l, guests := m } := by
  unfold State.tellDebug
  obtain ⟨d, h⟩ := noteCause_dev ((s.modCtx c (fun z => { z with report := some (cause, x, y) })).debugIrq c) 0x15 (0xA000 + c.num % 2 ^ 13) cause (ctxWord c)
  obtain ⟨e, m, hg⟩ := State.guestIrq_guest (s.modCtx c (fun z => { z with report := some (cause, x, y) })) ⟨c.part, c.guest⟩ 2
  rw [h]; unfold State.debugIrq; rw [hg]; exact ⟨_, _, _, rfl⟩

/-- Counting a step of a stepped party changes its context, its guest and the device alone. -/
theorem State.countStep_guest (s : State) (p : Party) (t : Tag) :
    ∃ d l m, s.countStep p t = { s with dev := d, ctxs := l, guests := m } := by
  have hs : ∀ b : Bool, ∃ l, (if b then s.modCtx p.page.ctx (fun y => { y with released := y.released.filter (fun z => z != partyWord (p.identity s)) }) else s) =
      { s with ctxs := l } := by
    intro b; cases b
    · exact ⟨s.ctxs, rfl⟩
    · exact ⟨_, rfl⟩
  unfold State.countStep
  simp only
  obtain ⟨l, hl⟩ := hs ((s.ctx p.page.ctx).released.contains (partyWord (p.identity s)))
  rw [hl]
  split
  · exact ⟨_, _, _, rfl⟩
  · split
    · obtain ⟨d, l2, m, h⟩ := State.tellDebug_guest (({ s with ctxs := l } : State).modCtx p.page.ctx
        (fun y => { y with dbg := .stopped, stepParty := none, stepOnly := false, res := 0 })) p.page.ctx 0x1E 1 0
      rw [h]; exact ⟨_, _, _, rfl⟩
    · exact ⟨_, _, _, rfl⟩

@[simp] theorem State.countStep_pages (s : State) (p : Party) (t : Tag) : (s.countStep p t).pages = s.pages := by
  obtain ⟨_, _, _, h⟩ := s.countStep_guest p t; rw [h]

@[simp] theorem State.countStep_granules (s : State) (p : Party) (t : Tag) : (s.countStep p t).granules = s.granules := by
  obtain ⟨_, _, _, h⟩ := s.countStep_guest p t; rw [h]

theorem State.touch_page (s : State) (k : PageKey) (tag : Tag) :
    (s.touch k tag).page? k = (s.page? k).map (fun p => { p with lastFire := s.cycle }) := by
  have h1 : (((s.modPage k (fun p => { p with lastFire := s.cycle })).modFrame ⟨k.ctx.part, tag⟩ (fun f => { f with lastFire := s.cycle })).page? k) =
      (s.page? k).map (fun p => { p with lastFire := s.cycle }) := by
    rw [State.page?_of_pages (State.modFrame_pages _ _ _)]
    cases h : s.page? k with
    | none => exact State.page?_modPage_none h
    | some p => exact State.page?_modPage_same h rfl
  unfold State.touch State.touchFrame
  simp only
  split
  · rw [State.page?_of_pages (State.countStep_pages _ _ _)]; exact h1
  · exact h1

theorem State.touch_granules (s : State) (k : PageKey) (tag : Tag) : (s.touch k tag).granules = s.granules := by
  unfold State.touch State.touchFrame; simp only; split <;> simp [State.fireAt]

/-- The page of an element behind its firing. -/
theorem State.taken_page (s : State) (k : PageKey) (n : Nat) (e : Ecw) (tag : Tag) :
    (s.taken k n e tag).page? k = (s.page? k).map (fun p =>
      { p with lastFire := s.cycle, dyn := (p.dyn.popAll n e.queues).countFiring n e tag }) := by
  unfold State.taken
  rw [State.page?_modDyn, State.touch_page]
  cases s.page? k <;> rfl

@[simp] theorem PageDyn.popAll_args (d : PageDyn) (n : Nat) (qs : List QueueName) : (d.popAll n qs).args = d.args := by
  induction qs generalizing d with
  | nil => rfl
  | cons q qs ih => exact ih _

@[simp] theorem PageDyn.popAll_argsNext (d : PageDyn) (n : Nat) (qs : List QueueName) : (d.popAll n qs).argsNext = d.argsNext := by
  induction qs generalizing d with
  | nil => rfl
  | cons q qs ih => exact ih _

@[simp] theorem PageDyn.popAll_elems (d : PageDyn) (n : Nat) (qs : List QueueName) : (d.popAll n qs).elems = d.elems := by
  induction qs generalizing d with
  | nil => rfl
  | cons q qs ih => exact ih _

@[simp] theorem PageDyn.popAll_actors (d : PageDyn) (n : Nat) (qs : List QueueName) : (d.popAll n qs).actors = d.actors := by
  induction qs generalizing d with
  | nil => rfl
  | cons q qs ih => exact ih _

@[simp] theorem PageDyn.popAll_island (d : PageDyn) (n : Nat) (qs : List QueueName) : (d.popAll n qs).island = d.island := by
  induction qs generalizing d with
  | nil => rfl
  | cons q qs ih => exact ih _

@[simp] theorem PageDyn.popAll_nodes (d : PageDyn) (n : Nat) (qs : List QueueName) : (d.popAll n qs).nodes = d.nodes := by
  induction qs generalizing d with
  | nil => rfl
  | cons q qs ih => exact ih _

/-- A change that keeps the cut of an element keeps that of every element. -/
theorem PageDyn.cut_modElem {d : PageDyn} {n : Nat} {f : ElemState → ElemState} (he : ∀ x, (f x).elem = x.elem) (hc : ∀ x, (f x).cut = x.cut) (m : Nat) :
    ((d.modElem n f).elem m).cut = (d.elem m).cut := by
  by_cases h : m = n
  · rw [h, PageDyn.elem_modElem he, hc]
  · unfold PageDyn.elem PageDyn.modElem
    have : ∀ l : List ElemState, (update (fun x => x.elem == n) f (some (f { elem := n })) l).find? (fun x => x.elem == m) = l.find? (fun x => x.elem == m) := by
      intro l
      induction l with
      | nil => simp [update, he, Ne.symm h]
      | cons x xs ih =>
        unfold update
        by_cases hx : x.elem = n
        · simp [hx, he, Ne.symm h]
        · simp [hx, List.find?_cons, ih]
    rw [this]

/-- What stands behind its cut on a page after an element's firing. -/
theorem State.turnBehind_taken (p : Page) (n : Nat) (e : Ecw) (tag : Tag) (c : BitVec 64) (u : Option Subject) :
    State.turnBehind { p with lastFire := c, dyn := (p.dyn.popAll n e.queues).countFiring n e tag } u = State.turnBehind p u := by
  have he : ∀ m, (((p.dyn.popAll n e.queues).countFiring n e tag).elem m).cut = (p.dyn.elem m).cut := by
    intro m
    unfold PageDyn.countFiring
    rw [PageDyn.cut_modElem (f := fun x => x.modTag tag _) (fun _ => rfl) (fun _ => rfl)]
    simp [PageDyn.elem]
  have ha : ∀ b, ((p.dyn.popAll n e.queues).countFiring n e tag).actor b = p.dyn.actor b := by
    intro b; simp [PageDyn.countFiring, PageDyn.modElem, PageDyn.actor]
  have hi : ((p.dyn.popAll n e.queues).countFiring n e tag).island = p.dyn.island := by
    simp [PageDyn.countFiring, PageDyn.modElem]
  have hn : ∀ b, ((p.dyn.popAll n e.queues).countFiring n e tag).node b = p.dyn.node b := by
    intro b; simp [PageDyn.countFiring, PageDyn.modElem, PageDyn.node]
  unfold State.turnBehind
  simp only [he, ha, hi, hn]

@[simp] theorem State.countStep_cur (s : State) (p : Party) (t : Tag) : (s.countStep p t).cur = s.cur := by
  obtain ⟨_, _, _, h⟩ := s.countStep_guest p t; rw [h]

theorem State.touch_cur (s : State) (k : PageKey) (tag : Tag) : (s.touch k tag).cur = s.cur := by
  unfold State.touch State.touchFrame; simp only; split <;> simp [State.fireAt, State.modFrame, State.modPage]

theorem State.turnArgs_taken (s : State) (k : PageKey) (m : Nat) (e : Ecw) (tag : Tag) : (s.taken k m e tag).turnArgs k = s.turnArgs k := by
  unfold State.turnArgs
  rw [State.taken_page]
  cases s.page? k with
  | none => rfl
  | some p =>
    have hc : (s.taken k m e tag).cur = s.cur := by
      simp [State.taken, State.modDyn, State.modPage, State.touch_cur]
    simp only [Option.map_some, hc, State.turnBehind_taken]
    simp [PageDyn.argsAt, PageDyn.countFiring, PageDyn.modElem]

/-- The address check reads the page's image, the argument slots that its turn sees, and the granules. -/
theorem State.checkAccess_congr {s t : State} {k : PageKey} {f : Page → Page} (h : t.page? k = (s.page? k).map f)
    (hi : ∀ p, (f p).image = p.image) (ha : t.turnArgs k = s.turnArgs k) (hg : t.granules = s.granules) (n pos size : Nat) :
    t.checkAccess k n pos size = s.checkAccess k n pos size := by
  unfold State.checkAccess
  cases hp : s.page? k with
  | none => simp [h, hp]
  | some p =>
    have hd : ∀ n, (f p).desc n = p.desc n := by intro n; simp [Page.desc, hi]
    have hb : ∀ d, t.nodeBase k d = s.nodeBase k d := by
      intro d; simp [State.nodeBase, ha]
    have hgr : ∀ a, t.granted k.ctx a = s.granted k.ctx a := by
      intro a; simp [State.granted, State.granule, hg]
    simp [h, hp, hd, hb, hgr]

@[simp] theorem State.checkAccess_taken (s : State) (k : PageKey) (m : Nat) (e : Ecw) (tag : Tag) (n pos size : Nat) :
    (s.taken k m e tag).checkAccess k n pos size = s.checkAccess k n pos size := by
  refine State.checkAccess_congr (State.taken_page s k m e tag) ?_ ?_ ?_ n pos size
  · intro p; rfl
  · exact State.turnArgs_taken s k m e tag
  · simp [State.taken, State.touch_granules]

/-- An access of an element that passes its checks is issued on the state behind the heads. -/
theorem memElem_issues {tri : Bool} {ask : Args → State → Ask} {e k n s g va} (h : ElemFires tri e k n s g)
    (hr : s.nodeRoom k (nodeOf e.x) = true) (hask : ∀ t, ask g t = ask g s)
    (hc : s.checkAccess k (nodeOf e.x) (ask g s).pos (ask g s).size = .ok va) :
    memElem tri ask e k n s =
      ((s.taken k n e g.tag).issue (.elem k n) (nodeOf e.x) (ask g s).op g.tag va (ask g s).size (ask g s).a (ask g s).b g.dep
        (((s.taken k n e g.tag).dyn k).keeps n e g.tag)).2 := by
  unfold memElem
  simp only
  rw [fireWith_fires h (by simpa using hr) (by simp [hc])]
  simp only [State.checkAccess_taken, hask, hc]

/-- An access of an element that fails its checks raises the check's cause. -/
theorem memElem_faults {tri : Bool} {ask : Args → State → Ask} {e k n s g c} (h : ElemFires tri e k n s g)
    (hr : s.nodeRoom k (nodeOf e.x) = true) (hc : s.checkAccess k (nodeOf e.x) (ask g s).pos (ask g s).size = .error c) :
    memElem tri ask e k n s = s.faultP c (.elem k n) g.tag g.a.v (nodeOf e.x) := by
  unfold memElem
  simp only
  rw [fireWith_check h (by simpa using hr) (by simp [hc]; exact ⟨rfl, rfl, rfl⟩)]

/-- An access of a block that passes its checks is issued, and its instruction waits. -/
theorem memBlock_issues {left right : Bool} {ask : Args → State → Option Ask} {note : Nat → Firing → Firing} {w k b i s g q va}
    (h : BlockFires left right 0 w k b i s g) (hr : s.tileRoom k = true) (hl : s.lowerIssued k b i (some (nodeOf w.x)) false = true)
    (hq : ask g s = some q) (hc : s.checkAccess k (nodeOf w.x) q.pos q.size = .ok va) :
    memBlock left right ask note w k b i s =
      let r := s.issue (.actor k b i) (nodeOf w.x) q.op g.tag va q.size q.a q.b g.dep true
      r.2.modFiring k b (fun f => note q.pos { f.await i (.access r.1) with accs := f.accs ++ [(i, r.1)] }) := by
  unfold memBlock
  simp only
  rw [fireBlock_fires h]
  simp [hr, hl, hq, hc]

/-- Asking for a round close leaves the pages as they are. -/
@[simp] theorem State.requestClose_pages (s : State) (c : CtxId) (n : Nat) : (s.requestClose c n).pages = s.pages := by
  unfold State.requestClose; split
  · rfl
  · obtain ⟨_, h⟩ := noteChoice_dev ((s.modCtx c (fun x => { x with wantClose := true })).sendCtl { code := 0x05, operand := n, ctx := some c })
      (0xA000 + c.num % 2 ^ 13) n
    rw [h]; rfl

@[simp] theorem State.enterQueue_pages (s : State) (i : Nat) : (s.enterQueue i).pages = s.pages := by
  unfold State.enterQueue
  split
  · rfl
  · simp only; split <;> simp

@[simp] theorem State.enterHome_pages (s : State) (i : Nat) (sp : Space) (pa : Nat) : (s.enterHome i sp pa).pages = s.pages := by
  unfold State.enterHome
  split
  · rfl
  · simp only; split <;> simp

@[simp] theorem State.beginWalk_pages (s : State) (r : Req) (m : Nat) : (s.beginWalk r m).pages = s.pages := by
  unfold State.beginWalk; simp only; split <;> rfl

/-- Issuing an access leaves the pages as they are. -/
@[simp] theorem State.issue_pages (s : State) (p : Party) (n : Nat) (op : MemOp) (tag : Tag) (va size : Nat) (a b : DWord) (dep : Dep) (keep : Bool) :
    (s.issue p n op tag va size a b dep keep).2.pages = s.pages := by
  unfold State.issue
  extract_lets k id d close r0 r s1 m
  have h1 : s1.pages = s.pages := rfl
  repeat' split
  all_goals simp [h1]

/-- An instruction fires in a firing of a page that exists. -/
theorem blockGate_firing {s : State} {k : PageKey} {b i : Nat} {w : Blk} {f : Firing} (h : s.blockGate k b i w = some f) :
    s.firing? k b = some f ∧ s.page? k ≠ none ∧ f.fired.contains i = false ∧ f.waits.any (fun x => x.1 == i) = false := by
  unfold State.blockGate at h
  cases hf : s.firing? k b with
  | none => simp [hf] at h
  | some f' =>
    simp only [hf] at h
    split at h
    · next hc =>
      cases h
      unfold State.blockFree at hc
      simp only [Bool.and_eq_true, Bool.not_eq_true'] at hc
      refine ⟨rfl, fun hp => ?_, hc.1.1.1.1.2, hc.1.1.1.2⟩
      simp [hp] at hc
    · cases h

theorem blockArgs_tag {w : Blk} {left right : Bool} {third : Word} {i : Nat} {f : Firing} {g : Args} {p : Word}
    (h : blockArgs w left right third i f = some (g, p)) : g.tag = f.tag := by
  unfold blockArgs at h
  simp only at h
  split at h
  · cases h; rfl
  · cases h

theorem PageDyn.actor_modActor {d : PageDyn} {n : Nat} {f : ActorState → ActorState} (hf : ∀ x, (f x).block = x.block) :
    (d.modActor n f).actor n = f (d.actor n) := by
  unfold PageDyn.actor PageDyn.modActor
  cases h : d.actors.find? (fun x => x.block == n) with
  | none => simp [find?_update_none h, hf]
  | some x =>
    have hx : x.block = n := by simpa using List.find?_some h
    simp [find?_update_same h (f := f) (by simp [hf, hx])]

/-- A firing changed is read back. -/
theorem State.firing?_modFiring {s : State} {k : PageKey} {b : Nat} {f : Firing → Firing} (h : s.page? k ≠ none) :
    (s.modFiring k b f).firing? k b = (s.firing? k b).map f := by
  unfold State.firing? State.modFiring
  rw [State.dyn_modDyn h, PageDyn.actor_modActor (by simp)]

end Sys2Proof.Machine
end

