-- ==== Sys2Proof/Laws/Decode.lean ====
section
/-!
SUPPORT. Lemmas about the word fields in both directions: what the decoder reads from a field that the encoder wrote, and
what the encoder writes for a field that the decoder accepted; and what well-formedness gives.
-/
namespace Sys2Proof.Laws.Coding
open Sys2Proof Sys2Proof.Decode

/-- A field of the upper part of a joined word. -/
theorem extract_app_hi {n m : Nat} (x : BitVec n) (y : BitVec m) (i k : Nat) (h : m ≤ i) :
    (x ++ y).extractLsb' i k = x.extractLsb' (i - m) k := by
  apply BitVec.eq_of_getLsbD_eq
  intro j hj
  simp only [BitVec.getLsbD_extractLsb', BitVec.getLsbD_append]
  have : ¬ (i + j < m) := by omega
  simp [this]
  congr 2; omega

/-- The lower part of a joined word. -/
theorem extract_app_lo {n m : Nat} (x : BitVec n) (y : BitVec m) :
    (x ++ y).extractLsb' 0 m = y := by
  apply BitVec.eq_of_getLsbD_eq
  intro j hj
  simp only [BitVec.getLsbD_extractLsb', BitVec.getLsbD_append]
  simp [hj]

/-- The whole word as a field. -/
theorem extract_self {n : Nat} (x : BitVec n) : x.extractLsb' 0 n = x := by
  apply BitVec.eq_of_getLsbD_eq
  intro j hj
  simp [hj]

/-- The opcode field of an encoded element word. -/
theorem ecwOf_op (op : BitVec 8) (e : Ecw) : (Encode.ecw op e).extractLsb' 120 8 = op := by
  unfold Encode.ecw
  simp (disch := decide) only [extract_app_hi]
  exact extract_self op

/-- Reading back what the encoder wrote: route. -/
theorem route_rt (r : Route) : routeOf (Encode.route r) = (r, []) := by
  cases r with
  | none => decide
  | pe c r q => cases q <;> revert c r <;> decide +kernel
  | egress p => revert p; decide +kernel
  | lane p => revert p; decide +kernel
  | chan p => revert p; decide +kernel
  | node n p => revert n p; decide +kernel

/-- Reading back what the encoder wrote: target. -/
theorem target_rt (r : Target) : targetOf (Encode.target r) = (r, []) := by
  cases r with
  | none => decide
  | left i => revert i; decide +kernel
  | right i => revert i; decide +kernel
  | pred i => revert i; decide +kernel
  | emit p => revert p; decide +kernel
  | lane p => revert p; decide +kernel

/-- Reading back what the encoder wrote: desig. -/
theorem desig_rt (r : Desig) : desigOf (Encode.desig r) = (r, []) := by
  cases r with
  | t i => revert i; decide +kernel
  | a i => revert i; decide +kernel
  | s i => revert i; decide +kernel
  | bad i => revert i; decide +kernel

/-- Reading back what the encoder wrote: ty. -/
theorem ty_rt (t : Ty) : tyOf (Encode.ty t) = (t, []) := by cases t <;> decide

/-- Reading back what the encoder wrote: csrc. -/
theorem csrc_rt (t : CSource) : csrcOf (Encode.csrc t) = (t, []) := by cases t <;> decide

/-- Reading back what the encoder wrote: pat. -/
theorem pat_rt (t : Pattern) : patOf (Encode.pat t) = (t, []) := by cases t <;> decide

/-- Reading back what the encoder wrote: eosp. -/
theorem eosp_rt (t : EndPolicy) : eospOf (Encode.eosp t) = (t, []) := by cases t <;> decide

/-- Reading back what the encoder wrote: sck. -/
theorem sck_rt (t : ScaleCheck) : sckOf (Encode.sck t) = (t, []) := by cases t <;> decide

/-- Reading back what the encoder wrote: pm. -/
theorem pm_rt (t : PredMode) : pmOf (Encode.pm t).toNat = t := by cases t <;> decide

/-- Reading back what the encoder wrote: bool. -/
theorem bool_rt (b : Bool) : (BitVec.ofBool b == 1#1) = b := by cases b <;> decide

/-- Reading back what the encoder wrote: ecw. -/
theorem ecw_rt (op : BitVec 8) (e : Ecw) : ecwOf (Encode.ecw op e) = (e, []) := by
  unfold ecwOf Encode.ecw
  simp (disch := decide) only [extract_app_hi, Nat.reduceSub]
  simp only [extract_app_lo, ty_rt, csrc_rt, route_rt, pat_rt, eosp_rt, sck_rt, pm_rt]
  simp [chk, bool_rt, pm_rt]

/-- Reading back what the encoder wrote: blk. -/
theorem blk_rt (op : BitVec 8) (e : Blk) : blkOf (Encode.blk op e) = (e, []) := by
  unfold blkOf Encode.blk
  simp (disch := decide) only [extract_app_hi, Nat.reduceSub]
  simp only [extract_app_lo, ty_rt, target_rt, pm_rt]
  simp [chk, bool_rt, pm_rt]

/-- Reading back what the encoder wrote: isl. -/
theorem isl_rt (op : BitVec 8) (e : Isl) : islOf (Encode.isl op e) = (e, []) := by
  unfold islOf Encode.isl
  simp (disch := decide) only [extract_app_hi, Nat.reduceSub]
  simp only [extract_app_lo, ty_rt, desig_rt]
  simp [chk, bool_rt]

/-- The opcode field of an encoded word. -/
theorem blk_op (op : BitVec 8) (e : Blk) : (Encode.blk op e).extractLsb' 56 8 = op := by
  unfold Encode.blk
  simp (disch := decide) only [extract_app_hi]
  exact extract_self op

/-- The opcode field of an encoded word. -/
theorem isl_op (op : BitVec 8) (e : Isl) : (Encode.isl op e).extractLsb' 56 8 = op := by
  unfold Encode.isl
  simp (disch := decide) only [extract_app_hi]
  exact extract_self op

/-- The checks of a decoded well-formed word find nothing. -/
theorem finish_ok (site : Site) (op : Nat) (i : Instr) (h : WellFormed site i) :
    finish site op (some i) [] = .ok i := by
  simp [finish, show wordCauses site i = [] from h, lowest]

/-- Reading back what the encoder wrote: decodeEcw. -/
theorem decodeEcw_rt (op : Nat) (e : Ecw) (i : Instr) (h0 : op % 256 ≠ 0) (hi : elemInstr (op % 256) e = some i)
    (h : WellFormed .elem i) : decodeEcw (Encode.ecw (BitVec.ofNat 8 op) e) = .ok i := by
  unfold decodeEcw
  rw [ecwOf_op, ecw_rt]
  simp only [BitVec.toNat_ofNat, Nat.reducePow, h0, if_false]
  rw [hi]; exact finish_ok _ _ _ h

/-- Reading back what the encoder wrote: decodeBlk. -/
theorem decodeBlk_rt (site : Site) (op : Nat) (e : Blk) (i : Instr) (hs : site ≠ .island) (h0 : op % 256 ≠ 0) (hi : blockInstr (op % 256) e = some i)
    (h : WellFormed site i) : decodeBlk site (Encode.blk (BitVec.ofNat 8 op) e) = .ok i := by
  unfold decodeBlk
  rw [blk_op, blk_rt]
  simp only [BitVec.toNat_ofNat, Nat.reducePow, h0, if_false]
  cases site <;> first | exact absurd rfl hs | (simp only [hi]; exact finish_ok _ _ _ h)

/-- Reading back what the encoder wrote: decodeIsl. -/
theorem decodeIsl_rt (op : Nat) (e : Isl) (i : Instr) (h0 : op % 256 ≠ 0) (hi : islandOp (op % 256) e = some i)
    (h : WellFormed .island i) : decodeBlk .island (Encode.isl (BitVec.ofNat 8 op) e) = .ok i := by
  unfold decodeBlk
  rw [isl_op, isl_rt]
  simp only [BitVec.toNat_ofNat, Nat.reducePow, h0, if_false]
  rw [hi]; exact finish_ok _ _ _ h

/-- chk nil. -/
theorem chk_nil (c : Cause) (b : Bool) : (chk c b = []) ↔ b = true := by
  cases b <;> simp [chk]

/-- What a well-formed word of an element or a block gives: its fields pass their rule, it stands in its site. -/
theorem wf_rule {site : Site} {i : Instr} {f : Form} {r : Rule} {p : Bool} {o : OpInfo} (ho : opInfo i = some o)
    (hn : ∀ q, i ≠ .nop q) (hi : islandRule i = none) (hr : ruleOf site i = some (f, r, p)) (h : WellFormed site i) :
    r.ok = true ∧ (match f with | .elem _ => site = .elem | .block _ => site ≠ .elem ∧ site ≠ .island) ∧ o.legalAt site = true := by
  unfold WellFormed wordCauses at h
  rw [ho] at h
  simp only [hi, hr, List.append_eq_nil_iff, chk_nil, Rule.causes] at h
  obtain ⟨⟨h1, -⟩, ⟨-, h2⟩, h3⟩ := h
  refine ⟨by simp_all, ?_, h1⟩
  cases f with
  | elem e => simp only [List.append_eq_nil_iff, chk_nil] at h3; simpa using h3.1
  | block b => simp only [List.append_eq_nil_iff, chk_nil] at h3; simpa using h3.1

/-- What a well-formed island word gives. -/
theorem wf_isl {site : Site} {i : Instr} {f : Isl} {r : IslandRule} {o : OpInfo} (ho : opInfo i = some o)
    (hn : ∀ q, i ≠ .nop q) (hi : islandRule i = some (f, r)) (h : WellFormed site i) :
    r.ok = true ∧ site = .island := by
  unfold WellFormed wordCauses at h
  rw [ho] at h
  simp only [hi, List.append_eq_nil_iff, chk_nil, islCauses] at h
  exact ⟨by simp_all, by simp_all⟩

/-- An event of the device is no word. -/
theorem wf_none {site : Site} {i : Instr} (ho : opInfo i = none) : ¬ WellFormed site i := by
  unfold WellFormed wordCauses; rw [ho]; simp

/-- A field without a cause is what the encoder writes for what was read: ty. -/
theorem ty_inv (v : BitVec 4) : (tyOf v).2 = [] → Encode.ty (tyOf v).1 = v := by revert v; decide

/-- A field without a cause is what the encoder writes for what was read: csrc. -/
theorem csrc_inv (v : BitVec 2) : (csrcOf v).2 = [] → Encode.csrc (csrcOf v).1 = v := by revert v; decide

/-- A field without a cause is what the encoder writes for what was read: pat. -/
theorem pat_inv (v : BitVec 4) : (patOf v).2 = [] → Encode.pat (patOf v).1 = v := by revert v; decide

/-- A field without a cause is what the encoder writes for what was read: eosp. -/
theorem eosp_inv (v : BitVec 2) : (eospOf v).2 = [] → Encode.eosp (eospOf v).1 = v := by revert v; decide

/-- A field without a cause is what the encoder writes for what was read: sck. -/
theorem sck_inv (v : BitVec 2) : (sckOf v).2 = [] → Encode.sck (sckOf v).1 = v := by revert v; decide

/-- A field without a cause is what the encoder writes for what was read: pm. -/
theorem pm_inv (v : BitVec 2) : Encode.pm (pmOf v.toNat) = v := by revert v; decide

/-- A field without a cause is what the encoder writes for what was read: bool. -/
theorem bool_inv (v : BitVec 1) : BitVec.ofBool (v == (1 : BitVec 1)) = v := by revert v; decide

/-- A field without a cause is what the encoder writes for what was read: desig. -/
theorem desig_inv (v : BitVec 5) : (desigOf v).2 = [] → Encode.desig (desigOf v).1 = v := by revert v; decide +kernel

/-- A field without a cause is what the encoder writes for what was read: target. -/
theorem target_inv (v : BitVec 10) : (targetOf v).2 = [] → Encode.target (targetOf v).1 = v := by revert v; decide +kernel

/-- A field without a cause is what the encoder writes for what was read: route. -/
theorem route_inv (v : BitVec 12) : (routeOf v).2 = [] → Encode.route (routeOf v).1 = v := by revert v; decide +kernel

/-- Two neighbouring fields are one. -/
theorem ext_app {n : Nat} (x : BitVec n) (i a b : Nat) (c : Nat) (h : c = i + b) :
    x.extractLsb' c a ++ x.extractLsb' i b = x.extractLsb' i (a + b) := by
  subst h
  apply BitVec.eq_of_getLsbD_eq
  intro j hj
  simp only [BitVec.getLsbD_extractLsb', BitVec.getLsbD_append]
  by_cases hb : j < b
  · simp [hb, hj]
  · simp only [hb, hj, decide_false, decide_true, Bool.true_and, cond_false]
    have : j - b < a := by omega
    simp only [this, decide_true, Bool.true_and]
    simp [show i + b + (j - b) = i + j by omega, hb]

/-- A field without a cause is what the encoder writes for what was read: ecw. -/
theorem ecw_inv (w : BitVec 128) (h : (ecwOf w).2 = []) : Encode.ecw (w.extractLsb' 120 8) (ecwOf w).1 = w := by
  unfold ecwOf at h ⊢
  simp only [List.append_eq_nil_iff, chk_nil, beq_iff_eq] at h
  obtain ⟨⟨⟨⟨⟨⟨⟨⟨h1, h2⟩, h3⟩, h4⟩, h5⟩, h6⟩, h7⟩, h8⟩, h9⟩ := h
  unfold Encode.ecw
  simp only [ty_inv _ h1, csrc_inv _ h2, route_inv _ h3, route_inv _ h4, pat_inv _ h5, eosp_inv _ h6, sck_inv _ h7, sck_inv _ h8, pm_inv, bool_inv, ← h9]
  simp only [ext_app]
  simp

/-- A field without a cause is what the encoder writes for what was read: blk. -/
theorem blk_inv (w : BitVec 64) (h : (blkOf w).2 = []) : Encode.blk (w.extractLsb' 56 8) (blkOf w).1 = w := by
  unfold blkOf at h ⊢
  simp only [List.append_eq_nil_iff, chk_nil, beq_iff_eq] at h
  obtain ⟨⟨h1, h2⟩, h3⟩ := h
  unfold Encode.blk
  simp only [ty_inv _ h1, target_inv _ h2, target_inv _ h3, pm_inv, bool_inv]
  simp only [ext_app]
  simp

/-- A field without a cause is what the encoder writes for what was read: isl. -/
theorem isl_inv (w : BitVec 64) (h : (islOf w).2 = []) : Encode.isl (w.extractLsb' 56 8) (islOf w).1 = w := by
  unfold islOf at h ⊢
  simp only [List.append_eq_nil_iff, chk_nil, beq_iff_eq] at h
  obtain ⟨⟨⟨⟨⟨h1, h2⟩, h3⟩, h4⟩, h5⟩, h6⟩ := h
  unfold Encode.isl
  simp only [ty_inv _ h1, desig_inv _ h2, desig_inv _ h3, desig_inv _ h4, ← h5, ← h6, bool_inv]
  simp only [ext_app]
  simp

/-- What the opcode of a decoded word says of its instruction: low_inv. -/
theorem low_inv (op : Nat) (f : Form) (i : Instr) (h : formLow op f = some i) : (∀ q, i ≠ .nop q) ∧ (∃ o, opInfo i = some o ∧ o.code = op) ∧ islandRule i = none ∧ ∃ r p, ruleOf (.actor true true) i = some (f, r, p) := by
  unfold formLow at h
  split at h <;> first | (injection h with h; subst h; exact ⟨(by intro q hq; cases hq), ⟨_, rfl, rfl⟩, rfl, ⟨_, _, rfl⟩⟩) | contradiction

/-- What the opcode of a decoded word says of its instruction: high_inv. -/
theorem high_inv (op : Nat) (f : Form) (i : Instr) (h : formHigh op f = some i) : (∀ q, i ≠ .nop q) ∧ (∃ o, opInfo i = some o ∧ o.code = op) ∧ islandRule i = none ∧ ∃ r p, ruleOf (.actor true true) i = some (f, r, p) := by
  unfold formHigh at h
  split at h <;> first | (injection h with h; subst h; first | exact ⟨(by intro q hq; cases hq), ⟨_, rfl, rfl⟩, rfl, ⟨_, _, rfl⟩⟩ | (split <;> exact ⟨(by intro q hq; cases hq), ⟨_, rfl, rfl⟩, rfl, ⟨_, _, rfl⟩⟩)) | contradiction

/-- What the opcode of a decoded word says of its instruction: bop_inv. -/
theorem bop_inv (op : Nat) (f : Blk) (i : Instr) (h : blockOp op f = some i) : (∀ q, i ≠ .nop q) ∧ (∃ o, opInfo i = some o ∧ o.code = op) ∧ islandRule i = none ∧ ∃ r p, ruleOf (.actor true true) i = some (.block f, r, p) := by
  unfold blockOp at h
  split at h <;> first | (injection h with h; subst h; first | exact ⟨(by intro q hq; cases hq), ⟨_, rfl, rfl⟩, rfl, ⟨_, _, rfl⟩⟩ | ((try unfold sendOf); split <;> exact ⟨(by intro q hq; cases hq), ⟨_, rfl, rfl⟩, rfl, ⟨_, _, rfl⟩⟩)) | contradiction

/-- What the opcode of a decoded word says of its instruction: isl_op_inv. -/
theorem isl_op_inv (op : Nat) (f : Isl) (i : Instr) (h : islandOp op f = some i) : (∀ q, i ≠ .nop q) ∧ (∃ o, opInfo i = some o ∧ o.code = op) ∧ ∃ r, islandRule i = some (f, r) := by
  unfold islandOp at h
  split at h <;> first | (injection h with h; subst h; first | exact ⟨(by intro q hq; cases hq), ⟨_, rfl, rfl⟩, ⟨_, rfl⟩⟩ | (split <;> exact ⟨(by intro q hq; cases hq), ⟨_, rfl, rfl⟩, ⟨_, rfl⟩⟩)) | contradiction

/-- What the opcode of a decoded word says of its instruction: elem_op_inv. -/
theorem elem_op_inv (op : Nat) (e : Ecw) (i : Instr) (h : elemInstr op e = some i) : (∀ q, i ≠ .nop q) ∧ (∃ o, opInfo i = some o ∧ o.code = op) ∧ islandRule i = none ∧ ∃ r p, ruleOf (.actor true true) i = some (.elem e, r, p) := by
  unfold elemInstr at h
  split at h
  · injection h with h; subst h; subst op; exact ⟨(by intro q hq; cases hq), ⟨_, rfl, rfl⟩, rfl, ⟨_, _, rfl⟩⟩
  split at h
  · injection h with h; subst h; subst op; split <;> exact ⟨(by intro q hq; cases hq), ⟨_, rfl, rfl⟩, rfl, ⟨_, _, rfl⟩⟩
  split at h
  · injection h with h; subst h; subst op; exact ⟨(by intro q hq; cases hq), ⟨_, rfl, rfl⟩, rfl, ⟨_, _, rfl⟩⟩
  split at h
  · exact low_inv _ _ _ h
  · exact high_inv _ _ _ h

/-- What the opcode of a decoded word says of its instruction: block_op_inv. -/
theorem block_op_inv (op : Nat) (e : Blk) (i : Instr) (h : blockInstr op e = some i) : (∀ q, i ≠ .nop q) ∧ (∃ o, opInfo i = some o ∧ o.code = op) ∧ islandRule i = none ∧ ∃ r p, ruleOf (.actor true true) i = some (.block e, r, p) := by
  unfold blockInstr at h
  split at h
  · injection h with h; subst h; subst op; exact ⟨(by intro q hq; cases hq), ⟨_, rfl, rfl⟩, rfl, ⟨_, _, rfl⟩⟩
  split at h
  · injection h with h; subst h; subst op; split <;> exact ⟨(by intro q hq; cases hq), ⟨_, rfl, rfl⟩, rfl, ⟨_, _, rfl⟩⟩
  split at h
  · exact low_inv _ _ _ h
  split at h
  · injection h with h; subst h; rename_i h; exact high_inv _ _ _ h
  · exact bop_inv _ _ _ h

/-- The encoder's word for an instruction of its kind. -/
theorem encode_elem (i : Instr) (e : Ecw) (r p o) (hn : ∀ q, i ≠ .nop q) (ho : opInfo i = some o) (hi : islandRule i = none) (hr : ruleOf (.actor true true) i = some (.elem e, r, p)) : encode i = some (.ecw (Encode.ecw (BitVec.ofNat 8 o.code) e)) := by
  unfold encode
  split
  · exact absurd rfl (hn _)
  · exact absurd rfl (hn _)
  · simp only [ho, hi, hr]

/-- The encoder's word for an instruction of its kind. -/
theorem encode_blk (i : Instr) (e : Blk) (r p o) (hn : ∀ q, i ≠ .nop q) (ho : opInfo i = some o) (hi : islandRule i = none) (hr : ruleOf (.actor true true) i = some (.block e, r, p)) : encode i = some (.blk (Encode.blk (BitVec.ofNat 8 o.code) e)) := by
  unfold encode
  split
  · exact absurd rfl (hn _)
  · exact absurd rfl (hn _)
  · simp only [ho, hi, hr]

/-- The encoder's word for an instruction of its kind. -/
theorem encode_isl (i : Instr) (e : Isl) (r o) (hn : ∀ q, i ≠ .nop q) (ho : opInfo i = some o) (hi : islandRule i = some (e, r)) : encode i = some (.blk (Encode.isl (BitVec.ofNat 8 o.code) e)) := by
  unfold encode
  split
  · exact absurd rfl (hn _)
  · exact absurd rfl (hn _)
  · simp only [ho, hi]

/-- No cause, no finding. -/
theorem lowest_none (l : List Cause) (h : lowest l = none) : l = [] := by
  cases l with
  | nil => rfl
  | cons a l => simp only [lowest] at h; split at h <;> contradiction

/-- What a decoding that finds nothing gives. -/
theorem finish_inv (site op i raw j) (h : finish site op i raw = .ok j) : i = some j ∧ raw = [] ∧ WellFormed site j := by
  unfold finish at h
  split at h
  · contradiction
  · split at h
    · contradiction
    · rename_i k hl; injection h with h; subst h
      have := lowest_none _ hl
      simp only [List.append_eq_nil_iff] at this
      exact ⟨rfl, this.1, this.2⟩

end Sys2Proof.Laws.Coding
end

