-- ==== Sys2Proof/Laws/Island.lean ====
section
/-!
SUPPORT. What the runner of island instructions answers.
-/
namespace Sys2Proof.Machine

/-- An instruction of the section that issues: what its effect answers decides. -/
theorem runIsl_eq {k : PageKey} {s : State} {x : IslandState} (h : IslandFires k s x) (j : Bool) (f : PageKey → IslandState → Except Hold Done) :
    s.runIsl j f = .next (match f k x with
      | .error .wait => s
      | .error (.gone t) => t
      | .error (.fault c v n t) => t.islandFault k c v n
      | .error (.eos lane t) => t.setIsland k { (t.dyn k).island with phase := .ending, eosTaken := (t.dyn k).island.eosTaken ++ [lane] }
      | .ok d =>
        let t := (d.t.setIsland k (if j then d.x else d.x.advance)).touch k d.x.tag
        if d.flags = Flags.none then t
        else ({ t with free := t.free + 1 } : State).raiseFlags d.flags (.island k) d.x.tag ((Config.islandReport t.free).setWidth 32)) := by
  obtain ⟨h0, h1, rfl⟩ := h
  unfold State.runIsl; simp only [h0]
  unfold State.islandStep; simp only [h1]; rfl

/-- An instruction performed with these flags. -/
theorem runIsl_with {k : PageKey} {s : State} {x : IslandState} (h : IslandFires k s x) {f : PageKey → IslandState → Except Hold Done} {d : Done}
    (hf : f k x = .ok d) : s.runIsl false f = .next (d.t.islandNextWith k d.x d.flags) := by
  rw [runIsl_eq h, hf]; rfl

/-- An instruction performed without flags. -/
theorem runIsl_next {k : PageKey} {s t : State} {x y : IslandState} (h : IslandFires k s x) {f : PageKey → IslandState → Except Hold Done}
    (hf : f k x = .ok { x := y, t := t }) : s.runIsl false f = .next (t.islandNext k y) := by
  rw [runIsl_eq h, hf]; rfl

/-- An instruction that sets the program counter itself. -/
theorem runIsl_jump {k : PageKey} {s t : State} {x y : IslandState} (h : IslandFires k s x) {f : PageKey → IslandState → Except Hold Done}
    (hf : f k x = .ok { x := y, t := t }) : s.runIsl true f = .next ((t.setIsland k y).touch k y.tag) := by
  rw [runIsl_eq h, hf]; rfl

/-- An instruction that stops in place. -/
theorem runIsl_fault {k : PageKey} {s t : State} {x : IslandState} {c : Nat} {v : DWord} {n : Nat} {j : Bool} (h : IslandFires k s x)
    {f : PageKey → IslandState → Except Hold Done} (hf : f k x = .error (.fault c v n t)) : s.runIsl j f = .next (t.islandFault k c v n) := by
  rw [runIsl_eq h, hf]

end Sys2Proof.Machine
end

