-- ==== Sys2Proof/Laws/Memory.lean ====
section
/-!
SUPPORT. The canonical form of a memory is kept by every operation on it, and a read behind a write.
-/
namespace Sys2Proof.Machine

namespace Memory

/-- The canonical form said cell by cell. -/
theorem wf_cons (c : Host.Cell) (m : List Host.Cell) : wf (c :: m) = true ↔ c.2 ≠ 0 ∧ (∀ d ∈ m, c.1 < d.1) ∧ wf m = true := by
  induction m generalizing c with
  | nil => simp [wf]
  | cons d rest ih =>
    simp only [wf, Bool.and_eq_true, bne_iff_ne, decide_eq_true_eq]
    constructor
    · rintro ⟨⟨h1, h2⟩, h3⟩
      refine ⟨h1, ?_, h3⟩
      intro e he
      rcases List.mem_cons.mp he with rfl | he
      · exact h2
      · exact Nat.lt_trans h2 (((ih d).mp h3).2.1 e he)
    · rintro ⟨h1, h2, h3⟩
      exact ⟨⟨h1, h2 d (by simp)⟩, h3⟩

theorem mem_write {m : List Host.Cell} {a : Nat} {b : Byte} {c : Host.Cell} (h : c ∈ write m a b) : c = (a, b) ∨ c ∈ m := by
  induction m with
  | nil => unfold write at h; split at h <;> simp_all
  | cons d rest ih =>
    unfold write at h
    split at h
    · split at h <;> simp_all
    · split at h
      · split at h <;> simp_all
        rcases h with h | h <;> simp [h]
      · rcases List.mem_cons.mp h with rfl | h
        · simp
        · rcases ih h with h | h <;> simp [h]

/-- Writing a byte keeps the canonical form. -/
theorem wf_write {m : List Host.Cell} (h : wf m = true) (a : Nat) (b : Byte) : wf (write m a b) = true := by
  induction m with
  | nil => unfold write; split <;> simp_all [wf]
  | cons c rest ih =>
    have hc := (wf_cons c rest).mp h
    unfold write
    split
    · next hlt =>
      split
      · exact h
      · next hb =>
        rw [wf_cons]
        refine ⟨hb, ?_, h⟩
        intro d hd
        rcases List.mem_cons.mp hd with rfl | hd
        · exact hlt
        · exact Nat.lt_trans hlt (hc.2.1 d hd)
    · next hlt =>
      split
      · next he =>
        split
        · exact hc.2.2
        · next hb =>
          rw [wf_cons]
          exact ⟨hb, fun d hd => by subst he; exact hc.2.1 d hd, hc.2.2⟩
      · next he =>
        rw [wf_cons]
        refine ⟨hc.1, ?_, ih hc.2.2⟩
        intro d hd
        rcases mem_write hd with rfl | hd
        · simp only; omega
        · exact hc.2.1 d hd

theorem wf_writeBytes {m : List Host.Cell} (h : wf m = true) (a : Nat) (bs : List Byte) : wf (writeBytes m a bs) = true := by
  induction bs generalizing m a with
  | nil => exact h
  | cons b bs ih => exact ih (wf_write h a b) (a + 1)

theorem wf_writeNat {m : List Host.Cell} (h : wf m = true) (a n v : Nat) : wf (writeNat m a n v) = true := wf_writeBytes h a _

theorem wf_filter {m : List Host.Cell} (h : wf m = true) (p : Host.Cell → Bool) : wf (m.filter p) = true := by
  induction m with
  | nil => rfl
  | cons c rest ih =>
    have hc := (wf_cons c rest).mp h
    simp only [List.filter_cons]
    split
    · rw [wf_cons]
      exact ⟨hc.1, fun d hd => hc.2.1 d ((List.mem_filter.mp hd).1), ih hc.2.2⟩
    · exact ih hc.2.2

theorem wf_clear {m : List Host.Cell} (h : wf m = true) (lo hi : Nat) : wf (clear m lo hi) = true := wf_filter h _

theorem wf_cells (bs : List Byte) (n : Nat) :
    wf ((bs.zipIdx n).filterMap (fun b => if b.1 = 0 then none else some (b.2, b.1))) = true ∧
      ∀ c ∈ (bs.zipIdx n).filterMap (fun b => if b.1 = 0 then none else some (b.2, b.1)), n ≤ c.1 := by
  induction bs generalizing n with
  | nil => simp [wf]
  | cons b bs ih =>
    have hi := ih (n + 1)
    simp only [List.zipIdx_cons, List.filterMap_cons]
    by_cases hb : b = 0
    · simp only [if_pos hb]
      exact ⟨hi.1, fun c hc => Nat.le_of_succ_le (hi.2 c hc)⟩
    · simp only [if_neg hb]
      refine ⟨(wf_cons _ _).mpr ⟨hb, fun d hd => hi.2 d hd, hi.1⟩, ?_⟩
      intro c hc
      rcases List.mem_cons.mp hc with rfl | hc
      · exact Nat.le_refl n
      · exact Nat.le_of_succ_le (hi.2 c hc)

theorem wf_ofBytes (bs : List Byte) : wf (ofBytes bs) = true := (wf_cells bs 0).1

/-- An address below every listed one reads 0. -/
theorem read_below {m : List Host.Cell} {a : Nat} (h : ∀ d ∈ m, a < d.1) : read m a = 0 := by
  induction m with
  | nil => rfl
  | cons c rest ih =>
    have := h c (by simp)
    simp only [read]
    rw [if_neg (by omega)]
    exact ih (fun d hd => h d (by simp [hd]))

/-- A read behind a write: the byte written at its address, every other byte as before. -/
theorem read_write {m : List Host.Cell} (h : wf m = true) (a : Nat) (b : Byte) (x : Nat) :
    read (write m a b) x = if x = a then b else read m x := by
  induction m with
  | nil =>
    unfold write
    by_cases hb : b = 0
    · rw [if_pos hb]; simp [read, hb]
    · rw [if_neg hb]
      by_cases hx : x = a
      · simp [read, hx]
      · simp [read, hx, Ne.symm hx]
  | cons c rest ih =>
    have hc := (wf_cons c rest).mp h
    unfold write
    split
    · next hlt =>
      have hall : ∀ d ∈ c :: rest, a < d.1 := by
        intro d hd
        rcases List.mem_cons.mp hd with rfl | hd
        · exact hlt
        · exact Nat.lt_trans hlt (hc.2.1 d hd)
      by_cases hb : b = 0
      · rw [if_pos hb]
        by_cases hx : x = a
        · rw [if_pos hx, hx, hb, read_below hall]
        · rw [if_neg hx]
      · rw [if_neg hb]
        by_cases hx : x = a
        · simp [read, hx]
        · rw [if_neg hx, read, if_neg (Ne.symm hx)]
    · split
      · next hlt he =>
        subst he
        by_cases hb : b = 0
        · rw [if_pos hb]
          by_cases hx : x = c.1
          · rw [if_pos hx, hx, hb, read_below hc.2.1]
          · rw [if_neg hx, read, if_neg (Ne.symm hx)]
        · rw [if_neg hb]
          by_cases hx : x = c.1
          · simp [read, hx]
          · rw [if_neg hx, read, read, if_neg (Ne.symm hx), if_neg (Ne.symm hx)]
      · next hlt he =>
        simp only [read, ih hc.2.2]
        by_cases hx : x = a
        · subst hx; simp [Ne.symm he]
        · simp [hx]

/-- A read behind the write of several bytes. -/
theorem read_writeBytes {m : List Host.Cell} (h : wf m = true) (a : Nat) (bs : List Byte) (x : Nat) :
    read (writeBytes m a bs) x = if a ≤ x ∧ x < a + bs.length then (bs[x - a]?).getD 0 else read m x := by
  induction bs generalizing m a with
  | nil => simp [writeBytes] <;> omega
  | cons b bs ih =>
    simp only [writeBytes]
    rw [ih (wf_write h a b) (a + 1), read_write h]
    by_cases hx : x = a
    · subst hx; simp <;> omega
    · by_cases h1 : a + 1 ≤ x ∧ x < a + 1 + bs.length
      · have : x - a = (x - (a + 1)) + 1 := by omega
        simp only [h1, and_self, if_true]
        rw [if_pos (by simp; omega), this]
        simp
      · rw [if_neg h1, if_neg hx, if_neg (by simp; omega)]

theorem read_clear (m : List Host.Cell) (lo hi x : Nat) : read (clear m lo hi) x = if lo ≤ x ∧ x < hi then 0 else read m x := by
  induction m with
  | nil => simp [clear, read]
  | cons c rest ih =>
    simp only [clear, List.filter_cons] at ih ⊢
    by_cases hk : lo ≤ c.1 ∧ c.1 < hi
    · have : (!(decide (lo ≤ c.1) && decide (c.1 < hi))) = false := by simp [hk]
      rw [this]
      simp only [Bool.false_eq_true, if_false, ih, read]
      by_cases hx : c.1 = x
      · subst hx; simp [hk]
      · simp [hx]
    · have : (!(decide (lo ≤ c.1) && decide (c.1 < hi))) = true := by simp; omega
      rw [this]
      simp only [if_true, read, ih]
      by_cases hx : c.1 = x
      · subst hx; simp [hk]
      · simp [hx]

end Memory

/-! ### The state's memories -/

@[simp] theorem State.mem_setMem_same (s : State) (sp : Space) (m : List Host.Cell) : (s.setMem sp m).mem sp = m := by cases sp <;> rfl

theorem State.mem_setMem_other {sp sp' : Space} (h : sp' ≠ sp) (s : State) (m : List Host.Cell) : (s.setMem sp m).mem sp' = s.mem sp' := by
  cases sp <;> cases sp' <;> first | rfl | exact absurd rfl h

theorem MemOk.mem {s : State} (h : MemOk s) (sp : Space) : Memory.wf (s.mem sp) = true := by
  cases sp
  · exact h.1
  · exact h.2.1
  · exact h.2.2

theorem MemOk.setMem {s : State} (h : MemOk s) (sp : Space) {m : List Host.Cell} (hm : Memory.wf m = true) : MemOk (s.setMem sp m) := by
  cases sp
  · exact ⟨hm, h.2.1, h.2.2⟩
  · exact ⟨h.1, hm, h.2.2⟩
  · exact ⟨h.1, h.2.1, hm⟩

end Sys2Proof.Machine
end

