-- ==== Sys2Proof/Laws/Step.lean ====
section
/-!
SUPPORT. What a tick leaves: the turns of the sweep in some order, and every field but the counters, the agenda and the counter of
open values.
-/
namespace Sys2Proof.Machine

/-- An element before the rest of its list is the list in another order. -/
theorem getElem_cons_eraseIdx_perm {α : Type} (l : List α) (i : Nat) (h : i < l.length) : (l[i] :: l.eraseIdx i).Perm l := by
  induction l generalizing i with
  | nil => simp at h
  | cons x l ih =>
    cases i with
    | zero => simp
    | succ i =>
      simp only [List.getElem_cons_succ, List.eraseIdx_cons_succ]
      exact (List.Perm.swap _ _ _).trans ((ih i (by simpa using h)).cons x)

/-- The turns are dealt out once each. -/
theorem dealt_perm (n : Nat) (ts : List Turn) (s : State) (h : n = ts.length) : (dealt n ts s).1.Perm ts := by
  induction n generalizing ts s with
  | zero => exact .refl _
  | succ n ih =>
    have lt : (s.choose ts.length).1 < ts.length := Nat.mod_lt _ (by omega)
    simp only [dealt, List.getElem?_eq_getElem lt]
    refine (List.Perm.cons _ (ih _ _ ?_)).trans (getElem_cons_eraseIdx_perm _ _ lt)
    rw [List.length_eraseIdx_of_lt lt]; omega

/-- Dealing consumes open values and changes nothing else. -/
theorem dealt_state (n : Nat) (ts : List Turn) (s : State) : ∃ f, (dealt n ts s).2 = { s with free := f } := by
  induction n generalizing ts s with
  | zero => exact ⟨_, rfl⟩
  | succ n ih =>
    simp only [dealt]
    split
    · exact ⟨_, rfl⟩
    · obtain ⟨f, hf⟩ := ih (ts.eraseIdx (s.choose ts.length).1) (s.choose ts.length).2
      exact ⟨f, hf⟩

/-- The counters advance, the agenda is a deal of the sweep, and every other field stands. -/
theorem tick_eq (s : State) : ∃ (f : Nat) (now : BitVec 64) (turns : List Turn), turns.Perm (sweep s) ∧
    tick s = { s with cycle := s.cycle + 1, time := now, agenda := turns, cur := none, free := f } := by
  obtain ⟨f, hf⟩ := dealt_state (sweep s).length (sweep s) s
  have h : ∀ (r : List Turn × State) (now : BitVec 64), r.2 = { s with free := f } →
      ({ r.2 with cycle := s.cycle + 1, time := now, agenda := r.1, cur := none } : State) =
        { s with cycle := s.cycle + 1, time := now, agenda := r.1, cur := none, free := f } := by
    intro r now hr; rw [hr]
  exact ⟨f, _, _, dealt_perm _ _ s rfl, h _ _ hf⟩

end Sys2Proof.Machine
end

