-- ==== Sys2Proof/Tests/Slice0.lean ====
section
/-!
SUPPORT. Tests: words written out from the manual's encodings and examples, one ill-formed term for each check of the
loader, worked numbers of the manual, and for each statement a small state and operands that meet its hypotheses.
-/
namespace Sys2Proof.Tests
open Sys2Proof.Machine

-- One theorem at a time: many kernel evaluations at once would each take a thread of their own.
set_option Elab.async false

/-! ### Words of the manual's encodings -/

/-- An element word with nothing enabled. -/
def ecw0 : Ecw :=
  { pm := .always, ty := .i32, md := 0, qL := false, qR := false, qP := false, qO := false, csrc := .literal, carg := 0
    x := 0, route0 := .none, route1 := .none, rpt := 0, pat := .plain, eosp := .forward, rwin := 0, sckl := .any
    sckr := .any, const := 0 }

/-- A block word with nothing set. -/
def blk0 : Blk := { pm := .always, ty := .i32, md := 0, ri := false, t1 := .none, t2 := .none, x := 0, imm := 0 }

/-- An island word with nothing set. -/
def isl0 : Isl := { ty := .i32, md := 0, ri := false, da := .t 0, db := .t 0, dc := .t 0, x := 0, imm := 0 }

/-- The two actor sites: BFLG bit 7 clear, and bits 7 and 5 set. -/
def user : Site := .actor false false
def super : Site := .actor true true

/-- What the decoder reads, and the cause with which it refuses. -/
def read (site : Site) (c : Code) : Option Instr :=
  match decode site c with
  | .ok i => some i
  | .error _ => none
def refused (site : Site) (c : Code) : Option Cause :=
  match decode site c with
  | .ok _ => none
  | .error x => some x

theorem test_decode_adds : read user (.blk 0x040048600000FFFD) = some (.adds (.block { blk0 with ri := true, t1 := .left 6, imm := 0xFFFD })) := by decide
theorem test_decode_cmp : read user (.blk 0x3000583000000019) = some (.cmp (.block { blk0 with ri := true, t1 := .pred 3, imm := 0x19 })) := by decide
theorem test_decode_recv : read user (.blk 0x9000082230000000) = some (.recv { blk0 with t1 := .left 2, t2 := .left 12 }) := by decide
theorem test_decode_emit : read user (.blk 0x9240000000800000) = some (.emit { blk0 with pm := .ifNonzero, x := 0x80 }) := by decide
theorem test_decode_advr : read user (.blk 0x9340400000000001) = some (.advr { blk0 with pm := .ifNonzero, ri := true, imm := 1 }) := by decide
theorem test_decode_ldx : read user (.blk 0xA200082210000000) = some (.ldx { blk0 with t1 := .left 2, t2 := .left 4 }) := by decide
theorem test_decode_acasD : read user (.blk 0xAF00A00000180000) = some (.acasD { blk0 with md := 1, t1 := .emit 0, x := 0x18 }) := by decide
theorem test_decode_send : read super (.blk 0xE001000000010000) = some (.sendCopy { blk0 with md := 2, x := 1 }) := by decide
theorem test_decode_publish : read super (.blk 0xE001000000060000) = some (.sendPublish { blk0 with md := 2, x := 6 }) := by decide
theorem test_decode_query : read super (.blk 0xE1002008000D0000) = some (.sendwQuery { blk0 with t1 := .emit 0, t2 := .emit 0, x := 0xD }) := by decide
theorem test_decode_rdsr : read user (.blk 0xF400200000010000) = some (.rdsr { blk0 with t1 := .emit 0, x := 1 }) := by decide
theorem test_decode_brk : read super (.blk 0xF140000000190000) = some (.brk (.block { blk0 with pm := .ifNonzero, x := 0x19 })) := by decide
theorem test_decode_ldt : read .island (.blk 0xC300020000010000) = some (.ldt { isl0 with da := .t 1, x := 1 }) := by decide
theorem test_decode_mma : read .island (.blk 0xC01C100080000000) = some (.mma { isl0 with ty := .bf16x2, da := .a 0, db := .t 0, dc := .t 1 }) := by decide
theorem test_decode_rda : read .island (.blk 0xC818100000000000) = some (.rda { isl0 with ty := .f32, da := .a 0 }) := by decide
theorem test_decode_vcvt : read .island (.blk 0xD31C048000000000) = some (.vcvt { isl0 with ty := .bf16x2, da := .t 2, db := .a 0 }) := by decide
theorem test_decode_iemit : read .island (.blk 0xD700040000010000) = some (.iemitPkt { isl0 with da := .t 2, x := 1 }) := by decide
theorem test_decode_iloop : read .island (.blk 0xD5004000000A0004) = some (.iloop { isl0 with ri := true, x := 0xA, imm := 4 }) := by decide
theorem test_decode_sta : read .island (.blk 0xC718130000020000) = some (.sta { isl0 with ty := .f32, da := .a 1, db := .s 0, x := 2 }) := by decide
theorem test_decode_sca : read .island (.blk 0xCA1812A000000000) = some (.sca { isl0 with ty := .f32, da := .a 1, db := .a 2 }) := by decide
theorem test_decode_mul : read .elem (.ecw 0x08004000008800000000000000000003) = some (.mul (.elem { ecw0 with qL := true, route0 := .pe 1 0 .L, const := 3 })) := by decide
theorem test_decode_add_arg : read .elem (.ecw 0x01004200010000000000000000000000) = some (.add (.elem { ecw0 with qL := true, csrc := .slot, route0 := .egress 0 })) := by decide
theorem test_decode_lit : read .elem (.ecw 0x34004000028200000000000000000100) = some (.lit (.elem { ecw0 with qL := true, route0 := .node 0 1, const := 0x100 })) := by decide
theorem test_decode_mad : read .elem (.ecw 0x0B005000008A800000000000FFFFFFFF) = some (.mad (.elem { ecw0 with qL := true, qP := true, route0 := .pe 1 2 .P, const := 0xFFFFFFFF })) := by decide
theorem test_decode_ld : read .elem (.ecw 0xA000C00000B200000000000000000002) = some (.ld (.elem { ecw0 with md := 1, qL := true, route0 := .pe 6 2 .L, const := 2 })) := by decide
theorem test_decode_st : read .elem (.ecw 0xA118600004FC00000000000000000000) = some (.st (.elem { ecw0 with ty := .f32, qL := true, qR := true, x := 1, route0 := .pe 15 4 .L })) := by decide
theorem test_decode_aadd : read .elem (.ecw 0xA500E000090140000000000000000000) = some (.aadd (.elem { ecw0 with md := 1, qL := true, qR := true, x := 2, route0 := .egress 5 })) := by decide
theorem test_decode_steer : read .elem (.ecw 0x7000600000000A100000000000000000) = some (.steer (.elem { ecw0 with qL := true, qR := true, route1 := .pe 4 1 .L })) := by decide
theorem test_decode_fdiv : read .elem (.ecw 0x50186000008800000000000000000000) = some (.fdiv (.elem { ecw0 with ty := .f32, qL := true, qR := true, route0 := .pe 1 0 .L })) := by decide
theorem test_decode_decimate : read .elem (.ecw 0x33004000009A000001C8000000000000) = some (.mov (.elem { ecw0 with qL := true, route0 := .pe 3 2 .L, rpt := 7, pat := .decimate })) := by decide

/-! ### The loader's checks, each with a term that it refuses -/

/-- The causes that the loader finds in an element word, an actor word and an island word. -/
def inElem (e : Ecw) (mk : Form → Instr) : List Cause := wordCauses .elem (mk (.elem e))
def inBlock (b : Blk) (mk : Form → Instr) : List Cause := wordCauses user (mk (.block b))

/-- An element word with the left and right queues. -/
def ecw2 : Ecw := { ecw0 with qL := true, qR := true }

theorem smoke_ok : inElem ecw2 .add = [] ∧ inBlock blk0 .add = [] ∧ wordCauses .island (.isync isl0) = [] := by decide
theorem smoke_opcode : refused user (.blk 0x8900000000000000) = some 2 ∧ wordCauses user .tokenHop = [2] := by decide
theorem smoke_context : wordCauses .island (.recv blk0) = [3, 3] ∧ inElem { ecw2 with route0 := .none } (fun f => match f with
    | .elem _ => .recv blk0
    | .block _ => .recv blk0) = [3, 3] ∧ wordCauses user (.isync isl0) = [3, 3] ∧ wordCauses .elem (.nop .island) = [3] := by decide
theorem smoke_privilege : wordCauses user (.pgld blk0) = [4] ∧ wordCauses super (.pgld blk0) = [] ∧
    wordCauses user (.wrsrRtmr { blk0 with x := 2 }) = [4] := by decide
theorem smoke_type : inBlock { blk0 with ty := .f32 } .add = [6] ∧ inBlock { blk0 with ty := .i32 } .fadd = [6] ∧
    refused user (.blk 0x4224885804000000) = some 6 := by decide
theorem smoke_md : inBlock { blk0 with md := 1 } .add = [5] ∧ inBlock { blk0 with ty := .f32, md := 5 } .fadd = [7] := by decide
theorem smoke_x : inBlock { blk0 with x := 1 } .add = [5] := by decide
theorem smoke_const : inBlock { blk0 with x := 0x200 } .mad = [7] := by decide
theorem smoke_own_rule : inBlock { blk0 with ty := .f32, x := 2 } .cvti = [5] ∧ inBlock { blk0 with x := 0x18 } .bfx = [] ∧
    wordCauses user (.cbq { blk0 with x := 0x30 }) = [7] ∧ wordCauses user (.mkeos (.block { blk0 with t1 := .emit 0, x := 6 })) = [7] := by decide
theorem smoke_ri : inBlock { blk0 with ri := true } .abs = [7] := by decide
theorem smoke_imm : inBlock { blk0 with imm := 1 } .add = [5] ∧
    inBlock { blk0 with ty := .i8x4, ri := true, imm := 256 } .add = [5] ∧
    inBlock { blk0 with ty := .i8x4, ri := true, imm := 255 } .add = [] := by decide
theorem smoke_target : wordCauses user (.emit { blk0 with t1 := .left 0 }) = [8] ∧
    wordCauses user (.tagw (.block { blk0 with t1 := .left 0 })) = [8] := by decide
theorem smoke_carg : inElem { ecw2 with carg := 1 } .add = [5] ∧ inElem { ecw2 with csrc := .slot, const := 1 } .add = [5] := by decide
theorem smoke_predicate : inElem { ecw2 with pm := .ifZero } .add = [7] := by decide
theorem smoke_pattern : inElem { ecw2 with rpt := 1 } .add = [7] ∧ inElem { ecw2 with rpt := 1, pat := .replay, csrc := .counter } .add = [] ∧
    inElem { ecw2 with rpt := 1, csrc := .counter } .add = [] := by decide
theorem smoke_rwin : inElem { ecw2 with rwin := 1 } .add = [7] ∧ inElem { ecw0 with qL := true, rwin := 7, x := 4 } .reduce = [7] := by decide
theorem smoke_unary : inElem ecw2 .abs = [7] := by decide
theorem smoke_prefetch : inElem { ecw2 with route0 := .egress 0 } .pf = [8] := by decide
theorem smoke_island : wordCauses .island (.isync { isl0 with da := .t 1 }) = [5] ∧
    wordCauses .island (.zacc { isl0 with ty := .f32 }) = [7] ∧
    wordCauses .island (.iwait { isl0 with da := .a 0 }) = [7] ∧
    wordCauses .island (.lda { isl0 with ty := .f32, da := .a 0, db := .s 1 }) = [7] ∧
    wordCauses .island (.mma { isl0 with ty := .bf16x2, da := .a 0, db := .a 0, dc := .t 1 }) = [7] ∧
    wordCauses .island (.iloop { isl0 with ri := true }) = [7] ∧
    wordCauses .island (.rda { isl0 with ty := .f32, da := .a 0, md := 3 }) = [7] ∧
    wordCauses .island (.vbcast { isl0 with ty := .f32, md := 1, da := .a 0 }) = [7] ∧
    wordCauses .island (.isync { isl0 with md := 1 }) = [5] ∧ wordCauses .island (.isync { isl0 with x := 1 }) = [5] ∧
    wordCauses .island (.isync { isl0 with imm := 1 }) = [5] ∧ wordCauses .island (.isync { isl0 with ri := true }) = [7] := by decide
theorem smoke_raw : refused user (.blk 0x0100010000000000) ≠ none ∧ refused .island (.blk 0xD600000004000000) ≠ none ∧
    refused user (.blk 0x0100300000000000) ≠ none ∧ refused .elem (.ecw 0x01006000030000000000000000000000) ≠ none := by decide
theorem smoke_lowest : lowest [7, 5, 8] = some 5 := by decide

/-! ### Worked numbers of the manual -/

/-- The examples of SHRR, SATW and MAX under R124: the rounding tail of a filter stage. -/
theorem test_rounding_tail :
    (shrrOp .i32 70003 2).1 = 17501 ∧ (shrrOp .i32 (-70002) 2).1 = -17500 ∧ (shrrOp .i32 200000 2).1 = 50000 ∧
    (shrrOp .i32 10 2).1 = 2 ∧ satwOp true 1 50000 = (32767, { sat := true }) ∧ satwOp true 1 (-17500) = (-17500, {}) := by decide +kernel
theorem test_bytep : bytepOp 0x44332211 0x88776655 0x00008405 = (0x00551166, {}) := by decide +kernel
/-- The chain of four CVTW.E4M3X4.RNE.SAT of R123. -/
theorem test_cvtw_chain :
    cvtwOp .e4m3x4 0 0x48 0x3F800000 0 = (0x38, {}) ∧
    cvtwOp .e4m3x4 0 0x58 0x43FA0000 0x38 = (0x7E38, { nx := true, sat := true }) ∧
    cvtwOp .e4m3x4 0 0x68 0x80000000 0x7E38 = (0x807E38, {}) ∧
    cvtwOp .e4m3x4 0 0x78 0x3A83126F 0x807E38 = (0x01807E38, { nx := true, uf := true }) ∧
    cvtwOp .e4m3x4 0 0x18 0x43FA0000 0x38 = (0x7F38, { ofl := true, nx := true }) := by decide +kernel
/-- The block of R24: the fitted variant. -/
theorem test_fx4_block :
    let b := Fx4.encode ([0x41200000, 0x3F800000, 0xBF800000, 0x3F400000, 0x40000000, 0xC0400000, 0x3EA00000, 0x3FA00000] ++
      List.replicate 24 0x3F000000)
    b.1 = 0x7E1D ∧ Fx4.packCodes b.2.1 = [0x41F63C48, 0x22222222, 0x22222222, 0x22222222] ∧ b.2.2 = { nx := true } := by decide +kernel
theorem test_adds_saturates : satOp .i32 (fun x y => x + y) 0x7FFFFFFF 1 = (0x7FFFFFFF, { sat := true }) := by decide +kernel
theorem test_div_zero : divOp .i32 7 0 = (0xFFFFFFFF, { dz := true }) ∧ divOp .i32 (-7) 2 = (-3, {}) ∧ remOp .i32 (-7) 2 = (-1, {}) := by decide +kernel
theorem test_fmul_one : fmulLane .f32 0 0x3F800000 0x40490FDB = (0x40490FDB, {}) := by decide +kernel
theorem test_fadd_cancel : (faddLane .f32 0 0x3F800000 0xBF800000).1 = 0 ∧ (faddLane .f32 3 0x3F800000 0xBF800000).1 = 0x80000000 := by decide +kernel
/-- The four tokens of R352's example: an SAT trap of pe(1,0) of page 1. -/
theorem test_trap_words :
    State.reset.trapWords 0x19 0 (.elem { slotKey with lpn := 1 } 1) 0x0E2 0x7FFFFD78 = [0x19, 0xE2, 0x00100001, 0x7FFFFD78] := by decide +kernel
/-- The record of R359's example. -/
theorem test_undo_record :
    let w : HomeWrite := { writeId := 0, ctx := ⟨0, 0, 0⟩, round := 2, space := .sram, addr := 0x02000014, va := 0, bytes := [0, 0, 0, 0]
                           old := [0x78, 0xFD, 0xFF, 0x7F], atomic := true, committed := false, home := .tile 0 }
    (undoRecsOf 0 w).map UndoRec.bits = [0x200000027FFFFD780000000002000014] := by decide +kernel
/-- The completion words of R426's example. -/
theorem test_completion_words :
    State.completionWord 0 0x0A3 1 = 0x000000A300000001 ∧ State.completionWord 0x4A 0xFFF 1 = 0xCA000FFF00000001 := by decide +kernel

/-! ### Small states -/

/-- The page, its context and partition of these states. -/
def key : PageKey := slotKey
def ctx0 : CtxId := slotKey.ctx
def guest0 : GuestId := ⟨0, 0⟩

/-- One page, its context in its partition's slice, and the subject of the turn. -/
def one (p : Page) (u : Subject) : State :=
  { State.reset with parts := [{ slotPart with tags := [5] }], ctxs := [{ id := ctx0, exist := true }]
                     guests := [{ id := guest0 }], pages := [p], cur := some u }

/-- A data token, and a closing token. -/
def dat (v : Word) : Token := { kind := .data, tag := 0, pay := v }
def eos : Token := { kind := .eos, tag := 0, pay := 0 }

/-- Element 0 in its turn, with these queues. -/
def elemSt (qs : List (QueueName × Token)) : State :=
  one { elemPage 0 with dyn := { PageDyn.empty with fifos := qs.map (fun q => (.queue 0 q.1, [.tok q.2])) } } (.party (.elem key 0))

/-- Whether an element's firing takes place, and its operands. -/
def fires (tri : Bool) (e : Ecw) (s : State) : Bool :=
  s.cur == some (.party (.elem key 0)) && match s.elemHeads key 0 e with
    | .data ts =>
      let g := elemArgs tri (s.dyn key) 0 e ts
      s.elemGate key 0 e g.tag && !e.sckl.fails g.a.sc && !(e.qR && e.sckr.fails g.b.sc) &&
        predHolds e.pm (((headIn e ts .P).map Token.pay).getD 0)
    | _ => false
def argsAt (tri : Bool) (e : Ecw) (s : State) : Args :=
  match s.elemHeads key 0 e with
  | .data ts => elemArgs tri (s.dyn key) 0 e ts
  | _ => { a := Val.plain 0, b := Val.plain 0, c := Val.plain 0, tag := 0 }

theorem elemFires_of {tri e s} (h : fires tri e s = true) : ElemFires tri e key 0 s (argsAt tri e s) := by
  unfold fires at h
  unfold ElemFires argsAt
  revert h
  cases s.elemHeads key 0 e <;> simp
  intro h1 h2 h3 h4 h5
  exact ⟨h1, h2, h3, fun hq => by simpa [hq] using h4, h5⟩

/-- Whether a head of one queue is taken alone. -/
def headFires (q : QueueName) (e : Ecw) (s : State) (t : Token) : Bool :=
  s.cur == some (.party (.elem key 0)) && s.fedCue key 0 e == none && (s.dyn key).qhead 0 q == some t && s.elemGate key 0 e t.tag &&
    (t.kind != .data || !(if q = .R then e.sckr else e.sckl).fails t.sc) && match (s.dyn key).qheads 0 (auxQueues e) with
      | some us => us.all (fun u => u.tag == t.tag && u.kind == t.kind) &&
        (t.kind != .data || predHolds e.pm (((us.find? (fun _ => e.qP && e.pm != .always)).map Token.pay).getD 0))
      | none => false

theorem headFires_of {q e s t} (h : headFires q e s t = true) : HeadFires q e key 0 s t := by
  unfold headFires at h
  simp only [Bool.and_eq_true, beq_iff_eq] at h
  obtain ⟨⟨⟨⟨⟨h1, h2⟩, h3⟩, h4⟩, h5⟩, h6⟩ := h
  refine ⟨h1, h2, h3, h4, ?_, ?_⟩
  · intro hd; simpa [hd] using h5
  · revert h6
    cases hu : (s.dyn key).qheads 0 (auxQueues e) with
    | none => simp
    | some us =>
      intro h6
      simp only [Bool.and_eq_true] at h6
      exact ⟨us, rfl, h6.1, fun hd => by simpa [hd] using h6.2⟩

/-- Block 0 in its turn with its firing in flight, every slot of instruction 0 filled, circular buffers as given; the
block listens on channel 0 with a buffer of 4 slots and emits to egress port 0. -/
def val (v : Word) : Val := { v := v }
def firing0 : Firing := { tag := 0, serial := 0, slots := [(0, .left, val 1), (0, .right, val 2), (0, .pred, val 1)] }
def blockSt (w : Nat) (a : ActorState) : State := one { actorPage w with dyn := { PageDyn.empty with actors := [a] } } (.party (.actor key 0 0))
def blockSt0 : State := blockSt 0 { block := 0, firing := some firing0 }

/-- Whether an instruction of the block fires, and its operands. -/
def blockFires (left right : Bool) (third : Word) (w : Blk) (s : State) : Bool :=
  s.cur == some (.party (.actor key 0 0)) && match s.blockGate key 0 0 w with
    | some f => match blockArgs w left right third 0 f with
      | some (_, p) => predHolds w.pm p
      | none => false
    | none => false
def blockArgsAt (left right : Bool) (third : Word) (w : Blk) (s : State) : Args :=
  match s.blockGate key 0 0 w with
  | some f => match blockArgs w left right third 0 f with
    | some (g, _) => g
    | none => { a := Val.plain 0, b := Val.plain 0, c := Val.plain 0, tag := 0 }
  | none => { a := Val.plain 0, b := Val.plain 0, c := Val.plain 0, tag := 0 }

theorem blockFires_of {left right third w s} (h : blockFires left right third w s = true) :
    BlockFires left right third w key 0 0 s (blockArgsAt left right third w s) := by
  unfold blockFires at h
  unfold BlockFires blockArgsAt
  simp only [Bool.and_eq_true, beq_iff_eq] at h
  refine ⟨h.1, ?_⟩
  have h2 := h.2
  revert h2
  cases hg : s.blockGate key 0 0 w with
  | none => simp
  | some f =>
    cases ha : blockArgs w left right third 0 f with
    | none => simp [ha]
    | some x =>
      intro h2
      exact ⟨f, x.2, rfl, by simp [ha], by simpa [ha] using h2⟩

/-- The island in its turn, with these registers. -/
def islandSt (x : IslandState) : State :=
  one { islandPage 0 with dyn := { PageDyn.empty with island := { x with phase := .running, tiles := 1 } } } (.party (.island key))

theorem islandFires_of {x} (h : (islandSt x).islandRuns key = true) : IslandFires key (islandSt x) ((islandSt x).dyn key).island := ⟨rfl, h, rfl⟩

/-- Whether a computation succeeds. -/
def isOk {ε α : Type} : Except ε α → Bool
  | .ok _ => true
  | .error _ => false
theorem ok_of {ε α : Type} {x : Except ε α} (h : isOk x = true) : ∃ q, x = .ok q := by
  cases x with
  | ok q => exact ⟨q, rfl⟩
  | error _ => cases h
theorem some_of {α : Type} {x : Option α} (h : x.isSome = true) : ∃ q, x = some q := by
  cases x with
  | some q => exact ⟨q, rfl⟩
  | none => cases h

/-! ### Statements: stateless opcodes, steering -/

/-- L and R hold 7 and 0, P 1. -/
def stLR : State := elemSt [(.L, dat 7), (.R, dat 0)]
def stLRP : State := elemSt [(.L, dat 7), (.R, dat 0), (.P, dat 1)]
def ecw3 : Ecw := { ecw2 with qP := true }

theorem wit_StatelessElementGivesResult :
    (∃ o, statelessOp (.add (.elem ecw2)) = some o ∧ o.form = .elem ecw2 ∧
      ElemFires (o.operands == 3) ecw2 key 0 stLR (argsAt false ecw2 stLR)) ∧
    (∃ o, statelessOp (.mad (.elem ecw3)) = some o ∧ o.form = .elem ecw3 ∧
      ElemFires (o.operands == 3) ecw3 key 0 stLRP (argsAt true ecw3 stLRP)) :=
  ⟨⟨_, rfl, rfl, elemFires_of (by decide +kernel)⟩, ⟨_, rfl, rfl, elemFires_of (by decide +kernel)⟩⟩

theorem wit_StatelessBlockGivesResult :
    (∃ o, statelessOp (.add (.block blk0)) = some o ∧ o.form = .block blk0 ∧
      BlockFires true (2 ≤ o.operands) (if o.operands = 3 then thirdOf blk0 key 0 blockSt0 else 0) blk0 key 0 0 blockSt0 (blockArgsAt true true 0 blk0 blockSt0)) ∧
    (∃ o, statelessOp (.lit (.block { blk0 with ri := true })) = some o ∧ o.form = .block { blk0 with ri := true } ∧
      BlockFires true (2 ≤ o.operands) (if o.operands = 3 then thirdOf { blk0 with ri := true } key 0 blockSt0 else 0) { blk0 with ri := true } key 0 0 blockSt0
        (blockArgsAt true false 0 { blk0 with ri := true } blockSt0)) :=
  ⟨⟨_, rfl, rfl, blockFires_of (by decide +kernel)⟩, ⟨_, rfl, rfl, blockFires_of (by decide +kernel)⟩⟩

/-- An element whose predicate is false, and a block instruction whose predicate slot holds 1 under mode 10. -/
def ecwP : Ecw := { ecw3 with pm := .ifZero }
def blkP : Blk := { blk0 with pm := .ifZero }
theorem wit_FalsePredicateWithholdsResult :
    (∃ ts, stLRP.elemHeads key 0 ecwP = .data ts ∧ stLRP.cur = some (.party (.elem key 0)) ∧
      stLRP.elemGate key 0 ecwP (argsAt false ecwP stLRP).tag = true ∧
      predHolds ecwP.pm (((headIn ecwP ts .P).map Token.pay).getD 0) = false) ∧
    blockSt0.blockGate key 0 0 blkP = some firing0 ∧
    blockArgs blkP true true 0 0 firing0 = some ({ a := val 1, b := val 2, c := Val.plain 0, tag := 0 }, 1) ∧ predHolds blkP.pm 1 = false ∧
    WellFormed .elem (.add (.elem ecwP)) :=
  ⟨⟨[dat 7, dat 0, dat 1], by decide +kernel⟩, by decide +kernel⟩

theorem wit_ScalarWithStateGivesResult :
    ElemFires false ecw2 key 0 stLR (argsAt false ecw2 stLR) ∧ (stLR.page? key).isSome = true ∧
    BlockFires true true 0 blk0 key 0 0 blockSt0 (blockArgsAt true true 0 blk0 blockSt0) ∧ (blockSt0.page? key).isSome = true ∧
    BlockFires false false 0 blk0 key 0 0 blockSt0 (blockArgsAt false false 0 blk0 blockSt0) ∧
    BlockFires true false 0 blk0 key 0 0 blockSt0 (blockArgsAt true false 0 blk0 blockSt0) ∧
    (argsAt false ecw2 stLR).a.sc = fsclWant 1 ∧ (argsAt false ecw2 stLR).b.sc = false ∧
    (blockArgsAt true true 0 blk0 blockSt0).a.sc = fsclWant 1 ∧ (blockArgsAt true true 0 blk0 blockSt0).b.sc = false ∧
    (islandSt IslandState.empty).pageRuns key = true :=
  ⟨elemFires_of (by decide +kernel), by decide +kernel, blockFires_of (by decide +kernel), by decide +kernel,
    blockFires_of (by decide +kernel), blockFires_of (by decide +kernel), by decide +kernel⟩

/-- Clauses of the element statements: ITER's loop, a live tag, REDUCE in and out of rank order. -/
def stIter : State := elemSt [(.L, dat 1), (.R, dat 3)]
theorem wit_SteeringElementGivesResult :
    ElemFires false ecw2 key 0 stIter (argsAt false ecw2 stIter) ∧
    ((stIter.dyn key).elem 0).tags.find? (fun st => st.acc.isSome || st.ended) = none ∧
    wordInt ecw2.ty (argsAt false ecw2 stIter).a.v < wordInt ecw2.ty (argsAt false ecw2 stIter).b.v ∧
    rankBad (stIter.tagSt key 0 0) 3 = false ∧ 3 < (stIter.tagSt key 0 0).next + 32 :=
  ⟨elemFires_of (by decide +kernel), by decide +kernel⟩
theorem wit_tag_is_live : (let s := { stLR with frames := [{ key := ⟨0, 0⟩, ctx := ctx0, graph := 0 }] }
    s.liveTag ctx0 ((argsAt false ecw2 s).b.v.setWidth 12) = true ∧ fires false ecw2 s = true) := by decide +kernel

def slot1 : Slot := { kind := .data, sc := false, tag := 0, words := [9] }
def stBuf : State := blockSt 0 { block := 0, firing := some firing0, cbs := [{ handle := 0, slots := [slot1, { slot1 with words := [3] }, { slot1 with words := [4] }] }] }
theorem wit_SteeringBlockGivesResult :
    BlockFires true true (thirdOf blk0 key 0 stBuf) blk0 key 0 0 stBuf (blockArgsAt true true (thirdOf blk0 key 0 stBuf) blk0 stBuf) ∧
    stBuf.slotAt key 0 (handleOf blk0) (offsetOf blk0) = some slot1 ∧
    (∃ p, stBuf.page? key = some p ∧ (p.header? 0).isSome = true ∧ firing0.slot 0 .left = some (val 1)) ∧
    (let r := holdRank .i32 0 0 (stBuf.insSt key 0 0 0) 0 (some (val 1))
     rankBad (stBuf.insSt key 0 0 0) 0 = false ∧ r.1.acc = some (val 1) ∧ 0 < r.1.next) :=
  ⟨blockFires_of (by decide +kernel), by decide +kernel, ⟨_, rfl, by decide +kernel⟩, by decide +kernel⟩

theorem wit_SingleHeadOpcodesTakeTheirHead :
    HeadFires .L ecw2 key 0 (elemSt [(.L, dat 4)]) (dat 4) ∧ ((elemSt [(.L, dat 4)]).dyn key).qhead 0 .R = none ∧
    HeadFires .R ecw2 key 0 (elemSt [(.R, dat 4)]) (dat 4) ∧ ((elemSt [(.R, dat 4)]).dyn key).qhead 0 .L = none ∧
    HeadFires .L ecw2 key 0 stLR (dat 7) ∧ HeadFires .R ecw2 key 0 stLR (dat 0) ∧
    (stLRP.fedCue key 0 ecw3 = none ∧ (stLRP.dyn key).qhead 0 .P = some (dat 1) ∧ (stLRP.dyn key).qhead 0 .L = some (dat 7)) :=
  ⟨headFires_of (by decide +kernel), by decide +kernel, headFires_of (by decide +kernel), by decide +kernel,
    headFires_of (by decide +kernel), headFires_of (by decide +kernel), by decide +kernel⟩

/-- GATE with credit, MKEOS with a count, REPEAT in an open segment, a strike at its position. -/
def withTag (s : State) (st : TagState) (o : Option Tag) : State :=
  s.modDyn key (fun d => d.modElem 0 (fun x => { x with tags := [st], openTag := o }))
def strikeTok (v : Word) : Token := { kind := .strike, tag := 0, pay := v }
theorem wit_single_heads_with_state :
    (let s := withTag (elemSt [(.L, dat 4)]) { tag := 0, count := 1, need := some 3 } none
     HeadFires .L ecw2 key 0 s (dat 4) ∧ 0 < (s.tagSt key 0 0).count ∧ (s.tagSt key 0 0).need = some 3 ∧ (s.tagSt key 0 0).count + 1 < 3) ∧
    (let s := withTag (elemSt [(.L, dat 4), (.R, dat 2)]) { tag := 0, count := 0, need := some 2 } (some 0)
     HeadFires .L ecw2 key 0 s (dat 4) ∧ ((s.dyn key).elem 0).openTag = some 0 ∧ (s.tagSt key 0 0).need = some (1 + 1) ∧
       ((s.dyn key).elem 0).tags.find? (fun st => 0 < st.passes && ((s.dyn key).elem 0).openTag.isNone) = none) ∧
    (let s := elemSt [(.L, dat 4), (.R, dat 2)]
     HeadFires .L ecw2 key 0 s (dat 4) ∧ ((s.dyn key).elem 0).openTag = none ∧ (s.dyn key).qhead 0 .R = some (dat 2)) ∧
    (let s := withTag (elemSt [(.L, dat 4), (.R, strikeTok 1)]) { tag := 0, count := 1 } none
     HeadFires .L ecw2 key 0 s (dat 4) ∧ (s.dyn key).qhead 0 .R = some (strikeTok 1) ∧ (strikeTok 1).pay.toNat = (s.tagSt key 0 0).count) ∧
    (let s := elemSt [(.L, dat 4), (.R, strikeTok 1)]
     HeadFires .L ecw2 key 0 s (dat 4) ∧ (s.tagSt key 0 0).count < (strikeTok 1).pay.toNat) ∧
    (let s := elemSt [(.R, dat 4)]
     HeadFires .R ecw2 key 0 s (dat 4) ∧ (s.tagSt key 0 0).need = none ∧ (s.tagSt key 0 0).ended = false) :=
  ⟨⟨headFires_of (by decide +kernel), by decide +kernel⟩, ⟨headFires_of (by decide +kernel), by decide +kernel⟩,
    ⟨headFires_of (by decide +kernel), by decide +kernel⟩, ⟨headFires_of (by decide +kernel), by decide +kernel⟩,
    ⟨headFires_of (by decide +kernel), by decide +kernel⟩, ⟨headFires_of (by decide +kernel), by decide +kernel⟩⟩

theorem wit_ClosingTokensEndWindows :
    (let s := withTag (elemSt [(.L, eos), (.R, eos)]) { tag := 0, acc := some (val 5), count := 2 } none
     s.elemHeads key 0 ecw2 = .closing eos ∧ s.elemGate key 0 ecw2 eos.tag = true ∧
       eos.closes 0 true = true ∧ windowCloses ecw2 eos = true ∧
       foldAll ecw2.ty 0 0 (s.tagSt key 0 0).acc ((((s.tagSt key 0 0).held.foldr insertRank []).filterMap (·.2))) = (some (val 5), {}) ∧
       ecw2.eosp ≠ .absorb) := by decide +kernel

def ecwS : Ecw := { ecw2 with sckl := .scaled }
theorem wit_MixedHeadsStopTheElement :
    (elemSt [(.L, dat 4), (.R, eos)]).elemHeads key 0 ecw2 = .skew (dat 4) ∧ (elemSt [(.L, dat 4), (.R, eos)]).elemGate key 0 ecw2 0 = true ∧
    (elemSt [(.L, dat 4), (.R, eos)]).page? key ≠ none ∧ stLR.elemHeads key 0 ecwS = .data [dat 7, dat 0] ∧
    (ecwS.sckl.fails (argsAt false ecwS stLR).a.sc || (ecwS.qR && ecwS.sckr.fails (argsAt false ecwS stLR).b.sc)) = true := by decide +kernel

/-! ### Statements: buffers, accesses, fences, messages -/

/-- 32 words of 64-byte slots for the FX4 instructions. -/
def wideSlot : Slot := { slot1 with words := List.replicate 16 0x3F800000 }
def stWide : State := blockSt 0 { block := 0, firing := some firing0, cbs := [{ handle := 0, slots := [wideSlot, wideSlot] }] }
theorem wit_BufferInstructionsGiveResult :
    stBuf.slotAt key 0 (handleOf blk0) (offsetOf blk0) = some slot1 ∧
    BlockFires false false 0 blk0 key 0 0 stBuf (blockArgsAt false false 0 blk0 stBuf) ∧
    (let s := blockSt 0 { block := 0, firing := some { firing0 with slots := [(0, .right, val 0)] }, cbs := [{ handle := 0, slots := [slot1] }] }
     BlockFires false true 0 blk0 key 0 0 s (blockArgsAt false true 0 blk0 s) ∧
       offsetOf blk0 + (blockArgsAt false true 0 blk0 s).b.v.toNat < s.cbSlots key 0 (handleOf blk0)) ∧
    BlockFires true false 0 blk0 key 0 0 stBuf (blockArgsAt true false 0 blk0 stBuf) ∧
    (let w := { blk0 with ri := true }
     BlockFires false false 0 w key 0 0 stBuf (blockArgsAt false false 0 w stBuf)) ∧
    (let w := { blk0 with x := 0x10 }
     bitsOf w.x.toNat 3 3 = 2 ∧ ((stBuf.cbEntry? key 0 (handleOf w)).map CbEntry.out).getD false = false ∧ (stBuf.firing? key 0).isSome = true) ∧
    (fxSource stWide key 0 blk0).isSome = true ∧ BlockFires false true 0 blk0 key 0 0 stWide (blockArgsAt false true 0 blk0 stWide) ∧
    BlockFires false false 0 blk0 key 0 0 stWide (blockArgsAt false false 0 blk0 stWide) :=
  ⟨by decide +kernel, blockFires_of (by decide +kernel), ⟨blockFires_of (by decide +kernel), by decide +kernel⟩, blockFires_of (by decide +kernel),
    blockFires_of (by decide +kernel), by decide +kernel, by decide +kernel, blockFires_of (by decide +kernel), blockFires_of (by decide +kernel)⟩

/-- Memory node 0 of 256 bytes at virtual address 0; the position 8 on the left. -/
def withNode (p : Page) : Page := { p with image := Memory.writeNat (Memory.writeNat p.image 0x40 1 2) 0x50 8 0x100 }
def onNode (s : State) : State := s.modPage key withNode
def stAcc : State := onNode (elemSt [(.L, dat 8), (.R, dat 4)])
def stAcc3 : State := onNode (elemSt [(.L, dat 8), (.R, dat 4), (.P, dat 0)])
theorem wit_ElementAccessIsIssued :
    stAcc.nodeRoom key (nodeOf 0) = true ∧ ElemFires false ecw2 key 0 stAcc (argsAt false ecw2 stAcc) ∧
    ElemFires true ecw3 key 0 stAcc3 (argsAt true ecw3 stAcc3) ∧ stAcc.checkAccess key (nodeOf 0) 12 (sizeOf2 0) = .ok 12 ∧
    stAcc.checkAccess key (nodeOf 0) 12 1 = .ok 12 ∧ stAcc.checkAccess key (nodeOf 0) 8 4 = .ok 8 ∧
    stAcc3.checkAccess key (nodeOf 0) 8 4 = .ok 8 ∧ stLR.checkAccess key (nodeOf 0) 7 4 = .error 0x2C :=
  ⟨by decide +kernel, elemFires_of (by decide +kernel), elemFires_of (by decide +kernel), by rfl, by rfl, by rfl, by rfl, by rfl⟩

def firing8 : Firing := { firing0 with slots := [(0, .left, val 8), (0, .right, val 4), (0, .pred, val 1)], ldx := [(0, 8, some 5)] }
def stAccB : State := onNode (blockSt 0 { block := 0, firing := some firing8 })
theorem wit_BlockAccessIsIssued :
    stAccB.tileRoom key = true ∧ stAccB.lowerIssued key 0 0 (some (nodeOf 0)) false = true ∧
    BlockFires true false 0 blk0 key 0 0 stAccB (blockArgsAt true false 0 blk0 stAccB) ∧
    BlockFires true true 0 blk0 key 0 0 stAccB (blockArgsAt true true 0 blk0 stAccB) ∧
    stAccB.checkAccess key (nodeOf 0) 8 (sizeOf2 0) = .ok 8 ∧ stAccB.checkAccess key (nodeOf 0) 8 8 = .ok 8 ∧
    stAccB.checkAccess key (nodeOf 0) 8 1 = .ok 8 ∧ ldxOf stAccB key 0 0 = some (8, some 5) :=
  ⟨by decide +kernel, by decide +kernel, blockFires_of (by decide +kernel), blockFires_of (by decide +kernel), by rfl, by rfl, by rfl, by decide +kernel⟩

theorem wit_FencesGiveTheirToken :
    ElemFires false ecw2 key 0 stLR (argsAt false ecw2 stLR) ∧
    stLR.reqs.any (fun r => r.issuer == .elem key 0 && r.phase != .given) = false ∧ Scope.wide (scopeBits 1) = false ∧ Scope.wide (scopeBits 2) = true ∧
    BlockFires true false 0 blk0 key 0 0 blockSt0 (blockArgsAt true false 0 blk0 blockSt0) ∧ blockSt0.lowerIssued key 0 0 none true = true :=
  ⟨elemFires_of (by decide +kernel), by decide +kernel, by decide +kernel, by decide +kernel, blockFires_of (by decide +kernel), by decide +kernel⟩

/-- A message's slot with a reply word of kind 0, and one whose bit 6 is set. -/
def stMsg : State := blockSt 0 { block := 0, firing := some firing0, cbs := [{ handle := 0, slots := [{ slot1 with words := List.replicate 16 0 }] }] }
def stMsgBad : State := blockSt 0 { block := 0, firing := some firing0, cbs := [{ handle := 0, slots := [{ slot1 with words := [0, 0, 0x40] ++ List.replicate 13 0 }] }] }
theorem wit_MessageIsQueued :
    BlockFires false false 0 blk0 key 0 0 stMsg (blockArgsAt false false 0 blk0 stMsg) ∧
    (∃ x, stMsg.slotAt key 0 0 0 = some x ∧ stMsg.replyBad key false (x.dword 1) = false ∧ stMsg.replyBad key true (x.dword 1) = false) ∧
    (∃ x, stMsgBad.slotAt key 0 0 0 = some x ∧ stMsgBad.replyBad key false (x.dword 1) = true) ∧
    stMsg.sendRoom key 1 = true ∧ stMsg.sendRoom key 13 = true ∧
    BlockFires true true 0 { blk0 with md := 4 } key 0 0 stMsg (blockArgsAt true true 0 { blk0 with md := 4 } stMsg) :=
  ⟨blockFires_of (by decide +kernel), ⟨_, rfl, by decide +kernel⟩, ⟨_, rfl, by decide +kernel⟩, by decide +kernel, by decide +kernel,
    blockFires_of (by decide +kernel)⟩

/-! ### Statements: system, trap and launch instructions -/

/-- Graph 0 with two pages, page 0 of which has a launch entry. -/
def pageImg : List Host.Cell := Memory.writeNat (cellsAt 0 1 1) 0x240 8 (2 ^ 63 + 0xFFF * 2 ^ 48)
def graph0 : Graph := { part := 0, gid := 0, owner := ctx0, header := cellsAt 4 2 2, pages := [(0, pageImg), (1, cellsAt 0 1 1)] }
def stSys : State := { blockSt 0 { block := 0, firing := some { firing0 with slots := [(0, .left, val 0), (0, .right, val 0)] } } with graphs := [graph0] }
def stSysUndo : State := stSys.modCtx ctx0 (fun c => { c with undo := { c.undo with on := true } })
def stSys1 : State := { blockSt 0 { block := 0, firing := some { firing0 with slots := [(0, .left, val 0), (0, .right, val 1)] } } with graphs := [graph0] }
theorem wit_SystemInstructionsGiveResult :
    BlockFires true false 0 blk0 key 0 0 stSys (blockArgsAt true false 0 blk0 stSys) ∧ (stSys.ctx ctx0).undo.on = false ∧
    BlockFires true false 0 blk0 key 0 0 stSysUndo (blockArgsAt true false 0 blk0 stSysUndo) ∧ (stSysUndo.ctx ctx0).undo.on = true ∧
    (stSys.part 0).sliceGuest = ctx0.guest ∧ bitsOf (blockArgsAt true false 0 blk0 stSys).a.v.toNat 12 20 = 0 ∧
    BlockFires true true 0 blk0 key 0 0 stSys (blockArgsAt true true 0 blk0 stSys) ∧
    bitsOf (blockArgsAt true true 0 blk0 stSys).b.v.toNat 20 3 ≤ 5 ∧ bitsOf (blockArgsAt true true 0 blk0 stSys).b.v.toNat 23 9 = 0 ∧
    stSys.namedPage ctx0 0 0 = .ok graph0 ∧ (((stSys.mapGraph ctx0 graph0).page? key).map Page.placed) = some true ∧
    BlockFires true true 0 blk0 key 0 0 stSys1 (blockArgsAt true true 0 blk0 stSys1) ∧ (blockArgsAt true true 0 blk0 stSys1).b.v = 1 ∧
    stSys1.namedPage ctx0 0 1 = .ok graph0 ∧ (((stSys1.mapGraph ctx0 graph0).page? { key with lpn := 1 }).map Page.st) = some .absent :=
  ⟨blockFires_of (by decide +kernel), by decide +kernel, blockFires_of (by decide +kernel), by decide +kernel, by decide +kernel, by decide +kernel,
    blockFires_of (by decide +kernel), by decide +kernel, by decide +kernel, by rfl, by decide +kernel, blockFires_of (by decide +kernel),
    by decide +kernel, by rfl, by decide +kernel⟩
/-- RTMR at both ends of its range, a QUOTA value that one backed region allows, a YIELD outside the guest's slice. -/
def stReg (v : Word) : State :=
  { blockSt 0 { block := 0, firing := some { firing0 with slots := [(0, .left, val v)] } } with
    parts := [{ slotPart with quads := 1, sliceGuest := 1 }], dev := { State.reset.dev with cast := [0x80000000] } }
theorem wit_system_registers :
    BlockFires true false 0 blk0 key 0 0 (stReg 2) (blockArgsAt true false 0 blk0 (stReg 2)) ∧ (blockArgsAt true false 0 blk0 (stReg 2)).a.v = 2 ∧
    BlockFires true false 0 blk0 key 0 0 (stReg 64) (blockArgsAt true false 0 blk0 (stReg 64)) ∧ (blockArgsAt true false 0 blk0 (stReg 64)).a.v = 64 ∧
    BlockFires true false 0 blk0 key 0 0 (stReg 0x100) (blockArgsAt true false 0 blk0 (stReg 0x100)) ∧ (stReg 0x100).quotaRefused ctx0 0x100 = false ∧
    ((stReg 2).part 0).sliceGuest ≠ ctx0.guest :=
  ⟨blockFires_of (by decide +kernel), by decide +kernel, blockFires_of (by decide +kernel), by decide +kernel, blockFires_of (by decide +kernel),
    by decide +kernel, by decide +kernel⟩

/-- A page with a trap-handler block declared. -/
def handled (s : State) : State := s.modPage key (fun p => { p with image := Memory.writeNat p.image 0x0A 1 2 })
def brkEnabled (s : State) : State := s.modCtx ctx0 (fun c => { c with brkEn := true })
theorem wit_TrapInstructionsTakeTheirTrap :
    ElemFires false ecw2 key 0 (handled stLR) (argsAt false ecw2 (handled stLR)) ∧
    (((handled stLR).dyn key).elem 0).tags.find? (fun x => x.acc.isSome) = none ∧
    ((((handled stLR).taken key 0 ecw2 0).page? key).map Page.hasHandler).getD false = true ∧
    (((brkEnabled (handled stLR)).taken key 0 ecw2 0).ctx ctx0).brkEn = true ∧
    ElemFires false ecw2 key 0 (brkEnabled (handled stLR)) (argsAt false ecw2 (brkEnabled (handled stLR))) ∧
    (let s := withTag stLR { tag := 0, acc := some (val 7) } none
     (((s.dyn key).elem 0).tags.find? (fun x => x.acc.isSome)) = some { tag := 0, acc := some (val 7) } ∧ s.elemGate key 0 ecw2 0 = true ∧
       (s.ctx ctx0).released.contains ((Party.elem key 0).identity s) = false) ∧
    (let s := blockSt 0 { block := 0, firing := some firing0, instrs := [(0, { tag := 0, count := 1 })] }
     BlockFires true false 0 blk0 key 0 0 s (blockArgsAt true false 0 blk0 s) ∧ (s.insSt key 0 0 0).count = 1) ∧
    (let s := handled blockSt0
     BlockFires true false 0 blk0 key 0 0 s (blockArgsAt true false 0 blk0 s) ∧ (s.insSt key 0 0 0).count ≠ 1 ∧
       ((s.page? key).map Page.hasHandler).getD false = true ∧ (Party.actor key 0 0).isHandler s = false) :=
  ⟨elemFires_of (by decide +kernel), by decide +kernel, by decide +kernel, by decide +kernel, elemFires_of (by decide +kernel), by decide +kernel,
    ⟨blockFires_of (by decide +kernel), by decide +kernel⟩, ⟨blockFires_of (by decide +kernel), by decide +kernel⟩⟩

/-- A launch record for graph 0 with port 0 in its mask. -/
def launchSlot : Slot := { slot1 with words := List.replicate 8 0 ++ [1] ++ List.replicate 7 0 }
def stLaunch : State :=
  { blockSt 0 { block := 0, firing := some firing0, cbs := [{ handle := 0, slots := [launchSlot] }] } with graphs := [graph0] }
theorem wit_LaunchMakesTheFrame :
    BlockFires false false 0 blk0 key 0 0 stLaunch (blockArgsAt false false 0 blk0 stLaunch) ∧
    stLaunch.slotAt key 0 (handleOf blk0) (offsetOf blk0) = some launchSlot ∧
    (let r := LaunchRec.ofNat ((List.range 16).foldl (fun n j => n + (launchSlot.word j).toNat * 2 ^ (32 * j)) 0)
     stLaunch.launchGraph 0 r = some graph0 ∧ ((stLaunch.argBlock ctx0 {} r graph0).toOption.map Prod.fst) = some none ∧
       (stLaunch.part 0).tagWaiters = [] ∧ (stLaunch.part 0).tags = [5] ∧ stBuf.launchGraph 0 r = none) :=
  ⟨blockFires_of (by decide +kernel), by decide +kernel, by decide +kernel⟩

/-! ### Statements: the island -/

def isl1 : Isl := { isl0 with ty := .f32, da := .a 0, db := .a 1, dc := .a 2 }
def islM : Isl := { isl0 with ty := .bf16x2, da := .a 0, db := .t 0, dc := .t 1 }
def tileB : TileReg := { TileReg.empty with fmt := Ty.code .bf16x2, nrow := 15 }
def islX : IslandState := { IslandState.empty with t := [tileB, { tileB with sc := true }] ++ List.replicate 6 TileReg.empty }
def islInt : IslandState := { IslandState.empty with a := [{ Accum.zero with int := true }, Accum.zero, Accum.zero, Accum.zero] }

theorem wit_IslandVectorGivesCells :
    IslandFires key (islandSt .empty) ((islandSt .empty).dyn key).island ∧
    (let x := ((islandSt .empty).dyn key).island
     ((x.acc isl1.da).int || (x.acc isl1.db).int) = false ∧ (x.acc isl1.dc).int = false) ∧
    IslandFires key (islandSt islInt) ((islandSt islInt).dyn key).island ∧
    (let x := ((islandSt islInt).dyn key).island
     ((x.acc isl1.da).int || (x.acc isl1.db).int) = true) :=
  ⟨islandFires_of (by decide +kernel), by decide +kernel, islandFires_of (by decide +kernel), by decide +kernel⟩

theorem wit_IslandMatrixStep :
    IslandFires key (islandSt islX) ((islandSt islX).dyn key).island ∧
    (let s := islandSt islX
     let x := (s.dyn key).island
     (x.acc islM.da).int = !islM.ty.isFloat ∧ State.badTile x islM.ty islM.db false = false ∧ State.badTile x islM.ty islM.dc true = false ∧
       isOk (s.checkPair key x islM.ty islM.db 0) = true ∧ isOk (s.multiplicand key x islM.ty islM.db 0) = true ∧
       isOk (s.multiplicand key x islM.ty islM.dc 0) = true ∧ ((x.tile islM.db).sc || (x.tile islM.dc).sc) = true) ∧
    (let x := ((islandSt islInt).dyn key).island
     (x.acc islM.da).int = islM.ty.isFloat) :=
  ⟨islandFires_of (by decide +kernel), by decide +kernel, by decide +kernel⟩

/-- Node 0 a scratchpad window of 4 KiB in a granted granule; a packet of one row of FMT 8 and an EOS behind it on lane 0. -/
def hdr1 : DWord := 0x8000000000000000
def stScratch (fifo : List Item) (x : IslandState) : State :=
  let p := islandPage 0
  { one { p with
      image := Memory.writeNat (Memory.writeNat p.image 0x40 1 1) 0x50 8 0x1000
      dyn := { PageDyn.empty with island := { x with phase := .running, tiles := 1 }, fifos := [(.laneIn 0, fifo)] } } (.party (.island key)) with
    granules := [(0, 0x88800000)] }
theorem wit_IslandMovesTiles :
    (let s := stScratch [.head hdr1 {}, .row 0] IslandState.empty
     s.islandRuns key = true ∧ s.cur = some (.party (.island key)) ∧ isOk (s.takeHead key 0 0 true) = true ∧ rowsBehind hdr1 = 1 ∧
       (State.packetRows ((s.dyn key).fifo (.laneIn 0)).tail 1).isSome = true) ∧
    (let s := stScratch [] islX
     let x := (s.dyn key).island
     s.islandRuns key = true ∧ isOk (s.loadPair key x 0 0 (List.range 16)) = true ∧ isOk (s.loadPair key x 0 0 (List.range (depth .bf16x2))) = true ∧
       (x.tile (.t 0)).fmt ≠ 0 ∧ (x.tile (.t 2)).fmt = 0 ∧ isOk (s.storePair key x 0 0 {} [(0, 0), (1, 0)]) = true ∧
       (x.acc (.a 0)).int = !Ty.isFloat .f32 ∧ Ty.ofCode 7 = some .bf16x2) := by decide +kernel

theorem wit_IslandSequencesAndSends :
    IslandFires key (islandSt islX) ((islandSt islX).dyn key).island ∧
    (let s := islandSt islX
     let x := (s.dyn key).island
     (x.acc isl1.da).int = !isl1.ty.isFloat ∧ (x.acc isl1.db).int = !isl1.ty.isFloat ∧ (s.dyn key).used (.laneOut 0) + 16 ≤ Place.cap (.laneOut 0) ∧
       (x.tile (.t 0)).fmt ≠ 0 ∧ (s.dyn key).used (.laneOut 0) + (State.packetOf x (x.tile (.t 0)) 0).length ≤ Place.cap (.laneOut 0)) ∧
    (let s := stScratch [.tok (dat 3)] IslandState.empty
     s.islandRuns key = true ∧ isOk (s.takeHead key 0 0 false) = true) :=
  ⟨islandFires_of (by decide +kernel), by decide +kernel, by decide +kernel⟩

/-! ### Statements: tokens, firings, rounds, homes -/

/-- A page whose element 0 routes to egress port 0, which leads to port 0 of page 1. -/
def peerImg (w : Nat) : List Host.Cell := Memory.writeNat (cellsAt 0x2C0 8 (2 ^ 63 + 2 ^ 48)) 0x400 16 w
def stRoute (fifos : List (Place × List Item)) (u : Subject) : State :=
  let p0 : Page := { key := key, st := .resident, image := peerImg 0x01004200010000000000000000000000, dyn := { PageDyn.empty with fifos := fifos } }
  { one p0 u with pages := [p0, { p0 with key := { key with lpn := 1 }, dyn := PageDyn.empty }] }
/-- Block 0 listens on channel 0 with one slot; element 0 routes to it. -/
def listenImg : List Host.Cell :=
  Memory.writeNat (Memory.writeNat (cellsAt 0x09 1 1) 0x1800 16 (0xA1 * 2 ^ 120 + 2 ^ 105)) 0x400 16 0x33004000020000000000000000000000
def stListen (slots : List Slot) (t : Token) (u : Subject) : State :=
  one { key := key, st := .resident, image := listenImg
        dyn := { PageDyn.empty with fifos := [(.out 0 false, [.tok t])], actors := [{ block := 0, cbs := [{ handle := 0, slots := slots }] }] } } u

theorem wit_TokensMoveAlongTheirRoutes :
    (let s := stRoute [(.out 0 false, [.tok (dat 1)])] (.place key (.out 0 false))
     ∃ p, s.page? key = some p ∧ s.pageRuns key = true ∧ p.dyn.fifo (.out 0 false) = [.tok (dat 1)] ∧
       nextPlaces p (.out 0 false) = [.egress 0] ∧ (nextPlaces p (.out 0 false)).all (fun q => p.dyn.takes q (.tok (dat 1))) = true) ∧
    (let s := stRoute [(.egress 0, [.tok (dat 1)])] (.part key 0)
     ∃ p c, s.page? key = some p ∧ s.pageRuns key = true ∧ p.dyn.fifo (.egress 0) = [.tok (dat 1)] ∧ p.peer 16 = 1 ∧
       s.page? { key with lpn := 1 } = some c ∧ c.fold = none ∧ c.st = .resident ∧ c.dyn.fifo (.wing (p.pport 16)) = [] ∧
       c.dyn.takes (.ingress (p.pport 16)) (.tok (dat 1)) = true) ∧
    (let s := stListen [] (dat 1) (.place key (.out 0 false))
     ∃ p h c, s.page? key = some p ∧ s.pageRuns key = true ∧ (p.ecw 0).route false = .chan 0 ∧ p.dyn.headTok (.out 0 false) = some (dat 1) ∧
       s.listener? key 0 = some (0, h, c) ∧ (s.cb key 0 c.handle).slots.length < 2 ^ c.slog) ∧
    (let s := stListen [slot1] (dat 1) (.place key (.out 0 false))
     ∃ h c, s.listener? key 0 = some (0, h, c) ∧ 2 ^ c.slog ≤ (s.cb key 0 c.handle).slots.length) :=
  ⟨⟨_, rfl, by decide +kernel⟩, ⟨_, _, rfl, by decide +kernel, by decide +kernel, by decide +kernel, rfl, by decide +kernel⟩,
    ⟨_, _, _, rfl, by decide +kernel, by decide +kernel, by decide +kernel, rfl, by decide +kernel⟩, ⟨_, _, rfl, by decide +kernel⟩⟩
/-- A place that is full, a page that is absent, an emit port, the reply wing, a census token, an unassigned control code. -/
def emitImg : List Host.Cell :=
  Memory.writeNat (Memory.writeNat (cellsAt 0x09 1 1) 0x1800 16 (0xA1 * 2 ^ 120 + 2 ^ 101)) 0x1820 8 (2 ^ 48 + 0x400 * 2 ^ 32)
theorem wit_token_boundaries :
    (let s := stRoute [(.out 0 false, [.tok (dat 1)]), (.egress 0, List.replicate 64 (.tok (dat 1)))] (.place key (.out 0 false))
     ∃ p, s.page? key = some p ∧ (nextPlaces p (.out 0 false)).all (fun q => p.dyn.takes q (.tok (dat 1))) = false) ∧
    (let s := one { key := key, st := .resident, image := emitImg
                    dyn := { PageDyn.empty with actors := [{ block := 0, cbs := [{ handle := 0, slots := [slot1] }] }] } } (.emitPort key 0 0)
     ∃ p h c y, s.page? key = some p ∧ s.header? key 0 = some h ∧ p.emitEntry? h 0 = some c ∧ s.pageRuns key = true ∧ c.wide = false ∧
       (s.cb key 0 c.handle).marks = [] ∧ (s.cb key 0 c.handle).slots = [slot1] ∧ s.sendRoute key c.dest (dat 9) = some y) ∧
    (let s := one { elemPage 0 with dyn := { PageDyn.empty with fifos := [(.reply, [.tok (dat 1)])], replies := [(true, 2)] } } (.place key .reply)
     s.pageRuns key = true ∧ (s.dyn key).headTok .reply = some (dat 1) ∧ (s.dyn key).takes (.ingress 2) (.tok (dat 1)) = true ∧
       (s.dyn key).fifo .reply ≠ []) ∧
    (let t : Token := { kind := .census, tag := 0, pay := 1 }
     (((elemSt [(.L, t)]).page? key).map (fun p => p.dyn.headTok (.queue 0 .L))) = some (some t)) ∧
    (let s : State := { State.reset with ctl := [{ code := 0x20 }], cur := some .device }
     s.ctl.find? (fun c => c.code == 0 || 0x0C < c.code) = some { code := 0x20 }) :=
  ⟨⟨_, rfl, by decide +kernel⟩, ⟨_, _, _, _, rfl, rfl, rfl, by decide +kernel, by decide +kernel, by decide +kernel, by decide +kernel, rfl⟩,
    by decide +kernel, by decide +kernel, by decide +kernel⟩

/-- An actor page in region 0 with no firing in flight; the same with its firing over. -/
def stSelect : State := one { actorPage 0 with region := some 0, dyn := PageDyn.empty } (.unit 0)
def stOver : State := { blockSt 0 { block := 0, firing := some { firing0 with fired := [0] } } with cur := some (.part key 0) }
/-- Channel 0x3F belongs to a trap handler with a buffer of 4 slots. -/
def trapImg : List Host.Cell :=
  Memory.writeNat (Memory.writeNat (cellsAt 0x09 1 1) 0x1800 16 (0xA3 * 2 ^ 120 + 2 ^ 105)) 0x1820 8 (2 * 2 ^ 50)
def trapMsg : TrapMsg := { page := key, words := [0x19, 0, 0, 0], tag := 0, party := none, accepts := false }
def stTrap (slots : List Slot) : State :=
  { one { key := key, st := .resident, image := trapImg
          dyn := { PageDyn.empty with actors := [{ block := 0, cbs := [{ handle := 0, slots := slots }] }] } } (.page key) with traps := [trapMsg] }
theorem wit_FiringsAreSelectedAndComplete :
    stSelect.candidatesOf 0 ≠ [] ∧ stBuf.candidatesOf 0 = [] ∧
    (∃ p h, stOver.page? key = some p ∧ stOver.header? key 0 = some h ∧ stOver.firing? key 0 = some { firing0 with fired := [0] } ∧
      firingOver (insTable p h) { firing0 with fired := [0] } = true ∧ (p.cbEntries h) = [] ∧
      (p.dyn.actor 0).stopped = false) ∧
    (∃ p h, blockSt0.page? key = some p ∧ blockSt0.header? key 0 = some h ∧ firingOver (insTable p h) firing0 = false) ∧
    (∃ h c, (stTrap []).listener? key 0x3F = some (0, h, c) ∧ ((stTrap []).cb key 0 c.handle).slots.length + 4 ≤ 2 ^ c.slog ∧
      (stTrap []).traps.find? (fun t => t.page == key) = some trapMsg) ∧
    (∃ h c, (stTrap [slot1]).listener? key 0x3F = some (0, h, c) ∧ 2 ^ c.slog < ((stTrap [slot1]).cb key 0 c.handle).slots.length + 4) ∧
    (let z : Ctl := { code := 0x09, page := some key, operand := 0 }
     let s : State := { stLR with ctl := [z], cur := some .device }
     s.ctl.find? (fun c => c.code == 0x09) = some z ∧ s.traps = [] ∧ s.page? key ≠ none) :=
  ⟨by decide +kernel, by decide +kernel, ⟨_, _, rfl, rfl, by decide +kernel⟩, ⟨_, _, rfl, rfl, by decide +kernel⟩,
    ⟨_, _, rfl, by decide +kernel⟩, ⟨_, _, rfl, by decide +kernel⟩, by decide +kernel⟩

/-- The context in its turn. -/
def stCtx (f : Context → Context) : State := { stLR with cur := some (.ctx ctx0), ctxs := [f { id := ctx0, exist := true }] }
/-- An undo log without room that stalls. -/
def fullLog : UndoLog :=
  { on := true
    stall := true
    records := [{ kind := 0, wid := 2, space := 0, addr := 0, old := 0, round := 0, window := 0 }]
    total := 1
    windows := [{ num := 0, round := 0 }] }
theorem wit_RoundsCloseCommitAndVoid :
    (let x := (stCtx (fun c => { c with rtmr := 0 })).ctx ctx0
     x.exist = true ∧ x.close = none ∧ x.wantClose = false ∧ x.frozen = false ∧ x.voided = none ∧
       x.commitAt.toNat + bitsOf x.rtmr.toNat 0 7 * Config.cyclesPerMicrosecond ≤ (stCtx (fun c => { c with rtmr := 0 })).cycle.toNat) ∧
    (let x := (stCtx (fun c => { c with commitAt := 1 })).ctx ctx0
     (stCtx id).cycle.toNat < x.commitAt.toNat + bitsOf x.rtmr.toNat 0 7 * Config.cyclesPerMicrosecond) ∧
    (let x := (stCtx (fun c => { c with wantClose := true })).ctx ctx0
     x.wantClose = true ∧ x.close = none ∧ x.voidFrom = none) ∧
    (let s := { stCtx (fun c => { c with close := some { round := 0 } }) with pages := [] }
     (s.ctx ctx0).close = some { round := 0 } ∧ (∀ p ∈ s.pages, p.key.ctx ≠ ctx0)) ∧
    (let s := stCtx (fun c => { c with close := some { round := 0, reported := true } })
     let x := s.ctx ctx0
     x.voidFrom = none ∧ x.dbg ≠ .stopped ∧ (x.undo.on && x.undo.stall && x.undo.full (s.roundRecords ctx0 0).length) = false) ∧
    (let s := stCtx (fun c => { c with close := some { round := 0, reported := true }, undo := fullLog })
     let x := s.ctx ctx0
     (x.undo.on && x.undo.stall && x.undo.full (s.roundRecords ctx0 0).length) = true ∧ x.stalled = false) ∧
    (let x := (stCtx (fun c => { c with voidFrom := some 0 })).ctx ctx0
     x.voidFrom = some 0 ∧ x.close = none) ∧
    (let s := stCtx (fun c => { c with voided := some 0 })
     (s.ctx ctx0).voidFrom = none ∧ (s.ctx ctx0).voided ≠ none ∧ s.voidsPending ctx0 = false) ∧
    (let z : Ctl := { code := 0x0B, ctx := some ctx0 }
     ({ stCtx id with ctl := [z] } : State).ctl.find? (fun z => z.code == 0x0B && z.ctx == some ctx0) = some z) := by decide +kernel

/-- A store of 4 bytes and a load behind it in two port queues of tile 0. -/
def req0 : Req :=
  { id := 0, issuer := .elem key 0, ctx := ctx0, round := 0, tag := 0, op := .store, node := 0, va := 0, space := .sram, addr := 0x40, size := 4
    home := .tile 0, port := 0, b := 0x11223344, phase := .queued }
def req1 : Req := { req0 with id := 1, op := .load false, port := 1, entered := 3, addr := 0x80 }
def stHome (rs : List Req) : State := { stLR with reqs := rs, cur := some (.home (.tile 0) 0) }
/-- A walk whose context has stage 1 off and whose partition's stage-2 root is valid, one whose entry is invalid, and a
walk that is done. -/
def walk0 : Walk := { id := 7, ctx := ctx0, va := 0x1000, use := .read }
def stWalk (w : Walk) (p : Partition) : State := { stLR with walks := [w], parts := [p], cur := some (.unit 7) }
def inval0 : Inval := { id := 9, part := 0, ctx := some ctx0, stage1 := true, lo := 0, hi := 4096, drains := [(0, drainTok 9), (1, drainTok 9)] }
def stInval (v : Inval) : State := { stLR with invals := [v], cur := some (.units 9 0) }
/-- One 16 GiB leaf of stage 2 with every permission, in a granted block. -/
def leafTables : List Host.Cell := Memory.writeNat (Memory.writeNat (cellsAt 0 8 0x2033) 0x2000 8 0x402B) 0x4000 8 0x3D
def stLeaf : State :=
  { stWalk walk0 { slotPart with s2root := 1 } with dram := leafTables, dev := { State.reset.dev with blocks := [.granted 0] } }
def walkDone : Walk := { walk0 with pos := .stage2 0x1000 0x4000 44 34, leaf1 := some (openLeaf, 2 ^ 34) }
def isMore : WalkRes → Bool
  | .more _ => true
  | _ => false
def isFault : WalkRes → Bool
  | .fault _ => true
  | _ => false
theorem wit_HomesServeInOrder :
    (stHome [req0]).readyHeads (.tile 0) = [req0] ∧ (stHome [req0, req1]).readyHeads (.tile 0) = [req0, req1] ∧
    (stHome [{ req0 with entered := 5 }, req1]).readyHeads (.tile 0) = [{ req0 with entered := 5 }, req1] ∧ (stHome []).readyHeads (.tile 0) = [] ∧
    (let s : State := { stLR with reqs := [{ req0 with phase := .done }] }
     s.reqs.find? (fun r => r.issuer == .elem key 0 && r.phase != .given) = some { req0 with phase := .done } ∧
       (((s.page? key).map (fun p => (s.dyn key).outFree 0 (p.ecw 0))) = some true)) ∧
    isMore ((stWalk walk0 { slotPart with s2root := 1 }).walkStep walk0) = true ∧
    (stWalk walk0 slotPart).walks.find? (fun w => w.id == 7) = some walk0 ∧
    (isFault ((stWalk walk0 slotPart).walkStep walk0) = true ∧ (stWalk walk0 slotPart).faultHeld 0 ctx0 true 0x1000 = false) ∧
    (match stLeaf.walkStep walkDone with
      | .done x => x.pa = 0x1000 ∧ permFault .read x = none
      | _ => False) ∧
    ((stInval inval0).invals.find? (fun v => v.id == 9) = some inval0 ∧ inval0.pending.contains 0 = true ∧
      (stInval inval0).walks.any (fun w => w.mse == 0 && w.id < 9 && State.invalHits inval0 w.ctx) = false ∧
      (((stInval inval0).invals.takeWhile (fun x => x.id != 9)).filter (fun x => x.part == inval0.part)).length < 8 ∧
      ({ inval0 with drains := inval0.drains.filter (fun d => d.1 != 0) } : Inval).pending ≠ [] ∧ ({ inval0 with drains := [(0, drainTok 9)].filter (fun d => d.1 != 0) } : Inval).pending = []) := by
  refine ⟨by decide +kernel, by decide +kernel, by decide +kernel, by decide +kernel, by decide +kernel, by decide +kernel, by decide +kernel,
    by decide +kernel, ?_, by decide +kernel⟩
  exact ⟨rfl, rfl⟩

def hw0 : HomeWrite :=
  { writeId := 0, ctx := ctx0, round := 0, space := .sram, addr := 0x40, va := 0x40, bytes := [1, 0], old := [0, 0], atomic := false, committed := true
    home := .tile 0 }
theorem wit_WriteBackStoresItsEntryAlone :
    (let s : State := { stLR with homeWrites := [hw0], cur := some (.home (.tile 0) 0) }
     (Memory.wf s.sram = true ∧ Memory.wf s.dram = true ∧ Memory.wf s.hostMem = true) ∧
       s.homeWrites.find? (fun w => w.committed && w.home == .tile 0) = some hw0) := by decide +kernel

/-- The walk of R333's example: a generator's read of 0x0020_0000_0100 meets the invalid stage-2 mapping of the third
stage-1 table. The stage-1 entries are the example's; the stage-2 tables map its first two tables to themselves. -/
def dram333 : List Host.Cell :=
  [(0x10000, 0x12033), (0x12000, 0x1402B), (0x14000, 0x1601B), (0x16400, 0x1700B), (0x17000, 0x18003), (0x18000, 0x10000003D),
   (0x18010, 0x10000203D), (0x100000000, 0x100002033), (0x100002000, 0x10000402B)].foldl (fun m e => Memory.writeNat m e.1 8 e.2) []
def st333 : State :=
  { State.reset with
    dram := dram333
    parts := [{ slotPart with s2root := 0x10001 }]
    ctxs := [{ id := ctx0, exist := true, s1root := 0x100000001 }]
    dev := { State.reset.dev with blocks := [.free, .free, .granted 0] } }
theorem test_walk_of_R333 :
    (match st333.translate ctx0 .read 0x2000000100 with
      | .error f => some (f.cause, f.stage2, f.walk, f.gpa, f.level)
      | .ok _ => none) = some (0x24, true, true, 0x100004040, 5) := by decide +kernel

/-! ### Statements: generators, sections -/

/-- A page with the memory node 0 of 4 elements of 4 bytes: a fabric window that writes or reads, its route egress port 0. -/
def nodeImg (kind : Nat) (write : Bool) : List Host.Cell :=
  Memory.writeNat (Memory.writeNat (Memory.writeNat (Memory.writeNat (cellsAt 0x40 1 kind) 0x50 8 0x1000) 0x58 8
    (2 ^ 13 + 2 * 2 ^ 10 + 2 ^ 28 + 2 ^ 32 + (if write then 2 ^ 51 else 0) + 0x400 * 2 ^ 52)) 0x60 4 4) 0x64 4 4
def stNode (kind : Nat) (write : Bool) (gens : List Gen) (fifos : List (Place × List Item)) : State :=
  { one { key := key, st := .resident, image := nodeImg kind write
          dyn := { PageDyn.empty with fifos := fifos, nodes := [{ node := 0, gens := gens }] } } (.part key 0) with granules := [(0, 0x88800000)] }
def gen0 : Gen := { tag := 0, off := 0 }
def eosTok (v : Word) : Token := { kind := .eos, tag := 0, pay := v }

theorem wit_GeneratorsServeTheirFrames :
    (let s := stNode 1 false [gen0] [(.node 0 1, [.tok (dat 0)]), (.node 0 2, [.tok (dat 0)])]
     s.pageRuns key = true ∧ (s.dyn key).headTok (.node 0 1) = some (dat 0) ∧ (s.dyn key).headTok (.node 0 2) = some (dat 0) ∧
       ((s.takePort key 0 2 (dat 0)).gen? key 0 0).isSome = true) ∧
    (let s := stNode 1 true [gen0] [(.node 0 0, [.tok (dat 7)])]
     let d := s.nodeDesc key 0
     d.ndim ≠ 0 ∧ d.isWrite = true ∧ d.esize = 4 ∧ s.gen? key 0 0 = some gen0 ∧ s.genRuns key 0 gen0 = true ∧
       isOk (s.storeNext key 0 d gen0 (bytesOfWord d.esize 7) {}) = true ∧ s.writeEosDue key 0 = none) ∧
    (let g := { gen0 with last := true }
     let s := stNode 1 true [g] []
     s.writeEosDue key 0 = some g ∧ (s.sendRoute key (s.nodeDesc key 0).outRoute (eosTok 0)).isSome = true) ∧
    (let s := stNode 1 true [gen0] [(.node 0 0, [.tok eos])]
     s.writeEosDue key 0 = none ∧ ((s.dyn key).node 0).gens.find? (fun g => g.tag == 0) = some gen0 ∧ (s.dyn key).headTok (.node 0 0) = some eos) ∧
    (let s := stNode 1 false [gen0] []
     let d := s.nodeDesc key 0
     d.ndim ≠ 0 ∧ d.isWrite = false ∧ ((s.dyn key).node 0).cue = none ∧ s.genHeld key 0 gen0 = false ∧ d.nkind = 1 ∧ d.perEmission = 1 ∧ d.total = 4 ∧ d.outRoute = .egress 0 ∧
       isOk (s.readPositions key 0 d gen0 [0]) = true ∧ (s.emitElement key d gen0 {} [[5]]).isSome = true) ∧
    (let g := { gen0 with eor := some 1 }
     let s := stNode 1 false [g] []
     ((s.dyn key).node 0).gens.find? (fun g => !g.done) = some g ∧ (s.sendRoute key (s.nodeDesc key 0).outRoute (eosTok 0)).isSome = true) ∧
    (let s := stNode 1 false [{ gen0 with k := 4 }] []
     (s.nodeDesc key 0).total < 4 + (s.nodeDesc key 0).perEmission) ∧
    (let s := stNode 2 false [gen0] []
     let d := s.nodeDesc key 0
     let wsz := max 1 d.winsz
     d.nkind ≠ 1 ∧ gen0.returned ≤ (gen0.k + d.perEmission - 1) / wsz ∧
       gen0.returned < min ((d.total + wsz - 1) / wsz) ((gen0.k + d.perEmission - 1) / wsz + d.wincnt)) := by decide +kernel

/-- An island page without input lanes, its section word for one tile. -/
def secImg : List Host.Cell := Memory.writeNat (islandPage 0).image 0x230 8 1
def stSec (x : IslandState) : State :=
  one { islandPage 0 with dyn := { PageDyn.empty with island := x } } (.page key)
theorem wit_IslandSectionsRun :
    (let x := { IslandState.empty with armq := [0] }
     let s := stSec x
     ∃ p, s.page? key = some p ∧ s.pageRuns key = true ∧ p.hasIsland = true ∧ p.dyn.island.phase = .idle ∧ s.armHeld key p = false ∧
       State.islandCue p = none ∧ s.armTag key p = some 0 ∧ s.dbgAllows ctx0 ((Party.island key).identity s) 0 = true ∧
       s.stepAllows ctx0 p.islandHeader.step = true ∧ State.tileCount p < 2 ^ 24) ∧
    (let s := stSec { IslandState.empty with phase := .running, tiles := 2, pc := 1 }
     ∃ p, s.page? key = some p ∧ p.islandHeader.nins ≤ p.dyn.island.pc ∧ 1 < p.dyn.island.tiles) ∧
    (let s := stSec { IslandState.empty with phase := .running, tiles := 1 }
     ∃ p, s.page? key = some p ∧ p.dyn.island.pc < p.islandHeader.nins) ∧
    (let s := stSec { IslandState.empty with phase := .ending }
     ∃ p, s.page? key = some p ∧ (State.fedLanes p).find? (fun l => !p.dyn.island.eosTaken.contains l) = none ∧
       (p.lanes.filter LaneEntry.out) = []) ∧
    (let t : Token := { kind := .cue, tag := 0, pay := 0 }
     let s := stSec { IslandState.empty with cueDue := some t }
     ∃ p, s.page? key = some p ∧ p.hasIsland = true ∧ p.dyn.island.cut = false ∧ State.islandCue p = some t) ∧
    (let z : Ctl := { code := 0x03, page := some key }
     let s : State := { stSec { IslandState.empty with phase := .reported } with ctl := [z], cur := some .device }
     s.ctl.find? (fun c => c.code == 0x03) = some z ∧ (s.dyn key).island.phase = .reported ∧ (s.dyn key).island.tag = 0 ∧ s.page? key ≠ none) :=
  ⟨⟨_, rfl, by decide +kernel⟩, ⟨_, rfl, by decide +kernel⟩, ⟨_, rfl, by decide +kernel⟩, ⟨_, rfl, by decide +kernel⟩,
    ⟨_, rfl, by decide +kernel⟩, by decide +kernel⟩

/-! ### Statements: pages, frames, queues, slices -/

theorem crcBit_lt {c : Nat} (h : c < 2 ^ 32) : crcBit c < 2 ^ 32 := by
  unfold crcBit
  split
  · exact Nat.xor_lt_two_pow (by omega) (by decide)
  · omega
theorem crcByte_lt {c : Nat} (b : Byte) (h : c < 2 ^ 32) : crcByte c b < 2 ^ 32 := by
  unfold crcByte
  have h0 : Nat.xor c b.toNat < 2 ^ 32 := Nat.xor_lt_two_pow h (Nat.lt_of_lt_of_le b.isLt (by decide))
  exact crcBit_lt (crcBit_lt (crcBit_lt (crcBit_lt (crcBit_lt (crcBit_lt (crcBit_lt (crcBit_lt h0)))))))
theorem crc32c_lt (bs : List Byte) : crc32c bs < 2 ^ 32 := by
  have h : ∀ (l : List Byte) (c : Nat), c < 2 ^ 32 → l.foldl crcByte c < 2 ^ 32 := by
    intro l
    induction l with
    | nil => intro c hc; exact hc
    | cons b l ih => intro c hc; exact ih _ (crcByte_lt b hc)
  exact Nat.xor_lt_two_pow (h bs _ (by decide)) (by decide)

/-- An image of zeros but for its CRC field. -/
def crcImg (v : Nat) : List Host.Cell := Memory.writeNat [] 0x3C 4 v
theorem four_bytes (a b c d : Byte) :
    Memory.readBytes (Memory.writeBytes [] 0x3C [a, b, c, d]) 0x3C 4 = [a, b, c, d] ∧
    Memory.writeBytes (Memory.writeBytes [] 0x3C [a, b, c, d]) 0x3C [0, 0, 0, 0] = [] := by
  by_cases ha : a = 0#8 <;> by_cases hb : b = 0#8 <;> by_cases hc : c = 0#8 <;> by_cases hd : d = 0#8 <;>
    simp [Memory.writeBytes, Memory.write, Memory.readBytes, Memory.read, ha, hb, hc, hd]
theorem crcImg_cleared (v : Nat) : Memory.writeNat (crcImg v) 0x3C 4 0 = [] := (four_bytes _ _ _ _).2
theorem crcImg_field (v : Nat) (h : v < 2 ^ 32) : imgNat (crcImg v) 0x3C 4 = v := by
  have hr : Memory.readBytes (crcImg v) 0x3C 4 = bytesOfWord 4 v := (four_bytes _ _ _ _).1
  rw [imgNat, Memory.readNat, hr]
  simp only [bytesOfWord, wordOfBytes, BitVec.toNat_ofNat]
  omega
theorem pageCrcOk_crcImg (v : Nat) (h : v < 2 ^ 32) :
    pageCrcOk (crcImg v) = (crc32c (Memory.readBytes [] 0 0x8000) == v) := by
  simp only [pageCrcOk, crcImg_cleared, crcImg_field v h]

/-- A page that loads with this image; its graph has no base in memory, so the image is the page's own. -/
def stLoad (img : List Host.Cell) (tried : Bool) : State :=
  one { key := key, st := .loading, image := img, crcTried := tried, dyn := PageDyn.empty } (.page key)
theorem wit_image_crc : (∃ img p, (stLoad img false).page? key = some p ∧ (stLoad img false).fetchImage p = .ok img ∧ pageCrcOk img = true) ∧
    (∃ img p, (stLoad img true).page? key = some p ∧ (stLoad img true).fetchImage p = .ok img ∧ pageCrcOk img = false ∧ p.crcTried = true) := by
  have h := pageCrcOk_crcImg _ (crc32c_lt (Memory.readBytes [] 0 0x8000))
  generalize hc : crc32c (Memory.readBytes [] 0 0x8000) = v at h
  refine ⟨⟨crcImg v, _, rfl, rfl, by simpa using h⟩, ?_⟩
  by_cases hv : v = 0
  · refine ⟨crcImg 1, _, rfl, rfl, ?_, rfl⟩
    rw [pageCrcOk_crcImg 1 (by decide), hc, hv]; rfl
  · refine ⟨crcImg 0, _, rfl, rfl, ?_, rfl⟩
    rw [pageCrcOk_crcImg 0 (by decide), hc]; simpa using hv

/-- A partition whose quad 0 is backed; a page that waits for a region, one that leaves, one that is eligible. -/
def part1 : Partition := { slotPart with quads := 1, tags := [5] }
def onPart (s : State) (p : Partition) (u : Subject) : State :=
  { s with parts := [p], cur := some u, dev := { State.reset.dev with cast := [0x80000000] } }
def page0 : Page := { key := key, dyn := PageDyn.empty }
theorem wit_PagesLoadAndLeave :
    (let s := onPart (one page0 .device) { part1 with signals := [key] } (.unit 0)
     (s.part 0).signals = [key] ∧ (s.page? key).map Page.st = some .absent ∧ (s.ctx ctx0).frozen = false) ∧
    (let s := onPart (one { page0 with st := .pending } .device) { part1 with pending := [key] } (.unit 0)
     (∃ p, s.page? key = some p ∧ s.bestRegion p = some 0) ∧
       ((s.part 0).pending.filter (fun k => s.nextPending k.ctx == some k)).find?
         (fun k => decide (s.regionCount k.ctx < s.quotaMax k.ctx) && s.ctxServed k.ctx) = some key ∧ s.regionCount ctx0 = 0 ∧ s.quotaMin ctx0 = 0) ∧
    (let s := onPart (one { page0 with st := .stopping } .device) part1 (.page key)
     ∃ p, s.page? key = some p ∧ p.st = .stopping ∧ State.settled p = true ∧ (s.ctx key.ctx).frozen = false) ∧
    (let f : FoldInfo := { level := 2, members := [0, 1], running := 0, since := 0 }
     let s := { onPart (one { page0 with st := .resident, region := some 0, fold := some f } .device) part1 (.unit 0) with cycle := 1024 }
     ∃ p, s.pages.find? (fun p => p.region == some 0 && (match p.fold with
        | some f => f.running == p.key.lpn
        | none => false)) = some p ∧ p.fold = some f ∧ s.turnOver p = true ∧ State.settled p = true ∧
       ({ s with cycle := 0 } : State).turnOver p = false) ∧
    (let s := onPart (one page0 .device) { part1 with saveWaits := [(.evict key, 1)], saveAllow := 1 } (.unit 0)
     (.evict key, 1) ∈ (s.part 0).saveWaits ∧ 1 ≤ s.framesFree 0) ∧
    (let s := { onPart (one { page0 with st := .resident, region := some 0 } .device) part1 (.page key) with
                  cycle := 4600, ctxs := [{ id := ctx0, exist := true, quota := 0 }] }
     ∃ p v, s.page? key = some p ∧ p.evict = none ∧ s.eligible p = true ∧ s.quotaMax ctx0 < s.regionCount ctx0 ∧ s.stoppingOf ctx0 = 0 ∧
       s.victim (s.pages.filter (fun q => q.key.ctx == ctx0 && s.eligible q)) = some v) ∧
    (let s := { onPart (one { page0 with st := .resident, region := some 0 } .device) { part1 with pending := [{ key with lpn := 1 }] } (.page key) with cycle := 4600 }
     (s.page? key).map s.eligible = some true ∧ s.regionCount ctx0 ≤ s.quotaMax ctx0 ∧ s.pendingOf ctx0 = [{ key with lpn := 1 }]) :=
  ⟨by decide +kernel, ⟨⟨_, rfl, by decide +kernel⟩, by decide +kernel⟩, ⟨_, rfl, rfl, by decide +kernel, rfl⟩,
    ⟨_, rfl, by decide +kernel⟩, by decide +kernel, ⟨_, _, rfl, by decide +kernel, by decide +kernel, by decide +kernel, by decide +kernel, rfl⟩,
    by decide +kernel⟩

/-- A live frame of graph 0 in its turn, with a skippable identifier at place 5; the graph has one launch port and phases. -/
def fk : FrameKey := ⟨0, 0⟩
def rec0 : LaunchRec := { widths := [2, 2, 0, 0, 0, 0], limit := 16, low := 1, cover := 0x100F }
def frame0 : Frame := { key := fk, ctx := ctx0, graph := 0, lrec := { rec0 with cover := 0 } }
def graphP : Graph := { graph0 with header := Memory.writeNat graph0.header 0x60 2 0x8001 }
def stFrame (f : Frame) : State :=
  { one { page0 with st := .resident, image := pageImg } (.frame fk) with graphs := [graph0], frames := [f] }

theorem wit_FramesAreWalkedAndInfilled :
    (let f := { frame0 with eor := some 1 }
     (stFrame f).frame? fk = some f ∧ (stFrame f).frameFree f = true ∧
       ((stFrame f).deliverAll (((stFrame f).walkPorts f).map (fun e => (e.1, e.2.1, State.walkTok f .eor 1)))).isSome = true) ∧
    (let s := stFrame frame0
     frame0.pos < frame0.lrec.limit ∧ (frame0.kind != 0 && (s.planeOf frame0).skipped 0) = false ∧ (s.emitId frame0 0).isSome = true) ∧
    (let f := { frame0 with lrec := rec0, kind := 1, pos := 5 }
     ((f.kind != 0 && ((stFrame f).planeOf f).skipped 5) = true ∧ ((stFrame f).planeOf f).audited 0 = false ∧ f.pos < f.lrec.limit)) ∧
    (let f := { frame0 with pos := 16 }
     f.lrec.limit ≤ f.pos ∧ ((stFrame f).deliverAll (((stFrame f).walkPorts f).map (fun e => (e.1, e.2.1, State.walkTok f .eos 0)))).isSome = true) ∧
    (let f := { frame0 with walk := .placing }
     let s := { stFrame f with ctxs := [{ id := ctx0, exist := true, placed := [0] }] }
     (s.ctx f.ctx).placed.contains f.graph = true ∧ s.frame? fk = some f) ∧
    (let f := { frame0 with walk := .loadingArgs, argBlock := some [7] }
     (stFrame f).frame? fk = some f) ∧
    (let s := { stFrame { frame0 with walk := .placing } with cur := some (.graph ctx0 0) }
     lookup 0 (s.ctx ctx0).placing = none ∧ (s.ctx ctx0).placed.contains 0 = false ∧ s.graph? 0 0 = some graph0 ∧
       s.frames.any (fun f => f.ctx == ctx0 && f.graph == 0 && f.walk == .placing) = true) ∧
    (let z : Ctl := { code := 0x0C, ctx := some ctx0 }
     let s := { stFrame frame0 with ctl := [z], cur := some .device }
     s.takeCtl 0x0C = some (z, { s with ctl := [] }) ∧ ({ s with ctl := [] } : State).frame? ⟨0, 0⟩ = some frame0) ∧
    ((stFrame frame0).allCounted frame0 = true ∧ frame0.infills = false ∧ frame0.phaseOf = .live) ∧
    (let f := { frame0 with phaseOf := .census }
     let z : Census := { seq := 3, part := 0, tag := 0, frame := some fk, sweep := 1, prev := some (0, 0) }
     let s := { stFrame f with censuses := [z] }
     s.censuses.find? (fun z => z.frame == some fk) = some z ∧ (s.censusNext z.seq).2.1 = some 0) ∧
    (let f := { frame0 with walk := .done }
     let s := { stFrame f with graphs := [graphP] }
     s.graph? 0 0 = some graphP ∧ f.phase < graphP.phaseStarts.length ∧ s.phaseOver f (s.phasePages f graphP f.phase) = true ∧ s.holdAsked ctx0 = false) ∧
    (let f := { frame0 with lrec := { rec0 with kernel := 1 }, kind := 1, infill := { asked := 1 } }
     f.infill.waitRound = none ∧ (stFrame f).infillWants f = true ∧ (stFrame f).infillTurn f = true ∧ (stFrame f).pageRuns (State.infillPage f) = true) ∧
    (let f := { frame0 with lrec := { rec0 with kernel := 3 }, infill := { due := true, n := 1, sc := 1 } }
     (stFrame f).frame? fk = some f ∧ f.updates ≤ f.infill.updates ∧ f.infill.n ≠ 0 ∧ sumZero f.lrec.kernel f.infill.sc = false) := by decide +kernel

/-- The partition's guest 0 in its turn; a slice that runs, one that is past. -/
def stGuest (f : Guest → Guest) (p : Partition) : State := { stFrame frame0 with guests := [f { id := guest0 }], parts := [p], cur := some (.guest guest0) }
theorem wit_QueuesAndSlicesAreServed :
    (let z : Ctl := { code := 0x01 }
     let s := { stGuest (fun g => { g with queues := [{ num := 0 }] }) slotPart with ctl := [z], cur := some .device }
     s.takeCtl 0x01 = some (z, { s with ctl := [] }) ∧ (s.guest guest0).queues.any (fun q => q.num == 0) = true) ∧
    (let s := stGuest (fun g => { g with queues := [{ num := 0, ctl := 0x80000000, shown := 9 }] }) slotPart
     s.serveTagWaiter guest0 = none ∧ (s.guest guest0).queues.find? (fun q => decide (s.lookQueue guest0 q = .stop)) = some { num := 0, ctl := 0x80000000, shown := 9 }) ∧
    (let s := stGuest id slotPart
     (s.guest guest0).queues.find? (fun q => decide (s.lookQueue guest0 q = .stop)) = none ∧ (s.part 0).slice = .running ∧
       (s.part 0).sliceGuest = guest0.slot ∧ (s.part 0).frozen = false ∧ (s.part 0).exporting = false) ∧
    (let s := stGuest id { slotPart with tagWaiters := [(0, 0)] }
     (s.serveTagWaiter guest0).isSome = true) ∧
    (let q : Queue := { num := 0, waiting := some (rec0, none, 0, 0) }
     let s := { stGuest (fun g => { g with queues := [q] }) slotPart with cur := some (.queue guest0 0), cycle := 2300000 }
     (s.queue guest0 0).waiting = some (rec0, none, 0, 0) ∧ (s.queue guest0 0).tagWait = false ∧ 0 + 1000 * Config.cyclesPerMicrosecond ≤ s.cycle.toNat) ∧
    (let s := { stGuest id { slotPart with sliceEnd := 5 } with cur := some (.unit 0) }
     (∀ x ∈ s.ctxs, x.id.part = 0 → x.runsOn = none) ∧ s.cycle.toNat < (s.part 0).sliceEnd.toNat ∧ (s.part 0).exist = true) ∧
    (let s := { stGuest id { slotPart with slice := .past } with cur := some (.unit 0), frames := [{ frame0 with held := true }] }
     (s.part 0).slice = .past ∧ (∀ x ∈ s.guestCtxs 0 0, State.mustYield x = true → s.ctxYielded x.id = true) ∧ s.guestCtxs 0 0 ≠ []) ∧
    (let s := { stGuest id { slotPart with slice := .past } with cur := some (.unit 0) }
     (s.ctxs.head?).map State.mustYield = some true ∧ s.ctxYielded ctx0 = false) := by decide +kernel

theorem wit_guest_commands_in_a_slice :
    (let s := { stGuest id { slotPart with slice := .past, watchdog := 0 } with cycle := 1 }
     (s.part 0).watchdogRaised = false ∧ (s.part 0).watchFrom.toNat + (s.part 0).watchdog * Config.cyclesPerMicrosecond * 100 < s.cycle.toNat) ∧
    (let s := stGuest (fun g => { g with pendingCmds := [(0x01000000, 0)] }) slotPart
     s.gcmdHead guest0 0x01 = some (0x01000000, 0) ∧ (s.ctx (State.gcmdCtx guest0 0x01000000)).exist = true ∧
       (s.suspendNow ctx0).1 = false ∧ (({ s with frames := [] } : State).suspendNow ctx0).1 = true) ∧
    (let s := stGuest (fun g => { g with pendingCmds := [(0x02000000, 0)] }) slotPart
     s.gcmdHead guest0 0x02 = some (0x02000000, 0)) ∧
    (let s := stGuest (fun g => { g with pendingCmds := [(0x03000000, 0)] }) slotPart
     s.gcmdHead guest0 0x03 = some (0x03000000, 0) ∧ (s.ctx (State.gcmdCtx guest0 0)).exist = true) := by decide +kernel

/-! ### Statements: engines, fault rings, registers -/

/-- Stage 1 with one 16 GiB leaf that is double-backed, over stage 2 with one 16 GiB leaf. -/
def engTables : List Host.Cell :=
  [(0x10000, 0x12033), (0x12000, 0x1402B), (0x14000, 0x83D)].foldl (fun m e => Memory.writeNat m e.1 8 e.2) leafTables
def msg0 : Msg :=
  { id := 3, code := 1, scope := .region, tag := 0, seq := 0, ctx := ctx0, page := key, region := 0, round := 0, rkind := 0, rdst := 0
    opnds := [0x40000, 0x30000, 0x40], phase := 2, engine := some 0 }
def stEng (m : Msg) : State :=
  { one { page0 with st := .resident, image := Memory.writeNat (cellsAt 8 1 1) 0x40 1 3 } (.unit 3) with
    dram := engTables, parts := [{ slotPart with s2root := 1 }], ctxs := [{ id := ctx0, exist := true, s1root := 0x10001 }], msgs := [m], graphs := [graph0]
    dev := { State.reset.dev with blocks := [.granted 0] } }
def reads : Except (Nat × State) (Option (List Byte) × State) → Bool
  | .ok (some _, _) => true
  | _ => false
/-- A translation of the engines succeeds with a double-backed leaf. -/
def studies : Eng → Bool
  | .ok x _ => bitsOf x.leaf1 11 1 == 1
  | _ => false

/-- Four elements of 4 bytes gathered through the index list at 0x30000. -/
def msgG : Msg := { msg0 with opnds := [0x40000, 0x38000, 0x30000, 0x400000004] }
/-- A 4 KiB leaf of stage 2, stage 1 off, a frame of another channel in the placement list. -/
def stMig : State :=
  { stEng { msg0 with opnds := [0, 0, 0x1000] } with
    dram := [(0x10000, 0x12033), (0x12000, 0x1402B), (0x14000, 0x1601B), (0x16000, 0x1700B), (0x17000, 0x18003),
      (0x18000, 0x2003D)].foldl (fun m e => Memory.writeNat m e.1 8 e.2) []
    ctxs := [{ id := ctx0, exist := true }], parts := [{ slotPart with s2root := 0x10001, placement := [0x30] }] }
theorem wit_EnginesServeTheirMessages :
    ((stEng msg0).msg? 3 = some msg0 ∧ reads ((stEng msg0).engineRead msg0 0x30000 64 false) = true ∧
      studies ((stEng msg0).engineXl msg0 .engineWrite 0x40000 false) = true ∧ msg0.op 0 % 64 = 0 ∧ msg0.op 1 % 64 = 0 ∧ msg0.op 2 = 64) ∧
    (({ msg0 with opnds := [0x40, 0x30, 0x40] } : Msg).op 1 % 64 ≠ 0 ∧ ({ msg0 with opnds := [0x44, 0, 8] } : Msg).op 0 % 8 ≠ 0) ∧
    (gatherBad msgG (msgG.op 0) (msgG.op 1) = false ∧ gatherBad msgG (msgG.op 1) (msgG.op 0) = false ∧ gatherSize msgG = 4 ∧
      reads ((stEng msgG).engineRead msgG 0x30000 4 false) = true ∧ reads ((stEng msgG).engineRead msgG 0x38000 4 true) = true ∧
      gatherBad msg0 0 0 = true) ∧
    (State.swapBad msg0 = true ∧ State.swapBad { msg0 with opnds := [0x40000, 0, 0x1000] } = false ∧
      ((stEng msg0).studiesIn { msg0 with opnds := [0x40000, 0, 0x1000] }).toOption = some []) ∧
    (let m := { msg0 with waits := some 9 }
     let s := { stEng m with invals := [{ inval0 with drains := [(20, drainTok 9)] }] }
     s.invals.find? (fun v => v.id == 9) = some { inval0 with drains := [(20, drainTok 9)] } ∧ (∀ x ∈ s.scopeMses m, x ∉ [20])) ∧
    (((stEng msg0).page? key).map (fun p => (p.nmem, (p.desc 0).nkind)) = some (1, 3)) ∧
    ((stEng msg0).graph? 0 0 = some graph0 ∧ 1 + 1 ≤ Memory.readNat graph0.header 4 2) ∧
    ((stMig.migratePage ctx0 0 0).isSome = true) ∧
    ((queryResult (stEng msg0) msg0 0).isSome = true ∧ (queryResult (stEng msg0) msg0 7).isSome = true ∧ queryResult (stEng msg0) msg0 8 = none) ∧
    (let m := { msg0 with phase := 3, rkind := 2 }
     (((stEng m).deliverReply key true 0 (dat 0) 0).isSome = true ∧ ((stEng m).ctx ctx0).frozen = false ∧ ((stEng m).page? key).isSome = true)) := by decide +kernel

/-- Guest 0's fault ring: 16 entries at guest-physical 0x50000. -/
def rec1 : FaultRec := { cause := 0x21, ctx := some ctx0 }
def ring0 : Ring := { id := .guest guest0, base := 0x50000, ctl := 0x80000004, waiting := [rec1] }
def stRing (r : Ring) : State := { stEng msg0 with rings := [r], cur := some (.record (.guest guest0) 0) }
theorem wit_FaultRecordsAreWrittenAndResolved :
    ((stRing ring0).ring (.guest guest0) = ring0 ∧ ring0.enabled = true ∧ ring0.room = true ∧
      ((stRing ring0).ringWrite (.guest guest0) ring0.place (rec1.bits ring0.nextNum)).isSome = true) ∧
    (let r := { ring0 with head := 16, waiting := [rec1, { rec1 with advisory := true }] }
     r.room = false ∧ r.waiting.find? FaultRec.advisory = some { rec1 with advisory := true }) ∧
    (let r := { ring0 with head := 16 }
     r.room = false ∧ (∀ g ∈ r.waiting, g.advisory = false)) ∧
    ((stRing { ring0 with outstanding := [rec1] }).outstanding? (.guest guest0) 0 = some rec1 ∧ (stRing ring0).outstanding? (.guest guest0) 0 = none) ∧
    ((stFrame frame0).clockPaused ctx0 = false ∧ frame0.pausedAt = none ∧
      (stFrame frame0).cycle.toNat < frame0.lastFire.toNat + ((stFrame frame0).part 0).foghornMs * 1000 * Config.cyclesPerMicrosecond) ∧
    (let s := { stFrame frame0 with ctxs := [{ id := ctx0, exist := true, dbg := .stopped }] }
     s.clockPaused ctx0 = true ∧ (s.ctx ctx0).frozen = false) ∧
    (let s := { State.reset with cycle := 4194304 }
     s.dev.logTimeAt.toNat + 2 ^ 22 ≤ s.cycle.toNat ∧ State.reset.cycle.toNat < State.reset.dev.logTimeAt.toNat + 2 ^ 22) := by decide +kernel

theorem wit_RegisterWritesTakeEffect :
    (∃ r, regAt 0x10 = some r) ∧ (∃ o r, regAt o = some r ∧ r.size = 8) ∧ regAt 0xFFFFF = none ∧
    ((stEng msg0).ctx ctx0).exist = true ∧ ((stEng msg0).ctx ⟨0, 0, 1⟩).exist = false ∧ 1 < Config.contextsPerGuest ∧
    ((stEng msg0).part 0).exist = true ∧ ((stEng msg0).part 1).exist = false ∧
    (State.reset.dev.lbCtl.getLsbD 30 = false) :=
  ⟨some_of (by decide +kernel), ⟨0x100000, _, rfl, by decide +kernel⟩, by decide +kernel⟩

/-! ### Statements: hypervisor, guests, debug, health, scans -/

/-- A command of the hypervisor for partition 0 with this argument. -/
def stCmd (op : Word) (arg : DWord) (p : Partition) : State :=
  { State.reset with
    parts := [p], cur := some (.unit 0)
    dev := { State.reset.dev with hbusy := true, hcmd := op <<< 24, harg := arg, cast := List.replicate 64 0x80000000 } }
def withBlocks (s : State) (bs : List BlockState) : State := { s with dev := { s.dev with blocks := bs } }
def area0 : ExportArea := { area := 0x7000, part := slotPart, ctxs := [], graphs := [], pages := [], frames := [], guests := [] }
theorem wit_HypervisorCommandsAreServed :
    ((stCmd 3 0 slotPart).hcmdIs 0x03 0 = true ∧ ((stCmd 3 0 slotPart).part 0).exist = true ∧ (stCmd 2 0 slotPart).hcmdIs 0x02 0 = true) ∧
    ((stCmd 4 0 slotPart).hcmdIs 0x04 0 = true ∧ (stCmd 4 0 slotPart).dev.blocks[(0 : Nat)]? = some .free ∧
      (stCmd 4 46 slotPart).dev.blocks[(46 : Nat)]? ≠ some .free) ∧
    (let s := withBlocks (stCmd 5 0 slotPart) [.granted 0]
     s.hcmdIs 0x05 0 = true ∧ s.dev.blocks[(0 : Nat)]? = some (.granted 0) ∧ (s.donatedUsed 0) = [] ∧ (s.part 0).ovfBase = 0) ∧
    ((stCmd 5 0 slotPart).dev.blocks[(0 : Nat)]? = some .free ∧ (stCmd 9 0 slotPart).hcmdIs 0x09 0 = true ∧ (stCmd 6 0 slotPart).hcmdIs 0x06 0 = true ∧
      (stCmd 10 0 slotPart).hcmdIs 0x0A 0 = true) ∧
    (let s := stCmd 11 0x1000 { slotPart with quads := 1 }
     s.hcmdIs 0x0B 0 = true ∧ bitsOf s.harg 12 1 = 1 ∧ bitsOf (s.granule 0) 31 1 = 0 ∧ bitsOf (s.part 0).quads 0 1 = 1) ∧
    (let s := stCmd 11 0x1000 slotPart
     bitsOf (s.part 0).quads 0 1 = 0) ∧
    (let s := { stCmd 11 0 slotPart with granules := [(0, 0x80000000)] }
     bitsOf s.harg 12 1 = 0 ∧ bitsOf (s.granule 0) 31 1 = 1 ∧ bitsOf (s.granule 0) 28 3 = 0 ∧ s.granuleBusy 0 = false ∧
       ({ s with reqs := [{ req0 with addr := 0 }] } : State).granuleBusy 0 = true ∧ bitsOf ((stCmd 11 0 slotPart).granule 0) 31 1 = 0) ∧
    ((stCmd 12 8 slotPart).hcmdIs 0x0C 0 = true ∧ bitsOf (stCmd 12 8 slotPart).harg 3 1 = 1 ∧ bitsOf (stCmd 12 5 slotPart).harg 0 3 = 5 ∧
      bitsOf (stCmd 12 6 slotPart).harg 0 3 = 6) ∧
    ((stCmd 13 0 slotPart).listBad 0 (stCmd 13 0 slotPart).listPage = false ∧
      (let s := { stCmd 13 0x1000 slotPart with dram := Memory.writeNat (cellsAt 0x1000 8 1) 0x1008 8 0x5000 }
       s.hcmdIs 0x0D 0 = true ∧ s.listPage = [0x5000] ∧ s.listBad 0 s.listPage = true ∧
         (withBlocks s [.granted 0]).listBad 0 (withBlocks s [.granted 0]).listPage = false)) := by decide +kernel

theorem wit_hypervisor_exports_and_creates :
    ((stCmd 15 0 slotPart).hcmdIs 0x0F 0 = true ∧ (stCmd 7 0 slotPart).hcmdIs 0x07 0 = true ∧ ((stCmd 7 0 slotPart).part 0).exporting = false) ∧
    (let s := stCmd 7 0 { slotPart with exporting := true }
     (s.part 0).exporting = true ∧ s.exportReady 0 = true) ∧
    (let s := { stCmd 8 0x7000 slotPart with exports := [area0] }
     s.hcmdIs 0x08 0 = true ∧ s.exports.find? (fun e => e.area == 0x7000) = some area0 ∧ s.frames = [] ∧ s.graphs = [] ∧
       (stCmd 8 0x7000 slotPart).exports.find? (fun e => e.area == 0x7000) = none) ∧
    (let s := { stCmd 1 0x1000 slotPart with parts := [], dram := cellsAt 0x1000 2 3 }
     (s.part 0).exist = false ∧ s.hcmdIs 0x01 0 = true ∧ s.devNat 0x1000 2 = 3 ∧ s.createBad 0 3 (s.devNat 0x1008 8 % 2 ^ 46) (s.devNat 0x1010 2) (s.devNat 0x1030 2) (s.devNat 0x1032 2) (s.devNat 0x1036 2) = false ∧
       s.createBad 0 1 0 0 0 0 0 = true ∧ s.createBad 0 3 0 0 255 0 0 = true ∧ s.createBad 0 3 0 0 256 1000 1000 = false ∧ s.createBad 0 3 0 0 0 1001 0 = true) ∧
    (let s := withBlocks (stCmd 5 0 slotPart) [.scrubbing (some 0)]
     s.dev.blocks[(0 : Nat)]? = some (.scrubbing (some 0)) ∧ s.dev.deadLines.find? (fun l => l / 2 ^ 25 == 0) = none) := by decide +kernel

/-- Guest 0 with a granule command and a residency command. -/
def stGn (cmd : DWord) (stat : Word) (q : List (Word × DWord × DWord)) : State :=
  { stEng msg0 with guests := [{ id := guest0, gnCmd := cmd, gnStat := stat, grQueue := q }], granules := [(0, 0x80800000)], cur := some (.guest guest0) }
theorem wit_GuestCommandsAreServed :
    (let s := stGn 0 0x80000000 []
     (s.guest guest0).gnStat.getLsbD 31 = true ∧ bitsOf (s.guest guest0).gnCmd.toNat 49 1 = 0 ∧ bitsOf (s.granule 0) 31 1 = 1 ∧
       bitsOf (s.granule 0) 28 3 = guest0.part ∧ bitsOf (s.granule 0) 24 2 = guest0.slot ∧ bitsOf (s.granule 1) 31 1 = 0) ∧
    (let s := stGn (2 ^ 49) 0x80000000 []
     bitsOf (s.guest guest0).gnCmd.toNat 49 1 = 1 ∧ bitsOf (s.granule 0) 23 1 = 1 ∧ s.granuleBusy 0 = false) ∧
    (let s := stGn 0 0 [(0x01000000, 0x8000, 0x9000)]
     (s.guest guest0).gnStat.getLsbD 31 = false ∧ s.residency? guest0 1 = some (ctx0, 0x8000, 0x9000) ∧ (s.ctx? ctx0).map Context.exist = some true ∧
       s.residency? guest0 2 = none) ∧
    (stGn 0 0 [(0x02000000, 0, 0)]).residency? guest0 2 = some (ctx0, 0, 0) := by decide +kernel

/-- A debug command of the context. -/
def stDbg (op : Word) (f : Context → Context) : State := stCtx (fun c => f { c with dbgCmd := op, res := 1 })
def win0 : UndoWindow := { num := 0, round := 0 }
theorem wit_DebugCommandsAct :
    (∀ op ∈ [1, 2, 3, 4, 5, 6, 7, 8, 9, 10, 11, 12], (stDbg (BitVec.ofNat 32 op <<< 24) id).dbgAsks ctx0 op = true) ∧
    (stDbg 0 id).dbgAsks ctx0 0x01 = false ∧
    (((stDbg 0x09000000 id).releaseBrks ctx0).ctx ctx0).dbg = .running ∧
    (let t := (stDbg 0x09000000 (fun c => { c with dbg := .stopped, undo := { on := true, windows := [win0] } })).releaseBrks ctx0
     (t.ctx ctx0).dbg = .stopped ∧ (t.ctx ctx0).undo.windows.findIdx (fun w => w.num == t.dbgArg ctx0) = 0 ∧ (t.ctx ctx0).undo.windows[(0 : Nat)]? = some win0 ∧
       ((t.ctx ctx0).undo.windows.drop 0).any UndoWindow.sealed = false ∧ win0.truncated = false ∧
       (((t.ctx ctx0).undo.records.filter (fun r => ((t.ctx ctx0).undo.windows.drop 0).any (fun v => v.num == r.window))).findSome? (t.recordBad ctx0)) = none) ∧
    (let t := (stDbg 0x09000000 (fun c => { c with dbg := .stopped, dbgArg0 := 1, undo := { on := true, windows := [win0] } })).releaseBrks ctx0
     (t.ctx ctx0).undo.windows[((t.ctx ctx0).undo.windows.findIdx (fun w => w.num == t.dbgArg ctx0))]? = none) ∧
    (let x := (stDbg 0x0A000000 (fun c => { c with dbg := .stopped, dbgArg0 := 2 })).ctx ctx0
     x.dbg = .stopped ∧ x.frozen = false ∧ x.stepsLeft = none ∧ x.dbgArg0.toNat ≠ 0) ∧
    (let s := stDbg 0x0B000000 (fun c => { c with dbg := .stopped, dbgArg0 := 0x500000 })
     State.partyWord ((s.ctx ctx0).dbgArg0.setWidth 32) ≠ 0 ∧ s.steppable ctx0 (State.partyWord ((s.ctx ctx0).dbgArg0.setWidth 32)) = false) := by decide +kernel

/-- Port 0 with a descriptor to send and one to fill. -/
def port0 : EthPort := { num := 0, part := some 0, tx := [{ addr := 0x1000, len := 64 }], rx := [{ addr := 0x2000, len := 64 }], gates := [(1, 100), (2, 100)] }
def stPort : State := { State.reset with cur := some (.unit 0), dev := { State.reset.dev with ports := [port0] } }
theorem wit_HealthEventsAct :
    (BitVec.ofNat 16 (95 * 16)).toInt = 95 * 16 ∧ (BitVec.ofNat 16 (110 * 16)).toInt = 110 * 16 ∧ (BitVec.ofNat 16 (95 * 16 - 1)).toInt < 95 * 16 ∧
    (∃ a b, outsideBand a b 3 = true ∧ outsideBand a b 6 = true) ∧ (480 ≤ State.reset.dev.plimit ∧ State.reset.dev.plimit < 481) ∧
    (let s := { stEng msg0 with guests := [{ id := guest0, vf := some 2 }] }
     s.guests.find? (fun g => g.vf == some 2) = some { id := guest0, vf := some 2 } ∧ s.guests.find? (fun g => g.vf == some 3) = none) ∧
    (State.reset.dev.powered = false ∧ bootImage State.reset.dev.firmware = some 1 ∧ bootImage [] = none) :=
  ⟨by decide +kernel, by decide +kernel, by decide +kernel, ⟨0, 0, by decide +kernel⟩, by decide +kernel⟩

/-- A TEST of region 1 asked from region 0; a scan in its phases; a region to be retired. -/
def msgT : Msg := { msg0 with code := 0x0B, region := 0, opnds := [2, 5, 0x40] }
def scan0 : Scan := { quad := 0, msg := 3, part := 0, ctx := ctx0, seed := 5, since := 0, held := [1] }
def stScan (c : Scan) : State := { stEng msgT with scans := [c], cur := some (.unit 0), cycle := 460000 }
theorem wit_ScansRepairsAndPullsAct :
    ((stEng msgT).msg? 3 = some msgT ∧ (stEng msgT).scans.find? (fun c => c.msg == 3) = none ∧
      ((List.range 4).filter (fun i => bitsOf (msgT.op 0) i 1 == 1)).map (fun i => 4 * 0 + i) = [1] ∧ msgT.op 2 % 64 = 0) ∧
    ((stScan scan0).scanHolders scan0 = [] ∧ (stScan scan0).scans.find? (fun c => c.quad == 0) = some scan0) ∧
    (({ scan0 with phase := 1 } : Scan).since.toNat + 200 * Config.cyclesPerMicrosecond ≤ (stScan { scan0 with phase := 1 }).cycle.toNat) ∧
    (let s := { stScan scan0 with pages := [{ page0 with st := .resident, region := some 1 }] }
     s.scanHolders scan0 ≠ [] ∧ scan0.since.toNat + 100 * Config.cyclesPerMicrosecond ≤ s.cycle.toNat ∧ (s.msg? 3).isSome = true) ∧
    (let s := { onPart (one { page0 with st := .pending } .device) { part1 with quads := 0, pending := [key] } (.unit 0) with
                  frames := [{ frame0 with prio := 7 }], scans := [scan0] }
     (s.part 0).pending.any (fun k => decide (s.pagePrio k = 7) && s.ctxServed k.ctx && decide (s.regionCount k.ctx < s.quotaMax k.ctx)) = true ∧
       s.freeRegions 0 = []) ∧
    (let s := { State.reset with dev := { State.reset.dev with retiring := [3], repairWrites := 1 } }
     3 ∈ s.dev.retiring ∧ s.pages.find? (fun p => p.region == some 3) = none ∧ 4 ∉ s.dev.retiring ∧ s.dev.repairWrites ≠ 0) ∧
    (let p := { slotPart with pullBits := [9], pulls := [(9, 3, 0)] }
     let s := { State.reset with parts := [p], cur := some (.units 0 9), cycle := 4600000 }
     9 ∈ (s.part 0).pullBits ∧ (s.part 0).frozen = false ∧ (s.part 0).pulls.find? (fun x => x.1 == 9) = some (9, 3, 0) ∧
       0 + 2000 * Config.cyclesPerMicrosecond ≤ s.cycle.toNat ∧ s.parts.any (fun p => p.pullBits.contains 9) = true ∧
       s.invals.any (fun v => v.part == 0 && v.collapse == some 9) = false) := by decide +kernel

/-! ### Statements: one step, frames -/

theorem wit_StepRunsTheDecodedWord :
    (let s := State.reset.withFetchWord 128 0x01004200010000000000000000000000
     s.agenda = [.party (.elem slotKey 0)] ∧ ((s.page? slotKey).map (fun p => read .elem (.ecw (p.ecwWord 0)))).isSome = true ∧
       ((s.page? slotKey).bind (fun p => read .elem (.ecw (p.ecwWord 0)))) = some (.add (.elem { ecw0 with qL := true, csrc := .slot, route0 := .egress 0 }))) ∧
    (let s := State.reset.withFetchWord 64 0x3000583000000019
     s.agenda = [.party (.actor slotKey 0 0)] ∧ ((s.page? slotKey).bind (fun p => (p.header? 0).bind (fun h => read h.site (.blk (p.insWord h 0))))) =
       some (.cmp (.block { blk0 with ri := true, t1 := .pred 3, imm := 0x19 }))) ∧
    (let s := State.reset.withFetchWord 64 0xC81C100000000000
     s.agenda = [.party (.island slotKey)] ∧ ((s.page? slotKey).map (fun p => p.dyn.island.phase)) = some .running) ∧
    (let s := State.reset.withFetchWord 128 0x89000000000000000000000000000000
     ((s.page? slotKey).bind (fun p => refused .elem (.ecw (p.ecwWord 0)))) = some 2) ∧ State.reset.agenda = [] := by decide +kernel

theorem wit_round_trips :
    WellFormed .elem (.add (.elem ecw2)) ∧ WellFormed user (.cmp (.block { blk0 with ri := true, t1 := .pred 3, imm := 0x19 })) ∧
    WellFormed .island (.isync isl0) ∧ read .elem (.ecw 0x01006000000000000000000000000000) = some (.add (.elem ecw2)) := by decide +kernel

theorem wit_MemoriesAreCanonical : (Memory.wf leafTables = true ∧ Memory.wf dram333 = true ∧ Memory.wf State.reset.dram = true) := by decide +kernel

theorem wit_frames :
    (statelessOp (.add (.elem ecw2))).isSome = true ∧ stLR.cur = some (.party (.elem key 0)) ∧ blockSt0.cur = some (.party (.actor key 0 0)) ∧
    (statelessOp (.add (.block blk0))).isSome = true ∧ stAcc.cur = some (.party (.elem key 0)) ∧
    (stHome [req0]).readyHeads (.tile 0) = [req0] ∧ req0.space = .sram ∧ req0.op = .store ∧ req0.ctx = req0.issuer.page.ctx ∧ 0 < req0.size := by decide +kernel

theorem wit_ImmediatesFillTheirLanes :
    blockArgs { blk0 with ri := true, imm := 0xFFFD } true true 0 0 firing0 = some ({ a := val 1, b := Val.plain (immWord .i32 0xFFFD), c := Val.plain 0, tag := 0 }, 0) ∧
    (immWord .i32 0xFFFD).toInt = -3 ∧ (∃ r p, ruleOf user (.add (.block blk0)) = some (.block blk0, r, p)) :=
  ⟨by decide +kernel, by decide +kernel, ⟨_, _, rfl⟩⟩

/-! ### One step -/

/-- The state behind a step, when there is one. -/
def after (o : Host.Outcome State Fault Refusal) : Option State :=
  match o with
  | .next t => some t
  | _ => none

/-- ADD.I32 of 0x7FFFFFFF and 1 in element 0 wraps and leaves at egress port 0 with its tag (R101). -/
theorem test_step_add_wraps :
    (after (exec (.add (.elem { ecw2 with route0 := .egress 0 })) (elemSt [(.L, dat 0x7FFFFFFF), (.R, dat 1)]))).map
      (fun t => (((t.dyn key).headTok (.out 0 false)).map (fun x => (x.pay, x.tag)), (t.dyn key).aflg)) = some (some (0x80000000, 0), 0) := by
  decide +kernel

/-- A store of four bytes reaches them, lowest byte first, for its context alone (R6, R300). -/
theorem test_step_store :
    (after (exec .homeArbitrate (stHome [req0]))).map
      (fun t => (t.byteAt .sram (some ctx0) 0x40, t.byteAt .sram (some ctx0) 0x43, t.byteAt .sram none 0x40)) = some (0x44, 0x11, 0) := by decide +kernel

/-- An element whose heads differ in tag stops under 0x36 (R39). -/
theorem test_step_skew :
    (after (exec (.add (.elem ecw2)) (elemSt [(.L, dat 4), (.R, { dat 5 with tag := 1 })]))).map
      (fun t => (((t.dyn key).elem 0).stopped, (t.ring (.guest guest0)).waiting.map FaultRec.cause)) = some (true, [0x36]) := by decide +kernel

/-! ### Statements: clauses at their boundaries -/

/-- The image word of an instruction. -/
def wordAt (i : Instr) : Nat :=
  match encode i with
  | some (.ecw w) => w.toNat
  | some (.blk w) => w.toNat
  | none => 0

theorem wit_single_head_clauses :
    ((stLRP.dyn key).qhead 0 .R = some (dat 0) ∧ stLRP.elemGate key 0 ecw3 0 = true ∧ ecw3.sckr.fails false = false ∧
      (∃ us, (stLRP.dyn key).qheads 0 (auxQueues ecw3) = some us ∧ us.all (fun u => u.tag == 0 && u.kind == .data) = true) ∧
      (elemSt [(.L, dat 7), (.R, dat 1)]).fedCue key 0 ecw2 = none ∧ ecw2.sckl.fails false = false) ∧
    (let e := { ecw0 with qL := true, x := 1 }
     bitsOf e.x.toNat 0 1 = 1 ∧ HeadFires .L e key 0 (elemSt [(.L, dat 4)]) (dat 4)) :=
  ⟨⟨by decide +kernel, by decide +kernel, by decide +kernel, ⟨_, rfl, by decide +kernel⟩, by decide +kernel⟩,
    by decide +kernel, headFires_of (by decide +kernel)⟩

/-- Block 0 with one emit port, on which its firing has written position 0. -/
def put0 : SlotWrite := { handle := 0, pos := 0, word := 0, wide := false, instr := 3, kind := .data, sc := false, tag := 0, value := 5, dep := {} }
def stPut : State :=
  one { key := key, st := .resident, image := emitImg
        dyn := { PageDyn.empty with actors := [{ block := 0, firing := some { firing0 with writes := [put0] } }] } } (.party (.actor key 0 0))
theorem wit_kind_of_an_emit_position :
    ((stPut.cbEntry? key 0 0).map CbEntry.out).getD false = true ∧ (stPut.firing? key 0).map (fun f => lastWrite f.writes) = some (some put0) := by decide +kernel

theorem wit_fence_conditions :
    stLR.pendOver {} = true ∧ blockSt0.pendOver { pend := blockSt0.lowerAccs key 0 0 } = true ∧ Scope.wide (scopeBits 3) = true := by decide +kernel

/-- An arrival at the queue of an unordered REDUCE, and a replay that lets another in first. -/
def unordW : Nat := wordAt (.reduce (.elem { ecw0 with qL := true, x := 4, md := 0, route0 := .egress 0 }))
def stFold (ch : List Choice) : State :=
  { one { key := key, st := .resident
          image := Memory.writeNat (Memory.writeNat (cellsAt 0x2C0 8 (2 ^ 63 + 2 ^ 48)) 0x400 16 unordW) 0x410 16 0x08004000000008000000000000000003
          dyn := { PageDyn.empty with fifos := [(.laneOut 0, [.tok (dat 1)])] } } (.place key (.laneOut 0)) with
    dev := { State.reset.dev with choices := ch } }
theorem wit_hop_clauses :
    (let p : Page := { key := key, st := .resident, image := cellsAt 0x400 16 unordW, dyn := PageDyn.empty }
     State.unordReducer p (.queue 0 .L) = some 0 ∧ State.unordReducer p (.egress 0) = none) ∧
    ((stFold []).foldArrival key (some (.laneOut 0)) (.queue 0 .L) (.tok (dat 1))).isSome = true ∧
    ((stFold [{ arb := (stFold []).regionByte key * 128, ctx := some ctx0, round := 0, input := 5 }]).foldArrival
      key (some (.laneOut 0)) (.queue 0 .L) (.tok (dat 1))) = none ∧
    (let s := stRoute [(.out 0 false, [.tok (dat 1)])] (.place key (.out 0 false))
     ∃ p, s.page? key = some p ∧ (nextPlaces p (.out 0 false)) ≠ [] ∧ (Item.tok (dat 1)).isKind .cue = false ∧
       (nextPlaces p (.out 0 false)).all (fun q => decide (State.unordReducer p q = none)) = true ∧
       (nextPlaces p (.out 0 false)).foldl (fun (x : Option State) q => x.bind (fun y => y.foldArrival key (some (.out 0 false)) q (.tok (dat 1)))) (some s) = some s) ∧
    (let s0 := stRoute [(.egress 0, [.tok (dat 1)])] (.part key 0)
     let s := { s0 with parts := [{ slotPart with wingChunks := 8 }], pages := s0.pages.map (fun (p : Page) => if p.key.lpn = 1 then { p with st := .absent } else p) }
     ∃ p c, s.page? key = some p ∧ s.page? { key with lpn := 1 } = some c ∧ c.st = .absent ∧ c.fold = none ∧ c.dyn.pend (.wing (p.pport 16)) = 0 ∧
       (Item.tok (dat 1)).weightless = false ∧ (s.modDyn key (fun d => d.pop (.egress 0))).wingRoom c (p.pport 16) (.tok (dat 1)) = true) ∧
    (let t : Token := { kind := .cue, tag := 0, pay := 0 }
     let s := stListen [] t (.place key (.out 0 false))
     t.pay = BitVec.ofNat 32 (s.ctx ctx0).round ∧ ((s.dyn key).actor 0).cut = false ∧ (s.listener? key 0).isSome = true) :=
  ⟨by decide +kernel, by decide +kernel, by decide +kernel, ⟨_, rfl, by decide +kernel⟩, ⟨_, _, rfl, rfl, by decide +kernel⟩, by decide +kernel⟩

/-- A handler's CB takes four words and the page's emit CB no more publications. -/
theorem wit_firing_clauses :
    (let f := { firing0 with fired := [0], writes := [put0] }
     let s := { one { key := key, st := .resident, image := emitImg
                      dyn := { PageDyn.empty with actors := [{ block := 0, firing := some f, cbs := [{ handle := 0, slots := [slot1] }] }] } } (.part key 0) with cycle := 1 }
     ∃ p h, s.page? key = some p ∧ s.header? key 0 = some h ∧ firingOver (insTable p h) f = true ∧
       (p.cbEntries h).all (fun c => if c.out then decide ((State.published p h f c).length ≤ s.freeSlots key 0 c)
         else decide (State.readAdvance p h f c ≤ (s.cb key 0 c.handle).visible.length)) = false) ∧
    trapMsg.accepts = false ∧ ((9 : Nat) < 128) :=
  ⟨⟨_, _, rfl, rfl, by decide +kernel⟩, rfl, by decide⟩

/-- A replay of round 0 whose cut found generator 0 of the page at position 0; the same generator before and behind that place. -/
def mark0 (k : Nat) : CutMark := { round := 0, gens := [((key, 0, 0), (k, none, false))] }
def stReplay (k : Nat) : State :=
  { stNode 1 false [gen0] [] with
    cur := some (.ctx ctx0)
    ctxs := [{ id := ctx0, exist := true, dbg := .stepping, stepsLeft := some 1, removed := 1, marks := [mark0 k] }] }
theorem wit_round_clauses :
    ((stReplay 0).replayMark ctx0 = some (mark0 0) ∧ (stReplay 0).marksReached ctx0 (mark0 0) = true ∧
      (stReplay 2).replayMark ctx0 = some (mark0 2) ∧ (stReplay 2).marksReached ctx0 (mark0 2) = false ∧
      (stReplay 0).genHeld key 0 gen0 = true) ∧
    ((stCtx (fun c => { c with wantClose := true })).replayMark ctx0 = none ∧ ((stCtx id).ctx ctx0).wantClose = false) ∧
    (let x := (stCtx (fun c => { c with close := some { round := 0, reported := true }, undo := fullLog, stalled := true })).ctx ctx0
     x.stalled = true ∧ (x.undo.on && x.undo.stall && x.undo.full 1) = true) ∧
    (let s := stCtx (fun c => { c with voidFrom := some 0 })
     s.firingWork ctx0 = none ∧ (s.ctx ctx0).voidSeen = none) ∧
    (let s := { blockSt0 with ctxs := [{ id := ctx0, exist := true, voidFrom := some 0 }], cur := some (.ctx ctx0) }
     s.firingWork ctx0 = some 1 ∧ (s.ctx ctx0).voidSeen ≠ some 1) ∧
    (let s := { blockSt0 with ctxs := [{ id := ctx0, exist := true, voidFrom := some 0, voidSeen := some 1 }], cur := some (.ctx ctx0) }
     s.firingWork ctx0 = (s.ctx ctx0).voidSeen) ∧
    (let x := (stCtx (fun c => { c with close := some { round := 0 }, voidFrom := some 1 })).ctx ctx0
     x.close = some { round := 0 } ∧ x.voidFrom = some 1) ∧
    ((stCtx id).ctx ctx0).frozen = false := by decide +kernel

/-- A request that waits for its port queue, one that a replay holds back, one whose response is due. -/
theorem wit_home_clauses :
    (let s := stHome [{ req0 with phase := .entering }]
     ((s.letIn (.tile 0) 0).joinClose (.tile 0)).readyHeads (.tile 0) = [{ req0 with entered := s.cycle }]) ∧
    (let s := stHome [req0]
     ((s.letIn (.tile 0) 0).joinClose (.tile 0)).readyHeads (.tile 0) = [req0] ∧ s.replayLets (.tile 0) req0 = true ∧ req0.needClose = false) ∧
    (let s := stHome [req0]
     ({ s with dev := { s.dev with choices := [{ arb := State.arbOf (.tile 0), ctx := some ctx0, round := 0, input := 9 }] } } : State).replayLets (.tile 0) req0 = false) ∧
    (let s := stHome [{ req0 with entered := 5 }, req1]
     ((s.letIn (.tile 0) 0).joinClose (.tile 0)).readyHeads (.tile 0) = [{ req0 with entered := 5 }, req1] ∧ s.replayLets (.tile 0) req1 = true) ∧
    (let r := { req0 with phase := .done }
     let s : State := { stLR with reqs := [r] }
     s.atHead r = true ∧ r.closing = none) ∧
    (inval0.publish = false ∧ (stInval inval0).reqs = []) ∧
    (let s : State := { stLR with homeWrites := [hw0] }
     s.windowHolds hw0.space hw0.addr hw0.bytes.length = false) := by decide +kernel

/-- A read generator that has to be asked no further, a write generator that a marker stops, an EOS in a section's input lane. -/
def laneImg : List Host.Cell :=
  Memory.writeNat (Memory.writeNat (cellsAt 0x0A 1 1) 0x1400 16 (0xA2 * 2 ^ 120 + 2 ^ 105)) 0x400 16
    (wordAt (.add (.elem { ecw2 with route0 := .lane 0 })))
theorem wit_generator_and_section_clauses :
    (let g := { gen0 with returned := 4 }
     let s := stNode 2 false [g] []
     let d := s.nodeDesc key 0
     min ((d.total + max 1 d.winsz - 1) / max 1 d.winsz) ((g.k + d.perEmission - 1) / max 1 d.winsz + d.wincnt) ≤ g.returned) ∧
    (let z : Ctl := { code := 0x02, tag := 0, operand := 1, ctx := some ctx0, page := some key }
     let s : State := { stSec { IslandState.empty with armq := [0] } with ctl := [z] }
     s.ctl.find? (fun z => z.code == 0x02 && z.page == some key) = some z ∧
       (let u : State := { s with ctl := s.ctl.erase z }
        u.pageRuns key = true ∧ ∃ p, u.page? key = some p ∧ u.armHeld key p = false ∧ u.armTag key p = some 0 ∧
          u.dbgAllows ctx0 ((Party.island key).identity u) 0 = true ∧ u.stepAllows ctx0 p.islandHeader.step = true)) ∧
    (let s := stSec { IslandState.empty with phase := .running }
     s.ctl.find? (fun z => z.code == 0x02 && z.page == some key) = none ∧ (s.dyn key).island.phase ≠ .idle) ∧
    (let s : State := one { key := key, st := .resident, image := laneImg
                            dyn := { PageDyn.empty with island := { IslandState.empty with phase := .ending }, fifos := [(.laneIn 0, [.tok eos])] } } (.page key)
     ∃ p, s.page? key = some p ∧ (State.fedLanes p).find? (fun l => !p.dyn.island.eosTaken.contains l) = some 0 ∧ (s.laneHead key 0).1 = some (.tok eos) ∧ (Item.tok eos).tag? = some 0 ∧ (Item.tok eos).isKind .eos = true) :=
  ⟨by decide +kernel, ⟨by decide +kernel, by decide +kernel, ⟨_, rfl, by decide +kernel⟩⟩, by decide +kernel, ⟨_, rfl, by decide +kernel⟩⟩

/-- A page that the configuration cache holds; one that must wait to leave; one that cannot be saved; a fold in its turn. -/
theorem wit_load_hits :
    (let s := stLoad [] false
     let t : State := { s with dev := { s.dev with configCache := [{ die := 0, part := 0, graph := 0, lpn := 0, used := 0 }] } }
     t.dev.configCache.any (State.isImage 0 0 0 (imgNat [] 2 2)) = true ∧ s.dev.configCache.any (State.isImage 0 0 0 0) = false ∧ (s.ctx ctx0).frozen = false) := by decide +kernel
theorem wit_page_waits_to_leave :
    (let d := { PageDyn.empty with actors := [{ block := 0, firing := some firing0 }] }
     State.settled { page0 with st := .stopping, dyn := d } = false) := by decide +kernel
def pageR : Page := { page0 with st := .resident, region := some 3 }
theorem wit_page_cannot_be_saved :
    (let s := onPart (one pageR .device) { part1 with saveAllow := 0 } (.page key)
     pageR.fold = none ∧ s.page? pageR.key = some pageR ∧
       (0 < Config.snapshotFrames (State.stored pageR.dyn) → (s.framePool 0 (State.pageDie pageR)).length < Config.snapshotFrames (State.stored pageR.dyn))) :=
  ⟨rfl, rfl, id⟩
theorem wit_paging_clauses :
    ((onPart (one page0 .device) part1 (.unit 0)).framesFree 0 = 0) ∧
    (let s := onPart (one page0 .device) { part1 with signals := [], asked := [(key, 0)] } (.unit 0)
     (s.part 0).signals ++ (s.part 0).asked.map Prod.fst = [key]) ∧
    (let s := { onPart (one { page0 with st := .resident, region := some 0 } .device) part1 (.page key) with cycle := 4600 }
     (s.page? key).map s.eligible = some true ∧ s.scans = []) ∧
    (let s := onPart (one { page0 with st := .pending } .device) { part1 with pending := [key] } (.unit 0)
     let t := s.modCtx ctx0 (fun c => { c with quota := 0 })
     t.nextPending ctx0 = some key ∧ t.quotaMax ctx0 = 0 ∧ s.quotaMin ctx0 = 0) := by decide +kernel

/-- A frame that a replayed cut holds, one of phase 0 that is over, a section of its tag armed. -/
theorem wit_walk_is_held :
    (let s := { stFrame frame0 with ctxs := [{ id := ctx0, exist := true, dbg := .stepping, stepsLeft := some 1, removed := 1, marks := [{ round := 0, walks := [(0, (0, none, false))] }] }] }
     s.walkHeld frame0 = true ∧ (stFrame frame0).walkHeld frame0 = false) := by decide +kernel
theorem wit_walk_waits_for_a_close :
    (let f := { frame0 with walk := .waitClose 0 }
     let s := { stFrame f with ctxs := [{ id := ctx0, exist := true, round := 1 }] }
     s.frame? fk = some f ∧ 0 < (s.ctx f.ctx).round) := by decide +kernel
def pageArmed : Page := { islandPage 0 with dyn := { PageDyn.empty with island := { IslandState.empty with phase := .running, tag := 0 } } }
theorem wit_section_of_the_tag :
    (stFrame frame0).sectionArmed frame0 = false ∧ ({ stFrame frame0 with pages := [pageArmed] } : State).sectionArmed frame0 = true := by decide +kernel
def stPhase : State :=
  { stFrame { frame0 with walk := .done } with
    frames := [{ frame0 with walk := .done }, { frame0 with key := ⟨0, 1⟩ }]
    graphs := [graphP]
    ctl := [{ code := 0x0A, ctx := some ctx0, tag := 0, operand := 1 }] }
theorem wit_phase_is_released :
    stPhase.ctl.any (fun z => z.code == 0x0A && z.ctx == some ctx0 && z.tag == (0 : Tag)) = true ∧ stPhase.holdAsked ctx0 = false ∧
    (let f := { frame0 with walk := .done }
     (((({ stPhase with ctl := [] } : State).releasePhase f graphP (stPhase.phasePages f graphP 0)).frame? fk).map Frame.phase) = some 1) := by decide +kernel
theorem wit_hold_is_asked : ({ stFrame frame0 with parts := [{ slotPart with exporting := true }] } : State).holdAsked ctx0 = true := by decide +kernel
theorem wit_placement_ends :
    (let s := { stFrame { frame0 with walk := .placing } with ctxs := [{ id := ctx0, exist := true, placing := [(0, [9])] }] }
     lookup 0 (s.ctx ctx0).placing = some [9] ∧ s.invals.any (fun v => [9].contains v.id) = false ∧
       ({ s with invals := [inval0] } : State).invals.any (fun v => [9].contains v.id) = true) := by decide +kernel

/-- A slice past its end with a second guest to run, one that closes, one that the watchdog has not caught. -/
def stSlice (p : Partition) : State :=
  { stGuest id p with cur := some (.unit 0), guests := [{ id := guest0 }, { id := ⟨0, 1⟩ }], ctxs := [{ id := ctx0, exist := true, weight := 1 }, { id := ⟨0, 1, 0⟩, exist := true }] }
theorem wit_slice_clauses :
    (let s := stGuest (fun g => { g with pendingCmds := [(0x02000000, 0)] }) slotPart
     (s.ctx (State.gcmdCtx guest0 0x02000000)).exist = true) ∧
    (let s := stSlice { slotPart with slice := .past }
     (s.part 0).frozen = false ∧ (s.part 0).exist = true ∧ s.ctxs.all (fun x => decide (x.runsOn = none)) = true ∧
       (s.guestCtxs 0 0).any (fun x => State.mustYield x && !s.ctxYielded x.id) = true) ∧
    (((stSlice { slotPart with slice := .past, watchdogRaised := true }).part 0).watchdogRaised = true) := by decide +kernel
theorem wit_slice_is_past :
    (let s := { stSlice { slotPart with gslice := [0x80000064, 0x80000064, 0, 0] } with frames := [{ frame0 with ctx := ⟨0, 1, 0⟩ }], cycle := 5 }
     (s.part 0).slice = .running ∧ (s.part 0).sliceEnd.toNat ≤ s.cycle.toNat ∧ (s.sliceOrder 0).any (fun n => n != (s.part 0).sliceGuest) = true) := by decide +kernel

/-- An understudy of the destination; one whose frame holds an image; a swap that waits for acknowledgements; a page to migrate. -/
def study0 : Understudy := { ctx := ctx0, space := .dram, frame := 0x40, va := 0x40000, store := 0x99, since := 0 }
def stStudy (m : Msg) : State := { stEng m with understudies := [study0] }
/-- The engine may write the destination that translates to this; its frame is an image's. -/
def takesDest (part : Nat) : Eng → Bool
  | .ok x t => bitsOf x.leaf1 11 1 == 1 && !t.imageFrame (x.pa / 4096) && !(t.part part).pullBits.contains (x.pa / 4096) &&
      !t.collapsing part (x.pa / 4096) && !t.replicated part (x.pa / 4096) && (t.studyOf x.space (x.pa / 4096)).isSome
  | _ => false
def onImage : Eng → Bool
  | .ok x t => x.space == .dram && t.imageFrame (x.pa / 4096)
  | _ => false
/-- A page translates to a frame of device memory that need not be pulled. -/
def inPlace (s : State) : Except XlFault Xl → Bool
  | .ok x => !(s.part 0).pullBits.contains (x.pa / 4096) && x.space == .dram
  | .error _ => false
theorem wit_engine_destination :
    takesDest 0 ((stStudy msg0).engineXl msg0 .engineWrite 0x40000 false) = true ∧
    onImage (({ stStudy msg0 with graphs := [{ graph0 with frames := [0x40] }] } : State).engineXl msg0 .engineWrite 0x40000 false) = true ∧
    State.coversPage 0x40000 0x1000 0x40000 = true := by decide +kernel
theorem wit_engine_swap :
    (let m := { msg0 with opnds := [0x40000, 0, 0x1000] }
     ((stStudy m).studiesIn m).toOption = some [study0] ∧ m.waits = none) ∧
    (let m := { msg0 with waits := some 9, acks := [24] }
     m.acks ≠ [] ∧ m.waits = some 9) := by decide +kernel
theorem wit_engine_migrate :
    (let m := { msg0 with opnds := [0, 0, 0x1000] }
     m.op 0 % 4096 = 0 ∧ m.op 2 % 4096 = 0 ∧ m.op 1 % 32 < 24 ∧ m.waits = none ∧ m.pos < m.op 2 ∧ ({ m with pos := 0x1000 } : Msg).op 2 ≤ 0x1000) ∧
    inPlace stMig (stMig.walkAll { id := stMig.nextId, ctx := ctx0, va := 0, use := .engineRead } 128) = true ∧
    isOk ((stWalk walk0 slotPart).walkAll { id := (stWalk walk0 slotPart).nextId, ctx := ctx0, va := 0, use := .engineRead } 128) = false ∧
    (stMig.unreadable msg0 0 .dram (stMig.storeOf none .dram 0x20 * 4096) 4096).1 = none ∧
    (({ stMig with dev := { stMig.dev with poisoned := [0x20] } } : State).unreadable msg0 0 .dram 0x20000 4096).1 = some 0x2B := by decide +kernel
theorem wit_engine_replies :
    (let m := { msg0 with phase := 3 }
     m.voided = false ∧ ({ m with sendw := some (0, 1) } : Msg).sendw = some (0, 1) ∧ m.rkind = 0 ∧ m.cause = 0 ∧ ({ m with cause := 0x3F } : Msg).cause ≠ 0) ∧
    ((stEng msg0).page? key).isSome = true := by decide +kernel

/-- A frame whose clock was paused, one whose context is frozen; a full ring without an advisory. -/
theorem wit_clock_clauses :
    (let f := { frame0 with pausedAt := some 3 }
     (stFrame f).clockPaused ctx0 = false ∧ ((stFrame f).ctx ctx0).frozen = false ∧ f.pausedAt = some 3) ∧
    (({ stFrame frame0 with ctxs := [{ id := ctx0, exist := true, frozen := true }] } : State).ctx ctx0).frozen = true ∧
    (let s := { stFrame frame0 with cycle := 2 ^ 63 }
     frame0.lastFire.toNat + (s.part 0).foghornMs * 1000 * Config.cyclesPerMicrosecond ≤ s.cycle.toNat) := by decide +kernel

/-- BRKs that a rewind lets go first, one that is not over, one that is. -/
theorem wit_rewind_clauses :
    (let s := stDbg 0x09000000 (fun c => { c with dbg := .stopped, brks := [.elem key 0] })
     (s.ctx ctx0).dbg = .stopped ∧ (s.ctx ctx0).brks ≠ []) ∧
    (let s0 := stDbg 0x09000000 (fun c => { c with dbg := .stopped })
     let s := withTag s0 { tag := 0, acc := some (val 7) } none
     let w := State.partyWord ((Party.elem key 0).identity s)
     s.brkOver ctx0 w = false ∧ s0.brkOver ctx0 w = true) ∧
    (let s := stDbg 0x09000000 (fun c => { c with dbg := .frozen, frozen := true, undo := { on := true, windows := [win0] } })
     (s.ctx ctx0).frozen = true ∧ (s.ctx ctx0).brks = [] ∧ (s.ctx ctx0).released = []) ∧
    (({ win0 with sealed := true } : UndoWindow).sealed = true ∧ ({ win0 with truncated := true } : UndoWindow).truncated = true) ∧
    ((stDbg 0x0B000000 (fun c => { c with dbg := .stopped })).ctx ctx0).stepParty = none := by decide +kernel

/-- A region to be retired: its page at rest, stopping, loading, with an armed section. -/
def stRetire (p : Page) : State :=
  let s := onPart (one { p with region := some 3 } .device) { part1 with saveAllow := 64 } (.unit 3)
  { s with dev := { s.dev with retiring := [3] } }
theorem wit_retire_clauses :
    (∀ st ∈ [PageState.resident, .stopping, .loading], ((stRetire { page0 with st := st }).pages.find? (fun p => p.region == some 3)).map Page.st = some st) ∧
    (stRetire pageR).groupArmed pageR = false ∧
    (let p := { islandPage 0 with region := some 3 }
     (stRetire p).groupArmed p = true) ∧
    ((stEng msgT).scans.any (fun c => c.part == 0 || c.quad == 0) = false ∧ ({ stEng msgT with scans := [scan0] } : State).scans.any (fun c => c.part == 0 || c.quad == 1) = true) ∧
    (let s : State := { State.reset with parts := [{ slotPart with pullBits := [9], pulls := [(9, 1, 0)] }], cycle := 4600000 }
     (s.part 0).pulls.find? (fun x => x.1 == 9) = some (9, 1, 0)) := by decide +kernel
/-- The page of a retiring region leaves it when its state finds frames. -/
def stEvict : State := { stRetire pageR with parts := [{ part1 with saveAllow := 4096 }] }
theorem evict_pool : (stEvict.framePool (State.saveReqCtx (.evict pageR.key)).part (State.pageDie pageR)).length = 4096 := by decide +kernel
theorem wit_retire_evicts (hn : Config.snapshotFrames (State.stored pageR.dyn) ≤ 4096) : ((stEvict.evict pageR).page? key).map Page.st = some .stopping := by
  have h : (((stEvict.groupPages pageR).map (fun m => Config.snapshotFrames (State.stored m.dyn))).foldl (· + ·) 0) ≤
      (stEvict.framePool (State.saveReqCtx (.evict pageR.key)).part (State.pageDie pageR)).length := by
    rw [evict_pool]
    exact Nat.le_trans (Nat.le_of_eq (Nat.zero_add _)) hn
  unfold State.evict State.takeFrames
  dsimp only
  rw [if_pos h]
  rfl

/-- A page of higher priority waits while another context's idle page stands in the only region; a group that a shrink folded. -/
def ctx1 : CtxId := ⟨0, 0, 1⟩
def stShrink : State :=
  { onPart (one { page0 with st := .pending } .device) { part1 with pending := [key] } (.unit 0) with
    frames := [{ frame0 with prio := 3 }]
    ctxs := [{ id := ctx0, exist := true }, { id := ctx1, exist := true }]
    pages := [{ page0 with st := .pending }, { page0 with key := { key with ctx := ctx1 }, st := .resident, region := some 0 }] }
theorem wit_shrink :
    stShrink.shrinking 0 = false ∧ stShrink.shrinkFor 0 = [key] ∧
    (stShrink.shrinkOrder key.ctx (stShrink.pagePrio key)).find? (fun x => (stShrink.shrinkFold x).isSome || (stShrink.shrinkEvict x).isSome) = some ctx1 ∧
    (let s := stCtx (fun c => { c with shrunk := [(0, 0, 0)] })
     (s.ctx ctx0).shrunk = [(0, 0, 0)] ∧ (s.ctx ctx0).atClose = [] ∧ (s.part 0).pending = [] ∧ s.ctxServed ctx0 = true ∧ (s.foldNow ctx0 0 0 0).1 = true) := by
  decide +kernel

/-- A core's store, load and fence, a register at the window, a store to an image's frame, one that its home holds back. -/
def coreSt : CoreAccess := { core := 0, addr := 0x1000, store := some [1, 2, 3, 4] }
def coreLd : CoreAccess := { core := 0, addr := 0x1000 }
/-- The BARs of an unbound VF, of a bound one and of the PF. -/
theorem wit_core_bars : vfWindow State.reset 3 0 = none ∧ (vfWindow ({ State.reset with guests := [{ id := ⟨1, 2⟩, vf := some 3 }] } : State) 3 8).map regAt =
      some (some (.frctl (.guest ⟨1, 2⟩))) ∧ (0x20 : Nat) < 2 ^ 26 ∧ regAt 0x20 = some .safectl := by decide +kernel
theorem wit_CoresReachMemoryAndRegisters :
    (let s := State.reset
     coreTarget s coreSt.addr = some (.memory .dram 0x1000) ∧ s.coreBehind coreSt = false ∧ s.backed none .dram 0x1000 = 0x1000 ∧ s.imageFrame 1 = false ∧
       s.parts.any (fun p => p.frozen && p.pullBits.contains 1) = false ∧ s.dev.poisoned = [] ∧ s.blockOwner 0x1000 = none ∧
       s.coreHeld .dram 0x1000 4 true = false ∧ s.coreBehind coreLd = false ∧ s.coreHeld .dram 0x1000 4 false = false ∧ s.dev.failing = [] ∧ s.dev.suspect = []) ∧
    ({ State.reset with graphs := [{ graph0 with frames := [1] }] } : State).imageFrame 1 = true ∧
    ({ State.reset with dev := { State.reset.dev with retraining := List.range 24 } } : State).coreHeld .dram 0x1000 4 true = true ∧
    coreTarget State.reset 0x10000000010 = some (.window 0x10) ∧ (∃ r, regAt 0x10 = some r ∧ r.size = 4 ∧ regAt 0xC ≠ some .harg) ∧
    (∃ o r, regAt o = some r ∧ r.size = 8 ∧ o % 8 = 0) ∧ regAt 0xFFFF8 = none :=
  ⟨by decide +kernel, by decide +kernel, by decide +kernel, by decide +kernel, ⟨_, rfl, by decide +kernel⟩, ⟨0x100000, _, rfl, by decide +kernel⟩, by decide +kernel⟩

/-- A core's store is in memory at once, for every reader. -/
theorem test_core_store :
    (let t := coreAccess coreSt State.reset
     (t.byteAt .dram none 0x1001, t.byteAt .dram (some ctx0) 0x1003, (t.coreParty 0).reply)) = (2, 4, some .stored) := by decide +kernel

/-- The cut of an absent page whose element 0 had recorded: what element 1 is still to take ahead of its cue belongs to the cut. -/
def cueItem : Item := .tok { kind := .cue, tag := 0xFFF, pay := 0 }
def stAbsent : State :=
  one { page0 with
    st := .absent
    image := []
    dyn := { PageDyn.empty with
      elems := [{ elem := 0, cut := true }]
      fifos := [(.queue 0 .L, [.tok (dat 1)]), (.queue 1 .L, [.tok (dat 2), cueItem, .tok (dat 3)])] } } .device
theorem test_absent_cut :
    (let t := stAbsent.cutAbsent key 0
     let snap := ((t.page? key).bind (fun p => lookup 1 p.cuts)).getD PageDyn.empty
     (snap.fifo (.queue 0 .L), snap.fifo (.queue 1 .L), (t.dyn key).fifo (.queue 1 .L))) =
      ([], [.tok (dat 2)], [.tok (dat 2), .tok (dat 3)]) := by decide +kernel

/-! ### Statements: further clauses -/

/-- An INVAL that waits for its acknowledgements, and one that has them. -/
def stInvalWait (vs : List Inval) : State :=
  { blockSt 0 { block := 0, firing := some { firing0 with waits := [(0, .inval 9)] } } with invals := vs }
theorem wit_inval_is_over :
    ((stInvalWait []).firing? key 0).bind (fun f => waitsFor f 0 Wait.invalId?) = some 9 ∧ (stInvalWait []).invals.any (fun v => v.id == 9) = false ∧
    (stInvalWait [inval0]).invals.any (fun v => v.id == 9) = true ∧ (stInvalWait []).laneRoom key blk0 = true := by decide +kernel

/-- A launch whose argument block lies at an unmapped address, and one whose page is still to be pulled. -/
def graphA : Graph := { graph0 with header := Memory.writeNat graph0.header 6 2 1 }
def argSlot (va : Word) : Slot := { slot1 with words := List.replicate 8 0 ++ [1, 0, 0, 0, va] }
def lrecOf (va : Word) : LaunchRec := LaunchRec.ofNat ((List.range 16).foldl (fun n j => n + ((argSlot va).word j).toNat * 2 ^ (32 * j)) 0)
def stArgs (pull : List Nat) : State :=
  { stEng msg0 with graphs := [graphA], parts := [{ slotPart with s2root := 1, pullBits := pull }] }
def argFault (r : Except XFault (Option (List DWord) × State)) : Option (Nat × Bool) :=
  match r with
  | .error x => some (x.cause, x.pull.isSome)
  | .ok _ => none
theorem wit_argument_block_faults :
    (lrecOf 0x40000).argptr = 0x40000 ∧ (stArgs []).launchGraph 0 (lrecOf 0x40000) = some graphA ∧
    argFault ((stArgs []).argBlock ctx0 {} (lrecOf 0x40000) graphA) = none ∧
    argFault ({ stArgs [] with parts := [slotPart] }.argBlock ctx0 {} (lrecOf 0x40000) graphA) ≠ none ∧
    (argFault ((stArgs [0x40]).argBlock ctx0 {} (lrecOf 0x40000) graphA)).map Prod.snd = some true := by decide +kernel

/-- The one candidate of a tile, whose slots agree in their tag; a census token without room; the traps and their acceptance. -/
def chosen1 (s : State) : List (Bool × Nat) :=
  ((s.candidatesOf 0).filter (fun c => (s.replayInput 0x6000 c.1.ctx).all (fun x => x == c.2.2.2.2))).map (fun c =>
    (s.tagSkew c.1 c.2.1 c.2.2.1 c.2.2.2.1 (s.firingTag c.1 c.2.1 c.2.2.1 c.2.2.2.1), c.2.2.2.2))
/-- Block 0 listens on two channels. -/
def twoLis (a b : Tag) : State :=
  one { key := key, st := .resident, region := some 0
        image := Memory.writeNat (Memory.writeNat (Memory.writeNat (cellsAt 0x09 1 1) 0x1800 16 (0xA1 * 2 ^ 120 + 2 * 2 ^ 105 + 0x11 * 2 ^ 58)) 0x1820 8 (2 ^ 50)) 0x1828 8 (2 ^ 50 + 2 ^ 45)
        dyn := { PageDyn.empty with actors := [{ block := 0, cbs := [{ handle := 0, slots := [{ slot1 with tag := a }] }, { handle := 1, slots := [{ slot1 with tag := b }] }] }] } } (.unit 0)
theorem wit_selection_clauses :
    chosen1 stSelect = [(false, 0)] ∧ chosen1 (twoLis 0 0) = [(false, 0)] ∧ chosen1 (twoLis 0 1) = [(true, 0)] ∧
    (let s := { stTrap [] with traps := [{ trapMsg with accepts := true, party := some (.elem key 0) }] }
     (s.traps.find? (fun t => t.page == key)).map (fun t => (t.accepts, t.party)) = some (true, some (.elem key 0))) ∧
    (∀ n ∈ [0, 1, 2], bitsOf (n * 2 ^ 12) 12 2 = n) ∧
    (let t : Token := { kind := .census, tag := 0, pay := 1 }
     ((elemSt [(.L, t)]).page? key).map (fun p => (elemSt [(.L, t)]).censusTakes key p (.elem 0) t) = some true) ∧
    (let s := one { elemPage 0 with dyn := { PageDyn.empty with fifos := [(.wing 2, [.tok (dat 1)])] } } (.place key (.wing 2))
     s.pageRuns key = true ∧ (s.dyn key).fifo .reply = [] ∧ (s.dyn key).fifo (.wing 2) = [.tok (dat 1)] ∧ (s.dyn key).takes (.ingress 2) (.tok (dat 1)) = true) ∧
    (let s := one { elemPage 0 with dyn := { PageDyn.empty with fifos := [(.wing 2, [.tok (dat 1)]), (.ingress 2, List.replicate 8 (.tok (dat 1)))] } } (.place key (.wing 2))
     (s.dyn key).takes (.ingress 2) (.tok (dat 1)) = false) := by decide +kernel

/-- A page still to report; log memory that has to be waited for; requests that entered together; closing tokens behind the results. -/
def logOn : UndoLog := { on := true, base := 0x50000, units := 1, windows := [{ num := 0, round := 0 }] }
def stLog (pull : List Nat) : State :=
  { stEng msg0 with
    parts := [{ slotPart with s2root := 1, pullBits := pull }], cur := some (.ctx ctx0)
    ctxs := [{ id := ctx0, exist := true, undo := logOn, close := some { round := 0, reported := true } }] }
theorem wit_close_clauses :
    (let s := stCtx (fun c => { c with close := some { round := 0 } })
     s.pages.any (fun p => p.key.ctx == ctx0 && !p.reported) = true ∧ s.ctl = []) ∧
    ((stLog []).logHeld ctx0 1 = none ∧ ((stLog [0x50]).logHeld ctx0 1).isSome = true ∧ ((stLog [0x50]).ctx ctx0).dbg ≠ .stopped) ∧
    (let s := stHome [req0, { req1 with entered := 0 }]
     (((s.letIn (.tile 0) 0).joinClose (.tile 0)).readyHeads (.tile 0)).map (fun r => r.entered.toNat) = [0, 0]) ∧
    (let r := { req0 with phase := .done, closing := some eos }
     let s : State := { stLR with reqs := [r] }
     s.atHead r = true ∧ r.closing = some eos ∧ s.reqs.find? (fun r => r.issuer == .elem key 0 && r.phase != .given) = some r) := by decide +kernel

/-- A window that a section's last step ends; two lanes; a generator stopped at its head. -/
theorem wit_section_boundaries :
    (let s := stSec { IslandState.empty with phase := .running, tiles := 1, pc := 1 }
     ∃ p, s.page? key = some p ∧ p.islandHeader.nins ≤ p.dyn.island.pc ∧ p.dyn.island.tiles ≤ 1) ∧
    (let s := stSec { IslandState.empty with cut := true }
     ∃ p, s.page? key = some p ∧ p.dyn.island.cut = true) ∧
    (let s := stNode 1 false [gen0] [(.node 0 1, [.tok eos])]
     (s.dyn key).headTok (.node 0 1) = some eos ∧ eos.kind ≠ .data ∧ eos.kind ≠ .census) :=
  ⟨⟨_, rfl, by decide +kernel⟩, ⟨_, rfl, by decide +kernel⟩, by decide +kernel⟩

/-- A signal for a page that is leaving, and for one that is resident; no region to give; an image that faults; a frozen context. -/
def graphB : Graph := { graph0 with base := 0x10000000000 }
theorem wit_paging_boundaries :
    (let s := onPart (one { page0 with st := .stopping } .device) { part1 with signals := [key] } (.unit 0)
     (s.page? key).map Page.st = some .stopping) ∧
    (let s := onPart (one { page0 with st := .pending } .device) { part1 with pending := [key] } (.unit 0)
     let t : State := { s with dev := { s.dev with cast := [] } }
     (t.page? key).bind t.bestRegion = none ∧ (s.part 0).pending = [key] ∧ ((onPart (one page0 .device) part1 (.unit 0)).part 0).pending = []) ∧
    (let s := { stEng msg0 with pages := [{ key := key, st := .loading, dyn := PageDyn.empty }], graphs := [graphB], parts := [slotPart], cur := some (.page key) }
     (s.page? key).map (fun p => isOk (s.fetchImage p)) = some false ∧ s.graph? 0 0 = some graphB ∧ (s.ctx ctx0).frozen = false) ∧
    (let s := { onPart (one { page0 with st := .stopping } .device) part1 (.page key) with ctxs := [{ id := ctx0, exist := true, frozen := true }] }
     (s.ctx key.ctx).frozen = true) ∧
    (let s := { onPart (one { page0 with st := .resident, region := some 1 } .device) part1 (.page key) with cycle := 4600, scans := [scan0] }
     (s.page? key).map s.eligible = some true ∧ s.scans.any (fun x => x.phase == 0 && x.held.contains 1) = true) := by decide +kernel

/-- A frame past its close that places its graph, and one that need not; the Prompter's store full; an interval without points. -/
def fullStore (s : State) : State :=
  { s with guests := [{ id := guest0, queues := (List.range 512).map (fun n => { num := n, waiting := some (rec0, none, 0, 0) }) }] }
theorem wit_frame_boundaries :
    (∀ b ∈ [true, false], let f := { frame0 with walk := .waitClose 0, placer := b }
      let s := { stFrame f with ctxs := [{ id := ctx0, exist := true, round := 1 }] }
      s.frame? fk = some f ∧ 0 < (s.ctx f.ctx).round) ∧
    ((stFrame frame0).storeFull = false ∧ (fullStore (stFrame frame0)).storeFull = true) ∧
    (({ frame0 with infill := { order := some 1 } } : Frame).infill.order.isSome = true ∧
      (stFrame frame0).allCounted { frame0 with sinks := [0] } = true ∧ frame0.infill.order = none) ∧
    (let f := { frame0 with infill := { waitRound := some 0 } }
     let s := { stFrame f with ctxs := [{ id := ctx0, exist := true, round := 1 }] }
     f.infill.waitRound = some 0 ∧ 0 < (s.ctx f.ctx).round) ∧
    (({ frame0 with updates := 1, infill := { due := true } } : Frame).infill.updates < 1 ∧ frame0.infill.n = 0) ∧
    (let f := { frame0 with phaseOf := .census }
     let z : Census := { seq := 3, part := 0, tag := 0, frame := some fk, sweep := 1 }
     let s := { stFrame f with censuses := [z] }
     s.censuses.find? (fun z => z.frame == some fk) = some z ∧ (s.censusNext z.seq).2.1 = none) := by decide +kernel

/-- A partition without a slice in force, one whose only guest goes on, one that closes; a command without a context. -/
theorem wit_slice_boundaries :
    ((stSlice { slotPart with slice := .idle }).part 0).slice = .idle ∧
    (let s := { stGuest id { slotPart with slice := .running, gslice := [0x80000064, 0, 0, 0], yields := true } with cur := some (.unit 0) }
     (s.part 0).slice = .running ∧ (s.sliceOrder 0).all (fun n => n == (s.part 0).sliceGuest) = true ∧ State.sliceOn (s.part 0) (s.part 0).sliceGuest = true) ∧
    ((stSlice { slotPart with slice := .closing [(ctx0, 0)] }).part 0).slice = .closing [(ctx0, 0)] ∧
    (∀ op ∈ [1, 2, 3], let s := { stGuest (fun g => { g with pendingCmds := [(BitVec.ofNat 32 op <<< 24 + 7, 0)] }) slotPart with ctxs := [] }
      (s.gcmdHead guest0 op).map (fun z => (s.ctx (State.gcmdCtx guest0 z.1)).exist) = some false) := by decide +kernel

/-- A destination that has no understudy yet, one whose page is awaited, one whose source cannot be read; a swap in range; a voided reply. -/
def destOf : Eng → Option (Bool × Bool × Bool × Bool)
  | .ok x t => some (bitsOf x.leaf1 11 1 == 1, (t.studyOf x.space (x.pa / 4096)).isSome, (t.awaited 0 x.space x.pa true).isSome,
      (t.unreadable msg0 0x40000 x.space (t.studySource x.space (x.pa / 4096) * 4096) 4096).1.isSome)
  | _ => none
def withDev (s : State) (f : Device → Device) : State := { s with dev := f s.dev }
theorem wit_engine_boundaries :
    (let x (s : State) := destOf (s.engineXl msg0 .engineWrite 0x40000 false)
     x (stEng msg0) = some (true, false, false, false) ∧
       x ({ stEng msg0 with parts := [{ slotPart with s2root := 1, pullBits := [0x40] }] }) = some (true, false, true, false) ∧
       x (withDev (stEng msg0) (fun d => { d with poisoned := [0x40] })) = some (true, false, false, true)) ∧
    (let m := { msg0 with opnds := [0x40000, 0, 0x1000] }
     let s := { stStudy m with parts := [slotPart] }
     isOk (s.studiesIn m) = false ∧ m.waits = none) ∧
    (let m := { msg0 with phase := 3, voided := true }
     m.phase = 3 ∧ m.voided = true) ∧
    (let m := { msg0 with phase := 3, page := { key with lpn := 9 } }
     (stEng m).page? m.page = none) ∧
    (let m := { msg0 with phase := 3, rkind := 1 }
     m.rkind ≠ 0 ∧ (stEng m).deliverReply key false 0 (dat 0) 0 = none) ∧
    (∀ d ∈ [8, 4095, 2 ^ 32 + 1], let m := { msg0 with opnds := [BitVec.ofNat 64 d, 0, 0] }
     8 ≤ m.op 0) := by decide +kernel

/-- A ring whose page is still to be pulled; a map whose page is; the log's commands at their boundaries. -/
theorem wit_debug_boundaries :
    ((stRing ring0).ringWrite (.guest guest0) ring0.place (rec1.bits ring0.nextNum)).isSome = true ∧
    ({ stRing ring0 with parts := [{ slotPart with s2root := 1, pullBits := [0x50] }] } : State).ringWrite (.guest guest0) ring0.place (rec1.bits ring0.nextNum) = none ∧
    ((stFrame frame0).mapHeld frame0 = none ∧ (({ stFrame frame0 with parts := [{ slotPart with pullBits := [0] }] } : State).mapHeld frame0).isSome = true) ∧
    (let s := stDbg 0x01000000 (fun c => { c with dbgArg0 := 0x50000, dbgArg1 := 1 })
     bitsOf (s.ctx ctx0).dbgArg1.toNat 0 9 ≠ 0 ∧ s.idleRound ctx0 = true ∧
       ({ s with frames := [frame0] } : State).idleRound ctx0 = false ∧ bitsOf ((stDbg 0x01000000 id).ctx ctx0).dbgArg1.toNat 0 9 = 0) ∧
    ((stLog []).modUndo ctx0 (fun _ => logOn)).logHeld ctx0 0 = none ∧
    ((stDbg 0x0A000000 (fun c => { c with dbg := .stopped })).ctx ctx0).dbg = .stopped ∧ (stDbg 0x0A000000 id).dbgArg ctx0 = 0 ∧
    (let s := { blockSt0 with ctxs := [{ id := ctx0, exist := true, dbg := .stopped, dbgCmd := 0x09000000, res := 1 }] }
     (s.firingWork ctx0).isSome = true ∧ (s.ctx ctx0).voidSeen = none) ∧
    (let u : UndoRec := { kind := 0, wid := 2, space := 1, addr := 0x30000, old := 0, round := 0, window := 0 }
     (stLog []).rewindWaits ctx0 [u] = none ∧ ((stLog [0x30]).rewindWaits ctx0 [u]).isSome = true ∧ (stLog []).recordBad ctx0 u = none) := by decide +kernel

/-- Commands that are held back, or served for an overflow table, and the residency commands at theirs. -/
theorem wit_command_boundaries :
    ((fullStore (stCmd 3 0 slotPart)).hcmdHeld 3 0 = true ∧ (∀ op ∈ List.range 16, (stCmd (BitVec.ofNat 32 op) 0 slotPart).hcmdHeld op 0 = false)) ∧
    (let p := { slotPart with ovfBase := 0x1000 }
     p.ovfBase.toNat < (0 + 1) * 2 ^ 31 ∧ 0 * 2 ^ 31 < p.ovfBase.toNat + 2 ^ 24) ∧
    (let s := stGn 0 0 [(0x01000000, 0x8000, 0x9000)]
     s.storeFull = false ∧ (({ s with graphs := [], parts := [slotPart] } : State).reside ctx0 0x8000 0x9000).1 = false ∧
       (({ s with ctxs := [] } : State).ctx? ctx0) = none ∧ s.residency? guest0 1 = some (ctx0, 0x8000, 0x9000)) := by decide +kernel

/-- A heartbeat just lapsed, and not yet; the repair map written for a partition; a scan whose report is due. -/
theorem wit_health_boundaries :
    ({ State.reset with cycle := 2300000 } : State).dev.beatAt.toNat + 100 * Config.cyclesPerMicrosecond ≤ 2300000 ∧
    State.reset.cycle.toNat < State.reset.dev.beatAt.toNat + 100 * Config.cyclesPerMicrosecond ∧ State.reset.dev.repairFor = [] ∧
    (let s := { stEng msgT with scans := [{ scan0 with phase := 3 }] }
     s.scans.find? (fun c => c.msg == 3) = some { scan0 with phase := 3 }) ∧
    (let s := { stScan scan0 with pages := [{ page0 with st := .resident, region := some 1 }] }
     s.scanHolders scan0 ≠ []) ∧
    (({ State.reset with parts := [{ slotPart with frozen := true }] } : State).part 0).frozen = true := by decide +kernel

/-- A port with a frame to send, one whose gate is closed, one that has received; a buffer that has to be waited for. -/
theorem wit_EthernetPortsAct :
    (stPort.port? 0 = some port0 ∧ stPort.port? 1 = none ∧ port0.tx.find? (fun d => port0.mask.getLsbD (d.cls % 8)) = some { addr := 0x1000, len := 64 } ∧
      stPort.dmaWaits 0 0x1000 64 false = false ∧
      (State.pieces 0x1000 64).any (fun x => stPort.addressBad 0 stPort.nextId false x.1) = true ∧
      (let s := withBlocks { stPort with parts := [{ slotPart with pullBits := [1] }] } [.granted 0]
       (State.pieces 0x1000 64).any (fun x => s.addressBad 0 s.nextId false x.1) = false ∧ s.dmaWaits 0 0x1000 64 false = true) ∧
      (let s := withBlocks { stPort with parts := [slotPart] } [.granted 0]
       (State.pieces 0x1000 64).any (fun x => s.addressBad 0 s.nextId false x.1) = false ∧ s.dmaWaits 0 0x1000 64 false = false)) ∧
    (let p := { port0 with mask := 0 }
     p.tx.find? (fun d => p.mask.getLsbD (d.cls % 8)) = none) ∧
    ({ addr := 0, len := 0, ctx := some ctx0 } : EthDesc).ctx = some ctx0 ∧
    (let p := { port0 with inbox := [[1, 2]] }
     p.inbox = [1, 2] :: [] ∧ p.rx = { addr := 0x2000, len := 64 } :: [] ∧
       stPort.addressBad 0 stPort.nextId false 0x2000 = true ∧
       (let s := withBlocks { stPort with parts := [slotPart] } [.granted 0]
        ((State.pieces 0x2000 2).any (fun x => s.addressBad 0 s.nextId false x.1 || s.imageAt .dram x.1)) = false ∧ s.dmaWaits 0 0x2000 2 true = false) ∧
       (let s := withBlocks { stPort with parts := [{ slotPart with pullBits := [2] }] } [.granted 0]
        s.dmaWaits 0 0x2000 2 true = true)) ∧
    (stPort.etherFetch 0 0 true 0 = none ∨ (stPort.etherFetch 0 0 true 0).isSome = true) ∧
    (port0.gates[port0.pos]? = some (1, 100) ∧ ({ port0 with gates := [] } : EthPort).gates[(0 : Nat)]? = none ∧ stPort.time.toNat = port0.gateAt.toNat ∧
      stPort.time.toNat < ({ port0 with gateAt := 1 } : EthPort).gateAt.toNat) ∧
    (stPort.timePort = 0 ∧ State.reset.timePort = 1) := by
  refine ⟨by decide +kernel, by decide +kernel, rfl, by decide +kernel, ?_, by decide +kernel, by decide +kernel⟩
  cases stPort.etherFetch 0 0 true 0 <;> simp

/-- A core's access behind its own fence; a read of an upper half. -/
theorem wit_core_boundaries :
    (let s := withDev State.reset (fun d => { d with coreWaits := [{ coreSt with acquire := true }] })
     s.coreBehind coreLd = true ∧ State.reset.coreBehind coreLd = false) ∧
    (∃ r, regAt (0x100004 - 4) = some r ∧ r.size = 8) :=
  ⟨by decide +kernel, ⟨_, rfl, by decide +kernel⟩⟩

end Sys2Proof.Tests
end

section
/-!
PROOF. How an operation on every lane of a word reads lane by lane: the lanes of a packed word, the flags of a lane-wise
result, and a lane's value under the signedness of its type (R12, R13, R78, R99).
-/
namespace Sys2Proof

theorem Ty.width_mul_lanes (t : Ty) : t.width * t.lanes = 32 := by cases t <;> rfl

theorem Ty.two_pow_width (t : Ty) : 2 ^ t.width = 2 * 2 ^ (t.width - 1) := by cases t <;> rfl

end Sys2Proof

namespace Sys2Proof.Machine

/-! ### Lanes of a packed word -/

theorem laneNat_lt (w i : Nat) (v : Word) : laneNat w i v < 2 ^ w := Nat.mod_lt _ (Nat.two_pow_pos w)

theorem packNat_lt (w : Nat) (ls : List Nat) : packNat w ls < 2 ^ (w * ls.length) := by
  induction ls with
  | nil => simp [packNat]
  | cons l ls ih =>
    have hl : l % 2 ^ w < 2 ^ w := Nat.mod_lt _ (Nat.two_pow_pos w)
    calc packNat w (l :: ls) < 2 ^ w * (packNat w ls + 1) := by rw [packNat, Nat.mul_add]; omega
      _ ≤ 2 ^ w * 2 ^ (w * ls.length) := Nat.mul_le_mul_left _ ih
      _ = 2 ^ (w * (l :: ls).length) := by rw [← Nat.pow_add, List.length_cons, Nat.mul_add, Nat.mul_one, Nat.add_comm]

theorem packNat_lane {w j : Nat} {ls : List Nat} (hj : j < ls.length) :
    packNat w ls / 2 ^ (w * j) % 2 ^ w = ls[j] % 2 ^ w := by
  induction ls generalizing j with
  | nil => simp at hj
  | cons l ls ih =>
    cases j with
    | zero => simp [packNat]
    | succ j =>
      have hdrop : packNat w (l :: ls) / 2 ^ w = packNat w ls := by
        rw [packNat, Nat.add_mul_div_left _ _ (Nat.two_pow_pos w), Nat.div_eq_of_lt (Nat.mod_lt _ (Nat.two_pow_pos w)), Nat.zero_add]
      rw [Nat.mul_succ, Nat.add_comm, Nat.pow_add, ← Nat.div_div_eq_div_mul, hdrop]
      exact ih (by simpa using hj)

theorem laneNat_packWord {w j : Nat} {ls : List Nat} (hj : j < ls.length) (hw : w * ls.length ≤ 32) :
    laneNat w j (packWord w ls) = ls[j] % 2 ^ w := by
  have hlt : packNat w ls < 2 ^ 32 := Nat.lt_of_lt_of_le (packNat_lt w ls) (Nat.pow_le_pow_right Nat.two_pos hw)
  rw [laneNat, packWord, BitVec.toNat_ofNat, Nat.mod_eq_of_lt hlt, packNat_lane hj]

/-! ### Lane-wise results -/

/-- The flags of a word are, each, raised by some lane (R99). -/
theorem unionAll_eq_any (ls : List (Nat × Flags)) :
    unionAll ls = { iv := ls.any (·.2.iv), dz := ls.any (·.2.dz), ofl := ls.any (·.2.ofl), uf := ls.any (·.2.uf),
                    nx := ls.any (·.2.nx), sat := ls.any (·.2.sat) } := by
  induction ls with
  | nil => rfl
  | cons l ls ih => simp [unionAll, ih, Flags.union]

theorem lanes2_eq_packRes (t : Ty) (f : Nat → Nat → Nat × Flags) (a b : Word) :
    lanes2 t f a b = packRes t.width ((List.range t.lanes).map (fun j => f (laneNat t.width j a) (laneNat t.width j b))) := by
  rw [lanes2, lanesOf, lanesOf, List.zipWith_map, List.zipWith_self]

/-- Lane `j` of the result is the operation's own on the two lanes `j`. -/
theorem laneNat_lanes2 {t : Ty} {f : Nat → Nat → Nat × Flags} {a b : Word} {j : Nat} (hj : j < t.lanes) :
    laneNat t.width j (lanes2 t f a b).1 = (f (laneNat t.width j a) (laneNat t.width j b)).1 % 2 ^ t.width := by
  rw [lanes2_eq_packRes, packRes, laneNat_packWord] <;> simp [hj, t.width_mul_lanes]

theorem lanes2_flags (t : Ty) (f : Nat → Nat → Nat × Flags) (a b : Word) :
    (lanes2 t f a b).2 = unionAll ((List.range t.lanes).map (fun j => f (laneNat t.width j a) (laneNat t.width j b))) := by
  rw [lanes2_eq_packRes, packRes]

/-! ### The value of a lane -/

@[simp] theorem wrapw_mod (w : Nat) (v : Int) : wrapw w v % 2 ^ w = wrapw w v := by
  have h := Int.emod_lt_of_pos v (Int.natCast_pos.mpr (Nat.two_pow_pos w))
  exact Nat.mod_eq_of_lt (by unfold wrapw; omega)

theorem laneInt_of_signed {t : Ty} (hs : t.signed = true) (n : Nat) : laneInt t n = signedNat t.width n := by
  simp [laneInt, hs]

theorem laneInt_of_unsigned {t : Ty} (hs : t.signed = false) (n : Nat) : laneInt t n = n := by simp [laneInt, hs]

theorem laneMin_le_laneInt {t : Ty} {n : Nat} (h : n < 2 ^ t.width) : laneMin t.width t.signed ≤ laneInt t n := by
  have hw := t.two_pow_width
  cases hs : t.signed with
  | true => rw [laneInt_of_signed hs, signedNat]; simp only [laneMin, if_true]; split <;> omega
  | false => simp [laneInt_of_unsigned hs, laneMin]

theorem laneInt_le_laneMax {t : Ty} {n : Nat} (h : n < 2 ^ t.width) : laneInt t n ≤ laneMax t.width t.signed := by
  have hw := t.two_pow_width
  cases hs : t.signed with
  | true => rw [laneInt_of_signed hs, signedNat]; simp only [laneMax, if_true]; split <;> omega
  | false => rw [laneInt_of_unsigned hs]; simp only [laneMax, Bool.false_eq_true, if_false]; omega

theorem laneInt_zero (t : Ty) : laneInt t 0 = 0 := by cases t <;> rfl

theorem laneMin_nonpos (t : Ty) : laneMin t.width t.signed ≤ 0 := laneInt_zero t ▸ laneMin_le_laneInt (Nat.two_pow_pos _)

theorem laneMax_nonneg (t : Ty) : 0 ≤ laneMax t.width t.signed := laneInt_zero t ▸ laneInt_le_laneMax (Nat.two_pow_pos _)

theorem wrapw_of_nonneg {w : Nat} {v : Int} (h0 : 0 ≤ v) (h : v < (2 ^ w : Nat)) : wrapw w v = v.toNat := by
  rw [wrapw, Int.emod_eq_of_lt h0 h]

theorem wrapw_of_neg {w : Nat} {v : Int} (h0 : v < 0) (h : -(2 ^ w : Nat) ≤ v) : wrapw w v = (v + (2 ^ w : Nat)).toNat := by
  rw [wrapw, ← Int.add_emod_right, Int.emod_eq_of_lt (by omega) (by omega)]

/-- The least signed lane value as R33 writes it. -/
theorem neg_two_pow_eq_laneMin (w : Nat) : -(2 ^ (w - 1) : Int) = laneMin w true := by
  rw [laneMin, if_pos rfl, Int.natCast_pow]; rfl

/-- A value in the lane's range is read back from the lane that it is stored in (R13). -/
theorem laneInt_wrapw {t : Ty} {v : Int} (hmin : laneMin t.width t.signed ≤ v) (hmax : v ≤ laneMax t.width t.signed) :
    laneInt t (wrapw t.width v) = v := by
  have hw := t.two_pow_width
  cases hs : t.signed with
  | true =>
    simp only [hs, laneMin, laneMax, if_true] at hmin hmax
    rw [laneInt_of_signed hs, signedNat]
    by_cases h0 : 0 ≤ v
    · rw [wrapw_of_nonneg h0 (by omega), if_pos (by omega)]; omega
    · rw [wrapw_of_neg (by omega) (by omega), if_neg (by omega)]; omega
  | false =>
    simp only [hs, laneMin, laneMax, Bool.false_eq_true, if_false] at hmin hmax
    rw [laneInt_of_unsigned hs, wrapw_of_nonneg hmin (by omega)]; omega

/-- All ones is −1 in a signed lane and the greatest value in an unsigned one (R33). -/
theorem laneInt_allOnes (t : Ty) : laneInt t (allOnes t.width) = if t.signed then -1 else 2 ^ t.width - 1 := by
  cases t <;> rfl

/-! ### Stateless opcodes, by their results -/

/-- An opcode that is a stateless one of `n` operands gives in every firing what its operation gives (R79, R96, R132). -/
theorem firingGives_of_scalar {mk : Form → Instr} {n : Nat} {op : Form → Args → Res} {r : Form → Args → Word → Flags → Prop}
    (hexec : ∀ f s, exec (mk f) s = scalar f n (op f) s) (hr : ∀ f g, r f g (op f g).1 (op f g).2) : FiringGives mk n r := by
  refine ⟨fun e k m s g h => ⟨_, _, hr (.elem e) g, ?_⟩, fun w k b j s g h => ⟨_, _, hr (.block w) g, ?_⟩⟩
  · exact (hexec _ s).trans (scalar_elem rfl h)
  · exact (hexec _ s).trans (scalar_blk rfl h)

end Sys2Proof.Machine
end

section
/-!
PROOF. Integer division and remainder (R33): one lane's quotient and remainder, its DZ, and the four opcodes.
-/
namespace Sys2Proof.Machine

/-- The quotient of two lane values by R33. -/
def truncQuot (t : Ty) (a b : Int) : Int :=
  if b = 0 then (if t.signed then -1 else 2 ^ t.width - 1)
  else if t.signed = true ∧ a = -(2 ^ (t.width - 1)) ∧ b = -1 then a else a.tdiv b

/-- The remainder of two lane values by R33. -/
def truncRem (t : Ty) (a b : Int) : Int :=
  if b = 0 then a else if t.signed = true ∧ a = -(2 ^ (t.width - 1)) ∧ b = -1 then 0 else a - a.tdiv b * b

/-! ### The exact quotient and remainder stay in the lane -/

/-- Only a divisor of 1 or −1 keeps the dividend's magnitude. -/
theorem natAbs_tdiv_lt {a b : Int} (ha : a ≠ 0) (hb : 2 ≤ b.natAbs) : (a.tdiv b).natAbs < a.natAbs := by
  rw [Int.natAbs_tdiv]; exact Nat.div_lt_self (by omega) hb

/-- A truncated quotient leaves the lane in no case but the one that R33 excepts: its magnitude is at most the dividend's, and
less where the dividend is the most negative value and the divisor neither 1 nor −1. -/
theorem tdiv_mem_lane {t : Ty} {a b : Int} (hamin : laneMin t.width t.signed ≤ a) (hamax : a ≤ laneMax t.width t.signed)
    (hbmin : laneMin t.width t.signed ≤ b) (hb : b ≠ 0) (hedge : ¬(t.signed = true ∧ a = laneMin t.width true ∧ b = -1)) :
    laneMin t.width t.signed ≤ a.tdiv b ∧ a.tdiv b ≤ laneMax t.width t.signed := by
  have habs := Int.natAbs_tdiv_le_natAbs a b
  cases hs : t.signed with
  | true =>
    simp only [hs, laneMin, laneMax, if_true, true_and] at hamin hamax hbmin hedge ⊢
    have hpos := Nat.two_pow_pos (t.width - 1)
    by_cases hlow : a = -((2 ^ (t.width - 1) : Nat) : Int)
    · by_cases h1 : b = 1
      · subst h1; rw [Int.tdiv_one]; omega
      · have hlt := natAbs_tdiv_lt (a := a) (b := b) (by omega) (by omega)
        omega
    · omega
  | false =>
    simp only [hs, laneMin, Bool.false_eq_true, if_false] at hamin hbmin ⊢
    exact ⟨Int.tdiv_nonneg hamin hbmin, Int.le_trans (Int.tdiv_le_self b hamin) (hs ▸ hamax)⟩

/-- A truncated remainder lies between 0 and its dividend. -/
theorem tmod_mem_lane {t : Ty} {a : Int} (b : Int) (hamin : laneMin t.width t.signed ≤ a) (hamax : a ≤ laneMax t.width t.signed) :
    laneMin t.width t.signed ≤ a.tmod b ∧ a.tmod b ≤ laneMax t.width t.signed := by
  have habs : (a.tmod b).natAbs ≤ a.natAbs := by rw [Int.natAbs_tmod]; exact Nat.mod_le _ _
  have hmin := laneMin_nonpos t
  have hmax := laneMax_nonneg t
  rcases Int.le_total 0 a with h | h
  · have hr : 0 ≤ a.tmod b := Int.tmod_nonneg b h
    omega
  · have hr : 0 ≤ -a.tmod b := Int.neg_tmod a b ▸ Int.tmod_nonneg b (Int.neg_nonneg_of_nonpos h)
    omega

/-! ### One lane -/

/-- The excepted quotient 2^(w−1) wraps to the dividend that it came from. -/
theorem wrapw_tdiv_edge {t : Ty} (hs : t.signed = true) :
    laneInt t (wrapw t.width ((laneMin t.width true).tdiv (-1))) = laneMin t.width true := by
  have hw := t.two_pow_width
  have hpos := Nat.two_pow_pos (t.width - 1)
  simp only [laneMin, if_true]
  rw [Int.neg_tdiv_neg, Int.tdiv_one, wrapw_of_nonneg (by omega) (by omega), laneInt_of_signed hs, signedNat, if_neg (by omega)]
  omega

theorem divLane_of_zero {t : Ty} {x y : Nat} (h : laneInt t y = 0) : divLane t x y = ((allOnes t.width, x), { dz := true }) := by
  simp [divLane, h]

theorem divLane_of_ne_zero {t : Ty} {x y : Nat} (h : laneInt t y ≠ 0) :
    divLane t x y = ((wrapw t.width ((laneInt t x).tdiv (laneInt t y)), wrapw t.width ((laneInt t x).tmod (laneInt t y))), Flags.none) := by
  simp [divLane, h, Int.tmod_def, Int.mul_comm]

theorem divLane_flags (t : Ty) (x y : Nat) : (divLane t x y).2 = { dz := decide (laneInt t y = 0) } := by
  by_cases h : laneInt t y = 0
  · simp [divLane_of_zero h, h]
  · simp [divLane_of_ne_zero h, h, Flags.none]

theorem divLane_quot {t : Ty} {x y : Nat} (hx : x < 2 ^ t.width) (hy : y < 2 ^ t.width) :
    laneInt t ((divLane t x y).1.1 % 2 ^ t.width) = truncQuot t (laneInt t x) (laneInt t y) := by
  unfold truncQuot
  rw [neg_two_pow_eq_laneMin]
  split
  next h =>
    have hlt : allOnes t.width < 2 ^ t.width := Nat.sub_lt (Nat.two_pow_pos _) Nat.one_pos
    rw [divLane_of_zero h, Nat.mod_eq_of_lt hlt, laneInt_allOnes]
  next h =>
    rw [divLane_of_ne_zero h, wrapw_mod]
    split
    next hedge =>
      obtain ⟨hs, ha, hb⟩ := hedge
      rw [ha, hb, wrapw_tdiv_edge hs]
    next hedge =>
      obtain ⟨hmin, hmax⟩ := tdiv_mem_lane (laneMin_le_laneInt hx) (laneInt_le_laneMax hx) (laneMin_le_laneInt hy) h hedge
      exact laneInt_wrapw hmin hmax

theorem divLane_rem {t : Ty} {x y : Nat} (hx : x < 2 ^ t.width) :
    laneInt t ((divLane t x y).1.2 % 2 ^ t.width) = truncRem t (laneInt t x) (laneInt t y) := by
  unfold truncRem
  split
  next h => rw [divLane_of_zero h, Nat.mod_eq_of_lt hx]
  next h =>
    obtain ⟨hmin, hmax⟩ := tmod_mem_lane (laneInt t y) (laneMin_le_laneInt hx) (laneInt_le_laneMax hx)
    rw [divLane_of_ne_zero h, wrapw_mod, laneInt_wrapw hmin hmax]
    split
    next hedge =>
      obtain ⟨_, _, hb⟩ := hedge
      rw [hb, Int.tmod_neg, Int.tmod_one]
    next => rw [Int.tmod_def, Int.mul_comm]

/-! ### The word -/

/-- The word's lanes are `h` of the operands' lanes, and DZ is its only flag, raised when some divisor is 0. -/
def DividesLanes (h : Ty → Int → Int → Int) (t : Ty) (a b : Word) (r : Res) : Prop :=
  (∀ j < t.lanes, laneInt t (laneNat t.width j r.1) = h t (laneInt t (laneNat t.width j a)) (laneInt t (laneNat t.width j b))) ∧
    r.2 = { dz := r.2.dz } ∧ (r.2.dz = true ↔ ∃ j < t.lanes, laneInt t (laneNat t.width j b) = 0)

theorem lanes2_flags_of_divLane {t : Ty} {f : Nat → Nat → Nat × Flags} (hf : ∀ x y, (f x y).2 = (divLane t x y).2) (a b : Word) :
    (lanes2 t f a b).2 = { dz := decide (∃ j < t.lanes, laneInt t (laneNat t.width j b) = 0) } := by
  have hany : ((List.range t.lanes).any fun j => decide (laneInt t (laneNat t.width j b) = 0)) =
      decide (∃ j < t.lanes, laneInt t (laneNat t.width j b) = 0) := by rw [Bool.eq_iff_iff]; simp
  rw [lanes2_flags, unionAll_eq_any]
  simp [hf, divLane_flags, Function.comp_def, hany]

/-- A part of `divLane` taken in every lane divides the lanes when its values do. -/
theorem dividesLanes_lanes2 {h : Ty → Int → Int → Int} {t : Ty} {f : Nat → Nat → Nat × Flags} (hf : ∀ x y, (f x y).2 = (divLane t x y).2)
    (hv : ∀ x y, x < 2 ^ t.width → y < 2 ^ t.width → laneInt t ((f x y).1 % 2 ^ t.width) = h t (laneInt t x) (laneInt t y))
    (a b : Word) : DividesLanes h t a b (lanes2 t f a b) := by
  refine ⟨fun j hj => ?_, ?_, ?_⟩
  · rw [laneNat_lanes2 hj, hv _ _ (laneNat_lt _ _ a) (laneNat_lt _ _ b)]
  · rw [lanes2_flags_of_divLane hf]
  · rw [lanes2_flags_of_divLane hf, decide_eq_true_iff]

theorem divOp_dividesLanes (t : Ty) (a b : Word) : DividesLanes truncQuot t a b (divOp t a b) :=
  dividesLanes_lanes2 (fun _ _ => rfl) (fun _ _ hx hy => divLane_quot hx hy) a b

theorem remOp_dividesLanes (t : Ty) (a b : Word) : DividesLanes truncRem t a b (remOp t a b) :=
  dividesLanes_lanes2 (fun _ _ => rfl) (fun _ _ hx _ => divLane_rem hx) a b

/-! ### The four opcodes -/

/-- Settles O45: each opcode is `divOp` or `remOp` in every firing, and these divide lane by lane as R33 says; the quotient
2^(w−1) alone leaves the lane, and it wraps to the dividend. -/
theorem divisionTruncates : Obligations.DivisionTruncates := by
  unfold Obligations.DivisionTruncates
  have hdiv (f : Form) (g : Args) := divOp_dividesLanes f.ty g.a.v g.b.v
  have hrem (f : Form) (g : Args) := remOp_dividesLanes f.ty g.a.v g.b.v
  exact ⟨firingGives_of_scalar (fun _ _ => rfl) (fun f g _ => hdiv f g), firingGives_of_scalar (fun _ _ => rfl) (fun f g _ => hdiv f g),
    firingGives_of_scalar (fun _ _ => rfl) (fun f g _ => hrem f g), firingGives_of_scalar (fun _ _ => rfl) (fun f g _ => hrem f g)⟩

end Sys2Proof.Machine
end

section
/-!
PROOF. The encoding loses nothing and is unambiguous (R53 to R61, R86, R89): the opcode and the fields of an instruction's word
name the instruction again, and a decoded word is what the encoder writes.
-/
namespace Sys2Proof.Laws.Coding
open Sys2Proof Sys2Proof.Decode

/-! ### The opcode and the fields name the instruction -/

/-- The opcodes that MD splits are told apart by the MD values that their rules leave them (R150, R182). -/
theorem elemInstr_code {site : Site} {i : Instr} {e : Ecw} {r : Rule} {p : Bool} {o : OpInfo} (hn : ∀ q, i ≠ .nop q)
    (hr : ruleOf site i = some (.elem e, r, p)) (ho : opInfo i = some o) (hok : r.ok = true) :
    o.code % 256 ≠ 0 ∧ elemInstr (o.code % 256) e = some i := by
  cases i
  case nop q => exact absurd rfl (hn q)
  all_goals cases ho
  all_goals cases hr
  case strikeMake | strikeAnnul => simp_all [elemInstr, Form.md]
  case fenceAcq | fenceRel | fenceAr => simp_all [elemInstr, formHigh]
  all_goals exact ⟨by decide, rfl⟩

theorem blockInstr_acas (b : Blk) :
    blockInstr 0xAF b = some (if bitsOf b.x.toNat 3 1 = 1 then .acasD b else .acas (.block b)) := rfl

theorem blockInstr_send (b : Blk) : blockInstr 0xE0 b = some (sendOf b) := rfl

theorem blockInstr_sendw (b : Blk) : blockInstr 0xE1 b =
    some (match b.x.toNat % 256 with | 0x0C => .sendwCensus b | 0x0D => .sendwQuery b | _ => .sendw b) := rfl

/-- The opcodes that MD or X splits are told apart by the values that their rules leave them (R93, R171, R182, R233). -/
theorem blockInstr_code {site : Site} {i : Instr} {b : Blk} {r : Rule} {p : Bool} {o : OpInfo} (hn : ∀ q, i ≠ .nop q)
    (hr : ruleOf site i = some (.block b, r, p)) (ho : opInfo i = some o) (hok : r.ok = true) :
    o.code % 256 ≠ 0 ∧ blockInstr (o.code % 256) b = some i := by
  cases i
  case nop q => exact absurd rfl (hn q)
  all_goals cases ho
  all_goals cases hr
  case fenceAcq | fenceRel | fenceAr => simp_all [blockInstr, formHigh]
  case acas | acasD => simp_all [blockInstr_acas, Form.x]
  case sendCopy | sendFill | sendGather | sendScatter | sendIstream | sendPublish | sendDiscard | sendPreload | sendMigrate
      | sendMark | sendTest =>
    simp_all [blockInstr_send, sendRule, Rule.message, sendOf]
  case sendw =>
    simp at hok
    obtain ⟨-, h | h | h | h | h⟩ := hok <;> simp [blockInstr_sendw, h]
  case sendwCensus | sendwQuery => simp_all [blockInstr_sendw, sendRule, Rule.message]
  case wrsrAflg | wrsrRtmr | wrsrQuota => simp_all [blockInstr, formHigh, blockOp]
  case inval | invalAll => simp_all [blockInstr, formHigh, blockOp]
  all_goals exact ⟨by decide, rfl⟩

/-- MD tells the two forms of IEMIT apart (R192). -/
theorem islandOp_code {i : Instr} {w : Isl} {r : IslandRule} {o : OpInfo} (hr : islandRule i = some (w, r)) (ho : opInfo i = some o)
    (hok : r.ok = true) : o.code % 256 ≠ 0 ∧ islandOp (o.code % 256) w = some i := by
  cases i
  all_goals cases ho
  all_goals cases hr
  case iemitPkt | iemitTok => simp_all [islandOp]
  all_goals exact ⟨by decide, rfl⟩

/-! ### Both directions -/

/-- A word of no form is refused. -/
theorem wordCauses_ne_nil {site : Site} {i : Instr} {o : OpInfo} (hn : ∀ q, i ≠ .nop q) (ho : opInfo i = some o)
    (hi : islandRule i = none) (hr : ruleOf site i = none) : wordCauses site i ≠ [] := by
  unfold wordCauses
  rw [ho]
  simp [hi, hr]

theorem decode_blk_of_ne {site : Site} (he : site ≠ .elem) (w : BitVec 64) : decode site (.blk w) = decodeBlk site w := by
  cases site with
  | elem => exact absurd rfl he
  | actor | handler | island => rfl

/-- A word of an element or a block that the loader accepts is encoded, and decoded at its site to itself. -/
theorem decode_encode_of_rule {site : Site} {i : Instr} {f : Form} {r : Rule} {p : Bool} {o : OpInfo} (hn : ∀ q, i ≠ .nop q)
    (ho : opInfo i = some o) (hi : islandRule i = none) (hr : ruleOf site i = some (f, r, p)) (h : WellFormed site i) :
    ∃ c, encode i = some c ∧ decode site c = .ok i := by
  obtain ⟨hok, hsite, -⟩ := wf_rule ho hn hi hr h
  cases f with
  | elem e =>
    have hs : site = .elem := hsite
    obtain ⟨h0, hop⟩ := elemInstr_code hn hr ho hok
    obtain ⟨-, -, -, r', p', hr'⟩ := elem_op_inv _ _ _ hop
    refine ⟨_, encode_elem i e r' p' o hn ho hi hr', ?_⟩
    rw [hs] at h ⊢
    exact decodeEcw_rt o.code e i h0 hop h
  | block b =>
    obtain ⟨hse, hsi⟩ : site ≠ .elem ∧ site ≠ .island := hsite
    obtain ⟨h0, hop⟩ := blockInstr_code hn hr ho hok
    obtain ⟨-, -, -, r', p', hr'⟩ := block_op_inv _ _ _ hop
    exact ⟨_, encode_blk i b r' p' o hn ho hi hr', (decode_blk_of_ne hse _).trans (decodeBlk_rt site o.code b i hsi h0 hop h)⟩

/-- An island word that the loader accepts is encoded, and decoded to itself. -/
theorem decode_encode_of_islandRule {site : Site} {i : Instr} {w : Isl} {r : IslandRule} {o : OpInfo} (hn : ∀ q, i ≠ .nop q)
    (ho : opInfo i = some o) (hi : islandRule i = some (w, r)) (h : WellFormed site i) :
    ∃ c, encode i = some c ∧ decode site c = .ok i := by
  obtain ⟨hok, rfl⟩ := wf_isl ho hn hi h
  obtain ⟨h0, hop⟩ := islandOp_code hi ho hok
  exact ⟨_, encode_isl i w r o hn ho hi, decodeIsl_rt o.code w i h0 hop h⟩

/-- The NOP of each place is the zero word there (R91). -/
theorem decode_encode_nop {site : Site} {q : NopPlace} (h : WellFormed site (.nop q)) :
    ∃ c, encode (.nop q) = some c ∧ decode site c = .ok (.nop q) := by
  cases q <;> cases site
  case elem.elem | block.actor | block.handler | island.island => exact ⟨_, rfl, rfl⟩
  all_goals cases h

/-- A decoded word of the opcode 0 is zero. -/
theorem nop_of_ite {n : Nat} {w : BitVec n} {j i : Instr} (h : (if w = 0 then Except.ok j else .error 5 : Except Cause Instr) = .ok i) :
    w = 0 ∧ j = i := by
  split at h
  · exact ⟨‹_›, Except.ok.inj h⟩
  · cases h

theorem encode_decodeEcw {w : BitVec 128} {i : Instr} (h : decodeEcw w = .ok i) : WellFormed .elem i ∧ encode i = some (.ecw w) := by
  unfold decodeEcw at h
  extract_lets op e at h
  split at h
  next =>
    obtain ⟨rfl, rfl⟩ := nop_of_ite h
    exact ⟨rfl, rfl⟩
  next =>
    obtain ⟨hop, hraw, hwf⟩ := finish_inv _ _ _ _ _ h
    obtain ⟨hn, ⟨o, ho, hcode⟩, hi, r, p, hr⟩ := elem_op_inv _ _ _ hop
    refine ⟨hwf, ?_⟩
    rw [encode_elem i e.1 r p o hn ho hi hr, hcode, BitVec.ofNat_toNat, BitVec.setWidth_eq, ecw_inv w hraw]

theorem encode_decodeIsl {w : BitVec 64} {i : Instr} (h : decodeBlk .island w = .ok i) :
    WellFormed .island i ∧ encode i = some (.blk w) := by
  unfold decodeBlk at h
  extract_lets op at h
  simp only at h
  split at h
  next =>
    obtain ⟨rfl, rfl⟩ := nop_of_ite h
    exact ⟨rfl, rfl⟩
  next =>
    obtain ⟨hop, hraw, hwf⟩ := finish_inv _ _ _ _ _ h
    obtain ⟨hn, ⟨o, ho, hcode⟩, r, hi⟩ := isl_op_inv _ _ _ hop
    refine ⟨hwf, ?_⟩
    rw [encode_isl i _ r o hn ho hi, hcode, BitVec.ofNat_toNat, BitVec.setWidth_eq, isl_inv w hraw]

theorem decodeBlk_of_ne {site : Site} (hs : site ≠ .island) (w : BitVec 64) :
    decodeBlk site w = if (w.extractLsb' 56 8).toNat = 0 then (if w = 0 then .ok (.nop .block) else .error 5)
      else finish site (w.extractLsb' 56 8).toNat (blockInstr (w.extractLsb' 56 8).toNat (blkOf w).1) (blkOf w).2 := by
  cases site with
  | island => exact absurd rfl hs
  | elem | actor | handler => rfl

theorem wellFormed_blockNop {site : Site} (he : site ≠ .elem) (hs : site ≠ .island) : WellFormed site (.nop .block) := by
  cases site with
  | elem => exact absurd rfl he
  | island => exact absurd rfl hs
  | actor | handler => rfl

theorem encode_decodeBlk {site : Site} {w : BitVec 64} {i : Instr} (he : site ≠ .elem) (hs : site ≠ .island)
    (h : decodeBlk site w = .ok i) : WellFormed site i ∧ encode i = some (.blk w) := by
  rw [decodeBlk_of_ne hs] at h
  split at h
  next =>
    obtain ⟨rfl, rfl⟩ := nop_of_ite h
    exact ⟨wellFormed_blockNop he hs, rfl⟩
  next =>
    obtain ⟨hop, hraw, hwf⟩ := finish_inv _ _ _ _ _ h
    obtain ⟨hn, ⟨o, ho, hcode⟩, hi, r, p, hr⟩ := block_op_inv _ _ _ hop
    refine ⟨hwf, ?_⟩
    rw [encode_blk i _ r p o hn ho hi hr, hcode, BitVec.ofNat_toNat, BitVec.setWidth_eq, blk_inv w hraw]

/-- Settles O50: by the kind of the word; in each, the opcode and the fields that the encoder writes name the instruction again. -/
theorem encodeThenDecode : Obligations.EncodeThenDecode := by
  unfold Obligations.EncodeThenDecode
  intro site i h
  by_cases hn : ∃ q, i = .nop q
  · obtain ⟨q, rfl⟩ := hn
    exact decode_encode_nop h
  rw [not_exists] at hn
  obtain ⟨o, ho⟩ : ∃ o, opInfo i = some o := Option.ne_none_iff_exists'.mp (fun ho => wf_none ho h)
  cases hi : islandRule i with
  | some wr => exact decode_encode_of_islandRule hn ho hi h
  | none =>
    cases hr : ruleOf site i with
    | some frp => exact decode_encode_of_rule hn ho hi hr h
    | none => exact absurd h (wordCauses_ne_nil hn ho hi hr)

/-- Settles O51: by the site; the fields of a word that decodes have no cause, so the encoder writes each of them as it stood. -/
theorem decodeThenEncode : Obligations.DecodeThenEncode := by
  unfold Obligations.DecodeThenEncode
  intro site c i h
  cases site with
  | elem =>
    cases c with
    | ecw w => exact encode_decodeEcw h
    | blk w => cases h
  | island =>
    cases c with
    | ecw w => cases h
    | blk w => exact encode_decodeIsl h
  | actor priv ord | handler priv ord =>
    cases c with
    | ecw w => cases h
    | blk w => exact encode_decodeBlk (by simp) (by simp) h

end Sys2Proof.Laws.Coding
end

section
/-!
PROOF. Worked words (R53 to R61, R89), and the step by the first turn of the agenda (R86, R306).
-/
namespace Sys2Proof.Machine

/-- Settles O49: the decoder evaluates to each answer. -/
theorem wordsDecodeAsWritten : Obligations.WordsDecodeAsWritten := by
  unfold Obligations.WordsDecodeAsWritten
  exact ⟨rfl, rfl, rfl, rfl, rfl, rfl⟩

/-! ### The step by its turn -/

theorem step_party_ins {s : State} {p : Party} {rest : List Turn} {i : Instr} (ha : s.agenda = .party p :: rest) (hf : fetch s p = .ins i) :
    step s = exec i { s with agenda := rest, cur := some (.party p) } := by
  simp [step, ha, hf]

theorem step_party_none {s : State} {p : Party} {rest : List Turn} (ha : s.agenda = .party p :: rest) (hf : fetch s p = .none) :
    step s = .next { s with agenda := rest, cur := none } := by
  simp [step, ha, hf]

theorem step_party_bad {s : State} {p : Party} {rest : List Turn} {c : Nat} (ha : s.agenda = .party p :: rest) (hf : fetch s p = .bad c) :
    step s = .refused (.undecodable c) := by
  simp [step, ha, hf]

theorem fetch_elem {s : State} {k : PageKey} {p : Page} (n : Nat) (hp : s.page? k = some p) :
    fetch s (.elem k n) = .ofExcept (decode .elem (.ecw (p.ecwWord n))) := by
  simp [fetch, hp]

theorem fetch_elem_absent {s : State} {k : PageKey} (n : Nat) (hp : s.page? k = none) : fetch s (.elem k n) = .none := by
  simp [fetch, hp]

theorem fetch_actor {s : State} {k : PageKey} {b j : Nat} {p : Page} {h : Header} (hp : s.page? k = some p) (hh : p.header? b = some h)
    (hj : j < h.nins) : fetch s (.actor k b j) = .ofExcept (decode h.site (.blk (p.insWord h j))) := by
  simp [fetch, hp, hh, hj]

theorem fetch_island {s : State} {k : PageKey} {p : Page} (hp : s.page? k = some p) (hr : p.dyn.island.phase = .running)
    (hpc : p.dyn.island.pc < p.islandHeader.nins) :
    fetch s (.island k) = .ofExcept (decode .island (.blk (p.insWord p.islandHeader p.dyn.island.pc))) := by
  simp [fetch, hp, hr, hpc]

/-- Settles O47: the step reads its first turn, the fetch of a party reads the word at its place, and a tick deals the sweep. -/
theorem stepRunsTheDecodedWord : Obligations.StepRunsTheDecodedWord := by
  unfold Obligations.StepRunsTheDecodedWord
  intro s rest run
  refine ⟨?elem, ?actor, ?island, ?undecodable, ?absent, ?event, ?core, ?tick⟩
  case elem => intro k n p i ha hp hd; exact step_party_ins ha (by rw [fetch_elem n hp, hd]; rfl)
  case actor => intro k b j p h i ha hp hh hj hd; exact step_party_ins ha (by rw [fetch_actor hp hh hj, hd]; rfl)
  case island => intro k p i ha hp hr hpc hd; exact step_party_ins ha (by rw [fetch_island hp hr hpc, hd]; rfl)
  case undecodable => intro k n p c ha hp hd; exact step_party_bad ha (by rw [fetch_elem n hp, hd]; rfl)
  case absent => intro k n ha hp; exact step_party_none ha (fetch_elem_absent n hp)
  case event => intro i u ha; simp [step, ha]
  case core => intro a ha; simp [step, ha]
  case tick =>
    intro ha
    obtain ⟨f, now, turns, hperm, ht⟩ := tick_eq s
    refine ⟨tick s, by simp [step, ha], ?_⟩
    rw [ht]
    exact ⟨rfl, hperm, rfl, rfl, rfl, rfl⟩

end Sys2Proof.Machine
end

section
/-!
PROOF. Immediates (R59): the right operand that IMM16 becomes under each type, and what a well-formed word leaves of it.
-/
namespace Sys2Proof.Machine
open Sys2Proof.Laws.Coding (extract_app_hi extract_app_lo chk_nil)

theorem blockArgs_imm {w : Blk} {left right : Bool} {third : Word} {i : Nat} {f : Firing} {g : Args} {p : Word}
    (h : blockArgs w left right third i f = some (g, p)) (hri : w.ri = true) : g.b.v = immWord w.ty w.imm := by
  unfold blockArgs at h
  simp only [hri, if_true] at h
  split at h
  next hb _ => cases h; rw [← Option.some.inj hb]; rfl
  next => cases h

theorem laneNat_eq_extractLsb' (w i : Nat) (v : Word) : laneNat w i v = (v.extractLsb' (w * i) w).toNat := by
  rw [laneNat, BitVec.extractLsb'_toNat, Nat.shiftRight_eq_div_pow]

/-- Both halves of a word that repeats a half-word. -/
theorem laneNat_two_halves (x : BitVec 16) {j : Nat} (hj : j < 2) : laneNat 16 j (x ++ x : BitVec 32) = x.toNat := by
  rw [laneNat_eq_extractLsb']
  obtain rfl | rfl : j = 0 ∨ j = 1 := by omega
  · rw [Nat.mul_zero, extract_app_lo]
  · rw [extract_app_hi x x _ _ (by decide)]
    simp

/-- Every byte of a word that repeats a byte. -/
theorem laneNat_four_bytes (x : BitVec 8) {j : Nat} (hj : j < 4) : laneNat 8 j (x ++ x ++ x ++ x : BitVec 32) = x.toNat := by
  rw [laneNat_eq_extractLsb']
  obtain rfl | rfl | rfl | rfl : j = 0 ∨ j = 1 ∨ j = 2 ∨ j = 3 := by omega
  all_goals simp only [extract_app_hi, extract_app_lo, Nat.mul_zero, Nat.mul_one, Nat.reduceMul, Nat.reduceLeDiff, Nat.reduceSub]
  simp

theorem immWord_i32 (x : BitVec 16) : (immWord .i32 x).toInt = x.toInt :=
  BitVec.toInt_signExtend_of_le (by decide)

theorem immWord_n32 (x : BitVec 16) : (immWord .n32 x).toNat = x.toNat := by
  rw [immWord, BitVec.toNat_setWidth_of_le (by decide)]

theorem immWord_f32 (x : BitVec 16) : laneNat 16 1 (immWord .f32 x) = x.toNat ∧ laneNat 16 0 (immWord .f32 x) = 0 := by
  simp only [laneNat_eq_extractLsb', immWord]
  rw [Nat.mul_zero, extract_app_lo, extract_app_hi x 0 _ _ (by decide)]
  simp

theorem immWord_halves {t : Ty} (ht : t ∈ [Ty.i16x2, .n16x2, .bf16x2, .f16x2]) (x : BitVec 16) {j : Nat} (hj : j < 2) :
    laneNat 16 j (immWord t x) = x.toNat := by
  have h : immWord t x = x ++ x := by
    simp only [List.mem_cons, List.not_mem_nil, or_false] at ht
    obtain rfl | rfl | rfl | rfl := ht <;> rfl
  rw [h, laneNat_two_halves x hj]

theorem immWord_bytes {t : Ty} (ht : t ∈ [Ty.i8x4, .n8x4, .e4m3x4, .e5m2x4]) (x : BitVec 16) {j : Nat} (hj : j < 4) :
    laneNat 8 j (immWord t x) = x.toNat % 256 := by
  have h : immWord t x = x.setWidth 8 ++ x.setWidth 8 ++ x.setWidth 8 ++ x.setWidth 8 := by
    simp only [List.mem_cons, List.not_mem_nil, or_false] at ht
    obtain rfl | rfl | rfl | rfl := ht <;> rfl
  rw [h, laneNat_four_bytes _ hj, BitVec.toNat_setWidth]

/-- The checks of a well-formed word's own fields, in an element (R53, R55 to R57, R94) and in a block (R58 to R60). -/
theorem wf_formCauses {site : Site} {i : Instr} {f : Form} {r : Rule} {p : Bool} (hn : ∀ q, i ≠ .nop q) (hi : islandRule i = none)
    (hr : ruleOf site i = some (f, r, p)) (h : WellFormed site i) :
    (∀ e, f = .elem e → elemCauses i e r = []) ∧ (∀ b, f = .block b → blkCauses b r = []) := by
  unfold WellFormed wordCauses at h
  split at h
  · cases h
  · split at h
    · exact absurd rfl (hn _)
    · simp only [hi, hr, List.append_eq_nil_iff] at h
      obtain ⟨-, -, hform⟩ := h
      constructor <;> rintro _ rfl <;> exact (List.append_eq_nil_iff.mp hform).2

theorem blkCauses_imm {b : Blk} {r : Rule} (h : blkCauses b r = []) :
    (b.ri = true → r.immRaw = false → b.ty ≠ .fx4x8 ∧ (b.ty.width = 8 → b.imm.toNat < 256)) ∧
      (b.ri = false → b.imm.toNat &&& r.imm = b.imm.toNat) := by
  simp only [blkCauses, List.append_eq_nil_iff, chk_nil] at h
  obtain ⟨⟨⟨⟨⟨-, hty⟩, hmask⟩, hbyte⟩, -⟩, -⟩ := h
  refine ⟨fun hri hraw => ⟨?_, fun hw => ?_⟩, fun hri => ?_⟩
  · simpa [hri, hraw] using hty
  · simpa [hri, hraw, hw] using hbyte
  · simpa [hri] using hmask

/-- Settles O46: `immWord` is each lane's value, and the checks of the word's fields leave its IMM16 as R59 allows. -/
theorem immediatesFillTheirLanes : Obligations.ImmediatesFillTheirLanes := by
  unfold Obligations.ImmediatesFillTheirLanes
  constructor
  · intro w left right third i f g p h hri
    rw [blockArgs_imm h hri]
    refine ⟨fun ht => ?_, fun ht => ?_, fun ht => ?_, fun ht j hj => immWord_halves ht w.imm hj, fun ht j hj => immWord_bytes ht w.imm hj⟩
    · rw [ht, immWord_i32]
    · rw [ht, immWord_n32]
    · rw [ht]; exact immWord_f32 w.imm
  · intro site i b r p hn hi hr h
    obtain ⟨himm, hmask⟩ := blkCauses_imm ((wf_formCauses hn hi hr h).2 b rfl)
    refine ⟨himm, fun hri h0 => BitVec.eq_of_toNat_eq ?_⟩
    rw [← hmask hri, h0, Nat.and_zero]; rfl

end Sys2Proof.Machine
end

section
/-!
PROOF. Every stateless opcode runs by the one runner `scalar` (R79, R95, R96): its false predicate (R56) and the faults of its
heads (R39, R79) are that runner's.
-/
namespace Sys2Proof.Machine
open Sys2Proof.Laws.Coding (chk_nil)

/-! ### A stateless opcode runs by `scalar` -/

theorem exec_integerOp {i : Instr} {o : Stateless} (h : integerOp i = some o) (s : State) :
    exec i s = scalar o.form o.operands o.result s := by
  cases i
  all_goals cases h
  all_goals rfl

theorem exec_floatOp {i : Instr} {o : Stateless} (h : floatOp i = some o) (s : State) :
    exec i s = scalar o.form o.operands o.result s := by
  cases i
  all_goals cases h
  all_goals rfl

theorem statelessOp_cases {i : Instr} {o : Stateless} (h : statelessOp i = some o) : integerOp i = some o ∨ floatOp i = some o := by
  unfold statelessOp at h
  cases hi : integerOp i with
  | none => exact .inr (by simpa [hi] using h)
  | some o' => exact .inl (by simpa [hi] using h)

theorem exec_statelessOp {i : Instr} {o : Stateless} (h : statelessOp i = some o) (s : State) :
    exec i s = scalar o.form o.operands o.result s :=
  (statelessOp_cases h).elim (exec_integerOp · s) (exec_floatOp · s)

theorem ruleOf_integerOp {i : Instr} {o : Stateless} (h : integerOp i = some o) (site : Site) :
    (∀ q, i ≠ .nop q) ∧ islandRule i = none ∧ ∃ r p, ruleOf site i = some (o.form, r, p) := by
  cases i
  all_goals cases h
  all_goals exact ⟨by simp, rfl, _, _, rfl⟩

theorem ruleOf_floatOp {i : Instr} {o : Stateless} (h : floatOp i = some o) (site : Site) :
    (∀ q, i ≠ .nop q) ∧ islandRule i = none ∧ ∃ r p, ruleOf site i = some (o.form, r, p) := by
  cases i
  all_goals cases h
  all_goals exact ⟨by simp, rfl, _, _, rfl⟩

/-- A stateless opcode stands in an element or a block (R86). -/
theorem ruleOf_statelessOp {i : Instr} {o : Stateless} (h : statelessOp i = some o) (site : Site) :
    (∀ q, i ≠ .nop q) ∧ islandRule i = none ∧ ∃ r p, ruleOf site i = some (o.form, r, p) :=
  (statelessOp_cases h).elim (ruleOf_integerOp · site) (ruleOf_floatOp · site)

/-- A predicate mode other than 00 needs queue P (R56). -/
theorem elemCauses_pm {i : Instr} {e : Ecw} {r : Rule} (h : elemCauses i e r = []) : e.pm ≠ .always → e.qP = true := by
  unfold elemCauses at h
  simp only [List.append_eq_nil_iff, chk_nil] at h
  obtain ⟨⟨⟨⟨⟨⟨⟨-, -⟩, hpm⟩, -⟩, -⟩, -⟩, -⟩, -⟩ := h
  intro hne
  simpa [hne] using hpm

/-! ### False predicates -/

/-- The four predicate modes (R56). -/
theorem predHolds_modes (p : Word) : predHolds .always p = true ∧ (predHolds .ifNonzero p = true ↔ p ≠ 0) ∧
    (predHolds .ifZero p = true ↔ p = 0) ∧ predHolds .consume p = true := by
  simp [predHolds]

/-- Settles O3: the runner consumes the operands of a false predicate and stops there, and the loader asks for queue P. -/
theorem falsePredicateWithholdsResult : Obligations.FalsePredicateWithholdsResult := by
  unfold Obligations.FalsePredicateWithholdsResult
  refine ⟨predHolds_modes, ?elem, ?block, ?loader⟩
  case elem =>
    intro i o e k n s ts g ho hf hcur hh hg hgate hl hr hp
    rw [exec_statelessOp ho, scalar_false hf hcur hh hg hgate hl hr hp]
  case block =>
    intro i o w k b j s f g p ho hf hcur hgate ha hp
    rw [exec_statelessOp ho, scalar_false_blk hf hcur hgate ha hp]
  case loader =>
    intro i o e ho hf h
    obtain ⟨hn, hi, r, p, hr⟩ := ruleOf_statelessOp ho .elem
    exact elemCauses_pm ((wf_formCauses hn hi hr h).1 e hf)

/-! ### Heads that stop the element -/

/-- Path P at an element that stands on a page: the element is stopped, and every place of the page keeps its tokens (R346). -/
theorem faultP_stops {s : State} {k : PageKey} (n cause : Nat) (tag : Tag) (v : Word) (node : Nat) (h : s.page? k ≠ none) :
    (((s.faultP cause (.elem k n) tag v node).dyn k).elem n).stopped = true ∧
      ∀ q, ((s.faultP cause (.elem k n) tag v node).dyn k).fifo q = (s.dyn k).fifo q := by
  rw [faultP_elem h]
  refine ⟨?_, fun q => PageDyn.fifo_modElem _ _ _ q⟩
  rw [PageDyn.elem_modElem (f := fun x => { x with stopped := true }) (fun _ => rfl)]

/-- Settles O9: the runner raises 0x36 or 0x34 on the state with every head in place, and path P stops the element there. -/
theorem mixedHeadsStopTheElement : Obligations.MixedHeadsStopTheElement := by
  unfold Obligations.MixedHeadsStopTheElement
  intro i o e k n s ho hf hcur hpage
  constructor
  · intro t hh hgate
    obtain ⟨hstop, hfifo⟩ := faultP_stops n 0x36 t.tag t.pay 0 hpage
    exact ⟨_, (exec_statelessOp ho s).trans (scalar_skew hf hcur hh hgate), rfl, hstop, hfifo⟩
  · intro ts g hh hg hgate hl
    obtain ⟨hstop, hfifo⟩ := faultP_stops n 0x34 g.tag g.a.v 0 hpage
    exact ⟨_, (exec_statelessOp ho s).trans (scalar_scale hf hcur hh hg hgate hl), rfl, hstop, hfifo⟩

end Sys2Proof.Machine
end

section
/-!
PROOF. The frame of a stateless opcode (R29 to R31, R54, R58, R60, R79, R132): what each operation that a turn is made of leaves
as it was, and from it the whole turn of an element and of an instruction of a block.
-/
namespace Sys2Proof.Machine

/-! ### What a turn may change -/

/-- The parts of its page that a turn may change: elements, blocks and places. -/
structure Own where
  elem : Nat → Prop := fun _ => False
  actor : Nat → Prop := fun _ => False
  place : Place → Prop := fun _ => False

namespace Own

/-- An element has its queues, its output registers and its state (R54, R249). -/
def ofElem (n : Nat) : Own where
  elem m := m = n
  place p := (∃ q, p = .queue n q) ∨ ∃ b, p = .out n b

/-- An instruction of a block has its actor and the island lanes that its targets name (R60). -/
def ofActor (b : Nat) : Own where
  actor c := c = b
  place p := ∃ l, p = .laneIn l

/-- The party is one of the elements or blocks. -/
def has (o : Own) : Party → Prop
  | .elem _ n => o.elem n
  | .actor _ b _ => o.actor b
  | _ => False

theorem has_elem (k : PageKey) (n : Nat) : (ofElem n).has (.elem k n) := rfl

theorem has_actor (k : PageKey) (b i : Nat) : (ofActor b).has (.actor k b i) := rfl

theorem place_queue (n : Nat) (q : QueueName) : (ofElem n).place (.queue n q) := .inl ⟨q, rfl⟩

theorem place_out (n : Nat) (b : Bool) : (ofElem n).place (.out n b) := .inr ⟨b, rfl⟩

theorem place_laneIn (b l : Nat) : (ofActor b).place (.laneIn l) := ⟨l, rfl⟩

/-- Everything else of the page stands as before, and no bit of AFLG is cleared (R30). -/
structure Keeps (o : Own) (d d' : PageDyn) : Prop where
  elem : ∀ m, ¬ o.elem m → d'.elem m = d.elem m
  actor : ∀ b, ¬ o.actor b → d'.actor b = d.actor b
  island : d'.island = d.island
  args : d'.args = d.args
  node : ∀ m, d'.node m = d.node m
  aflg : d.aflg &&& d'.aflg = d.aflg
  place : ∀ p, ¬ o.place p → d'.fifo p = d.fifo p

end Own

/-- A turn on a page has changed no byte of memory, no other page, no partition but for its note of a missing overflow table
(R135), and of its page what it may change. -/
structure TurnFrame (k : PageKey) (o : Own) (s t : State) : Prop where
  sram : t.sram = s.sram
  dram : t.dram = s.dram
  hostMem : t.hostMem = s.hostMem
  homeWrites : t.homeWrites = s.homeWrites
  pages : SamePages k s t
  parts : ∀ p, t.part p = { s.part p with ovfWaits := (t.part p).ovfWaits }
  dyn : o.Keeps (s.dyn k) (t.dyn k)

/-! ### Updates of a page's dynamic state -/

theorem PageDyn.elem_modElem_other {d : PageDyn} {n m : Nat} {f : ElemState → ElemState} (hf : ∀ x, (f x).elem = x.elem) (h : m ≠ n) :
    (d.modElem n f).elem m = d.elem m := by
  unfold PageDyn.elem PageDyn.modElem
  rw [find?_update_other]
  · intro x hx; simp at hx; simp [hx, h.symm]
  · intro x hx; simp at hx; simp [hf, hx, h.symm]
  · intro x hx; cases hx; simp [hf, h.symm]

theorem PageDyn.actor_modActor_other {d : PageDyn} {b c : Nat} {f : ActorState → ActorState} (hf : ∀ x, (f x).block = x.block) (h : c ≠ b) :
    (d.modActor b f).actor c = d.actor c := by
  unfold PageDyn.actor PageDyn.modActor
  rw [find?_update_other]
  · intro x hx; simp at hx; simp [hx, h.symm]
  · intro x hx; simp at hx; simp [hf, hx, h.symm]
  · intro x hx; cases hx; simp [hf, h.symm]

theorem PageDyn.fifo_setFifo_other {d : PageDyn} {p q : Place} (l : List Item) (h : q ≠ p) : (d.setFifo p l).fifo q = d.fifo q := by
  simp [PageDyn.fifo, PageDyn.setFifo, lookup_assign_other h]

namespace Own.Keeps

variable {o : Own} {d d' : PageDyn}

theorem refl (o : Own) (d : PageDyn) : o.Keeps d d where
  elem _ _ := rfl
  actor _ _ := rfl
  island := rfl
  args := rfl
  node _ := rfl
  aflg := BitVec.and_self
  place _ _ := rfl

theorem trans {d'' : PageDyn} (h : o.Keeps d d') (h' : o.Keeps d' d'') : o.Keeps d d'' where
  elem m hm := (h'.elem m hm).trans (h.elem m hm)
  actor b hb := (h'.actor b hb).trans (h.actor b hb)
  island := h'.island.trans h.island
  args := h'.args.trans h.args
  node m := (h'.node m).trans (h.node m)
  aflg := by rw [← h.aflg, BitVec.and_assoc, h'.aflg]
  place p hp := (h'.place p hp).trans (h.place p hp)

theorem modElem {n : Nat} {f : ElemState → ElemState} (hn : o.elem n) (hf : ∀ x, (f x).elem = x.elem) : o.Keeps d (d.modElem n f) :=
  { refl o d with elem := fun _ hm => PageDyn.elem_modElem_other hf (fun h => hm (h ▸ hn)) }

theorem modActor {b : Nat} {f : ActorState → ActorState} (hb : o.actor b) (hf : ∀ x, (f x).block = x.block) : o.Keeps d (d.modActor b f) :=
  { refl o d with actor := fun _ hc => PageDyn.actor_modActor_other hf (fun h => hc (h ▸ hb)) }

theorem setFifo {p : Place} (l : List Item) (hp : o.place p) : o.Keeps d (d.setFifo p l) :=
  { refl o d with place := fun _ hq => PageDyn.fifo_setFifo_other l (fun h => hq (h ▸ hp)) }

theorem setReps (r : List (Place × Nat)) : o.Keeps d { d with reps := r } :=
  { refl o d with }

theorem setFlags (f : Flags) : o.Keeps d { d with aflg := f.setIn d.aflg } :=
  { refl o d with aflg := by ext i; simp +contextual [Flags.setIn] }

/-! #### The operations of an element -/

variable {n : Nat}

theorem popAll (qs : List QueueName) : (ofElem n).Keeps d (d.popAll n qs) := by
  induction qs generalizing d with
  | nil => exact refl _ d
  | cons q qs ih => exact (setFifo _ (place_queue n q)).trans ih

theorem dropCues (qs : List QueueName) : (ofElem n).Keeps d (State.dropCues d n qs) := by
  unfold State.dropCues
  induction qs generalizing d with
  | nil => exact refl _ d
  | cons q qs ih => exact (setFifo _ (place_queue n q)).trans ih

theorem countFiring (e : Ecw) (tag : Tag) : (ofElem n).Keeps d (d.countFiring n e tag) := modElem rfl (fun _ => rfl)

theorem sendTok (e : Ecw) (second : Bool) (t : Token) : (ofElem n).Keeps d (d.sendTok n e second t) := by
  unfold PageDyn.sendTok
  split
  · exact refl _ d
  · extract_lets c d0 d1
    have h0 : (ofElem n).Keeps d d0 := setFifo _ (place_out n second)
    have h1 : (ofElem n).Keeps d0 d1 := iteInduction (fun _ => refl _ d0) (fun _ => setReps _)
    split
    · exact (h0.trans h1).trans (modElem rfl (fun _ => rfl))
    · exact h0.trans h1

theorem sendBoth (e : Ecw) (t : Token) : (ofElem n).Keeps d (d.sendBoth n e t) := (sendTok e false t).trans (sendTok e true t)

theorem sendClose (e : Ecw) (second : Bool) (t : Token) : (ofElem n).Keeps d (d.sendClose n e second t) := sendTok e second _

theorem forward (e : Ecw) (t : Token) : (ofElem n).Keeps d (d.forward n e t) := by
  unfold PageDyn.forward
  split
  · exact sendBoth e t
  · split
    · exact (sendClose e false t).trans (sendClose e true t)
    · exact sendClose e false t
    · exact refl _ d

theorem endTag (t : Token) : (ofElem n).Keeps d (d.endTag n t) := by
  unfold PageDyn.endTag
  split
  · exact modElem rfl (fun _ => rfl)
  · split
    · exact modElem rfl (fun _ => rfl)
    · exact refl _ d

end Own.Keeps

/-! ### Updates of the state -/

/-- A partition's note of a missing overflow table leaves every partition otherwise as it was (R135). -/
theorem State.part_setOvfWaits (s : State) (n : Nat) (b : Bool) (p : Nat) :
    (s.modPart n (fun x => { x with ovfWaits := b })).part p =
      { s.part p with ovfWaits := ((s.modPart n (fun x => { x with ovfWaits := b })).part p).ovfWaits } := by
  unfold State.part State.part? State.modPart
  by_cases h : p = n
  · subst h
    cases hp : s.parts.find? (fun x => x.num == p) with
    | none => simp [find?_update_none hp]
    | some x =>
      have hx : x.num = p := by simpa using List.find?_some hp
      simp [find?_update_same hp (f := fun x => { x with ovfWaits := b }) (by simp [hx])]
  · rw [find?_update_other]
    · intro x hx; simp at hx; simp [hx, Ne.symm h]
    · intro x hx; simp at hx; simp [hx, Ne.symm h]
    · intro x hx; cases hx; simp [Ne.symm h]

namespace TurnFrame

variable {k : PageKey} {o : Own} {s t u : State}

/-- Memory, pages and partitions stand. -/
theorem of_fields (hs : t.sram = s.sram) (hd : t.dram = s.dram) (hh : t.hostMem = s.hostMem) (hw : t.homeWrites = s.homeWrites)
    (hp : t.pages = s.pages) (hq : t.parts = s.parts) : TurnFrame k o s t where
  sram := hs
  dram := hd
  hostMem := hh
  homeWrites := hw
  pages k' _ := State.page?_of_pages hp k'
  parts p := by simp [State.part, State.part?, hq]
  dyn := by rw [State.dyn_of_pages hp]; exact .refl _ _

theorem refl (k : PageKey) (o : Own) (s : State) : TurnFrame k o s s := of_fields rfl rfl rfl rfl rfl rfl

theorem trans (h : TurnFrame k o s t) (h' : TurnFrame k o t u) : TurnFrame k o s u where
  sram := h'.sram.trans h.sram
  dram := h'.dram.trans h.dram
  hostMem := h'.hostMem.trans h.hostMem
  homeWrites := h'.homeWrites.trans h.homeWrites
  pages k' hk := (h'.pages k' hk).trans (h.pages k' hk)
  parts p := by rw [h'.parts p, h.parts p]
  dyn := h.dyn.trans h'.dyn

theorem sameBytes (h : TurnFrame k o s t) : SameBytes s t := by
  have hm : t.mem = s.mem := by funext sp; cases sp <;> simp [State.mem, h.sram, h.dram, h.hostMem]
  intro sp c a
  simp [State.byteAt, hm, h.homeWrites]

theorem modPage {f : Page → Page} (hk : ∀ p, (f p).key = p.key) (hd : ∀ p, o.Keeps p.dyn (f p).dyn) : TurnFrame k o s (s.modPage k f) where
  sram := rfl
  dram := rfl
  hostMem := rfl
  homeWrites := rfl
  pages k' h := State.page?_modPage_other h hk
  parts _ := rfl
  dyn := by
    unfold State.dyn
    cases hp : s.page? k with
    | none => rw [State.page?_modPage_none hp]; exact .refl _ _
    | some p => rw [State.page?_modPage_same hp (hk p)]; exact hd p

theorem modDyn {f : PageDyn → PageDyn} (hd : ∀ d, o.Keeps d (f d)) : TurnFrame k o s (s.modDyn k f) :=
  modPage (fun _ => rfl) (fun p => hd p.dyn)

theorem modElem {n : Nat} {f : ElemState → ElemState} (hn : o.elem n) (hf : ∀ x, (f x).elem = x.elem) :
    TurnFrame k o s (s.modDyn k (fun d => d.modElem n f)) :=
  modDyn (fun _ => .modElem hn hf)

theorem modActor {b : Nat} {f : ActorState → ActorState} (hb : o.actor b) (hf : ∀ x, (f x).block = x.block) :
    TurnFrame k o s (s.modDyn k (fun d => d.modActor b f)) :=
  modDyn (fun _ => .modActor hb hf)

theorem foldl {α : Type} {f : State → α → State} (hf : ∀ t x, TurnFrame k o t (f t x)) (l : List α) : TurnFrame k o s (l.foldl f s) := by
  induction l generalizing s with
  | nil => exact refl k o s
  | cons x l ih => exact (hf s x).trans ih

theorem sendCtl (c : Ctl) : TurnFrame k o s (s.sendCtl c) := of_fields rfl rfl rfl rfl rfl rfl

theorem setOvfWaits (n : Nat) (b : Bool) : TurnFrame k o s (s.modPart n (fun x => { x with ovfWaits := b })) :=
  { refl k o s with parts := State.part_setOvfWaits s n b }

theorem countStep (p : Party) (tag : Tag) : TurnFrame k o s (s.countStep p tag) := by
  obtain ⟨d, l, m, h⟩ := s.countStep_guest p tag
  rw [h]
  exact of_fields rfl rfl rfl rfl rfl rfl

theorem touch (tag : Tag) : TurnFrame k o s (s.touch k tag) := by
  have hfire : TurnFrame k o s (s.fireAt k) := modPage (fun _ => rfl) (fun p => .refl o p.dyn)
  have hframe : TurnFrame k o s ((s.fireAt k).touchFrame k.ctx.part tag) := hfire.trans (of_fields rfl rfl rfl rfl rfl rfl)
  unfold State.touch
  split
  · exact hframe.trans (countStep _ tag)
  · exact hframe

/-! #### Records and traps -/

theorem post (r : RingId) (f : FaultRec) : TurnFrame k o s (s.post r f) := by
  obtain ⟨d, l, h⟩ := post_rings s r f
  rw [h]
  exact of_fields rfl rfl rfl rfl rfl rfl

theorem noteCause (a b c : Nat) (x : Word) : TurnFrame k o s (s.noteCause a b c x) := by
  obtain ⟨d, h⟩ := noteCause_dev s a b c x
  rw [h]
  exact of_fields rfl rfl rfl rfl rfl rfl

theorem tellHyp (part cause : Nat) (x y : DWord) (c : Option CtxId) : TurnFrame k o s (s.tellHyp part cause x y c) := by
  have h : TurnFrame k o s (s.healthIrq cause) :=
    iteInduction (fun _ => of_fields rfl rfl rfl rfl rfl rfl) (fun _ => refl k o s)
  exact h.trans (post _ _)

variable {p : Party}

theorem setStopped (hp : o.has p) (v : Bool) : TurnFrame p.page o s (s.setStopped p v) := by
  unfold State.setStopped
  cases p with
  | elem k n => exact modElem hp (fun _ => rfl)
  | actor k b i => exact modActor hp (fun _ => rfl)
  | island | node | infill => exact absurd hp id

theorem setTrap (hp : o.has p) (v : Bool) : TurnFrame p.page o s (s.setTrap p v) := by
  unfold State.setTrap
  cases p with
  | elem k n => exact modElem hp (fun _ => rfl)
  | actor k b i => exact modActor hp (fun _ => rfl)
  | island | node | infill => exact absurd hp id

theorem setTraps (l : List TrapMsg) : TurnFrame k o s { s with traps := l } := of_fields rfl rfl rfl rfl rfl rfl

/-- Path P (R346). -/
theorem faultWide (hp : o.has p) (cause : Nat) (tag : Tag) (x : DWord) (node : Nat) :
    TurnFrame p.page o s (s.faultWide cause p tag x node) := by
  unfold State.faultWide
  extract_lets k own c r s1 has
  have h1 : TurnFrame p.page o s s1 := (post _ _).trans (setStopped hp true)
  split
  · exact h1.trans (setTraps _)
  · exact h1

theorem faultP (hp : o.has p) (cause : Nat) (tag : Tag) (v : Word) (node : Nat) : TurnFrame p.page o s (s.faultP cause p tag v node) :=
  faultWide hp cause tag _ node

/-- Path T (R31, R346). -/
theorem trapT (hp : o.has p) (cause x : Nat) (tag : Tag) (v : Word) : TurnFrame p.page o s (s.trapT cause x p tag v) := by
  unfold State.trapT
  extract_lets k has t s1
  split
  · exact (post _ _).trans (setStopped hp true)
  · split
    · exact ((setTraps _).trans (setTrap hp true)).trans (noteCause _ _ _ _)
    · exact (post _ _).trans (setStopped hp true)

theorem raiseFlags (hp : o.has p) (f : Flags) (tag : Tag) (v : Word) : TurnFrame p.page o s (s.raiseFlags f p tag v) := by
  unfold State.raiseFlags
  extract_lets k s1
  have h1 : TurnFrame p.page o s s1 := modDyn (fun _ => .setFlags f)
  split
  · exact h1.trans (trapT hp _ _ tag v)
  · exact h1

/-- Entries that find their sets full (R135): the table takes them, or the hypervisor is told, or the party stops. -/
theorem spillInto (hp : o.has p) (count : Nat) (tag : Tag) {put : State → State} (hput : TurnFrame p.page o s (put s)) :
    TurnFrame p.page o s (s.spillInto p.page count p tag put) := by
  unfold State.spillInto
  extract_lets part t u
  split
  · split
    · exact refl _ o s
    · exact (tellHyp _ _ _ _ _).trans (setOvfWaits _ _)
  · split
    · exact faultP hp _ tag _ _
    · have hu : TurnFrame p.page o s u := (hput.trans (setOvfWaits _ _)).trans (of_fields rfl rfl rfl rfl rfl rfl)
      split
      · exact hu.trans (post _ _)
      · exact hu

end TurnFrame

/-! ### The turn of an element -/

namespace TurnFrame

variable {k : PageKey} {n : Nat} {s : State}

theorem elemWaits (e : Ecw) (tag : Tag) : TurnFrame k (.ofElem n) s (s.elemWaits k n e tag) := by
  unfold State.elemWaits
  split
  · split
    · exact spillInto (Own.has_elem k n) 1 tag (modElem rfl (fun _ => rfl))
    · exact refl _ _ s
  · exact refl _ _ s

theorem sinkEos (tag : Tag) : TurnFrame k (.ofElem n) s (s.sinkEos k n tag) := by
  unfold State.sinkEos
  extract_lets s1 c hdr
  have h1 : TurnFrame k (.ofElem n) s s1 := modElem rfl (fun _ => rfl)
  exact h1.trans (foldl (fun t _ => sendCtl _) _)

theorem closeElem (e : Ecw) (t : Token) : TurnFrame k (.ofElem n) s (s.closeElem k n e t) := by
  unfold State.closeElem
  extract_lets s1
  have h1 : TurnFrame k (.ofElem n) s s1 := (touch t.tag).trans (modDyn (fun _ => ((Own.Keeps.popAll _).trans (.forward e t)).trans (.endTag t)))
  split
  · exact h1.trans (sinkEos t.tag)
  · exact h1

theorem strikeElem (e : Ecw) (t : Token) : TurnFrame k (.ofElem n) s (s.strikeElem k n e t) :=
  (touch t.tag).trans (modDyn (fun _ => (Own.Keeps.popAll _).trans (.sendBoth e t)))

theorem cutElem : TurnFrame k (.ofElem n) s (s.cutElem k n) :=
  modPage (fun _ => rfl) (fun _ => .modElem rfl (fun _ => rfl))

theorem cueElem (e : Ecw) (both : Bool) (t : Token) : TurnFrame k (.ofElem n) s (s.cueElem k n e both t) := by
  unfold State.cueElem
  extract_lets mine behind s1
  split
  · exact refl _ _ s
  · have h1 : TurnFrame k (.ofElem n) s s1 := of_fields rfl rfl rfl rfl rfl rfl
    have hfire : TurnFrame k (.ofElem n) s1 (s1.fireAt k) := modPage (fun _ => rfl) (fun p => .refl _ p.dyn)
    refine ((h1.trans hfire).trans cutElem).trans (modDyn (fun d => (Own.Keeps.dropCues (s.cueQueues k n e)).trans ?_))
    split
    · exact .sendBoth e t
    · exact .sendTok e false t

theorem taken (e : Ecw) (tag : Tag) : TurnFrame k (.ofElem n) s (s.taken k n e tag) :=
  (touch tag).trans (modDyn (fun _ => (Own.Keeps.popAll _).trans (.countFiring e tag)))

theorem emitBoth (e : Ecw) (tag : Tag) (v : Val) : TurnFrame k (.ofElem n) s (s.emitBoth k n e tag v) := by
  refine modDyn (fun d => ?_)
  split
  · exact .sendBoth e _
  · exact .refl _ d

/-- A data opcode keeps to its element when its own effect does (R79, R97). -/
theorem fireElem {tri : Bool} {data : Args → State → State} (e : Ecw)
    (hdata : ∀ g t, TurnFrame k (.ofElem n) t (data g t)) :
    TurnFrame k (.ofElem n) s (fireElem tri (fun _ _ => none) data e k n s) := by
  have hfault (cause : Nat) (tag : Tag) (v : Word) : TurnFrame k (.ofElem n) s (s.faultP cause (.elem k n) tag v 0) :=
    faultP (Own.has_elem k n) cause tag v 0
  unfold Machine.fireElem fireWith
  cases s.elemHeads k n e with
  | wait => exact refl _ _ s
  | skew t => exact iteInduction (fun _ => hfault _ _ _) (fun _ => refl _ _ s)
  | cue t => exact iteInduction (fun _ => cueElem e true t) (fun _ => refl _ _ s)
  | strikes t => exact iteInduction (fun _ => strikeElem e t) (fun _ => elemWaits e t.tag)
  | closing t => exact iteInduction (fun _ => closeElem e t) (fun _ => elemWaits e t.tag)
  | data ts =>
    dsimp -zeta only
    extract_lets g s1
    have h1 : TurnFrame k (.ofElem n) s s1 := taken e g.tag
    split
    · exact elemWaits e g.tag
    · split
      · exact hfault _ _ _
      · exact iteInduction (fun _ => h1.trans (hdata g s1)) (fun _ => h1)

end TurnFrame

/-! ### The turn of an instruction of a block -/

namespace TurnFrame

variable {k : PageKey} {b : Nat} {s : State}

theorem modFiring (f : Firing → Firing) : TurnFrame k (.ofActor b) s (s.modFiring k b f) :=
  modActor rfl (fun _ => rfl)

theorem countSend (tag : Tag) (edge : Nat) : TurnFrame k (.ofActor b) s (s.countSend k b tag edge) :=
  modActor rfl (fun _ => rfl)

theorem deliverTo (i : Nat) (second : Bool) (t : Target) (kind : Kind) (tag : Tag) (v : Val) :
    TurnFrame k (.ofActor b) s (s.deliverTo k b i second t kind tag v) := by
  cases t with
  | none => exact refl _ _ s
  | left j | right j | pred j => exact modFiring _
  | lane l =>
    unfold State.deliverTo
    refine trans ?_ (modDyn (fun _ => .setFifo _ (Own.place_laneIn b l.toNat)))
    exact iteInduction (fun _ => countSend tag _) (fun _ => refl _ _ s)
  | emit port =>
    unfold State.deliverTo
    dsimp only
    split
    · exact refl _ _ s
    · split
      · exact refl _ _ s
      · split
        · exact refl _ _ s
        · exact modFiring _

theorem give (i : Nat) (w : Blk) (tag : Tag) (v : Val) : TurnFrame k (.ofActor b) s (s.give k b i w tag v) :=
  ((modFiring _).trans (deliverTo i false w.t1 .data tag v)).trans (deliverTo i true w.t2 .data tag v)

theorem blockWaits (left right : Bool) (third : Word) (w : Blk) (i : Nat) :
    TurnFrame k (.ofActor b) s (s.blockWaits left right third w k b i) := by
  have hspill (f : Firing) : TurnFrame k (.ofActor b) s (s.spillFor k b i w f) := by
    unfold State.spillFor
    split
    · exact refl _ _ s
    · exact spillInto (Own.has_actor k b i) _ _ (modActor rfl (fun _ => rfl))
  unfold State.blockWaits
  split
  · exact refl _ _ s
  · split
    · exact refl _ _ s
    · exact iteInduction (fun _ => hspill _) (fun _ => refl _ _ s)

/-- An instruction keeps to its block when its own effect does (R56, R132). -/
theorem fireBlock {left right : Bool} {third : Word} {data : Args → State → State} (w : Blk) (i : Nat)
    (hdata : ∀ g, TurnFrame k (.ofActor b) s (data g s)) :
    TurnFrame k (.ofActor b) s (fireBlock left right third data w k b i s) := by
  unfold Machine.fireBlock
  split
  · exact blockWaits left right third w i
  · split
    · exact refl _ _ s
    · exact iteInduction (fun _ => hdata _) (fun _ => modFiring _)

end TurnFrame

/-! ### The two obligations -/

theorem scalar_elem_turnFrame {e : Ecw} {m : Nat} {op : Args → Res} {k : PageKey} {n : Nat} {s t : State}
    (hcur : s.cur = some (.party (.elem k n))) (h : scalar (.elem e) m op s = .next t) : TurnFrame k (.ofElem n) s t := by
  unfold scalar runForm at h
  rw [hcur] at h
  cases h
  exact .fireElem e (fun g _ => (TurnFrame.emitBoth e g.tag _).trans (.raiseFlags (Own.has_elem k n) _ g.tag _))

theorem scalar_block_turnFrame {w : Blk} {m : Nat} {op : Args → Res} {k : PageKey} {b i : Nat} {s t : State}
    (hcur : s.cur = some (.party (.actor k b i))) (h : scalar (.block w) m op s = .next t) : TurnFrame k (.ofActor b) s t := by
  unfold scalar runForm at h
  rw [hcur] at h
  cases h
  exact .fireBlock w i (fun g => (TurnFrame.give i w g.tag _).trans (.raiseFlags (Own.has_actor k b i) _ g.tag _))

/-- Settles O55: every operation of the element's turn keeps to the element. -/
theorem elementsChangeOnlyTheirOwnState : Obligations.ElementsChangeOnlyTheirOwnState := by
  unfold Obligations.ElementsChangeOnlyTheirOwnState
  intro i o e k n s t ho hf hcur h
  rw [exec_statelessOp ho, hf] at h
  have hframe := scalar_elem_turnFrame hcur h
  obtain ⟨helem, hactor, hisland, hargs, hnode, haflg, hplace⟩ := hframe.dyn
  exact ⟨hframe.sameBytes, hframe.pages, hframe.parts, helem, fun b => hactor b id, hisland, hargs, hnode, haflg,
    fun p hq ho => hplace p (fun hp => hp.elim (fun ⟨q, h⟩ => hq q h) (fun ⟨b, h⟩ => ho b h))⟩

/-- Settles O56: every operation of the instruction's turn keeps to its block and the island's input lanes. -/
theorem blocksChangeOnlyTheirOwnState : Obligations.BlocksChangeOnlyTheirOwnState := by
  unfold Obligations.BlocksChangeOnlyTheirOwnState
  intro i o w k b j s t ho hf hcur h
  rw [exec_statelessOp ho, hf] at h
  have hframe := scalar_block_turnFrame hcur h
  obtain ⟨helem, hactor, hisland, hargs, hnode, haflg, hplace⟩ := hframe.dyn
  exact ⟨hframe.sameBytes, hframe.pages, fun m => helem m id, hactor, hisland, hargs, hnode, haflg,
    fun p hl => hplace p (fun ⟨l, h⟩ => hl l h)⟩

end Sys2Proof.Machine
end

section
/-!
PROOF. The scalar opcodes that read more than their operands: NOP, LEA, ARG, WID and FSCL (R91, R107, R120, R160, R161).
-/
namespace Sys2Proof.Machine

/-! ### A form in its own party's turn -/

/-- An element form in its element's turn runs the element's meaning (R86). -/
theorem runForm_elem {s : State} {k : PageKey} {n : Nat} (e : Ecw) (elem : Ecw → PageKey → Nat → State)
    (block : Blk → PageKey → Nat → Nat → State) (hcur : s.cur = some (.party (.elem k n))) :
    runForm (.elem e) s elem block = .next (elem e k n) := by
  simp only [runForm, hcur]

/-- A block form in its block's turn runs the block's meaning (R86). -/
theorem runForm_block {s : State} {k : PageKey} {b j : Nat} (w : Blk) (elem : Ecw → PageKey → Nat → State)
    (block : Blk → PageKey → Nat → Nat → State) (hcur : s.cur = some (.party (.actor k b j))) :
    runForm (.block w) s elem block = .next (block w k b j) := by
  simp only [runForm, hcur]

/-! ### What each of the opcodes reads -/

/-- LEA is a stateless opcode on the descriptor that X names of the party's page (R107). -/
theorem exec_lea {s : State} {q : Party} {p : Page} (f : Form) (hcur : s.cur = some (.party q)) (hpage : s.page? q.page = some p) :
    exec (.lea f) s = scalar f 2 (fun g => leaOp f.md (p.desc (f.x % 8)).low (p.desc (f.x % 8)).limit g.a.v g.b.v) s := by
  change execLea f s = _
  simp only [execLea, hcur, hpage]

/-- ARG is a stateless opcode on the argument slot that X names of the party's page (R161). -/
theorem exec_arg {s : State} {q : Party} (f : Form) (hcur : s.cur = some (.party q)) :
    exec (.arg f) s = scalar f 0 (fun _ => (((s.turnArgs q.page)[f.x % 32]?).getD 0, Flags.none)) s := by
  change execArg f s = _
  simp only [execArg, hcur]

/-- FSCL finds nothing to stop it on operands of the SC kinds that X asks for (R120). -/
theorem fscl_scales_ok {a b : Bool} {x : Nat} (ha : a = fsclWant x) (hb : b = false) : (a != fsclWant x || b) = false := by
  simp [ha, hb]

/-! ### NOP -/

theorem exec_nop_elem {s : State} {k : PageKey} {n : Nat} (hcur : s.cur = some (.party (.elem k n))) :
    exec (.nop .elem) s = .next s := by
  change execNop .elem s = _
  simp only [execNop, hcur]

/-- A block NOP takes its issue slot in the firing and gives nothing (R91). -/
theorem exec_nop_block {s : State} {k : PageKey} {b j : Nat} {g : Args}
    (h : BlockFires false false 0 { pm := .always, ty := .i32, md := 0, ri := false, t1 := .none, t2 := .none, x := 0, imm := 0 } k b j s g) :
    exec (.nop .block) s = .next (s.giveNone k b j) := by
  change execNop .block s = _
  simp only [execNop, h.1]
  rw [fireBlock_fires h]

theorem exec_nop_island {s : State} {k : PageKey} (hcur : s.cur = some (.party (.island k))) :
    exec (.nop .island) s = .next (if s.islandRuns k then
      (s.modDyn k (fun d => { d with island := d.island.advance })).touch k (s.dyn k).island.tag else s) := by
  change execNop .island s = _
  simp only [execNop, hcur]

/-! ### Firings in an element -/

section Element
variable {e : Ecw} {k : PageKey} {n : Nat} {s : State} {g : Args}

theorem exec_lea_elem {p : Page} (h : ElemFires false e k n s g) (hpage : s.page? k = some p) :
    exec (.lea (.elem e)) s = .next ((s.taken k n e g.tag).emitResult k n e g
      ⟨.elem e, 2, fun g => leaOp e.md.toNat (p.desc (e.x.toNat % 8)).low (p.desc (e.x.toNat % 8)).limit g.a.v g.b.v⟩) :=
  (exec_lea _ h.1 hpage).trans (scalar_elem rfl h)

theorem exec_arg_elem (h : ElemFires false e k n s g) :
    exec (.arg (.elem e)) s = .next ((s.taken k n e g.tag).emitResult k n e g
      ⟨.elem e, 0, fun _ => (((s.turnArgs k)[e.x.toNat % 32]?).getD 0, Flags.none)⟩) :=
  (exec_arg _ h.1).trans (scalar_elem rfl h)

/-- The lattice is read behind the heads of the firing (R160). -/
theorem exec_wid_elem (h : ElemFires false e k n s g) :
    let r := widResult (s.taken k n e g.tag) k.ctx.part (bitsOf e.x.toNat 0 4) g
    exec (.wid (.elem e)) s = .next (r.2.emitBoth k n e g.tag (g.val 2 r.1)) := by
  change execWid (.elem e) s = _
  rw [execWid, runForm_elem _ _ _ h.1, fireElem_fires h rfl]

theorem exec_fscl_elem (h : ElemFires false e k n s g) (ha : g.a.sc = fsclWant e.x.toNat) (hb : g.b.sc = false) :
    let r := lanes2 e.ty (fmulLane (Fmt.ofTy e.ty) e.md.toNat) g.a.v g.b.v
    exec (.fscl (.elem e)) s = .next (((s.taken k n e g.tag).emitBoth k n e g.tag { v := r.1, sc := !fsclWant e.x.toNat, dep := g.dep }).raiseFlags
      r.2 (.elem k n) g.tag r.1) := by
  have hcheck := fscl_scales_ok ha hb
  change execFscl (.elem e) s = _
  rw [execFscl, runForm_elem _ _ _ h.1, fireElem_fires h (by simp [Form.x, hcheck])]
  rfl

end Element

/-! ### Firings in a block -/

section Block
variable {w : Blk} {k : PageKey} {b j : Nat} {s : State} {g : Args}

theorem exec_lea_block {p : Page} (h : BlockFires true true 0 w k b j s g) (hpage : s.page? k = some p) :
    exec (.lea (.block w)) s = .next (s.giveResult k b j w g
      ⟨.block w, 2, fun g => leaOp w.md.toNat (p.desc (w.x.toNat % 8)).low (p.desc (w.x.toNat % 8)).limit g.a.v g.b.v⟩) :=
  (exec_lea _ h.1 hpage).trans (scalar_blk rfl h)

theorem exec_arg_block (h : BlockFires true false (thirdOf w k b s) w k b j s g) :
    exec (.arg (.block w)) s = .next (s.giveResult k b j w g
      ⟨.block w, 0, fun _ => (((s.turnArgs k)[w.x.toNat % 32]?).getD 0, Flags.none)⟩) :=
  (exec_arg _ h.1).trans (scalar_blk rfl h)

theorem exec_wid_block (h : BlockFires true true 0 w k b j s g) :
    let r := widResult s k.ctx.part (bitsOf w.x.toNat 0 4) g
    exec (.wid (.block w)) s = .next (r.2.give k b j w g.tag (g.val 2 r.1)) := by
  change execWid (.block w) s = _
  rw [execWid, runForm_block _ _ _ h.1, fireBlock_fires h]

theorem exec_fscl_block (h : BlockFires true true 0 w k b j s g) (ha : g.a.sc = fsclWant w.x.toNat) (hb : g.b.sc = false) :
    let r := lanes2 w.ty (fmulLane (Fmt.ofTy w.ty) w.md.toNat) g.a.v g.b.v
    exec (.fscl (.block w)) s = .next ((s.give k b j w g.tag { v := r.1, sc := !fsclWant w.x.toNat, dep := g.dep }).raiseFlags
      r.2 (.actor k b j) g.tag r.1) := by
  have hcheck := fscl_scales_ok ha hb
  change execFscl (.block w) s = _
  rw [execFscl, runForm_block _ _ _ h.1, fireBlock_fires h]
  simp only [Form.x, hcheck]
  rfl

end Block

/-- Settles O4: LEA and ARG run as stateless opcodes on what they read of the page, and NOP, WID and FSCL by the runners of
their party's firings. -/
theorem scalarWithStateGivesResult : Obligations.ScalarWithStateGivesResult := by
  unfold Obligations.ScalarWithStateGivesResult
  refine ⟨?nopElem, ?nopBlock, ?nopIsland, ?pageElem, ?pageBlock, ?opElem, ?opBlock⟩
  case nopElem => exact fun s k n hcur => exec_nop_elem hcur
  case nopBlock => exact fun s k b j g h => exec_nop_block h
  case nopIsland => exact fun s k hcur => exec_nop_island hcur
  case pageElem => exact fun e k n s p g h hpage => ⟨exec_lea_elem h hpage, exec_arg_elem h⟩
  case pageBlock => exact fun w k b j s p g hpage => ⟨fun h => exec_lea_block h hpage, exec_arg_block⟩
  case opElem => exact fun e k n s g h => ⟨exec_wid_elem h, exec_fscl_elem h⟩
  case opBlock => exact fun w k b j s g h => ⟨exec_wid_block h, exec_fscl_block h⟩

end Sys2Proof.Machine
end

section
/-!
PROOF. The state behind every stateless opcode, which `scalar` runs (R79, R96, R132), the MD that most of them reserve (R96), and
the logic opcodes (R102).
-/
namespace Sys2Proof.Machine
open Sys2Proof.Laws.Coding (chk_nil)

/-! ### The state behind a stateless opcode -/

/-- Settles O1: every stateless opcode is run by `scalar`, and a data firing of an element under `scalar` gives its result. -/
theorem statelessElementGivesResult : Obligations.StatelessElementGivesResult := by
  unfold Obligations.StatelessElementGivesResult
  intro i o e k n s g ho hf h
  rw [exec_statelessOp ho, scalar_elem hf h]

/-- Settles O2: every stateless opcode is run by `scalar`, and a firing of a block's instruction under `scalar` gives its
result. -/
theorem statelessBlockGivesResult : Obligations.StatelessBlockGivesResult := by
  unfold Obligations.StatelessBlockGivesResult
  intro i o w k b j s g ho hf h
  rw [exec_statelessOp ho, scalar_blk hf h]

/-! ### A reserved MD -/

/-- A well-formed word passes the checks of its rule. -/
theorem wf_ruleCauses {site : Site} {i : Instr} {f : Form} {r : Rule} {p : Bool} (hn : ∀ q, i ≠ .nop q) (hi : islandRule i = none)
    (hr : ruleOf site i = some (f, r, p)) (h : WellFormed site i) : r.causes f.md f.x = [] := by
  unfold WellFormed wordCauses at h
  split at h
  · cases h
  · split at h
    · exact absurd rfl (hn _)
    · simp only [hi, hr, List.append_eq_nil_iff] at h
      obtain ⟨-, ⟨-, hcauses⟩, -⟩ := h
      exact hcauses

/-- A rule that does not use MD refuses every value of it but 000 (R96). -/
theorem md_eq_zero_of_ruleCauses {r : Rule} {md x : Nat} (hr : r.mdUsed = false) (h : r.causes md x = []) : md = 0 := by
  simp only [Rule.causes, List.append_eq_nil_iff, chk_nil] at h
  obtain ⟨⟨⟨⟨⟨⟨hmd, -⟩, -⟩, -⟩, -⟩, -⟩, -⟩ := h
  simpa [hr] using hmd

theorem wf_md_eq_zero {site : Site} {i : Instr} {f : Form} {r : Rule} {p : Bool} (hn : ∀ q, i ≠ .nop q) (hi : islandRule i = none)
    (hr : ruleOf site i = some (f, r, p)) (hmd : r.mdUsed = false) (h : WellFormed site i) : f.md = 0 :=
  md_eq_zero_of_ruleCauses hmd (wf_ruleCauses hn hi hr h)

/-! ### Logic opcodes -/

/-- Settles O41: each opcode is the bitwise operation of its name in every firing, and its rule does not use MD. -/
theorem logicOpcodesActOnAllBits : Obligations.LogicOpcodesActOnAllBits := by
  unfold Obligations.LogicOpcodesActOnAllBits
  refine ⟨?and, ?or, ?xor, ?andn, ?not, ?word⟩
  case and => exact firingGives_of_scalar (fun _ _ => rfl) (fun _ g => ⟨rfl, fun i _ => BitVec.getLsbD_and⟩)
  case or => exact firingGives_of_scalar (fun _ _ => rfl) (fun _ g => ⟨rfl, fun i _ => BitVec.getLsbD_or⟩)
  case xor => exact firingGives_of_scalar (fun _ _ => rfl) (fun _ g => ⟨rfl, fun i _ => BitVec.getLsbD_xor⟩)
  case andn => exact firingGives_of_scalar (fun _ _ => rfl) (fun _ g => ⟨rfl, fun i hi => by simp [hi]⟩)
  case not => exact firingGives_of_scalar (fun _ _ => rfl) (fun _ g => ⟨rfl, fun i hi => by simp [hi]⟩)
  case word =>
    intro f p hp
    simp only [List.mem_cons, List.not_mem_nil, or_false] at hp
    obtain rfl | rfl | rfl | rfl | rfl := hp
    all_goals exact ⟨⟨rfl, rfl⟩, fun site h => wf_md_eq_zero (by simp) rfl rfl rfl h⟩

end Sys2Proof.Machine
end

section
/-!
PROOF. The bits of a word as a list, which the unary bit opcodes search, count and read backwards (R104), and the bytes that
BYTEP selects (R106).
-/
namespace Sys2Proof.Machine

/-! ### Unary bit opcodes -/

@[simp] theorem length_bitsDown (a : Word) : (bitsDown a).length = 32 := by simp [bitsDown]

theorem getElem_bitsDown (a : Word) {i : Nat} (hi : i < (bitsDown a).length) : (bitsDown a)[i] = a.getLsbD (31 - i) := by
  simp [bitsDown]

/-- Read backwards, the bits stand from bit 0 up. -/
theorem reverse_bitsDown (a : Word) : (bitsDown a).reverse = (List.range 32).map (fun i => a.getLsbD i) := by
  refine List.ext_getElem (by simp) fun i hi _ => ?_
  have h32 : i < 32 := by simpa using hi
  rw [List.getElem_reverse, getElem_bitsDown]
  simp [show 31 - (31 - i) = i by omega]

theorem leadFalse_eq_findIdx (l : List Bool) : leadFalse l = l.findIdx id := by
  induction l with
  | nil => rfl
  | cons b bs ih => cases b <;> simp [leadFalse, List.findIdx_cons, ih, Nat.add_comm]

/-- As a word, the number of leading false elements of a list of 32 has only false before it, and true behind them. -/
theorem leadFalse_spec {l : List Bool} {b : Nat → Bool} (hl : l.length = 32) (hb : ∀ i (h : i < l.length), l[i] = b i) :
    (BitVec.ofNat 32 (leadFalse l)).toNat ≤ 32 ∧ (∀ i < (BitVec.ofNat 32 (leadFalse l)).toNat, b i = false) ∧
      ((BitVec.ofNat 32 (leadFalse l)).toNat < 32 → b (BitVec.ofNat 32 (leadFalse l)).toNat = true) := by
  have hle : leadFalse l ≤ 32 := by rw [leadFalse_eq_findIdx, ← hl]; exact List.findIdx_le_length
  have hnat : (BitVec.ofNat 32 (leadFalse l)).toNat = leadFalse l := by
    rw [BitVec.toNat_ofNat, Nat.mod_eq_of_lt (by omega)]
  rw [hnat]
  refine ⟨hle, fun i hi => ?_, fun hlt => ?_⟩
  · rw [← hb i (by omega)]
    simpa using List.not_of_lt_findIdx (p := id) (by rwa [← leadFalse_eq_findIdx])
  · rw [← hb _ (by omega)]
    simp only [leadFalse_eq_findIdx]
    exact List.findIdx_getElem (p := id)

theorem popcOp_toNat (a : Word) : (popcOp a).1.toNat = ((List.range 32).filter (fun i => a.getLsbD i)).length := by
  have hcount : ((bitsDown a).filter id).length = ((List.range 32).filter (fun i => a.getLsbD i)).length := by
    rw [← List.length_reverse, ← List.filter_reverse, reverse_bitsDown, List.filter_map, List.length_map]; rfl
  have hle : ((bitsDown a).filter id).length ≤ 32 := length_bitsDown a ▸ List.length_filter_le id (bitsDown a)
  rw [popcOp, BitVec.toNat_ofNat, Nat.mod_eq_of_lt (by omega), hcount]

theorem testBit_ofBits (l : List Bool) (i : Nat) : (ofBits l).testBit i = l[i]?.getD false := by
  induction l generalizing i with
  | nil => rw [ofBits, Nat.zero_testBit]; rfl
  | cons b bs ih =>
    cases i with
    | zero =>
      rw [Nat.testBit_zero, ofBits, Nat.add_mul_mod_self_left]
      cases b <;> rfl
    | succ i =>
      have hhalf : ofBits (b :: bs) / 2 = ofBits bs := by rw [ofBits]; split <;> omega
      rw [Nat.testBit_succ, hhalf, ih]; rfl

theorem brevOp_getLsbD (a : Word) {i : Nat} (hi : i < 32) : (brevOp a).1.getLsbD (31 - i) = a.getLsbD i := by
  rw [brevOp, BitVec.getLsbD_ofNat, testBit_ofBits, List.getElem?_eq_getElem (by simp; omega), Option.getD_some, getElem_bitsDown]
  simp [show 31 - i < 32 by omega, show 31 - (31 - i) = i by omega]

/-- Settles O42: CLZ and CTZ find the first set bit of the bits from the top down and from the bottom up, POPC counts the same
bits, and BREV reads them as the bits of a word. -/
theorem unaryBitOpcodesCountAndReverse : Obligations.UnaryBitOpcodesCountAndReverse := by
  unfold Obligations.UnaryBitOpcodesCountAndReverse
  refine ⟨?clz, ?ctz, ?popc, ?brev, fun _ => ⟨rfl, rfl, rfl, rfl⟩⟩
  case clz =>
    exact firingGives_of_scalar (fun _ _ => rfl) fun _ g =>
      ⟨rfl, leadFalse_spec (b := fun i => g.a.v.getLsbD (31 - i)) (length_bitsDown _) (fun _ h => getElem_bitsDown _ h)⟩
  case ctz =>
    exact firingGives_of_scalar (fun _ _ => rfl) fun _ g =>
      ⟨rfl, leadFalse_spec (b := fun i => g.a.v.getLsbD i) (by simp) (fun _ h => by simp [reverse_bitsDown])⟩
  case popc => exact firingGives_of_scalar (fun _ _ => rfl) fun _ g => ⟨rfl, popcOp_toNat g.a.v⟩
  case brev => exact firingGives_of_scalar (fun _ _ => rfl) fun _ g => ⟨rfl, fun _ hi => brevOp_getLsbD g.a.v hi⟩

/-! ### Byte permutation -/

/-- Of the four bits that select a byte, the top one gives 0x00 and the other three number the byte (R106). -/
theorem bytepByte_eq (a b c : Word) (i : Nat) : bytepByte a b c i =
    if c.getLsbD (4 * i + 3) then 0
    else if bitsOf c.toNat (4 * i) 3 < 4 then laneNat 8 (bitsOf c.toNat (4 * i) 3) a
    else laneNat 8 (bitsOf c.toNat (4 * i) 3 - 4) b := by
  have htop : c.getLsbD (4 * i + 3) = true ↔ 8 ≤ bitsOf c.toNat (4 * i) 4 := by
    rw [BitVec.getLsbD, Nat.testBit_eq_decide_div_mod_eq, Nat.pow_add, ← Nat.div_div_eq_div_mul, bitsOf, decide_eq_true_iff]
    omega
  simp only [bytepByte]
  by_cases h : c.getLsbD (4 * i + 3) = true
  · rw [if_pos (htop.mp h), if_pos h]
  · have hlt : ¬8 ≤ bitsOf c.toNat (4 * i) 4 := fun hc => h (htop.mpr hc)
    have hsel : bitsOf c.toNat (4 * i) 4 = bitsOf c.toNat (4 * i) 3 := by unfold bitsOf at hlt ⊢; omega
    rw [if_neg hlt, if_neg h, hsel]

theorem bytepByte_lt (a b c : Word) (i : Nat) : bytepByte a b c i < 2 ^ 8 := by
  simp only [bytepByte]
  split
  · exact Nat.two_pow_pos 8
  · split <;> exact laneNat_lt _ _ _

theorem laneNat_bytepOp (a b c : Word) {i : Nat} (hi : i < 4) : laneNat 8 i (bytepOp a b c).1 = bytepByte a b c i := by
  rw [bytepOp, laneNat_packWord (by simpa using hi) (by simp)]
  simp only [List.getElem_map, List.getElem_range]
  exact Nat.mod_eq_of_lt (bytepByte_lt a b c i)

/-- Settles O43: each byte of the result is `bytepByte`, which the selector's bits decide as R106 says. -/
theorem bytepSelectsBytes : Obligations.BytepSelectsBytes := by
  unfold Obligations.BytepSelectsBytes
  refine ⟨firingGives_of_scalar (op := fun _ g => bytepOp g.a.v g.b.v g.c.v) (fun _ _ => rfl) fun _ g =>
    ⟨rfl, fun i hi => ?bytes, fun ha hb hc => ?worked⟩, fun _ => ⟨rfl, rfl⟩⟩
  case bytes => exact (laneNat_bytepOp _ _ _ hi).trans (bytepByte_eq _ _ _ i)
  case worked => rw [ha, hb, hc]; decide

end Sys2Proof.Machine
end

section
/-!
PROOF. FABS and FNEG (R116): a lane's code as a sign above a magnitude, and the same in each lane of a word.
-/
namespace Sys2Proof.Machine

/-! ### The sign of a lane -/

theorem lanes1_eq_lanes2 (t : Ty) (f : Nat → Nat × Flags) (a : Word) : lanes1 t f a = lanes2 t (fun x _ => f x) a a := by
  rw [lanes1, lanes2, List.zipWith_self]

/-- Lane results without flags give a word without flags (R99). -/
theorem lanes1_plain_flags (t : Ty) (f : Nat → Nat) (a : Word) : (lanes1 t (fun x => plain (f x)) a).2 = Flags.none := by
  rw [lanes1_eq_lanes2, lanes2_flags, unionAll_eq_any]
  simp [plain, Flags.none]

/-- Bit `i` of a word stands in lane `i / w`. -/
theorem getLsbD_eq_testBit_laneNat {w : Nat} (hw : 0 < w) (v : Word) (i : Nat) :
    v.getLsbD i = (laneNat w (i / w) v).testBit (i % w) := by
  rw [laneNat, Nat.testBit_mod_two_pow, Nat.testBit_div_two_pow, Nat.mod_add_div, BitVec.getLsbD]
  simp [Nat.mod_lt i hw]

namespace Fmt

/-- A magnitude behind a sign: the sign stands on top, the bits below it are the magnitude's. -/
theorem testBit_code_mag (f : Fmt) (s : Bool) (x : Nat) {j : Nat} (hj : j ≤ f.ebits + f.mbits) :
    (f.code s (f.mag x)).testBit j = if j = f.ebits + f.mbits then s else x.testBit j := by
  have htop : ((x % f.signBit).testBit (f.ebits + f.mbits)) = false := Nat.testBit_lt_two_pow (Nat.mod_lt _ (Nat.two_pow_pos _))
  have hlow (h : j < f.ebits + f.mbits) : (x % f.signBit).testBit j = x.testBit j := by
    simp [signBit, Nat.testBit_mod_two_pow, h]
  simp only [code, mag]
  obtain rfl | h := Nat.eq_or_lt_of_le hj
  · cases s with
    | false => simpa using htop
    | true => rw [if_pos rfl, if_pos rfl, signBit, Nat.testBit_two_pow_add_eq, ← signBit, htop]; rfl
  · rw [if_neg (Nat.ne_of_lt h), ← hlow h]
    cases s with
    | false => rfl
    | true => rw [if_pos rfl, signBit, Nat.testBit_two_pow_add_gt h]

theorem neg_eq_testBit (f : Fmt) (x : Nat) : f.neg x = x.testBit (f.ebits + f.mbits) := by
  rw [neg, Nat.testBit_eq_decide_div_mod_eq, signBit]; rfl

end Fmt

theorem Fmt.width_ofTy {t : Ty} (ht : t ∈ [Ty.f32, .bf16x2, .f16x2]) : (Fmt.ofTy t).ebits + (Fmt.ofTy t).mbits + 1 = t.width := by
  simp only [List.mem_cons, List.not_mem_nil, or_false] at ht
  obtain rfl | rfl | rfl := ht <;> rfl

/-- The top bit of a lane is the sign of its code (R14). -/
theorem succ_mod_width_eq_zero_iff {t : Ty} (ht : t ∈ [Ty.f32, .bf16x2, .f16x2]) (i : Nat) :
    (i + 1) % t.width = 0 ↔ i % t.width = (Fmt.ofTy t).ebits + (Fmt.ofTy t).mbits := by
  rw [← Fmt.width_ofTy ht]; exact Nat.succ_mod_succ_eq_zero_iff

/-- A sign put before the magnitude in every lane of FP32, BF16 or FP16 takes the lanes' top bits and no other. -/
theorem getLsbD_lanes1_code {t : Ty} (ht : t ∈ [Ty.f32, .bf16x2, .f16x2]) (s : Nat → Bool) (a : Word) {i : Nat} (hi : i < 32) :
    (lanes1 t (fun x => plain ((Fmt.ofTy t).code (s x) ((Fmt.ofTy t).mag x))) a).1.getLsbD i =
      if (i + 1) % t.width = 0 then s (laneNat t.width (i / t.width) a) else a.getLsbD i := by
  have hw := Fmt.width_ofTy ht
  have hpos : 0 < t.width := by omega
  have hlane : i / t.width < t.lanes := Nat.div_lt_of_lt_mul (by rwa [t.width_mul_lanes])
  have hbit : i % t.width < t.width := Nat.mod_lt i hpos
  calc (lanes1 t (fun x => plain ((Fmt.ofTy t).code (s x) ((Fmt.ofTy t).mag x))) a).1.getLsbD i
      = ((Fmt.ofTy t).code (s (laneNat t.width (i / t.width) a)) ((Fmt.ofTy t).mag (laneNat t.width (i / t.width) a))).testBit (i % t.width) := by
        rw [getLsbD_eq_testBit_laneNat hpos, lanes1_eq_lanes2, laneNat_lanes2 hlane, Nat.testBit_mod_two_pow, decide_eq_true hbit,
          Bool.true_and, plain]
    _ = if (i + 1) % t.width = 0 then s (laneNat t.width (i / t.width) a) else a.getLsbD i := by
        rw [Fmt.testBit_code_mag _ _ _ (Nat.le_of_lt_succ (hw ▸ hbit)), ← getLsbD_eq_testBit_laneNat hpos]
        simp only [succ_mod_width_eq_zero_iff ht]

/-- The sign of bit `i`'s lane, where bit `i` is the top one of its lane, is that bit. -/
theorem neg_laneNat {t : Ty} (ht : t ∈ [Ty.f32, .bf16x2, .f16x2]) (a : Word) {i : Nat} (hi : (i + 1) % t.width = 0) :
    (Fmt.ofTy t).neg (laneNat t.width (i / t.width) a) = a.getLsbD i := by
  have hw := Fmt.width_ofTy ht
  rw [Fmt.neg_eq_testBit, getLsbD_eq_testBit_laneNat (by omega : 0 < t.width), (succ_mod_width_eq_zero_iff ht i).mp hi]

/-- Settles O44: FABS and FNEG put a sign before every lane's magnitude, a plus or the opposite one, and a sign is its lane's
top bit. -/
theorem signOpcodesChangeTheSignBit : Obligations.SignOpcodesChangeTheSignBit := by
  unfold Obligations.SignOpcodesChangeTheSignBit
  refine ⟨?fabs, ?fneg, ?word⟩
  case fabs =>
    exact firingGives_of_scalar (fun _ _ => rfl) fun f g ht =>
      ⟨lanes1_plain_flags _ _ _, fun i hi => getLsbD_lanes1_code ht (fun _ => false) g.a.v hi⟩
  case fneg =>
    refine firingGives_of_scalar (fun _ _ => rfl) fun f g ht => ⟨lanes1_plain_flags _ _ _, fun i hi => ?_⟩
    rw [getLsbD_lanes1_code ht (fun x => !(Fmt.ofTy f.ty).neg x) g.a.v hi]
    split
    next h => rw [neg_laneNat ht g.a.v h]
    next => rfl
  case word =>
    intro f p hp
    simp only [List.mem_cons, List.not_mem_nil, or_false] at hp
    obtain rfl | rfl := hp
    all_goals exact ⟨⟨rfl, rfl⟩, fun site h => wf_md_eq_zero (by simp) rfl rfl rfl h⟩

end Sys2Proof.Machine
end

section
/-!
PROOF. What the runners of forms answer: a firing, a closing, a head taken alone (R79, R86, R132).
-/
namespace Sys2Proof.Machine

/-! ### Elements -/

/-- An element-only word in its element's turn runs the element's meaning (R86). -/
theorem runEcw_eq {s u : State} {k : PageKey} {n : Nat} {elem : PageKey → Nat → State} (hcur : s.cur = some (.party (.elem k n)))
    (hu : elem k n = u) : runEcw s elem = .next u := by
  simp only [runEcw, hcur, hu]

/-- An element form in its element's turn answers what the element's meaning answers (R86). -/
theorem runForm_elem_eq {s u : State} {e : Ecw} {k : PageKey} {n : Nat} {elem : Ecw → PageKey → Nat → State}
    {block : Blk → PageKey → Nat → Nat → State} (hcur : s.cur = some (.party (.elem k n))) (hu : elem e k n = u) :
    runForm (.elem e) s elem block = .next u := by
  rw [runForm_elem _ _ _ hcur, hu]

/-- An element form that runs by R79 gives its own effect on a data firing. -/
theorem runForm_fires {e : Ecw} {k : PageKey} {n : Nat} {s : State} {g : Args} {rule : Ecw → PageKey → Nat → ElemRule}
    {check : Ecw → PageKey → Nat → Args → State → Option (Nat × Word × Nat)} {data : Ecw → PageKey → Nat → Args → State → State}
    {block : Blk → PageKey → Nat → Nat → State} (h : ElemFires (rule e k n).tri e k n s g) (hr : (rule e k n).ready g s = true)
    (hc : check e k n g s = none) :
    runForm (.elem e) s (fun e k n => fireWith (rule e k n) (check e k n) (data e k n) e k n s) block =
      .next (data e k n g (s.taken k n e g.tag)) := by
  rw [runForm_elem _ _ _ h.1, fireWith_fires h hr hc]

/-- An element form that runs by R79 runs its own closing on equal closing tokens at every head. -/
theorem runForm_closes {e : Ecw} {k : PageKey} {n : Nat} {s : State} {t : Token} {rule : Ecw → PageKey → Nat → ElemRule}
    {check : Ecw → PageKey → Nat → Args → State → Option (Nat × Word × Nat)} {data : Ecw → PageKey → Nat → Args → State → State}
    {block : Blk → PageKey → Nat → Nat → State} (hcur : s.cur = some (.party (.elem k n))) (h : s.elemHeads k n e = .closing t)
    (hg : s.elemGate k n e t.tag = true) :
    runForm (.elem e) s (fun e k n => fireWith (rule e k n) (check e k n) (data e k n) e k n s) block =
      .next ((rule e k n).closing t s) := by
  rw [runForm_elem _ _ _ hcur, fireWith_closing h hg]

/-! ### A head taken alone -/

section HeadFires
variable {q : QueueName} {e : Ecw} {k : PageKey} {n : Nat} {s : State} {t : Token}

theorem HeadFires.cur (h : HeadFires q e k n s t) : s.cur = some (.party (.elem k n)) := h.1
theorem HeadFires.noCue (h : HeadFires q e k n s t) : s.fedCue k n e = none := h.2.1
theorem HeadFires.head (h : HeadFires q e k n s t) : (s.dyn k).qhead n q = some t := h.2.2.1
theorem HeadFires.gate (h : HeadFires q e k n s t) : s.elemGate k n e t.tag = true := h.2.2.2.1

end HeadFires

/-! ### Blocks -/

/-- A block form that waits for its slots gives its own effect once they are filled (R132). -/
theorem runForm_block_fires {w : Blk} {k : PageKey} {b j : Nat} {s : State} {g : Args} {left right : Bool}
    {third : Blk → PageKey → Nat → Nat → Word} {data : Blk → PageKey → Nat → Nat → Args → State → State}
    {elem : Ecw → PageKey → Nat → State} (h : BlockFires left right (third w k b j) w k b j s g) :
    runForm (.block w) s elem (fun w k b i => fireBlock left right (third w k b i) (data w k b i) w k b i s) =
      .next (data w k b j g s) := by
  rw [runForm_block _ _ _ h.1, fireBlock_fires h]

/-- A block-only word that waits for its slots gives its own effect once they are filled (R132). -/
theorem runBlk_fires {w : Blk} {k : PageKey} {b j : Nat} {s : State} {g : Args} {left right : Bool} {third : Word}
    {data : PageKey → Nat → Nat → Args → State → State} (h : BlockFires left right third w k b j s g) :
    runBlk s (fun k b i => fireBlock left right third (data k b i) w k b i s) = .next (data k b j g s) := by
  simp only [runBlk, h.1, fireBlock_fires h]

end Sys2Proof.Machine
end

section
/-!
PROOF. Data heads and closing tokens of the steering, counting, folding and tag opcodes in an element (R142 to R159, R163).
-/
namespace Sys2Proof.Machine

/-- Settles O5: each opcode runs by R79, and a data firing gives the opcode's own effect on the state behind its heads. -/
theorem steeringElementGivesResult : Obligations.SteeringElementGivesResult := by
  unfold Obligations.SteeringElementGivesResult
  intro e k n s g h t
  refine ⟨?steer, ?dup, ?drop, ?count, ?iter, ?strikeMake, ?reduceArrival, ?reduceRank, ?scanp, ?tagw, ?nexti, ?oneos, ?rclose⟩
  case steer => exact runForm_fires h rfl rfl
  case dup => exact runForm_fires h rfl rfl
  case drop => exact runForm_fires h rfl rfl
  case count =>
    refine (runForm_fires h rfl rfl).trans ?_
    simp only [Form.x, beq_iff_eq]; rfl
  case iter =>
    intro hidle hlt
    refine (runForm_elem _ _ _ h.1).trans ?_
    simp only [hidle]
    rw [fireElem_fires h (by rfl), decide_eq_true hlt]
    rfl
  case strikeMake => exact runForm_fires h rfl rfl
  case reduceArrival =>
    intro hx
    refine (runForm_elem _ _ _ h.1).trans ?_
    rw [reduceElem, fireWith_fires h (by simp [hx]) (by simp [hx])]
    simp [hx, t]
  case reduceRank =>
    intro hx hbad hwin
    refine (runForm_elem _ _ _ h.1).trans ?_
    rw [reduceElem, fireWith_fires h (by simp [hwin]) (by simp [hbad])]
    simp [hx, t]
  case scanp => exact runForm_fires h rfl rfl
  case tagw =>
    intro hl
    refine runForm_fires h rfl ?_
    rw [if_pos hl]
  case nexti => exact runForm_fires h rfl rfl
  case oneos => exact runForm_fires h rfl rfl
  case rclose => exact runForm_fires h rfl rfl

/-- Settles O8: each opcode runs by R79, and closing tokens run the opcode's own closing on the state with every head in place. -/
theorem closingTokensEndWindows : Obligations.ClosingTokensEndWindows := by
  unfold Obligations.ClosingTokensEndWindows
  intro e k n s t hcur hh hg
  refine ⟨?stateless, ?steer, ?drop, ?count, ?reduce, ?scanp, ?oneos⟩
  case stateless => exact fun i o ho hf => (exec_statelessOp ho s).trans (scalar_closing hf hcur hh hg)
  case steer => exact runForm_closes hcur hh hg
  case drop => exact runForm_closes hcur hh hg
  case count =>
    intro hx
    refine (runForm_closes hcur hh hg).trans ?_
    simp only [Form.x, hx, if_true]
  case reduce =>
    intro hw v f hv
    refine (runForm_elem _ _ _ hcur).trans ?_
    rw [reduceElem, fireWith_closing hh hg]
    simp only [hw, if_true, hv]
  case scanp =>
    intro hw
    refine (runForm_closes hcur hh hg).trans ?_
    simp only [hw, if_true]
  case oneos =>
    intro hsel habs
    refine (runForm_closes hcur hh hg).trans ?_
    have hpass : (e.eosp == .absorb) = false := by simpa using habs
    simp [Form.md, hsel, hpass]

end Sys2Proof.Machine
end

section
/-!
PROOF. The steering, counting, folding and tag opcodes in a block (R142 to R159, R163).
-/
namespace Sys2Proof.Machine

/-- A merge of a block passes its left slot's value on as soon as it is filled, whatever its right one holds (R144). -/
theorem mergeBlock_left {w : Blk} {k : PageKey} {b j : Nat} {s : State} {p : Page} {h : Header} {f : Firing} {c v : Val}
    (hgate : s.blockGate k b j w = some f) (hp : s.page? k = some p) (hh : p.header? b = some h)
    (hc : (if w.pm = .always then some (Val.plain 0) else f.slot j .pred) = some c) (hpred : predHolds w.pm c.v = true)
    (hv : f.slot j .left = some v) :
    mergeBlock w k b j s = s.give k b j w f.tag { v with dep := v.dep.join c.dep } := by
  obtain ⟨hf, -⟩ := blockGate_firing hgate
  simp only [mergeBlock, hf, hp, hh, hc, hv, hgate, hpred, if_true]

/-- Settles O6: each opcode waits for its slots and then gives its own effect, and the merges go by their left slot. -/
theorem steeringBlockGivesResult : Obligations.SteeringBlockGivesResult := by
  unfold Obligations.SteeringBlockGivesResult
  refine ⟨?both, ?iter, ?scanp, ?left, ?oneos, ?merges⟩
  case both =>
    intro w k b j s g h
    refine ⟨?steer, ?gate, ?count, ?join, ?reduce, ?tagw⟩
    case steer => exact runForm_block_fires h
    case gate => exact runForm_block_fires h
    case count => exact runForm_block_fires h
    case join => exact runForm_block_fires h
    case reduce =>
      intro st p r hbad hwin hlast v hv hturn
      refine (runForm_block_fires h).trans ?_
      have hroom : (rankBad st p || decide (st.next + 32 ≤ p)) = false := by simp [hbad, hwin]
      simp only [st, p, r] at hroom hv hturn ⊢
      simp only [hroom, hlast, hv, hturn, Bool.false_eq_true, if_false, if_true, Option.map_some, Option.getD_some]
    case tagw =>
      intro hl
      refine (runForm_block_fires h).trans ?_
      rw [if_pos hl]
  case iter => exact fun w k b j s g h => runForm_block_fires h
  case scanp => exact fun w k b j s g h => runForm_block_fires h
  case left =>
    intro w k b j s g h
    refine ⟨?dup, ?drop, ?strikeMake, ?mkeos, ?nexti, ?rclose⟩
    case dup => exact runForm_block_fires h
    case drop => exact runForm_block_fires h
    case strikeMake => exact runForm_block_fires h
    case mkeos => exact runForm_block_fires h
    case nexti => exact runForm_block_fires h
    case rclose => exact runForm_block_fires h
  case oneos =>
    intro w k b j s g x h hx
    refine (runForm_block_fires h).trans ?_
    simp only [hx]; rfl
  case merges =>
    intro w k b j s p hd f c v i hi hcur hgate hp hh hc hpred hv
    obtain rfl | rfl | rfl := hi
    all_goals
      refine (runForm_block _ _ _ hcur).trans ?_
      rw [mergeBlock_left hgate hp hh hc hpred hv]

end Sys2Proof.Machine
end

section
/-!
PROOF. The opcodes that take one head at a time (R143, R145, R147, R148, R150, R154).
-/
namespace Sys2Proof.Machine

/-! ### MERGE and OMERGE (R143) -/

section Merges
variable {solo : Token → Bool} {pick : Token → Token → State → QueueName × State} {e : Ecw} {k : PageKey} {n : Nat} {s : State}

/-- The state behind a merge's choice of a queue: its head consumed and passed on, the queue remembered. -/
def State.merged (s : State) (k : PageKey) (n : Nat) (e : Ecw) (q : QueueName) (t : Token) : State :=
  ((s.tookHead k n e q t).modDyn k (fun d => d.modElem n (fun y => { y with last := some q }))).passBoth k n e t

theorem mergeElem_loneLeft {t : Token} (h : HeadFires .L e k n s t) (hr : (s.dyn k).qhead n .R = none) (ht : t.ends = false)
    (hs : solo t = true) : mergeElem solo pick e k n s = s.merged k n e .L t := by
  simp only [mergeElem, h.noCue, h.head, hr, ht, hs, Bool.not_true, Bool.or_false, Bool.false_eq_true, if_false]
  exact takeHead_fires h

theorem mergeElem_loneRight {t : Token} (h : HeadFires .R e k n s t) (hl : (s.dyn k).qhead n .L = none) (ht : t.ends = false)
    (hs : solo t = true) : mergeElem solo pick e k n s = s.merged k n e .R t := by
  simp only [mergeElem, h.noCue, h.head, hl, ht, hs, Bool.not_true, Bool.or_false, Bool.false_eq_true, if_false]
  exact takeHead_fires h

/-- Of two heads that do not end their streams, the one of the queue that `pick` names without a choice of its own. -/
theorem mergeElem_pick {a b t : Token} {q : QueueName} (h : HeadFires q e k n s t) (hl : (s.dyn k).qhead n .L = some a)
    (hr : (s.dyn k).qhead n .R = some b) (ha : a.ends = false) (hb : b.ends = false) (hp : pick a b s = (q, s)) :
    mergeElem solo pick e k n s = s.merged k n e q t := by
  simp only [mergeElem, h.noCue, hl, hr, ha, hb, hp, Bool.false_and, Bool.false_eq_true, if_false, ite_self]
  exact takeHead_fires h

end Merges

theorem Token.ends_of_data {t : Token} (h : t.kind = .data) : t.ends = false := by simp [Token.ends, h]

theorem State.passBoth_of_data {t : Token} (h : t.kind = .data) (s : State) (k : PageKey) (n : Nat) (e : Ecw) :
    s.passBoth k n e t = s.emitBoth k n e t.tag t.val := if_pos h

/-! ### CMERGE (R143) -/

theorem cmergeElem_fires {e : Ecw} {k : PageKey} {n : Nat} {s : State} {c t : Token} {us : List Token} (hcue : s.fedCue k n e = none)
    (hr : (s.dyn k).qhead n .R = some c) (hc : c.kind = .data) (hgate : s.elemGate k n e c.tag = true)
    (hscale : e.sckr.fails c.sc = false) (hq : (s.dyn k).qhead n (if c.pay = 0 then .P else .L) = some t) (ht : t.kind = .data)
    (hleft : c.pay ≠ 0 → e.sckl.fails t.sc = false) (hu : (s.dyn k).qheads n (auxQueues e) = some us)
    (hus : ∀ u ∈ us, u.tag = t.tag ∧ u.kind = .data) :
    cmergeElem e k n s = ((s.touch k t.tag).modDyn k (fun d =>
      (d.popAll n ([.R, if c.pay = 0 then .P else .L] ++ auxQueues e)).countFiring n e t.tag)).emitBoth k n e t.tag
        { v := t.pay, sc := t.sc || c.sc, dep := us.foldl (fun (x : Dep) (u : Token) => x.join u.dep) (t.dep.join c.dep) } := by
  have hall : us.all (fun u => u.tag == t.tag && u.kind == t.kind) = true := by simpa [ht] using hus
  have hs : ((if c.pay = 0 then QueueName.P else .L) == .L && t.kind == .data && e.sckl.fails t.sc) = false := by
    by_cases h0 : c.pay = 0
    · simp [h0]
    · simp [hleft h0]
  simp only [cmergeElem, hcue, hr, hgate, hc, hq, hu, hall, hscale, hs, Token.ends_of_data ht, Bool.not_true, Bool.or_self,
    Bool.false_eq_true, if_false, if_true]
  rw [if_pos ht]

/-! ### GATE (R145) -/

section Gate
variable {e : Ecw} {k : PageKey} {n : Nat} {s : State} {t : Token}

/-- Data of L passes under the tag's credit and takes one from it. -/
theorem gateElem_left (h : HeadFires .L e k n s t) (ht : t.kind = .data) (hcredit : 0 < (s.tagSt k n t.tag).count) :
    gateElem e k n s =
      ((s.tookHead k n e .L t).modTag k n t.tag (fun st => { st with count := st.count - 1 })).emitBoth k n e t.tag t.val := by
  simp only [gateElem, h.noCue, h.head]
  rw [if_pos (by simp [ht, hcredit]), takeHead_fires h, if_pos ht]

/-- Data of R adds its payload to the tag's credit, which holds at its bound. -/
theorem gateElem_right (h : HeadFires .R e k n s t) (hl : (s.dyn k).qhead n .L = none) (ht : t.kind = .data)
    (hscale : e.sckr.fails t.sc = false) :
    gateElem e k n s = ((s.touch k t.tag).modDyn k (fun d => d.pop (.queue n .R))).modTag k n t.tag
      (fun st => { st with count := Nat.min (st.count + t.pay.toNat) (2 ^ 32 - 1) }) := by
  simp [gateElem, h.noCue, h.head, hl, h.gate, hscale, ht]

end Gate

/-! ### JOIN (R154) -/

theorem exec_join_data {e : Ecw} {k : PageKey} {n : Nat} {s : State} {t : Token} (h : HeadFires .L e k n s t) (ht : t.kind = .data)
    (hx : bitsOf e.x.toNat 0 1 = 1) :
    let u := s.tookHead k n e .L t
    let c := (u.tagSt k n t.tag).count + 1
    let seen := counted (u.tagSt k n t.tag).acc t.sc t.dep
    exec (.join (.elem e)) s = .next (if Nat.max 1 ((s.dyn k).cValue n e t.tag).toNat ≤ c then
        (u.modTag k n t.tag (fun st => { st with count := 0, acc := none })).emitBoth k n e t.tag { seen with v := BitVec.ofNat 32 c }
      else u.modTag k n t.tag (fun st => { st with count := c, acc := some seen })) := by
  refine (runForm_elem _ _ _ h.cur).trans ?_
  have hlive : (t.kind != Kind.cue) = true := by simp [ht]
  simp only [h.noCue, h.head, hlive, if_true, joinHead]
  rw [takeHead_fires h]
  simp [ht, hx]

/-! ### MKEOS (R148) -/

section Mkeos
variable {e : Ecw} {k : PageKey} {n : Nat} {s : State} {t : Token}

/-- R gives a tag without a count the count of its window. -/
theorem mkeosElem_count (h : HeadFires .R e k n s t) (ht : t.kind = .data) (hneed : (s.tagSt k n t.tag).need = none)
    (hopen : (s.tagSt k n t.tag).ended = false) (hpay : t.pay ≠ 0) (hscale : e.sckr.fails t.sc = false) :
    mkeosElem e k n s = ((s.touch k t.tag).modDyn k (fun d => d.pop (.queue n .R))).modTag k n t.tag
      (fun st => { st with need := some t.pay.toNat, count := 0 }) := by
  have hpay0 : ¬t.pay = 0#32 := hpay
  simp only [mkeosElem, h.noCue, h.head]
  simp [ht, hneed, hopen, h.gate, hscale, hpay0]

/-- Data of L below the count passes and is counted. -/
theorem mkeosElem_below {c : Nat} (h : HeadFires .L e k n s t) (ht : t.kind = .data) (hr : (s.dyn k).qhead n .R = none)
    (hneed : (s.tagSt k n t.tag).need = some c) (hlt : (s.tagSt k n t.tag).count + 1 < c) :
    mkeosElem e k n s = ((s.tookHead k n e .L t).modTag k n t.tag
      (fun z => { z with count := (s.tagSt k n t.tag).count + 1 })).emitBoth k n e t.tag t.val := by
  simp only [mkeosElem, h.noCue, hr, mkeosElem.mkeosLeft, h.head]
  rw [if_neg (by simp [ht, hneed]), takeHead_fires h]
  simp [ht, hneed, Nat.ne_of_gt hlt]

end Mkeos

/-! ### REPEAT (R147) -/

section Repeat
variable {e : Ecw} {k : PageKey} {n : Nat} {s : State} {t : Token}

/-- R opens the segment that stands at L with its number of passes. -/
theorem repeatElem_opens {r : Token} (h : HeadFires .L e k n s t)
    (hidle : ((s.dyn k).elem n).tags.find? (fun st => 0 < st.passes && ((s.dyn k).elem n).openTag.isNone) = none)
    (hopen : ((s.dyn k).elem n).openTag = none) (ht : t.kind ≠ .cue) (hr : (s.dyn k).qhead n .R = some r) (hrd : r.kind = .data)
    (htag : r.tag = t.tag) (hscale : e.sckr.fails r.sc = false) :
    repeatElem e k n s = (((s.touch k t.tag).modDyn k (fun d => d.pop (.queue n .R))).modTag k n t.tag
      (fun st => { st with need := some r.pay.toNat, seg := [], replay := 0, passes := 0, count := 0 })).modDyn k
        (fun d => d.modElem n (fun y => { y with openTag := some t.tag })) := by
  simp only [repeatElem, hidle]
  simp [h.noCue, h.head, h.gate, hopen, hr, ht, hrd, htag, hscale]

/-- Data of the open segment is stored for the replays and emitted in the first pass. -/
theorem repeatElem_stores {c : Nat} (h : HeadFires .L e k n s t)
    (hidle : ((s.dyn k).elem n).tags.find? (fun st => 0 < st.passes && ((s.dyn k).elem n).openTag.isNone) = none)
    (hopen : ((s.dyn k).elem n).openTag = some t.tag) (ht : t.kind = .data) (hroom : (s.tagSt k n t.tag).count < 64)
    (hneed : (s.tagSt k n t.tag).need = some (c + 1)) :
    repeatElem e k n s = ((s.tookHead k n e .L t).modTag k n t.tag (fun st => { st with
      seg := st.seg ++ [t], count := st.count + 1 })).sendBoth k n e t := by
  simp only [repeatElem, hidle]
  simp [h.noCue, h.head, h.gate, hopen, ht, Nat.not_le.mpr hroom, hneed, takeHead_fires h, Token.closes]

end Repeat

/-! ### STRIKE.ANNUL (R150) -/

section Annul
variable {e : Ecw} {k : PageKey} {n : Nat} {s : State} {l r : Token}

theorem annulPass_data (h : HeadFires .L e k n s l) (hl : l.kind = .data) :
    annulPass e k n s = ((s.tookHead k n e .L l).modTag k n l.tag (fun st => { st with count := st.count + 1 })).emitOn k n e false l.tag l.val := by
  rw [annulPass, takeHead_fires h, if_pos hl, State.passFirst, if_pos hl]

/-- The data token at the position that the strike on R names is removed with it. -/
theorem annulElem_removes (h : HeadFires .L e k n s l) (hl : l.kind = .data) (hr : (s.dyn k).qhead n .R = some r) (hrk : r.kind = .strike)
    (htag : l.tag = r.tag) (hpos : r.pay.toNat = (s.tagSt k n l.tag).count) :
    annulElem e k n s =
      let u := ((s.tookHead k n e .L l).modDyn k (fun d => d.pop (.queue n .R))).modTag k n l.tag (fun st => { st with count := st.count + 1 })
      if bitsOf e.x.toNat 0 1 = 1 then u.sendTok k n e true r else u := by
  simp only [annulElem, h.noCue, h.head, hr, h.gate]
  simp [hl, hrk, htag, hpos, takeHead_fires h]

/-- A head at a position below the strike's key passes. -/
theorem annulElem_passes (h : HeadFires .L e k n s l) (hl : l.kind = .data) (hr : (s.dyn k).qhead n .R = some r) (hrk : r.kind = .strike)
    (htag : l.tag = r.tag) (hpos : (s.tagSt k n l.tag).count < r.pay.toNat) :
    annulElem e k n s = annulPass e k n s := by
  simp only [annulElem, h.noCue, h.head, hr, h.gate]
  simp [hl, hrk, htag.symm, hpos, Nat.lt_asymm hpos]

end Annul

/-! ### The obligation -/

/-- Settles O7: each opcode reduces to one head taken alone, or to one consumption, under the branch that its heads select. -/
theorem singleHeadOpcodesTakeTheirHead : Obligations.SingleHeadOpcodesTakeTheirHead := by
  unfold Obligations.SingleHeadOpcodesTakeTheirHead
  refine ⟨?merge, ?omerge, ?cmerge, ?gate, ?join, ?mkeos, ?repeatSeg, ?strikeAnnul⟩
  case merge =>
    exact fun e k n s t ht => ⟨fun h hr => runForm_elem_eq h.cur (mergeElem_loneLeft h hr ht rfl),
      fun h hl => runForm_elem_eq h.cur (mergeElem_loneRight h hl ht rfl)⟩
  case omerge =>
    intro e k n s a b ha hb hl hr key
    refine ⟨fun h hle => ?_, fun h _ hlt => ?_⟩
    · refine runForm_elem_eq h.cur ?_
      rw [mergeElem_pick h hl hr (Token.ends_of_data ha) (Token.ends_of_data hb), State.merged, State.passBoth_of_data ha]
      simp only [ha, hb, reduceCtorEq, if_false]
      exact congrArg (·, s) (if_pos hle)
    · refine runForm_elem_eq h.cur ?_
      rw [mergeElem_pick h hl hr (Token.ends_of_data ha) (Token.ends_of_data hb), State.merged, State.passBoth_of_data hb]
      simp only [ha, hb, reduceCtorEq, if_false]
      exact congrArg (·, s) (if_neg (Int.not_le.mpr hlt))
  case cmerge =>
    intro e k n s c t hcur hcue hr hc hgate hscale hq ht hleft us hu hus
    exact runForm_elem_eq hcur (cmergeElem_fires hcue hr hc hgate hscale hq ht hleft hu hus)
  case gate =>
    exact fun e k n s t ht => ⟨fun h hcredit => runForm_elem_eq h.cur (gateElem_left h ht hcredit),
      fun h hl hscale => runForm_elem_eq h.cur (gateElem_right h hl ht hscale)⟩
  case join => exact fun e k n s t ht hx h => exec_join_data h ht hx
  case mkeos =>
    refine fun e k n s t ht => ⟨fun h hneed hopen hpay hscale => ?_, fun c h hr hneed hlt => ?_⟩
    · exact runForm_elem_eq h.cur (mkeosElem_count h ht hneed hopen hpay hscale)
    · exact runForm_elem_eq h.cur (mkeosElem_below h ht hr hneed hlt)
  case repeatSeg =>
    refine fun e k n s t hidle h => ⟨fun r hopen ht hr hrd htag hscale => ?_, fun c hopen ht hroom hneed => ?_⟩
    · exact runEcw_eq h.cur (repeatElem_opens h hidle hopen ht hr hrd htag hscale)
    · exact runEcw_eq h.cur (repeatElem_stores h hidle hopen ht hroom hneed)
  case strikeAnnul =>
    refine fun e k n s l r hl hrk htag hr h => ⟨fun hpos => ?_, fun hpos => ?_⟩
    · exact runEcw_eq h.cur (annulElem_removes h hl hr hrk htag hpos)
    · exact runEcw_eq h.cur ((annulElem_passes h hl hr hrk htag hpos).trans (annulPass_data h hl))

end Sys2Proof.Machine
end

section
/-!
PROOF. The instructions of circular buffers (R124, R138 to R141).
-/
namespace Sys2Proof.Machine

section Advances
variable {w : Blk} {k : PageKey} {b j : Nat} {s : State} {g : Args}

/-- ADVR and ADVW record the left operand (R140). -/
theorem advance_operand (hri : w.ri = false) (h : BlockFires true false 0 w k b j s g) :
    advance w s = .next ((s.giveNone k b j).modFiring k b (fun f => { f with advances := f.advances ++ [(handleOf w, g.a.v.toNat)] })) := by
  have h' : BlockFires (!w.ri) false 0 w k b j s g := by rw [hri]; exact h
  refine (runBlk_fires h').trans ?_
  simp only [hri]; rfl

/-- ADVR and ADVW record IMM16 where RI is set (R140). -/
theorem advance_imm (hri : w.ri = true) (h : BlockFires false false 0 w k b j s g) :
    advance w s = .next ((s.giveNone k b j).modFiring k b (fun f => { f with advances := f.advances ++ [(handleOf w, w.imm.toNat)] })) := by
  have h' : BlockFires (!w.ri) false 0 w k b j s g := by rw [hri]; exact h
  refine (runBlk_fires h').trans ?_
  simp only [hri, if_true]

end Advances

/-- Settles O10: each instruction waits for its slots and then gives its own effect on the slots that it finds. -/
theorem bufferInstructionsGiveResult : Obligations.BufferInstructionsGiveResult := by
  unfold Obligations.BufferInstructionsGiveResult
  refine ⟨?recv, ?peek, ?operand, ?advImm, ?fx, ?fxun⟩
  case recv =>
    intro w k b j s g x hx h
    refine (runBlk_fires h).trans ?_
    simp only [hx]; rfl
  case peek =>
    intro w k b j s g x h wide pos hpos hx
    refine (runBlk_fires h).trans ?_
    simp only [wide, pos] at hpos hx ⊢
    simp only [if_neg (Nat.not_le.mpr hpos), hx]; rfl
  case operand =>
    intro w k b j s g h
    refine ⟨?emit, ?advSlot, ?cbq⟩
    case emit => exact runBlk_fires h
    case advSlot =>
      intro i hi hri
      obtain rfl | rfl := hi
      all_goals exact advance_operand hri h
    case cbq =>
      intro c n
      refine ⟨?filled, ?free, ?listenKind, ?emitKind, ?slots, ?readPointer, ?writePointer⟩
      case listenKind =>
        intro hx hout
        refine (runBlk_fires h).trans ?_
        simp only [hx, hout]; rfl
      case emitKind =>
        intro hx hout f hf
        refine (runBlk_fires h).trans ?_
        simp only [hx, hout, hf, if_true]; rfl
      all_goals
        intro hx
        refine (runBlk_fires h).trans ?_
        simp only [hx]; rfl
  case advImm =>
    intro w k b j s g i hi hri h
    obtain rfl | rfl := hi
    all_goals exact advance_imm hri h
  case fx =>
    intro w k b j s g xs sc dep hsrc n
    refine ⟨?fxpk, ?fxsc⟩
    case fxpk =>
      intro h r
      refine (runBlk_fires h).trans ?_
      simp only [hsrc]; rfl
    case fxsc =>
      intro h r
      refine (runBlk_fires h).trans ?_
      simp only [hsrc]; rfl
  case fxun =>
    intro w k b j s g x hx h ys ws n
    refine (runBlk_fires h).trans ?_
    simp only [hx]; rfl

end Sys2Proof.Machine
end

section
/-!
PROOF. LAUNCH and CALL (R162, R399, R400, R403).
-/
namespace Sys2Proof.Machine

@[simp] theorem State.logEvent_frames (s : State) (a b c : Nat) : (s.logEvent a b c).frames = s.frames := by
  obtain ⟨d, h⟩ := logEvent_dev s a b c
  rw [h]

/-- A frame launched stands under the partition's first free tag with the fields that its launch gave it (R405). -/
theorem launchFrame_of_free {s : State} {c : CtxId} {gr : Graph} {f : Frame} {tag : Tag} {rest : List Tag} (round : Nat)
    (h : (s.part c.part).tags = tag :: rest) :
    ∃ u, s.launchFrame c gr f round = some (tag, u) ∧ ∃ x ∈ u.frames, x.key = ⟨c.part, tag⟩ ∧ x.ctx = f.ctx ∧ x.graph = f.graph ∧
      x.lrec = f.lrec ∧ x.call = f.call ∧ x.parent = f.parent ∧ x.launchedIn = f.launchedIn := by
  simp only [State.launchFrame, h]
  refine ⟨_, rfl, ?_⟩
  rw [State.logEvent_frames, State.modPart_frames]
  exact ⟨_, List.mem_append_right _ (List.mem_singleton_self _), rfl, rfl, rfl, rfl, rfl, rfl, rfl⟩

theorem exec_launch_or_call (call : Bool) (w : Blk) (s : State) :
    exec (if call then .call w else .launch w) s = launchBlock call w s := by
  cases call <;> rfl

/-- Settles O17: a launch that finds its graph, its arguments and a tag is `launchFrame`; every other one waits or is refused. -/
theorem launchMakesTheFrame : Obligations.LaunchMakesTheFrame := by
  unfold Obligations.LaunchMakesTheFrame
  intro call w k b j s g x
  dsimp only
  intro h hx
  have hfires := (exec_launch_or_call call w s).trans (runBlk_fires h)
  -- The record's 512-bit number stays behind a name: the kernel would compute with it to compare two matches on what it selects.
  obtain ⟨toRec, htoRec⟩ : ∃ F, F = LaunchRec.ofNat := ⟨_, rfl⟩
  rw [← htoRec] at hfires ⊢
  simp only [hx] at hfires
  refine ⟨?frame, ?waits, ?refused⟩
  case frame =>
    intro gr args t tag rest hgr hargs hwait htags
    simp only [hgr, hargs, hwait, List.isEmpty_nil, Bool.not_true, Bool.false_eq_true, if_false] at hfires
    obtain ⟨u, hu, hmem⟩ := launchFrame_of_free (round := t.roundOf k.ctx (t.behindCut (.actor k b j))) htags
    rw [hu] at hfires
    exact ⟨u, hfires, hmem⟩
  case waits =>
    intro gr f hgr hargs hpull
    simp only [hgr, hargs, hpull, if_true] at hfires
    exact hfires
  case refused =>
    rintro (hgr | ⟨gr, f, hgr, hargs, hpull⟩)
    · simp only [hgr] at hfires
      exact hfires
    · simp only [hgr, hargs, hpull, Option.isSome_none, Bool.false_eq_true, if_false] at hfires
      exact hfires

end Sys2Proof.Machine
end

section
/-!
PROOF. Selection, completion, probes and traps of firings (R31, R131, R132, R135, R352).
-/
namespace Sys2Proof.Machine

/-! ### Selection (R131) -/

/-- A fold ends at `m` when it keeps within `P`, `m` absorbs every value of the list and everything within `P`, and the list attains `m`. -/
theorem foldl_eq_of_attained {α : Type} {op : Nat → Nat → Nat} {f : α → Nat} {P : Nat → Prop} {m a : Nat} {l : List α} (ha : P a)
    (hP : ∀ x, P x → ∀ c ∈ l, P (op x (f c))) (hstay : ∀ c ∈ l, op m (f c) = m) (hreach : ∀ x, P x → op x m = m)
    (hmem : a = m ∨ ∃ c ∈ l, f c = m) : l.foldl (fun n c => op n (f c)) a = m := by
  induction l generalizing a with
  | nil =>
    obtain h | ⟨c, hc, -⟩ := hmem
    · exact h
    · cases hc
  | cons c cs ih =>
    refine ih (hP a ha c List.mem_cons_self) (fun x hx y hy => hP x hx y (List.mem_cons_of_mem c hy))
      (fun y hy => hstay y (List.mem_cons_of_mem c hy)) ?_
    obtain rfl | ⟨y, hy, hm⟩ := hmem
    · exact .inl (hstay c List.mem_cons_self)
    · obtain rfl | hy := List.mem_cons.mp hy
      · exact .inl ((congrArg (op a) hm).trans (hreach a ha))
      · exact .inr ⟨y, hy, hm⟩

/-- A fold of `max` over a list that attains an upper bound of all its values ends there. -/
theorem foldl_max_eq {α : Type} {f : α → Nat} {m : Nat} {l : List α} (hle : ∀ c ∈ l, f c ≤ m) (hmem : ∃ c ∈ l, f c = m) :
    l.foldl (fun n c => max n (f c)) 0 = m :=
  foldl_eq_of_attained (P := (· ≤ m)) (Nat.zero_le m) (fun _ hx c hc => Nat.max_le.mpr ⟨hx, hle c hc⟩)
    (fun c hc => Nat.max_eq_left (hle c hc)) (fun _ hx => Nat.max_eq_right hx) (.inr hmem)

/-- A fold of `min` over a list that attains a lower bound of all its values ends there. -/
theorem foldl_min_eq {α : Type} {f : α → Nat} {m a : Nat} {l : List α} (ha : m ≤ a) (hle : ∀ c ∈ l, m ≤ f c) (hmem : ∃ c ∈ l, f c = m) :
    l.foldl (fun n c => min n (f c)) a = m :=
  foldl_eq_of_attained (P := (m ≤ ·)) ha (fun _ hx c hc => Nat.le_min.mpr ⟨hx, hle c hc⟩)
    (fun c hc => Nat.min_eq_left (hle c hc)) (fun _ hx => Nat.min_eq_right hx) (.inr hmem)

theorem find?_eq_some_of_unique {α : Type} {p : α → Bool} {l : List α} {x : α} (hx : x ∈ l) (hp : p x = true)
    (hu : ∀ y ∈ l, p y = true → y = x) : l.find? p = some x := by
  cases h : l.find? p with
  | none => exact absurd hp (List.find?_eq_none.mp h x hx)
  | some y => rw [hu y (List.mem_of_find?_eq_some h) (List.find?_some h)]

/-- Of the highest priority, the nearest: the candidate that no other equals in both is the one selected (R131). -/
theorem find?_nearest_of_top {α : Type} {prio : α → Nat} {far : Nat → α → Nat} {cs : List α} {x : α} (hx : x ∈ cs)
    (hfar : far (prio x) x ≤ 256)
    (hbest : ∀ c ∈ cs, c = x ∨ prio c < prio x ∨ (prio c = prio x ∧ far (prio x) x < far (prio x) c)) :
    let top := cs.foldl (fun m c => max m (prio c)) 0
    let peers := cs.filter (fun c => prio c == top)
    top = prio x ∧ peers.find? (fun c => far top c == peers.foldl (fun m c => min m (far top c)) 256) = some x := by
  intro top peers
  have htop : top = prio x := by
    refine foldl_max_eq (fun c hc => ?_) ⟨x, hx, rfl⟩
    obtain rfl | hlt | ⟨heq, -⟩ := hbest c hc <;> omega
  have hpeer : ∀ c, c ∈ peers ↔ c ∈ cs ∧ prio c = prio x := by simp [peers, htop]
  have hnear : ∀ c ∈ peers, c = x ∨ far top x < far top c := by
    intro c hc
    obtain ⟨hc, hp⟩ := (hpeer c).mp hc
    obtain rfl | hlt | ⟨-, hlt⟩ := hbest c hc
    · exact .inl rfl
    · omega
    · exact .inr (htop ▸ hlt)
  have hmem : x ∈ peers := (hpeer x).mpr ⟨hx, rfl⟩
  have hmin : peers.foldl (fun m c => min m (far top c)) 256 = far top x := by
    refine foldl_min_eq (htop ▸ hfar) (fun c hc => ?_) ⟨x, hmem, rfl⟩
    obtain rfl | hlt := hnear c hc
    · exact Nat.le_refl _
    · exact Nat.le_of_lt hlt
  refine ⟨htop, find?_eq_some_of_unique hmem (by simp [hmin]) fun c hc heq => ?_⟩
  obtain rfl | hlt := hnear c hc
  · rfl
  · have hsame : far top c = far top x := by simpa [hmin] using heq
    omega

theorem actorSelect_idle {s : State} {quad : Nat} (hcur : s.cur = some (.unit quad)) (h : s.candidatesOf quad = []) :
    exec .actorSelect s = .next s := by
  change execActorSelect s = _
  simp [execActorSelect, hcur, h]

/-! ### Acceptance (R31, R80) -/

theorem State.takeCtl_of_find {s : State} {code : Nat} {z : Ctl} (h : s.ctl.find? (fun c => c.code == code) = some z) :
    s.takeCtl code = some (z, { s with ctl := s.ctl.erase z }) := by
  rw [State.takeCtl, h]; rfl

/-! ### The obligation -/

/-- Settles O23: the best candidate is the one that the folds over the candidates find, and the other events follow the branches of
their conditions. -/
theorem firingsAreSelectedAndComplete : Obligations.FiringsAreSelectedAndComplete := by
  unfold Obligations.FiringsAreSelectedAndComplete
  refine ⟨?select, ?complete, ?probe, ?deliver, ?accept⟩
  case select =>
    intro s quad hcur last far
    refine ⟨actorSelect_idle hcur, ?_⟩
    intro cs k p b h ch hmem hbest rr s1 u tag
    have hfar : far h.prio ch ≤ 256 := Nat.le_of_lt (Nat.mod_lt _ (by decide))
    obtain ⟨htop, hsel⟩ := find?_nearest_of_top (prio := fun c => c.2.2.2.1.prio) (far := fun n c => far n c.2.2.2.2) hmem hfar hbest
    have hexec : exec .actorSelect s = .next (u.beginFiring k p b h) := by
      change execActorSelect s = _
      rw [execActorSelect, hcur]
      simp only [cs, far, last] at htop hsel
      simp only [htop, ← hcur] at hsel ⊢
      rw [hsel]
    refine ⟨fun hskew => ?_, fun hskew => ?_⟩
    · rw [hexec, State.beginFiring, if_neg (by simpa [tag] using hskew)]
    · rw [hexec, State.beginFiring, if_pos (by simpa [tag] using hskew)]
  case complete =>
    intro s k b p h f hcur hp hh hf fits
    have hexec : exec .firingComplete s = execFiringComplete s := rfl
    rw [hexec, execFiringComplete, hcur]
    simp only [hp, hh, hf]
    refine ⟨fun hwait => ?_, fun hover hfits hgo => ?_⟩
    · have hstop : ((p.dyn.actor b).stopped || !firingOver (insTable p h) f || !fits) = true := by
        obtain hover | hfits := hwait
        · simp [hover]
        · simp [hfits]
      rw [if_pos hstop]
    · have hgoes : ¬((p.dyn.actor b).stopped || !firingOver (insTable p h) f || !fits) = true := by simp [hover, hfits, hgo]
      rw [if_neg hgoes]
  case probe =>
    intro s part hcur
    change execMatchOverflowProbe s = _
    rw [execMatchOverflowProbe, hcur]
  case deliver =>
    intro s k t b h c hcur ht hl
    have hexec : exec .trapDeliver s = execTrapDeliver s := rfl
    rw [hexec, execTrapDeliver, hcur]
    simp only [ht, hl]
    refine ⟨fun hfull => ?_, fun hroom => ⟨fun hacc => ?_, fun hacc p hp => ?_⟩⟩
    · rw [if_pos hfull]
    · rw [if_neg (Nat.not_lt.mpr hroom), hacc]
    · rw [if_neg (Nat.not_lt.mpr hroom), hacc, hp]
  case accept =>
    intro s k z hcur hz hpage i b t more
    refine ⟨fun hkind => ?_, fun hkind => ?_, fun hkind => ?_⟩
    all_goals
      change execTrapAccept s = _
      rw [execTrapAccept, hcur]
      simp only [State.takeCtl_of_find hz, hpage, hkind]
    · rfl
    · rfl
    · rw [beq_self_eq_true]; rfl

end Sys2Proof.Machine
end

section
/-!
PROOF. What a memory, atomic or prefetch word of an element answers: its access issued at the checked address, or the fault of the
check (R169, R172 to R174, R176 to R178, R180).
-/
namespace Sys2Proof.Machine

section Element
variable {e : Ecw} {k : PageKey} {n : Nat} {s : State} {g : Args} {ask : Args → Ask} {right : Bool}

/-- The state behind a data firing whose access stands at an address. -/
def State.issuedBy (s : State) (k : PageKey) (n : Nat) (e : Ecw) (g : Args) (q : Ask) (va : Nat) : State :=
  let t := s.taken k n e g.tag
  (t.issue (.elem k n) (nodeOf e.x) q.op g.tag va q.size q.a q.b g.dep ((t.dyn k).keeps n e g.tag)).2

/-- An access of two operands issues what its operands ask for. -/
theorem memForm_issues {va : Nat} (h : ElemFires false e k n s g) (hroom : s.nodeRoom k (nodeOf e.x) = true)
    (hc : s.checkAccess k (nodeOf e.x) (ask g).pos (ask g).size = .ok va) :
    memForm (.elem e) right ask s = .next (s.issuedBy k n e g (ask g) va) :=
  runForm_elem_eq h.1 (memElem_issues h hroom (fun _ => rfl) hc)

theorem memForm_faults {c : Nat} (h : ElemFires false e k n s g) (hroom : s.nodeRoom k (nodeOf e.x) = true)
    (hc : s.checkAccess k (nodeOf e.x) (ask g).pos (ask g).size = .error c) :
    memForm (.elem e) right ask s = .next (s.faultP c (.elem k n) g.tag g.a.v (nodeOf e.x)) :=
  runForm_elem_eq h.1 (memElem_faults h hroom hc)

/-- A prefetch whose address passes its checks consumes its heads and does nothing else (R176, log 43). -/
theorem exec_pf_elem {va : Nat} (h : ElemFires false e k n s g)
    (hc : s.checkAccess k (nodeOf e.x) (loadPos (.elem e) g) 1 = .ok va) :
    exec (.pf (.elem e)) s = .next (s.taken k n e g.tag) :=
  runForm_elem_eq h.1 (fireElem_fires h (by simp only [hc]))

end Element

/-- Settles O11: each opcode asks at its operands' position, the check of the position answers before anything is consumed, and
the access is issued on the state behind the heads. -/
theorem elementAccessIsIssued : Obligations.ElementAccessIsIssued := by
  unfold Obligations.ElementAccessIsIssued
  intro e k n s g node t issued scope hroom
  refine ⟨fun h => ⟨⟨?ld, ?ldFault, ?pf⟩, ⟨?st, ?stFault⟩, ?atomics⟩, fun h va hc => ⟨?acas, ?afadd⟩⟩
  case ld => exact fun va hc => memForm_issues h hroom hc
  case ldFault => exact fun c hc => memForm_faults h hroom hc
  case pf => exact fun va hc => exec_pf_elem h hc
  case st => exact fun va hc => memForm_issues h hroom hc
  case stFault => exact fun c hc => memForm_faults h hroom hc
  case atomics =>
    intro va hc
    have issues (op : Nat) : atomicForm op (.elem e) s = .next (issued (.atomic op e.ty scope) va 4 0 (g.b.v.setWidth 64)) :=
      memForm_issues h hroom hc
    exact ⟨issues 0, issues 1, issues 2, issues 3, issues 4, issues 5, issues 6, issues 7, issues 8, issues 9, issues 10⟩
  case acas => exact runForm_elem_eq h.1 (memElem_issues h hroom (fun _ => rfl) hc)
  case afadd =>
    change execAfadd (.elem e) s = _
    simp only [execAfadd, beq_iff_eq]
    exact runForm_elem_eq h.1 (memElem_issues h hroom (fun _ => rfl) hc)

end Sys2Proof.Machine
end

section
/-!
PROOF. What a memory or atomic word of a block answers: its access issued, and its instruction waiting (R172 to R178, R180, R295).
-/
namespace Sys2Proof.Machine

section Block
variable {w : Blk} {k : PageKey} {b j : Nat} {s : State} {g : Args}

/-- The state behind a firing whose access stands at an address: its instruction waits for the response, and the firing keeps
what `note` says of it. -/
def State.awaits (s : State) (k : PageKey) (b j : Nat) (w : Blk) (g : Args) (q : Ask) (va : Nat) (note : Firing → Firing) : State :=
  let r := s.issue (.actor k b j) (nodeOf w.x) q.op g.tag va q.size q.a q.b g.dep true
  r.2.modFiring k b (fun f => note { f.await j (.access r.1) with accs := f.accs ++ [(j, r.1)] })

theorem runForm_block_issues {left right : Bool} {ask : Blk → PageKey → Nat → Nat → Args → State → Option Ask}
    {elem : Ecw → PageKey → Nat → State} {q : Ask} {va : Nat} (h : BlockFires left right 0 w k b j s g) (hroom : s.tileRoom k = true)
    (hlow : s.lowerIssued k b j (some (nodeOf w.x)) false = true) (hq : ask w k b j g s = some q)
    (hc : s.checkAccess k (nodeOf w.x) q.pos q.size = .ok va) :
    runForm (.block w) s elem (fun w k b i => memBlock left right (ask w k b i) (fun _ x => x) w k b i s) =
      .next (s.awaits k b j w g q va id) := by
  rw [runForm_block _ _ _ h.1, memBlock_issues h hroom hlow hq hc]
  rfl

theorem memForm_block_issues {ask : Args → Ask} {right : Bool} {va : Nat} (h : BlockFires true right 0 w k b j s g)
    (hroom : s.tileRoom k = true) (hlow : s.lowerIssued k b j (some (nodeOf w.x)) false = true)
    (hc : s.checkAccess k (nodeOf w.x) (ask g).pos (ask g).size = .ok va) :
    memForm (.block w) right ask s = .next (s.awaits k b j w g (ask g) va id) :=
  runForm_block_issues (ask := fun _ _ _ _ g _ => some (ask g)) h hroom hlow rfl hc

theorem runBlk_issues {left right : Bool} {ask : PageKey → Nat → Nat → Args → State → Option Ask} {note : Nat → Nat → Firing → Firing} {q : Ask} {va : Nat}
    (h : BlockFires left right 0 w k b j s g) (hroom : s.tileRoom k = true)
    (hlow : s.lowerIssued k b j (some (nodeOf w.x)) false = true)
    (hq : ask k b j g s = some q) (hc : s.checkAccess k (nodeOf w.x) q.pos q.size = .ok va) :
    runBlk s (fun k b i => memBlock left right (ask k b i) (note i) w k b i s) = .next (s.awaits k b j w g q va (note j q.pos)) := by
  simp only [runBlk, h.1]
  rw [memBlock_issues h hroom hlow hq hc]
  rfl

/-- The firing waits for one of its instructions. -/
def awaiting (f : Option Firing) (j : Nat) : Bool := (f.map (fun y => y.waits.any (fun z => z.1 == j))).getD false

/-- A firing that an instruction fires in stands on a page, is of the operands' tag, and does not wait for that instruction. -/
theorem BlockFires.firing {left right : Bool} {third : Word} (h : BlockFires left right third w k b j s g) :
    ∃ f, s.firing? k b = some f ∧ s.page? k ≠ none ∧ awaiting (some f) j = false ∧ f.tag = g.tag := by
  obtain ⟨-, f, p, hgate, hargs, -⟩ := h
  obtain ⟨hf, hpage, -, hidle⟩ := blockGate_firing hgate
  exact ⟨f, hf, hpage, hidle, (blockArgs_tag hargs).symm⟩

/-- Behind an access's issue the firing waits for its instruction. -/
theorem awaiting_awaits {q : Ask} {va : Nat} {f : Firing} (hpage : s.page? k ≠ none) (hf : s.firing? k b = some f) :
    awaiting ((s.awaits k b j w g q va id).firing? k b) j = true := by
  let r := s.issue (.actor k b j) (nodeOf w.x) q.op g.tag va q.size q.a q.b g.dep true
  have hpages : r.2.pages = s.pages := State.issue_pages ..
  have hpage' : r.2.page? k ≠ none := by rwa [State.page?_of_pages hpages]
  have hf' : r.2.firing? k b = some f := by rw [State.firing?, State.dyn_of_pages hpages]; exact hf
  rw [State.awaits, State.firing?_modFiring hpage', hf']
  simp [awaiting, Firing.await]

/-- What an AFADD of a block asks for at a rank (R180). -/
def afaddAsk (w : Blk) (g : Args) (rank : Nat) : Ask :=
  { op := .fadd w.ty (scopeBits w.md.toNat) (if bitsOf w.x.toNat 3 1 = 1 then none else some rank), pos := g.a.v.toNat, size := 4
    b := g.b.v.setWidth 64 }

/-- An AFADD of a block is an access at the rank of its tag's count, which counts it once its firing waits (R180). -/
theorem exec_afadd_block (hcur : s.cur = some (.party (.actor k b j))) :
    let t := memBlock true true (fun g t => some (afaddAsk w g (((t.dyn k).actor b).instrSt j g.tag).count)) (fun _ x => x) w k b j s
    let tag := ((s.firing? k b).map Firing.tag).getD 0
    exec (.afadd (.block w)) s = .next (if awaiting (t.firing? k b) j && !awaiting (s.firing? k b) j then
      t.modDyn k (fun d => d.modActor b (fun a => a.setInstr j { a.instrSt j tag with count := (a.instrSt j tag).count + 1 })) else t) := by
  change execAfadd (.block w) s = _
  simp only [execAfadd, beq_iff_eq]
  exact runForm_block _ _ _ hcur

theorem exec_afadd_block_issues {va : Nat} (h : BlockFires true true 0 w k b j s g) (hroom : s.tileRoom k = true)
    (hlow : s.lowerIssued k b j (some (nodeOf w.x)) false = true) (hc : s.checkAccess k (nodeOf w.x) g.a.v.toNat 4 = .ok va) :
    exec (.afadd (.block w)) s =
      .next ((s.awaits k b j w g (afaddAsk w g (((s.dyn k).actor b).instrSt j g.tag).count) va id).modDyn k (fun d =>
        d.modActor b (fun a => a.setInstr j { a.instrSt j g.tag with count := (a.instrSt j g.tag).count + 1 }))) := by
  obtain ⟨f, hf, hpage, hidle, htag⟩ := h.firing
  have hissue : memBlock true true (fun g t => some (afaddAsk w g (((t.dyn k).actor b).instrSt j g.tag).count)) (fun _ x => x) w k b j s =
      s.awaits k b j w g (afaddAsk w g (((s.dyn k).actor b).instrSt j g.tag).count) va id := memBlock_issues h hroom hlow rfl hc
  rw [exec_afadd_block h.1, hissue]
  simp only [hf, awaiting_awaits hpage hf, hidle, htag, Option.map_some, Option.getD_some, Bool.not_false, Bool.and_self, if_true]

/-- A prefetch of a block whose address passes its checks is done (R176, log 43). -/
theorem exec_pf_block {va : Nat} (h : BlockFires true false 0 w k b j s g)
    (hc : s.checkAccess k (nodeOf w.x) (loadPos (.block w) g) 1 = .ok va) :
    exec (.pf (.block w)) s = .next (s.giveNone k b j) := by
  refine (runForm_block_fires h).trans ?_
  simp only [hc]

end Block

/-- Settles O12: each instruction asks at its operands' position, or at that of the LDX that X names, and waits for the access that
is issued there; an AFADD also counts its firing. -/
theorem blockAccessIsIssued : Obligations.BlockAccessIsIssued := by
  unfold Obligations.BlockAccessIsIssued
  intro w k b j s g node scope issued waits hroom hlow
  refine ⟨fun h => ⟨⟨?ld, ?pf⟩, ?ldx⟩, fun h => ⟨?st, ?atomics, ?stx, ?acasD, ?afadd⟩⟩
  case ld => exact fun va hc => memForm_block_issues h hroom hlow hc
  case pf => exact fun va hc => exec_pf_block h hc
  case ldx => exact fun va hc => runBlk_issues (q := { op := .load8, pos := g.a.v.toNat, size := 8 }) h hroom hlow rfl hc
  case st => exact fun va hc => memForm_block_issues h hroom hlow hc
  case atomics =>
    intro va hc
    have issues (op : Nat) :
        atomicForm op (.block w) s = .next (waits (issued (.atomic op w.ty scope) va 4 0 (g.b.v.setWidth 64))) :=
      memForm_block_issues h hroom hlow hc
    refine ⟨issues 0, issues 1, issues 2, issues 3, issues 4, issues 5, issues 6, issues 7, issues 8, issues 9, issues 10, ?acas⟩
    let c := s.blockConst k b (bitsOf w.x.toNat 4 4) (bitsOf w.x.toNat 8 2)
    exact runForm_block_issues (q := { op := .cas scope, pos := g.a.v.toNat, size := 4, a := c.setWidth 64, b := g.b.v.setWidth 64 })
      h hroom hlow rfl hc
  case stx =>
    intro pos v va hx hc
    exact runBlk_issues (q := { op := .store8, pos := pos.toNat, size := 8, b := g.b.v ++ g.a.v }) h hroom hlow (by rw [hx]; rfl) hc
  case acasD =>
    intro pos v va hx hc
    exact runBlk_issues (q := { op := .cas8 scope, pos := pos.toNat, size := 8, a := v, b := g.b.v ++ g.a.v }) h hroom hlow (by rw [hx]) hc
  case afadd => exact fun va hc => exec_afadd_block_issues h hroom hlow hc

end Sys2Proof.Machine
end

section
/-!
PROOF. Fences in elements and blocks (R182, R302, R303).
-/
namespace Sys2Proof.Machine

/-- A fence of an element that has to wait for nothing gives its token, ordered as it says. -/
theorem fence_elem_near {rel acq : Bool} {e : Ecw} {k : PageKey} {n : Nat} {s : State} {g : Args} (h : ElemFires false e k n s g)
    (hnear : (rel && Scope.wide (scopeBits e.x.toNat)) = false)
    (hdone : s.reqs.any (fun r => r.issuer == .elem k n && r.phase != .given) = false) (hpend : rel = true → s.pendOver g.dep = true) :
    fence rel acq (.elem e) s =
      let q := (s.taken k n e g.tag).fenceDep (.elem k n) g.tag rel acq (scopeBits e.x.toNat) (g.val 1 g.a.v).dep
      .next (q.2.emitBoth k n e g.tag { g.val 1 g.a.v with dep := q.1 }) := by
  have hready : (!rel || s.pendOver g.dep) = true := by cases rel <;> simp_all
  rw [fence, runForm_elem _ _ _ h.1, fireWith_fires h (by simp [hdone, hready]) rfl]
  simp only [fenceScope, Form.x, hnear, Bool.false_eq_true, if_false]

/-- A fence of an element that reaches beyond the partition waits for the commit of its round. -/
theorem fence_elem_far {acq : Bool} {e : Ecw} {k : PageKey} {n : Nat} {s : State} {g : Args} (h : ElemFires false e k n s g)
    (hfar : Scope.wide (scopeBits e.x.toNat) = true) :
    fence true acq (.elem e) s =
      let t := s.taken k n e g.tag
      .next (t.queueFence (.elem k n) g.tag true acq (scopeBits e.x.toNat) (g.val 1 g.a.v) ((t.dyn k).keeps n e g.tag)).2 := by
  rw [fence, runForm_elem _ _ _ h.1, fireWith_fires h (by simp [fenceScope, Form.x, hfar]) rfl]
  simp only [fenceScope, Form.x, hfar, Bool.and_self, if_true]

/-- The value that a fence of a block gives, ordered behind the firing's accesses of lower index (R182). -/
def State.fenceVal (s : State) (k : PageKey) (b j : Nat) (g : Args) : Val :=
  let v := g.val 1 g.a.v
  { v with dep := { v.dep with pend := unionOf v.dep.pend (s.lowerAccs k b j) } }

section Block
variable {rel acq : Bool} {w : Blk} {k : PageKey} {b j : Nat} {s : State} {g : Args}

theorem fence_block_near (h : BlockFires true false 0 w k b j s g) (hnear : (rel && Scope.wide (scopeBits w.x.toNat)) = false)
    (hlow : s.lowerIssued k b j none rel = true) (hpend : rel = true → s.pendOver (s.fenceVal k b j g).dep = true) :
    fence rel acq (.block w) s =
      let v := s.fenceVal k b j g
      let q := s.fenceDep (.actor k b j) g.tag rel acq (scopeBits w.x.toNat) v.dep
      .next (q.2.give k b j w g.tag { v with dep := q.1 }) := by
  have hready : (!s.lowerIssued k b j none rel || (rel && !s.pendOver (s.fenceVal k b j g).dep)) = false := by
    cases rel <;> simp_all
  refine (runForm_block_fires h).trans ?_
  rw [State.fenceVal] at hready
  simp only [hready, fenceScope, Form.x, hnear, Bool.false_eq_true, if_false, State.fenceVal]

theorem fence_block_far (h : BlockFires true false 0 w k b j s g) (hfar : Scope.wide (scopeBits w.x.toNat) = true)
    (hlow : s.lowerIssued k b j none true = true) (hpend : s.pendOver (s.fenceVal k b j g).dep = true) :
    fence true acq (.block w) s =
      let q := s.queueFence (.actor k b j) g.tag true acq (scopeBits w.x.toNat) (s.fenceVal k b j g) true
      .next (q.2.modFiring k b (fun f => f.await j (.access q.1))) := by
  refine (runForm_block_fires h).trans ?_
  rw [State.fenceVal] at hpend
  simp only [hlow, hpend, fenceScope, Form.x, hfar, Bool.not_true, Bool.and_false, Bool.or_self, Bool.and_self, Bool.false_eq_true,
    if_false, if_true, State.fenceVal]

end Block

/-- Settles O13: a fence runs by the one runner `fence`, which gives its token at once or, where a release reaches beyond the
partition, waits for the commit of its round. -/
theorem fencesGiveTheirToken : Obligations.FencesGiveTheirToken := by
  unfold Obligations.FencesGiveTheirToken
  constructor
  · intro e k n s g h sc t v near far
    refine ⟨fun hdone => ⟨?acq, fun hsc hpend => ⟨?rel, ?ar⟩⟩, fun hsc => ⟨?relFar, ?arFar⟩⟩
    case acq => exact fence_elem_near h rfl hdone nofun
    case rel => exact fence_elem_near h hsc hdone fun _ => hpend
    case ar => exact fence_elem_near h hsc hdone fun _ => hpend
    case relFar => exact fence_elem_far h hsc
    case arFar => exact fence_elem_far h hsc
  · intro w k b j s g h sc v0 v near far
    refine ⟨fun hlow => ?acq, fun hlow hpend => ⟨fun hsc => ⟨?rel, ?ar⟩, fun hsc => ⟨?relFar, ?arFar⟩⟩⟩
    case acq => exact fence_block_near h rfl hlow nofun
    case rel => exact fence_block_near h hsc hlow fun _ => hpend
    case ar => exact fence_block_near h hsc hlow fun _ => hpend
    case relFar => exact fence_block_far h hsc hlow hpend
    case arFar => exact fence_block_far h hsc hlow hpend

end Sys2Proof.Machine
end

section
/-!
PROOF. The generators of memory nodes: starts and stops, the stores and the count of a write node, the emissions and the windows of
a read node (R166 to R168, R281).
-/
namespace Sys2Proof.Machine

theorem PageDyn.headTok_of_fifo {d : PageDyn} {q : Place} {t : Token} {rest : List Item} (h : d.fifo q = .tok t :: rest) :
    d.headTok q = some t := by
  rw [PageDyn.headTok, h]

/-! ### What a read generator emits next -/

section Emit
variable {s : State} {k : PageKey} {n : Nat} {d : Desc} {g : Gen}

/-- The positions of the next emission (R166). -/
def emitPositions (d : Desc) (g : Gen) : List Nat := (List.range d.perEmission).map (· + g.k)

theorem emitNext_eor {l : Nat} {u : State} (hl : g.eor = some l)
    (hu : s.sendRoute k d.outRoute { kind := .eor, tag := g.tag, pay := BitVec.ofNat 32 l, dep := g.after } = some u) :
    s.emitNext k n d g = (u.modGen k n g.tag (fun x => { x with eor := none })).touch k g.tag := by
  simp only [State.emitNext, hl, hu]

theorem emitNext_eos {u : State} (hl : g.eor = none) (hend : g.last = true ∨ d.total < g.k + d.perEmission)
    (hu : s.sendRoute k d.outRoute { kind := .eos, tag := g.tag, pay := BitVec.ofNat 32 g.sent, dep := g.after } = some u) :
    s.emitNext k n d g = (u.modGen k n g.tag (fun x => { x with done := true })).touch k g.tag := by
  simp only [State.emitNext, hl, if_pos hend, hu]

/-- The window of the position has not returned (R168). -/
theorem emitNext_waits (hl : g.eor = none) (hmore : ¬(g.last = true ∨ d.total < g.k + d.perEmission))
    (hwin : d.nkind ≠ 1 ∧ g.returned ≤ (g.k + d.perEmission - 1) / max 1 d.winsz) : s.emitNext k n d g = s := by
  simp only [State.emitNext, hl, if_neg hmore, if_pos hwin]

theorem emitNext_element {rows : List (List Word)} {dep : Dep} {t u : State} (hl : g.eor = none)
    (hmore : ¬(g.last = true ∨ d.total < g.k + d.perEmission))
    (hwin : ¬(d.nkind ≠ 1 ∧ g.returned ≤ (g.k + d.perEmission - 1) / max 1 d.winsz))
    (hread : s.readPositions k n d g (emitPositions d g) = .ok (rows, dep, t)) (hu : t.emitElement k d g dep rows = some u) :
    s.emitNext k n d g =
      ((u.addNodeDep k n g.tag (s.roundOf k.ctx (s.behindCut (.node k n))) dep).modGen k n g.tag (fun x =>
        { x with k := x.k + d.perEmission, sent := x.sent + 1, after := x.after.join dep
                 eor := (emitPositions d g).foldl (fun m i => maxLevel m (wrapLevel d.eormask 0 d.used i)) none })).touch k g.tag := by
  rw [emitPositions] at hread
  simp only [State.emitNext, hl, if_neg hmore, if_neg hwin, hread, hu, emitPositions]

end Emit

/-! ### The turns of a node -/

section Turn
variable {s : State} {k : PageKey} {n : Nat} (hcur : s.cur = some (.part k n)) (hruns : s.pageRuns k = true)
include hcur hruns

theorem exec_generatorStart {t : Token} (ht : (s.dyn k).headTok (.node n 1) = some t) (hc : t.kind ≠ .census) :
    exec .generatorStart s =
      .next (if t.kind = .data then (s.takePort k n 1 t).startGen k n t.tag t.pay.toNat none t.dep else s.takePort k n 1 t) := by
  change execGeneratorStart s = _
  simp [execGeneratorStart, hcur, ht, hruns, hc]

theorem exec_generatorStop {t : Token} (ht : (s.dyn k).headTok (.node n 2) = some t) (hd : t.kind = .data)
    (hg : (s.gen? k n t.tag).isSome = true) :
    exec .generatorStop s =
      .next ((s.takePort k n 2 t).modGen k n t.tag (fun g => { g with last := true, eor := none, after := g.after.join t.dep })) := by
  change execGeneratorStop s = _
  simp [execGeneratorStop, hcur, ht, hruns, hd, hg]

/-- The store of a write node's next position (R166). -/
theorem exec_writeNodeData {t : Token} {rest : List Item} {g : Gen} {u : State} (hdim : (s.nodeDesc k n).ndim ≠ 0)
    (hw : (s.nodeDesc k n).isWrite = true) (hf : (s.dyn k).fifo (.node n 0) = .tok t :: rest) (hd : t.kind = .data)
    (hg : s.gen? k n t.tag = some g) (hrun : s.genRuns k n g = true) (hsize : (s.nodeDesc k n).esize ≠ 64)
    (hu : s.storeNext k n (s.nodeDesc k n) g (bytesOfWord (s.nodeDesc k n).esize t.pay.toNat) t.dep = .ok u) :
    exec .writeNodeData s = .next (u.modDyn k (fun x => x.pop (.node n 0))) := by
  change execWriteNodeData s = _
  simp only [execWriteNodeData, hcur]
  rw [if_pos (by simp [hruns, hdim, hw])]
  simp [State.writeHead, hf, hd, hg, hrun, hsize, hu]

/-- A write node's turn for its closing EOS (R166). -/
theorem exec_writeNodeEos_due {g : Gen} {u : State} (hdim : (s.nodeDesc k n).ndim ≠ 0) (hw : (s.nodeDesc k n).isWrite = true)
    (hdue : s.writeEosDue k n = some g) (hrun : s.genRuns k n g = true)
    (hu : s.sendRoute k (s.nodeDesc k n).outRoute { kind := .eos, tag := g.tag, pay := BitVec.ofNat 32 g.sent, dep := g.after } = some u) :
    exec .writeNodeEos s = .next ((u.modGen k n g.tag (fun x => { x with done := true })).touch k g.tag) := by
  change execWriteNodeEos s = _
  simp only [execWriteNodeEos, hcur]
  rw [if_neg (by simp [hruns, hdim, hw])]
  simp [hdue, hrun, hu]

/-- The EOS of the frame at DATA ends a write generator's positions (R166, log 148). -/
theorem exec_writeNodeEos_taken {t : Token} {rest : List Item} {g : Gen} (hdim : (s.nodeDesc k n).ndim ≠ 0)
    (hw : (s.nodeDesc k n).isWrite = true) (hdue : s.writeEosDue k n = none) (hf : (s.dyn k).fifo (.node n 0) = .tok t :: rest)
    (ht : t.kind = .eos) (hg : ((s.dyn k).node n).gens.find? (fun g => g.tag == t.tag) = some g) (hnot : g.done = false) :
    exec .writeNodeEos s = .next ((s.modDyn k (fun x => x.pop (.node n 0))).modGen k n t.tag
      (fun x => { x with last := true, after := x.after.join t.dep })) := by
  change execWriteNodeEos s = _
  simp only [execWriteNodeEos, hcur]
  rw [if_neg (by simp [hruns, hdim, hw])]
  simp [hdue, PageDyn.headTok_of_fifo hf, ht, hg, hnot]

/-- A read node without a cue serves its first generator that has not ended. -/
theorem exec_generatorEmit {g : Gen} (hdim : (s.nodeDesc k n).ndim ≠ 0) (hr : (s.nodeDesc k n).isWrite = false)
    (hcue : ((s.dyn k).node n).cue = none) (hg : ((s.dyn k).node n).gens.find? (fun g => !g.done) = some g)
    (hrun : s.genRuns k n g = true) (hheld : s.genHeld k n g = false) :
    exec .generatorEmit s = .next (s.emitNext k n (s.nodeDesc k n) g) := by
  change execGeneratorEmit s = _
  simp only [execGeneratorEmit, hcur]
  rw [if_neg (by simp [hruns, hdim])]
  simp [hcue, hr, hg, hrun, hheld]

omit hruns in
theorem exec_windowReturn {g : Gen} (hdim : (s.nodeDesc k n).ndim ≠ 0) (hr : (s.nodeDesc k n).isWrite = false)
    (hkind : (s.nodeDesc k n).nkind ≠ 1) (hg : ((s.dyn k).node n).gens.find? (fun g => !g.done) = some g) :
    let d := s.nodeDesc k n
    let wsz := max 1 d.winsz
    let goal := min ((d.total + wsz - 1) / wsz) ((g.k + d.perEmission - 1) / wsz + d.wincnt)
    exec .windowReturn s = .next (if g.returned < goal then
      s.modGen k n g.tag (fun x => { x with requested := goal, returned := x.returned + 1 }) else s) := by
  change execWindowReturn s = _
  simp only [execWindowReturn, hcur]
  rw [if_neg (by simp [hdim, hr, hkind])]
  simp only [hg]

end Turn

/-- Settles O27: each turn follows the branch of its conditions, and what a read node sends is its generator's next emission. -/
theorem generatorsServeTheirFrames : Obligations.GeneratorsServeTheirFrames := by
  unfold Obligations.GeneratorsServeTheirFrames
  intro s k n hcur hruns d
  refine ⟨fun t ht => ⟨fun hd => ?start, fun hd hc => ?startClosing⟩, fun t ht hd hg => ?stop,
    fun hdim hw => ⟨?store, ?eosDue, ?eosTaken⟩, fun hdim hr hcue g hg hrun hheld => ?emit, fun hdim hr hkind g hg => ?window⟩
  case start =>
    rw [exec_generatorStart hcur hruns ht (by simp [hd]), if_pos hd]
  case startClosing =>
    rw [exec_generatorStart hcur hruns ht hc, if_neg hd]
  case stop => exact exec_generatorStop hcur hruns ht hd hg
  case store => exact fun t rest g u hf hd hg hrun hsize hu => exec_writeNodeData hcur hruns hdim hw hf hd hg hrun hsize hu
  case eosDue => exact fun g u hdue hrun hu => exec_writeNodeEos_due hcur hruns hdim hw hdue hrun hu
  case eosTaken => exact fun t rest g hdue hf ht hg hnot => exec_writeNodeEos_taken hcur hruns hdim hw hdue hf ht hg hnot
  case emit =>
    rw [exec_generatorEmit hcur hruns hdim hr hcue hg hrun hheld]
    refine ⟨fun l u hl hu => ?eor, fun hl hend u hu => ?eos, fun hl hlast hleft => ?element⟩
    case eor => rw [emitNext_eor hl hu]
    case eos => rw [emitNext_eos hl hend hu]
    case element =>
      have hmore : ¬(g.last = true ∨ d.total < g.k + d.perEmission) := by simp [hlast, hleft]
      refine ⟨fun hkind hwin => ?_, fun hwin => ?_⟩
      · rw [emitNext_waits hl hmore ⟨hkind, hwin⟩]
      · intro idx rows dep t u hread hu
        have hback : ¬(d.nkind ≠ 1 ∧ g.returned ≤ (g.k + d.perEmission - 1) / max 1 d.winsz) := by omega
        rw [emitNext_element hl hmore hback hread hu]
        rfl
  case window =>
    intro wsz goal
    have hexec := exec_windowReturn hcur hdim hr hkind hg
    refine ⟨fun hlt => ?_, fun hge => ?_⟩
    · rw [hexec, if_pos hlt]
    · rw [hexec, if_neg (Nat.not_lt.mpr hge)]

end Sys2Proof.Machine
end

section
/-!
PROOF. The frame of an issue (R172, R173, R177, R294): what the operations of an access on its way to its home leave as it was, and
from it the turn of an element that holds a memory, atomic or prefetch word.
-/
namespace Sys2Proof.Machine

namespace TurnFrame

/-! ### An access on its way -/

section Issue
variable {k : PageKey} {o : Own} {s : State}

theorem modReq (id : Nat) (f : Req → Req) : TurnFrame k o s (s.modReq id f) := of_fields rfl rfl rfl rfl rfl rfl

theorem noteChoice (arb input : Nat) : TurnFrame k o s (s.noteChoice arb input) := by
  obtain ⟨d, h⟩ := noteChoice_dev s arb input
  rw [h]
  exact of_fields rfl rfl rfl rfl rfl rfl

theorem requestClose (c : CtxId) (trigger : Nat) : TurnFrame k o s (s.requestClose c trigger) := by
  have hctx : TurnFrame k o s (s.modCtx c (fun x => { x with wantClose := true })) := of_fields rfl rfl rfl rfl rfl rfl
  unfold State.requestClose
  split
  · exact refl k o s
  · exact (hctx.trans (sendCtl _)).trans (noteChoice _ _)

theorem enterQueue (id : Nat) : TurnFrame k o s (s.enterQueue id) := by
  unfold State.enterQueue
  split
  · exact refl k o s
  · exact iteInduction (fun _ => modReq _ _) (fun _ => modReq _ _)

theorem enterHome (id : Nat) (sp : Space) (pa : Nat) : TurnFrame k o s (s.enterHome id sp pa) := by
  unfold State.enterHome
  split
  · exact refl k o s
  · exact iteInduction (fun _ => ((modReq _ _).trans (modReq _ _)).trans (requestClose _ _))
      (fun _ => (modReq _ _).trans (enterQueue _))

theorem beginWalk (r : Req) (mse : Nat) : TurnFrame k o s (s.beginWalk r mse) := by
  unfold State.beginWalk
  exact iteInduction (fun _ => refl k o s) (fun _ => of_fields rfl rfl rfl rfl rfl rfl)

/-- A request enters the list of those in flight; what its translation begins changes no memory, page or partition. -/
theorem issue (p : Party) (n : Nat) (op : MemOp) (tag : Tag) (va size : Nat) (a b : DWord) (dep : Dep) (keep : Bool) :
    TurnFrame k o s (s.issue p n op tag va size a b dep keep).2 := by
  unfold State.issue
  extract_lets kp id d close r0 r s1 m
  have h1 : TurnFrame k o s s1 := of_fields rfl rfl rfl rfl rfl rfl
  split
  · exact h1.trans (enterHome _ _ _)
  · split
    · split
      · exact h1.trans (enterHome _ _ _)
      · exact h1.trans (beginWalk _ _)
    · exact h1.trans (beginWalk _ _)

theorem queueClosing (p : Party) (t : Token) : TurnFrame k o s (s.queueClosing p t) := of_fields rfl rfl rfl rfl rfl rfl

end Issue

/-! ### The turn of an element with a memory word -/

section Turn
variable {k : PageKey} {n : Nat} {s : State}

theorem takeAll (e : Ecw) (t : Token) : TurnFrame k (.ofElem n) s (s.takeAll k n e t) :=
  (touch t.tag).trans (modDyn (fun _ => .popAll _))

theorem takeClosing (e : Ecw) (t : Token) : TurnFrame k (.ofElem n) s (s.takeClosing k n e t) := by
  refine (takeAll e t).trans (modDyn (fun d => ?_))
  split
  · exact .endTag t
  · exact .refl _ d

/-- A word of an element keeps to it when its closings and its own effect do (R79, R97). -/
theorem fireWith {r : ElemRule} {check : Args → State → Option (Nat × Word × Nat)} {data : Args → State → State} (e : Ecw)
    (hstrikes : ∀ t, TurnFrame k (.ofElem n) s (r.strikes t s)) (hclosing : ∀ t, TurnFrame k (.ofElem n) s (r.closing t s))
    (hdata : ∀ g t, TurnFrame k (.ofElem n) t (data g t)) : TurnFrame k (.ofElem n) s (fireWith r check data e k n s) := by
  have hfault (cause : Nat) (tag : Tag) (v : Word) (node : Nat) : TurnFrame k (.ofElem n) s (s.faultP cause (.elem k n) tag v node) :=
    faultP (Own.has_elem k n) cause tag v node
  unfold Machine.fireWith
  cases s.elemHeads k n e with
  | wait => exact refl _ _ s
  | skew t => exact iteInduction (fun _ => hfault _ _ _ _) (fun _ => refl _ _ s)
  | cue t => exact iteInduction (fun _ => cueElem e true t) (fun _ => refl _ _ s)
  | strikes t => exact iteInduction (fun _ => hstrikes t) (fun _ => elemWaits e t.tag)
  | closing t => exact iteInduction (fun _ => hclosing t) (fun _ => elemWaits e t.tag)
  | data ts =>
    dsimp -zeta only
    extract_lets g s1
    have h1 : TurnFrame k (.ofElem n) s s1 := taken e g.tag
    split
    · exact elemWaits e g.tag
    · split
      · exact hfault _ _ _ _
      · split
        · split
          · exact hfault _ _ _ _
          · exact h1.trans (hdata g s1)
        · exact h1

theorem memElem {tri : Bool} {ask : Args → State → Ask} (e : Ecw) : TurnFrame k (.ofElem n) s (memElem tri ask e k n s) := by
  unfold Machine.memElem
  refine fireWith e (fun t => (takeAll e t).trans (queueClosing _ t)) (fun t => (takeClosing e t).trans (queueClosing _ t))
    (fun g t => ?_)
  dsimp only
  split
  · exact refl _ _ t
  · exact issue _ _ _ _ _ _ _ _ _ _

end Turn

end TurnFrame

/-! ### The obligation -/

/-- A prefetch keeps to its element: behind its heads it does nothing. -/
theorem pf_turnFrame {e : Ecw} {k : PageKey} {n : Nat} {s t : State} (hcur : s.cur = some (.party (.elem k n)))
    (h : exec (.pf (.elem e)) s = .next t) : TurnFrame k (.ofElem n) s t := by
  have hexec : exec (.pf (.elem e)) s = .next _ := runForm_elem _ _ _ hcur
  rw [hexec] at h
  cases h
  exact .fireWith e (fun t => .strikeElem e t) (fun t => .closeElem e t) (fun _ t => .refl _ _ t)

/-- Settles O57: every word but the prefetch is an access, whose turn keeps to its element: the request that it issues stands among
those in flight. -/
theorem issuingAnAccessStoresNothing : Obligations.IssuingAnAccessStoresNothing := by
  unfold Obligations.IssuingAnAccessStoresNothing
  intro e k n i s t f hi hcur h
  have hword : i = .pf f ∨ ∃ tri ask, exec i s = .next (memElem tri ask e k n s) := by
    simp only [List.mem_cons, List.not_mem_nil, or_false] at hi
    obtain rfl | rfl | hpf | rfl | rfl | rfl | rfl | rfl | rfl | rfl | rfl | rfl | rfl | rfl | rfl | rfl := hi
    case inr.inr.inl => exact .inl hpf
    all_goals exact .inr ⟨_, _, runForm_elem _ _ _ hcur⟩
  have hframe : TurnFrame k (.ofElem n) s t := by
    obtain rfl | ⟨tri, ask, hexec⟩ := hword
    · exact pf_turnFrame hcur h
    · rw [hexec] at h
      cases h
      exact .memElem e
  exact ⟨hframe.sameBytes, hframe.pages, hframe.dyn.elem, fun b => hframe.dyn.actor b id⟩

end Sys2Proof.Machine
end

section
/-!
PROOF. The vector instructions of the island: every cell of DA by the scalar operation of its row and column (R206).
-/
namespace Sys2Proof.Machine

/-- The cells are built of the rows 0 to 15 alone. -/
theorem Accum.build_congr {f g : Nat → Nat → Nat × Flags} (h : ∀ i j, i < 16 → f i j = g i j) : Accum.build f = Accum.build g := by
  have hcells : (List.range 256).map (fun n => f (n / 16) (n % 16)) = (List.range 256).map (fun n => g (n / 16) (n % 16)) :=
    List.map_congr_left (fun n hn => h _ _ (by have := List.mem_range.mp hn; omega))
  rw [Accum.build, Accum.build, hcells]

section Vector
variable {w : Isl} {k : PageKey} {s : State} {x : IslandState} {e : PageKey → IslandState → Except Hold Done} {srcs : List Accum}
  {f : Nat → Nat → Nat × Flags}

/-- A vector operation issues where DA and its sources hold FP32 cells (R206). -/
theorem runIsl_vector (h : IslandFires k s x) (he : e k x = s.vecStep k w srcs f x) (ha : (x.acc w.da).int = false)
    (hs : srcs.any Accum.int = false) : s.runIsl false e = .next (s.vectorNext k w x srcs f) :=
  runIsl_with h (he.trans (if_neg (by simp [ha, hs])))

/-- A vector operation stops in place where DA or a source holds integers (R206, logs 14 and 15). -/
theorem runIsl_vector_int (h : IslandFires k s x) (he : e k x = s.vecStep k w srcs f x)
    (hi : ((x.acc w.da).int || srcs.any Accum.int) = true) :
    s.runIsl false e = .next (s.islandFault k 0x3D (s.islandWord k) 0) :=
  runIsl_fault h (he.trans (if_pos hi))

/-- A fold of each row is the vector operation that gives the fold in every column (R206). -/
theorem rowStep_eq_vecStep (op : Accum → Nat → Nat × Flags) :
    s.rowStep k w op x = s.vecStep k w [x.acc w.db] (fun i _ => op (x.acc w.db) i) x := by
  have hrows : Accum.build (fun i _ => (((List.range 16).map (op (x.acc w.db)))[i]?).getD (0, Flags.none)) =
      Accum.build (fun i _ => op (x.acc w.db) i) :=
    Accum.build_congr (fun i _ hi => by simp [hi])
  simp only [State.rowStep, State.vecStep, hrows]

end Vector

/-- Settles O18: each opcode is the vector operation of its sources, which issues where DA and they hold FP32 cells. -/
theorem islandVectorGivesCells : Obligations.IslandVectorGivesCells := by
  unfold Obligations.IslandVectorGivesCells
  intro w k s x h b c a md col
  refine ⟨fun hab => ?float, fun ha hri => ?factor, fun hab => ?int⟩
  case float =>
    obtain ⟨ha, hb⟩ := Bool.or_eq_false_iff.mp hab
    have one : [b].any Accum.int = false := by simp [hb]
    refine ⟨?vmaxr, ?vsumr, ?vexp2, fun hri => ?column, fun hc => ?two⟩
    case vmaxr => exact runIsl_vector h (rowStep_eq_vecStep _) ha one
    case vsumr => exact runIsl_vector h (rowStep_eq_vecStep _) ha one
    case vexp2 => exact runIsl_vector h rfl ha one
    case column => exact runIsl_vector (srcs := [a, b]) h (if_neg (by simp [hri])) ha (by simp [ha, hb])
    case two =>
      have two : [b, c].any Accum.int = false := by simp [hb, hc]
      have three : [b, c, a].any Accum.int = false := by simp [ha, hb, hc]
      exact ⟨runIsl_vector h rfl ha two, runIsl_vector h rfl ha two, runIsl_vector h rfl ha two, runIsl_vector h rfl ha two,
        runIsl_vector h rfl ha three⟩
  case factor => exact runIsl_vector (srcs := [a]) h (if_pos hri) ha (by simp [ha])
  case int =>
    have source (rest : List Accum) : ((x.acc w.da).int || (b :: rest).any Accum.int) = true := by
      rw [List.any_cons, ← Bool.or_assoc, hab, Bool.true_or]
    simp only [List.forall_mem_cons, List.not_mem_nil, false_implies, implies_true, and_true]
    exact ⟨runIsl_vector_int h (rowStep_eq_vecStep _) (source _), runIsl_vector_int h (rowStep_eq_vecStep _) (source _),
      runIsl_vector_int h rfl (source _), runIsl_vector_int h rfl (source _), runIsl_vector_int h rfl (source _),
      runIsl_vector_int h rfl (source _), runIsl_vector_int h rfl (source _), runIsl_vector_int h rfl (source _)⟩

end Sys2Proof.Machine
end

section
/-!
PROOF. The matrix step of the island: its operands' checks, the tiles that it reads, and what it does with them (R199 to R201).
-/
namespace Sys2Proof.Machine

section Matrix
variable {w : Isl} {k : PageKey} {s t u : State} {x : IslandState} {b c : TileReg} {kmajor scaled : Bool}

/-- What a matrix step on these tiles leaves of the island: DA's new cells, its descriptor pairs behind their advances, and the
ordering that its rows carried (R197, R200, log 153). -/
def IslandState.stepped (x : IslandState) (w : Isl) (b c : TileReg) (r : Accum) (sc : Bool) : IslandState :=
  let y := x.setAcc w.da { r with sc := sc, dep := ((x.acc w.da).dep.join b.dep).join c.dep }
  let y1 := if w.db.pair then State.advancePair y w.db.num (bitsOf w.x.toNat 6 1 == 1) else y
  let y2 := if w.dc.pair then State.advancePair y1 w.dc.num (bitsOf w.x.toNat 7 1 == 1) else y1
  { y2 with party := y2.party.join (b.dep.join c.dep) }

/-- The tiles of a matrix step stand ready: DA's kind and DB are accepted, the rows of both pairs pass their checks, and both
multiplicands have been read (R197, R199). -/
structure TilesRead (w : Isl) (k : PageKey) (s : State) (x : IslandState) (b c : TileReg) (t u : State) : Prop where
  kind : (x.acc w.da).int = !w.ty.isFloat
  tile : State.badTile x w.ty w.db false = false
  checkB : s.checkPair k x w.ty w.db (bitsOf w.x.toNat 0 3) = .ok ()
  checkC : s.checkPair k x w.ty w.dc (bitsOf w.x.toNat 3 3) = .ok ()
  readB : s.multiplicand k x w.ty w.db (bitsOf w.x.toNat 0 3) = .ok (b, t)
  readC : t.multiplicand k x w.ty w.dc (bitsOf w.x.toNat 3 3) = .ok (c, u)

/-- What DA's SC becomes: MMAS takes the one that it declares, the others that of the tiles (R200, R201). -/
def steppedSc (w : Isl) (scaled : Bool) (x : IslandState) (b c : TileReg) : Bool :=
  if scaled then (x.acc w.da).sc || bitsOf w.x.toNat 8 2 == 1 else (x.acc w.da).sc || (b.sc || c.sc)

/-- On tiles read, the SC that MMAS declares decides whether the step is performed (R200, R201). -/
theorem mmaStep_of_tilesRead (h : TilesRead w k s x b c t u) (hc : State.badTile x w.ty w.dc kmajor = false) :
    s.mmaStep k w kmajor scaled x =
      if (scaled && (b.sc || c.sc) == (bitsOf w.x.toNat 8 2 == 1)) = true then
        .error (.fault 0x34 (Config.islandReport s.free) 0 { s with free := s.free + 1 })
      else
        let r := (x.acc w.da).step w.ty kmajor (if scaled then some (w.imm.toNat * 2 ^ 16) else none) b c
        .ok { x := x.stepped w b c r.1 (steppedSc w scaled x b c), t := u, flags := r.2 } := by
  have haccept : (State.badTile x w.ty w.db false || State.badTile x w.ty w.dc kmajor || (x.acc w.da).int != State.intKind w.ty) = false := by
    rw [h.kind, h.tile, hc, State.intKind, bne_self_eq_false]; rfl
  simp only [State.mmaStep, haccept, Bool.false_eq_true, if_false, h.checkB, h.checkC, h.readB, h.readC]
  rfl

/-- The matrix step is performed unless MMAS declares another SC than its tiles have (R200, R201). -/
theorem runIsl_mmaStep (hi : IslandFires k s x) (h : TilesRead w k s x b c t u) (hc : State.badTile x w.ty w.dc kmajor = false)
    (hsc : scaled = true → (b.sc || c.sc) = !(bitsOf w.x.toNat 8 2 == 1)) :
    s.runIsl false (fun k => s.mmaStep k w kmajor scaled) =
      let r := (x.acc w.da).step w.ty kmajor (if scaled then some (w.imm.toNat * 2 ^ 16) else none) b c
      .next (u.islandNextWith k (x.stepped w b c r.1 (steppedSc w scaled x b c)) r.2) := by
  have hdeclared : ¬(scaled && (b.sc || c.sc) == (bitsOf w.x.toNat 8 2 == 1)) = true := by
    cases scaled
    · simp
    · rw [hsc rfl]; simp
  exact runIsl_with hi (f := fun k => s.mmaStep k w kmajor scaled) ((mmaStep_of_tilesRead h hc).trans (if_neg hdeclared))

/-- Tiles whose SC is not as MMAS declares stop it, with a report that is free (R201, log 13). -/
theorem runIsl_mmaStep_sc (hi : IslandFires k s x) (h : TilesRead w k s x b c t u) (hc : State.badTile x w.ty w.dc kmajor = false)
    (hsc : (b.sc || c.sc) = (bitsOf w.x.toNat 8 2 == 1)) :
    s.runIsl false (fun k => s.mmaStep k w kmajor true) =
      .next (({ s with free := s.free + 1 } : State).islandFault k 0x34 (Config.islandReport s.free) 0) :=
  runIsl_fault hi (f := fun k => s.mmaStep k w kmajor true) ((mmaStep_of_tilesRead h hc).trans (if_pos (by simp [hsc])))

/-- A step that accumulates into the other kind stops in place (R199, log 15). -/
theorem runIsl_mmaStep_kind (hi : IslandFires k s x) (ha : (x.acc w.da).int = w.ty.isFloat) :
    s.runIsl false (fun k => s.mmaStep k w kmajor scaled) = .next (s.islandFault k 0x3D (s.islandWord k) 0) :=
  runIsl_fault hi (f := fun k => s.mmaStep k w kmajor scaled) (if_pos (by simp [ha, State.intKind]))

end Matrix

/-- Settles O19: on tiles read, each opcode is the matrix step of its own packing and scale. -/
theorem islandMatrixStep : Obligations.IslandMatrixStep := by
  unfold Obligations.IslandMatrixStep
  intro w k s x h a nb nc apply done
  refine ⟨fun hkind hb hcb hcc b t c u hrb hrc => ?tiles, fun hkind => ?kind⟩
  case tiles =>
    have hr : TilesRead w k s x b c t u := ⟨hkind, hb, hcb, hcc, hrb, hrc⟩
    refine ⟨fun hc => ⟨?mma, fun hsc => ?mmas, fun hsc => ?mmasSc⟩, fun hc => ?mmat⟩
    case mma => exact runIsl_mmaStep h hr hc nofun
    case mmat => exact runIsl_mmaStep h hr hc nofun
    case mmas => exact runIsl_mmaStep h hr hc (fun _ => hsc)
    case mmasSc => exact runIsl_mmaStep_sc h hr hc hsc
  case kind =>
    simp only [List.forall_mem_cons, List.not_mem_nil, false_implies, implies_true, and_true]
    exact ⟨runIsl_mmaStep_kind h hkind, runIsl_mmaStep_kind h hkind, runIsl_mmaStep_kind h hkind⟩

end Sys2Proof.Machine
end

section
/-!
PROOF. The loads and stores of the island: tiles and accumulators between registers, lanes and scratchpad (R196, R197, R202 to R204).
-/
namespace Sys2Proof.Machine

/-- Settles O20: a load gives DA what its packet or its rows hold, a store leaves the registers, and an access of DB's pair that is
answered lets its instruction issue. -/
theorem islandMovesTiles : Obligations.IslandMovesTiles := by
  unfold Obligations.IslandMovesTiles
  intro w k s x h node adv im loaded stored
  refine ⟨fun hx hd dep t rows hhead hrows => ?ldtLane, fun hx q hq => ?ldtPair, fun ty hty q hq => ?ldtt, fun q hq => ?lda,
    ⟨fun hfmt q hq => ?stt, fun hfmt => ?sttEmpty⟩, fun hkind q hq => ?sta, fun hkind => ?staKind⟩
  case ldtLane =>
    refine runIsl_next h ?_
    simp only [hx, Nat.zero_ne_one, if_false, hhead, hrows]
  case ldtPair =>
    refine runIsl_next h ?_
    simp only [hx, if_true]
    rw [hq]
  case ldtt =>
    refine runIsl_next h ?_
    simp only [show Ty.ofCode (bitsOf w.imm.toNat 12 4) = some ty from hty, Option.getD_some]
    rw [hq]
  case lda =>
    refine runIsl_next h ?_
    simp only [show s.loadPair k x w.db.num (bitsOf w.x.toNat 0 3) (List.range 16) = .ok q from hq]
    rfl
  case stt =>
    refine runIsl_next h ?_
    simp only [if_neg hfmt]
    rw [hq]
  case sttEmpty => exact runIsl_fault h (if_pos hfmt)
  case sta =>
    refine runIsl_next h ?_
    have hacc : (x.acc w.da).int = State.intKind w.ty := hkind
    simp only [hacc, ne_eq, not_true_eq_false, if_false]
    rw [hq]
  case staKind => exact runIsl_fault h (if_pos (by simp [hkind, State.intKind]))

end Sys2Proof.Machine
end

section
/-!
PROOF. The island's reads, broadcasts, conversions, loops, waits and sends (R198, R204, R205, R207 to R210).
-/
namespace Sys2Proof.Machine

/-- The sequencer's advance keeps the section's tag (R209). -/
@[simp] theorem IslandState.advance_tag (x : IslandState) : x.advance.tag = x.tag := by
  unfold IslandState.advance
  split
  · rfl
  · split
    · split <;> rfl
    · rfl

/-- An output lane with room for all of the items takes them (R190, R194). -/
theorem sendLane_fits {s : State} {k : PageKey} {lane : Nat} {l : List Item}
    (h : (s.dyn k).used (.laneOut lane) + l.length ≤ Place.cap (.laneOut lane)) :
    s.sendLane k lane l = .ok (s.modDyn k (fun d => l.foldl (fun y i => y.push (.laneOut lane) i) d)) :=
  if_pos h

/-- Settles O21: each instruction issues under its own conditions and answers its own effect. -/
theorem islandSequencesAndSends : Obligations.IslandSequencesAndSends := by
  unfold Obligations.IslandSequencesAndSends
  intro w k s x h a b c lane r fits sent
  refine ⟨fun hkind => ⟨fun hmd hfit => ?row, fun hmd hfit => ?column, fun hmd hfit => ?cell⟩, ?zacc, fun hmd => ?vbcastColumn,
    fun hmd => ?vbcastImm, fun hmd => ?vbcastScalar, fun hb hc => ?vcvt, ⟨fun hn => ?skip, fun hn => ?loop⟩, fun u t hhead => ?iwait,
    fun hfmt hfit => ?iemitPkt, fun hfit => ?iemitTok, ?isync⟩
  case row | column | cell =>
    refine runIsl_next h ?_
    have hacc : ¬(x.acc w.da).int ≠ State.intKind w.ty := fun hne => hne hkind
    simp only [hmd, if_neg hacc]
    rw [sendLane_fits hfit]
    rfl
  case zacc => exact runIsl_next h rfl
  case vbcastColumn => exact runIsl_next h (by simp only [hmd]; rfl)
  case vbcastImm => exact runIsl_next h (by simp only [hmd]; rfl)
  case vbcastScalar => exact runIsl_next h (by simp only [hmd]; rfl)
  case vcvt =>
    intro four old base q
    have haccept : ¬(b.int ≠ State.intKind w.ty ∨ (w.ty == .fx4x8) = true ∧ c.int = true) := by
      rintro (hne | ⟨hfour, hint⟩)
      · exact hne hb
      · exact Bool.noConfusion ((hc (beq_iff_eq.mp hfour)).symm.trans hint)
    refine runIsl_with (d := ⟨_, s, q.2⟩) h ?_
    exact if_neg haccept
  case skip =>
    refine (runIsl_jump h rfl).trans ?_
    simp only [show (if w.ri then w.imm.toNat else (x.scalar w.da.num).v.toNat) = 0 from hn, if_true, IslandState.advance_tag]
  case loop =>
    refine (runIsl_jump h rfl).trans ?_
    simp only [if_neg hn]
  case iwait =>
    refine runIsl_next h ?_
    simp only []
    rw [hhead]
  case iemitPkt =>
    refine runIsl_next h ?_
    simp only [if_neg hfmt]
    rw [sendLane_fits hfit]
  case iemitTok =>
    refine runIsl_next h ?_
    simp only []
    rw [sendLane_fits hfit]
  case isync => exact runIsl_next h rfl

end Sys2Proof.Machine
end

section
/-!
PROOF. The sections of the island: arming, passes, the end of a section, its report, and the island's cut (R188, R189, R194, R212,
R274, R275).
-/
namespace Sys2Proof.Machine

/-- An item of one kind is of no other. -/
theorem Item.isKind_other {i : Item} {a b : Kind} (h : i.isKind a = true) (hne : a ≠ b) : i.isKind b = false := by
  cases i with
  | tok t => rw [Item.isKind, beq_iff_eq] at h; simp [Item.isKind, h, hne]
  | head _ _ => exact absurd h Bool.false_ne_true
  | row _ => exact absurd h Bool.false_ne_true

/-- The ARM tokens on their way to a page's island (R80). -/
def armToken (k : PageKey) (z : Ctl) : Bool := z.code == 0x02 && z.page == some k

/-- The island of a page may be armed for a tag (R188, R274, R276). -/
structure ArmReady (s : State) (k : PageKey) (p : Page) (tag : Tag) : Prop where
  island : p.hasIsland = true
  runs : s.pageRuns k = true
  idle : p.dyn.island.phase = .idle
  notStopped : p.dyn.island.stopped = false
  noTrap : p.dyn.island.trap = false
  notHeld : s.armHeld k p = false
  noCut : p.dyn.island.cut = true ∨ State.islandCue p = none
  armTag : s.armTag k p = some tag
  allowed : s.dbgAllows k.ctx ((Party.island k).identity s) tag = true
  mayStep : s.stepAllows k.ctx p.islandHeader.step = true

/-- No cut of the island is due while it is ready (R212). -/
theorem ArmReady.cut_not_due {s : State} {k : PageKey} {p : Page} {tag : Tag} (h : ArmReady s k p tag) :
    ¬(p.dyn.island.cut = false ∧ (State.islandCue p).isSome = true) := by
  rcases h.noCut with hcut | hcue
  · simp [hcut]
  · simp [hcue]

/-- The island that a section begins with: its tile count, its constants, everything else empty (R188, R274). -/
def armedIsland (p : Page) (tag : Tag) (n : Nat) : IslandState :=
  { IslandState.empty with
    phase := if n = 0 then .ending else .running, tag := tag, tiles := n, s := State.armedRegs p
    armq := if p.lanes.any (fun l => !l.out) then p.dyn.island.armq else p.dyn.island.armq.tail
    armSeen := p.dyn.island.armSeen, cueDue := p.dyn.island.cueDue, census := p.dyn.island.census, cut := p.dyn.island.cut }

section Turn
variable {s : State} {k : PageKey} {p : Page} (hcur : s.cur = some (.page k)) (hpage : s.page? k = some p)
include hcur hpage

/-! ### Arming -/

/-- No token is on its way, and an island that is not idle gets none (R274). -/
theorem exec_arm_busy (hz : s.ctl.find? (armToken k) = none) (hbusy : p.dyn.island.phase ≠ .idle) : exec .arm s = .next s := by
  unfold armToken at hz
  change execArm s = _
  simp [execArm, hcur, hpage, hz, hbusy]

/-- The stage manager sends a ready island its ARM token with the tile count (R80, R274). -/
theorem exec_arm_sends {tag : Tag} (hz : s.ctl.find? (armToken k) = none) (h : ArmReady s k p tag) (hcount : State.tileCount p < 2 ^ 24) :
    exec .arm s =
      .next (s.sendCtl { code := 0x02, tag := tag, operand := State.tileCount p, ctx := some k.ctx, page := some k, part := k.ctx.part }) := by
  unfold armToken at hz
  have hfit : ¬16777216 ≤ State.tileCount p := Nat.not_le.mpr hcount
  change execArm s = _
  simp [execArm, hcur, hpage, hz, h.island, h.runs, h.idle, h.notStopped, h.noTrap, h.notHeld, h.armTag, h.allowed, h.mayStep,
    h.cut_not_due, hfit]

/-- The ARM token gives the island its section (R188, R274). -/
theorem exec_arm_receives {z : Ctl} (hz : s.ctl.find? (armToken k) = some z) (h : ArmReady { s with ctl := s.ctl.erase z } k p z.tag)
    (hcount : z.operand < 2 ^ 24) :
    let u : State := { s with ctl := s.ctl.erase z }
    exec .arm s = .next ((u.noteChoice (0x8000 + u.regionByte k) 0).setIsland k (armedIsland p z.tag z.operand)) := by
  unfold armToken at hz
  have hfit : ¬16777216 ≤ z.operand := Nat.not_le.mpr hcount
  simp only [hcur] at h -- the turn's subject, as it stands in the state without the token
  change execArm s = _
  simp [execArm, hcur, hpage, hz, h.island, h.runs, h.idle, h.notStopped, h.noTrap, h.notHeld, h.armTag, h.allowed, h.mayStep,
    h.cut_not_due, hfit, armedIsland]

/-! ### Passes and the end of a section -/

/-- Behind the block's last instruction the tile count falls (R189). -/
theorem exec_passEnd (hruns : s.pageRuns k = true) (hphase : p.dyn.island.phase = .running)
    (hpc : p.islandHeader.nins ≤ p.dyn.island.pc) (hstop : p.dyn.island.stopped = false) (htrap : p.dyn.island.trap = false) :
    exec .passEnd s = .next (if p.dyn.island.tiles ≤ 1 then s.setIsland k { p.dyn.island with tiles := 0, phase := .ending }
      else s.setIsland k { p.dyn.island with tiles := p.dyn.island.tiles - 1, pc := 0, loops := [] }) := by
  change execPassEnd s = _
  simp [execPassEnd, hcur, hpage, hruns, hphase, Nat.not_lt.mpr hpc, hstop, htrap]

/-- Before the block's last instruction the pass goes on (R189). -/
theorem exec_passEnd_within (hpc : p.dyn.island.pc < p.islandHeader.nins) : exec .passEnd s = .next s := by
  change execPassEnd s = _
  simp [execPassEnd, hcur, hpage, hpc]

section Ending
variable (hruns : s.pageRuns k = true) (hphase : p.dyn.island.phase = .ending) (hstop : p.dyn.island.stopped = false)
  (htrap : p.dyn.island.trap = false)
include hruns hphase hstop htrap

/-- The section's EOS is taken from a fed lane that has not given it (R194). -/
theorem exec_sectionEnd_takes {lane : Nat} {i : Item}
    (hlane : (State.fedLanes p).find? (fun l => !p.dyn.island.eosTaken.contains l) = some lane)
    (hhead : (s.laneHead k lane).1 = some i) (htag : i.tag? = some p.dyn.island.tag) (heos : i.isKind .eos = true) :
    let t := (s.laneHead k lane).2.modDyn k (fun d => d.pop (.laneIn lane))
    exec .sectionEnd s = .next (t.setIsland k { (t.dyn k).island with eosTaken := p.dyn.island.eosTaken ++ [lane] }) := by
  have hstrike : i.isKind .strike = false := Item.isKind_other heos (by decide)
  change execSectionEnd s = _
  simp only [execSectionEnd, hcur, hpage, hruns, hphase, hstop, htrap, hlane, hhead, htag, heos, hstrike]
  simp

/-- With every EOS taken, the lanes' counts go out and the completion is reported (R189, R194). -/
theorem exec_sectionEnd_reports (hlane : (State.fedLanes p).find? (fun l => !p.dyn.island.eosTaken.contains l) = none)
    (hroom : ((p.lanes.filter LaneEntry.out).map LaneEntry.lane).all
      (fun l => decide (p.dyn.used (.laneOut l) < Place.cap (.laneOut l))) = true) :
    exec .sectionEnd s = .next ((s.modDyn k (fun d => ((p.lanes.filter LaneEntry.out).map LaneEntry.lane).foldl (fun y l => y.push (.laneOut l)
      (.tok { kind := .eos, tag := p.dyn.island.tag, pay := BitVec.ofNat 32 (p.dyn.island.count l), dep := p.dyn.island.sync }))
        { d with island := { p.dyn.island with phase := .reported } })).sendCtl
          { code := 0x03, tag := p.dyn.island.tag, operand := s.regionByte k % 64, page := some k, part := k.ctx.part }) := by
  change execSectionEnd s = _
  simp only [execSectionEnd, hcur, hpage, hruns, hphase, hstop, htrap, hlane, hroom]
  simp

end Ending

/-! ### The island's cut -/

/-- A cut is recorded once for a round, and not before its cue stands on every fed lane (R212). -/
theorem exec_islandCut_waits (h : p.dyn.island.cut = true ∨ State.islandCue p = none) : exec .islandCut s = .next s := by
  change execIslandCut s = _
  rcases h with hcut | hcue
  · simp [execIslandCut, hcur, hpage, hcut]
  · simp [execIslandCut, hcur, hpage, hcue]

end Turn

/-- Settles O28: each event's conditions decide the branch of its turn. -/
theorem islandSectionsRun : Obligations.IslandSectionsRun := by
  unfold Obligations.IslandSectionsRun
  refine ⟨fun s k p hcur hpage hruns => ?page, fun s k z hcur hz hk => ?sectionDone⟩
  case page =>
    intro x token
    refine ⟨fun hz hbusy => exec_arm_busy hcur hpage hz hbusy, fun tag hi hidle hstop htrap hheld hcut => ⟨?armSends, ?armReceives⟩,
      fun hphase hpc hstop htrap => ⟨fun hlast => ?lastPass, fun hmore => ?nextPass⟩, fun _ hpc => exec_passEnd_within hcur hpage hpc,
      fun hphase hstop htrap => ⟨fun lane i hlane hhead htag heos => ?takesEos, fun hlane hroom => ?reports⟩, ?cut,
      fun h => exec_islandCut_waits hcur hpage h⟩
    case armSends =>
      intro hz harm hdbg hstep hcount
      exact exec_arm_sends hcur hpage hz ⟨hi, hruns, hidle, hstop, htrap, hheld, hcut, harm, hdbg, hstep⟩ hcount
    case armReceives =>
      intro z hz u htag hcount hruns' hheld' harm hdbg hstep
      subst htag
      exact exec_arm_receives hcur hpage hz ⟨hi, hruns', hidle, hstop, htrap, hheld', hcut, harm, hdbg, hstep⟩ hcount
    case lastPass => rw [exec_passEnd hcur hpage hruns hphase hpc hstop htrap, if_pos hlast]
    case nextPass => rw [exec_passEnd hcur hpage hruns hphase hpc hstop htrap, if_neg (Nat.not_le.mpr hmore)]
    case takesEos => exact exec_sectionEnd_takes hcur hpage hruns hphase hstop htrap hlane hhead htag heos
    case reports => exact exec_sectionEnd_reports hcur hpage hruns hphase hstop htrap hlane hroom
    case cut =>
      intro t hi hcut hcue
      have hcut' : p.dyn.island.cut = false := hcut
      change execIslandCut s = _
      simp [execIslandCut, hcur, hpage, hruns, hi, hcut', hcue, x]
  case sectionDone =>
    change execSectionDone s = _
    simp only [execSectionDone, hcur, State.takeCtl_of_find hz, hk]

end Sys2Proof.Machine
end

section
/-!
PROOF. SEND and SENDW (R214 to R218).
-/
namespace Sys2Proof.Machine

section Send
variable {w : Blk} {k : PageKey} {b j : Nat} {s : State} {g : Args} {x : Slot} {code : Nat} {wait : Bool}

/-- The operands of SEND and SENDW are read under .OV alone (R214). -/
def sendOv (w : Blk) : Bool := bitsOf w.md.toNat 2 1 == 1

/-- The operands of a message: those of its slot's body, the first two under .OV from the instruction (R214). -/
def sendOpnds (w : Blk) (g : Args) (x : Slot) : List DWord :=
  let body := (List.range 6).map (fun i => x.dword (i + 2))
  if sendOv w then (g.b.v ++ g.a.v) :: body.tail else body

/-- The message of a slot's body queued by its block (R214, R217). -/
def State.queueSlot (s : State) (k : PageKey) (b j code : Nat) (w : Blk) (g : Args) (x : Slot) (wait : Bool) : Msg × State :=
  s.queueMsg k b j code (scopeBits w.md.toNat) g.tag (x.dword 1) (sendOpnds w g x) wait (x.dep.join g.dep)

/-- With its slot filled a SEND or SENDW stops at a bad body, waits for room, and else queues its message (R214 to R218). -/
theorem sendCode_eq (h : BlockFires (sendOv w) (sendOv w) 0 w k b j s g)
    (hx : s.slotAt k b (bitsOf w.imm.toNat 6 4) (bitsOf w.imm.toNat 0 6) = some x) :
    sendCode code wait w s = .next (
      if s.replyBad k wait (x.dword 1) then (s.giveNone k b j).faultWide 0x3F (.actor k b j) g.tag (x.dword 1) 0
      else if !s.sendRoom k code then s
      else
        let q := s.queueSlot k b j code w g x wait
        if wait then q.2.modFiring k b (fun f => f.await j (.reply q.1.id))
        else
          let u := q.2.give k b j w g.tag { v := BitVec.ofNat 32 q.1.seq, dep := g.dep }
          if heldCode code && Scope.wide (scopeBits w.md.toNat) then u.requestClose k.ctx 5 else u) := by
  refine (runBlk_fires h).trans ?_
  simp only [hx]; rfl

/-- A SEND of a body that is in order queues its message and gives its number (R217). -/
theorem sendCode_sends (h : BlockFires (sendOv w) (sendOv w) 0 w k b j s g)
    (hx : s.slotAt k b (bitsOf w.imm.toNat 6 4) (bitsOf w.imm.toNat 0 6) = some x) (hreply : s.replyBad k false (x.dword 1) = false)
    (hroom : s.sendRoom k code = true) :
    sendCode code false w s =
      let q := s.queueSlot k b j code w g x false
      let u := q.2.give k b j w g.tag { v := BitVec.ofNat 32 q.1.seq, dep := g.dep }
      .next (if heldCode code && Scope.wide (scopeBits w.md.toNat) then u.requestClose k.ctx 5 else u) := by
  rw [sendCode_eq h hx]
  simp only [hreply, hroom, Bool.not_true, Bool.false_eq_true, if_false]

/-- A SENDW of a body that is in order queues its message and waits for the reply (R216). -/
theorem sendCode_waits (h : BlockFires (sendOv w) (sendOv w) 0 w k b j s g)
    (hx : s.slotAt k b (bitsOf w.imm.toNat 6 4) (bitsOf w.imm.toNat 0 6) = some x) (hreply : s.replyBad k true (x.dword 1) = false)
    (hroom : s.sendRoom k code = true) :
    sendCode code true w s =
      let q := s.queueSlot k b j code w g x true
      .next (q.2.modFiring k b (fun f => f.await j (.reply q.1.id))) := by
  rw [sendCode_eq h hx]
  simp only [hreply, hroom, Bool.not_true, Bool.false_eq_true, if_false, if_true]

/-- A body that breaks R215 stops its SEND or SENDW. -/
theorem sendCode_refused (h : BlockFires (sendOv w) (sendOv w) 0 w k b j s g)
    (hx : s.slotAt k b (bitsOf w.imm.toNat 6 4) (bitsOf w.imm.toNat 0 6) = some x) (hreply : s.replyBad k wait (x.dword 1) = true) :
    sendCode code wait w s = .next ((s.giveNone k b j).faultWide 0x3F (.actor k b j) g.tag (x.dword 1) 0) := by
  rw [sendCode_eq h hx]
  simp only [hreply, if_true]

end Send

/-- The codes of the SEND instructions (R217). -/
def sendTable (w : Blk) : List (Instr × Nat) :=
  [(.sendCopy w, 1), (.sendFill w, 2), (.sendGather w, 3), (.sendScatter w, 4), (.sendIstream w, 5), (.sendPublish w, 6),
    (.sendDiscard w, 7), (.sendPreload w, 8), (.sendMigrate w, 9), (.sendMark w, 10), (.sendTest w, 11)]

/-- The codes of the SENDW instructions: the code in X, and those of CENSUS and QUERY (R216). -/
def sendwTable (w : Blk) : List (Instr × Nat) := [(.sendw w, bitsOf w.x.toNat 0 8), (.sendwCensus w, 12), (.sendwQuery w, 13)]

theorem exec_of_mem_sendTable {w : Blk} {i : Instr} {code : Nat} (h : (i, code) ∈ sendTable w) (s : State) :
    exec i s = sendCode code false w s := by
  simp only [sendTable, List.mem_cons, List.not_mem_nil, or_false, Prod.mk.injEq] at h
  rcases h with ⟨rfl, rfl⟩ | ⟨rfl, rfl⟩ | ⟨rfl, rfl⟩ | ⟨rfl, rfl⟩ | ⟨rfl, rfl⟩ | ⟨rfl, rfl⟩ | ⟨rfl, rfl⟩ | ⟨rfl, rfl⟩ | ⟨rfl, rfl⟩ | ⟨rfl, rfl⟩ | ⟨rfl, rfl⟩
  all_goals rfl

theorem exec_of_mem_sendwTable {w : Blk} {i : Instr} {code : Nat} (h : (i, code) ∈ sendwTable w) (s : State) :
    exec i s = sendCode code true w s := by
  simp only [sendwTable, List.mem_cons, List.not_mem_nil, or_false, Prod.mk.injEq] at h
  rcases h with ⟨rfl, rfl⟩ | ⟨rfl, rfl⟩ | ⟨rfl, rfl⟩
  all_goals rfl

/-- Settles O14: each instruction runs `sendCode` at its code, which queues the message of its slot's body or stops at the body. -/
theorem messageIsQueued : Obligations.MessageIsQueued := by
  unfold Obligations.MessageIsQueued
  intro w k b j s g x ov scope h hx body ops queued sent waits table waiting
  refine ⟨fun hreply i code hi hroom => ?sends, fun hreply i code hi hroom => ?waits, fun hreply i code hi => ?refused⟩
  case sends => exact (exec_of_mem_sendTable hi s).trans (sendCode_sends h hx hreply hroom)
  case waits => exact (exec_of_mem_sendwTable hi s).trans (sendCode_waits h hx hreply hroom)
  case refused => exact (exec_of_mem_sendTable hi s).trans (sendCode_refused h hx hreply)

end Sys2Proof.Machine
end

section
/-!
PROOF. The system instructions of blocks (R161, R233, R235 to R240).
-/
namespace Sys2Proof.Machine

section Block
variable {w : Blk} {k : PageKey} {b j : Nat} {s : State} {g : Args}

/-! ### Windows, registers, slices and arguments (R161, R235, R238, R239) -/

/-- WMARK asks for its marker while the log is on (R235). -/
theorem exec_wmark (h : BlockFires true false 0 w k b j s g) :
    exec (.wmark w) s = .next (if (s.ctx k.ctx).undo.on then
      (s.askAtClose (.actor k b j) .wmark).give k b j w g.tag
        { v := BitVec.ofNat 32 (s.windowAfter k.ctx (s.roundOf k.ctx (s.behindCut (.actor k b j)))), dep := g.dep }
      else s.give k b j w g.tag { v := 0xFFFFFFFF, dep := g.dep }) :=
  runBlk_fires h

/-- SEAL asks for its seal while the log is on (R235). -/
theorem exec_sealWindow (h : BlockFires true false 0 w k b j s g) :
    exec (.sealWindow w) s = .next
      ((if (s.ctx k.ctx).undo.on then s.askAtClose (.actor k b j) .seal else s).give k b j w g.tag (g.val 1 g.a.v)) :=
  runBlk_fires h

/-- YIELD yields the slice of its own guest alone (R238). -/
theorem exec_yield (h : BlockFires true false 0 w k b j s g) :
    exec (.yield w) s = .next ((if (s.part k.ctx.part).sliceGuest = k.ctx.guest then
      s.modPart k.ctx.part (fun p => { p with yields := true }) else s).give k b j w g.tag (g.val 1 g.a.v)) :=
  runBlk_fires h

/-- A WRSR of a value that its register takes writes it and gives the previous one (R239). -/
theorem wrsr_writes {n : Nat} {bad : State → CtxId → Word → Option Nat} {write : Word → Party → State → State}
    (h : BlockFires true false 0 w k b j s g) (hok : bad s k.ctx g.a.v = none) :
    wrsr n bad write w s =
      let r := s.readSys (.actor k b j) n
      .next ((write g.a.v (.actor k b j) r.2).give k b j w g.tag (g.val 1 r.1)) := by
  refine (runBlk_fires h).trans ?_
  simp only [hok]

/-- The new AFLG is the whole word but for its reserved bits (R30, R239). -/
theorem exec_wrsrAflg (h : BlockFires true false 0 w k b j s g) :
    exec (.wrsrAflg w) s =
      .next ((s.modDyn k (fun d => { d with aflg := g.a.v &&& 0x3F3F })).give k b j w g.tag (g.val 1 (s.dyn k).aflg)) := by
  change execWrsrAflg w s = _
  exact wrsr_writes h rfl

/-- A round time within its bounds is asked for at the close (R239). -/
theorem exec_wrsrRtmr (h : BlockFires true false 0 w k b j s g) (hlow : 2 ≤ g.a.v.toNat) (hhigh : g.a.v.toNat ≤ 64) :
    exec (.wrsrRtmr w) s =
      .next ((s.askAtClose (.actor k b j) (.rtmr g.a.v)).give k b j w g.tag (g.val 1 (s.ctx k.ctx).rtmr)) := by
  have hok : ¬(g.a.v.toNat < 2 ∨ 64 < g.a.v.toNat) := by omega
  change execWrsrRtmr w s = _
  exact wrsr_writes h (if_neg hok)

/-- A quota that R262 allows is asked for at the close (R239). -/
theorem exec_wrsrQuota (h : BlockFires true false 0 w k b j s g) (hbits : bitsOf g.a.v.toNat 16 16 = 0)
    (hok : s.quotaRefused k.ctx g.a.v = false) :
    exec (.wrsrQuota w) s =
      .next ((s.askAtClose (.actor k b j) (.quota g.a.v)).give k b j w g.tag (g.val 1 (s.ctx k.ctx).quota)) := by
  change execWrsrQuota w s = _
  exact wrsr_writes h (by simp [hbits, hok])

/-! ### Waits for an outside event (R236, R238) -/

/-- An instruction that fires waits for nothing. -/
theorem waitsFor_of_fires {left right : Bool} {third : Word} {α : Type} (kind : Wait → Option α) (h : BlockFires left right third w k b j s g) :
    (s.firing? k b).bind (fun f => (waitsFor f j kind).map (fun q => (f, q))) = none := by
  obtain ⟨f, hf, -, hidle, -⟩ := h.firing
  have hnone : waitsFor f j kind = none := by
    refine List.findSome?_eq_none_iff.mpr fun x hx => if_neg fun hj => ?_
    have hany : f.waits.any (fun z => z.1 == j) = true := List.any_eq_true.mpr ⟨x, hx, by simp [hj]⟩
    exact Bool.false_ne_true (hidle.symm.trans hany)
  rw [hf, Option.bind_some, hnone, Option.map_none]

/-- An invalidation of a range begins when its instruction fires, and the instruction waits for it (R236). -/
theorem invalBlock_begins {range : Args → Option (Nat × Nat)} {right : Bool} {lo hi : Nat} (h : BlockFires true right 0 w k b j s g)
    (hrange : range g = some (lo, hi)) :
    invalBlock range right w s =
      let q := s.startInval { State.invalAllOf k.ctx with lo := lo, hi := hi }
      .next (q.2.modFiring k b (fun f => f.await j (.inval q.1))) := by
  simp only [invalBlock, runBlk, h.1, waitsFor_of_fires Wait.invalId? h, fireBlock_fires h, hrange]

/-- An instruction that waits for its invalidation gives 0 once that is over and its targets have room (R236). -/
theorem invalBlock_waits {range : Args → Option (Nat × Nat)} {right : Bool} {f : Firing} {q : Nat}
    (hcur : s.cur = some (.party (.actor k b j))) (hf : s.firing? k b = some f) (hq : waitsFor f j Wait.invalId? = some q) :
    invalBlock range right w s = .next (if s.invals.any (fun v => v.id == q) || !s.laneRoom k w then s
      else s.give k b j w f.tag { v := 0, sc := f.opndSc j }) := by
  simp only [invalBlock, runBlk, hcur, hf, Option.bind_some, hq, Option.map_some]

/-- The pages of one size that hold the address named by an INVAL, for a size code that R236 gives. -/
def invalRange (g : Args) : Option (Nat × Nat) :=
  let code := bitsOf g.b.v.toNat 20 3
  let va := g.a.v.toNat * 2 ^ 12 + bitsOf g.b.v.toNat 0 20 * 2 ^ 44
  let size := 2 ^ boundary code
  if 5 < code ∨ bitsOf g.b.v.toNat 23 9 ≠ 0 then none else some (va / size * size, va / size * size + size)

theorem exec_inval (w : Blk) (s : State) : exec (.inval w) s = invalBlock invalRange true w s := rfl

theorem exec_invalAll (w : Blk) (s : State) : exec (.invalAll w) s = invalBlock (fun _ => some (0, 2 ^ 64)) false w s := rfl

/-- A census of a tag begins when its instruction fires, and the instruction waits for it (R238). -/
theorem exec_census_begins (h : BlockFires true false 0 w k b j s g) (htag : bitsOf g.a.v.toNat 12 20 = 0) :
    exec (.census w) s =
      let q := s.beginCensus k.ctx.part (g.a.v.setWidth 12) none (some (k, b, j))
      .next (q.2.modFiring k b (fun f => f.await j (.census q.1))) := by
  change execCensus w s = _
  simp only [execCensus, runBlk, h.1, waitsFor_of_fires Wait.censusSeq? h, fireBlock_fires h, htag, ne_eq, not_true_eq_false, if_false]

/-! ### Requests about a page (R237) -/

/-- The page of its context that an instruction names (R237). -/
def namedKey (k : PageKey) (g : Args) : PageKey := { ctx := k.ctx, graph := g.a.v, lpn := g.b.v.toNat }

/-- A request about a page of a resident graph gives what the request answers. -/
theorem pageBlock_answers {ask : Graph → PageKey → Party → State → Except Nat (Word × State)} {gr : Graph} {v : Word} {u : State}
    (h : BlockFires true true 0 w k b j s g) (hgr : s.namedPage k.ctx g.a.v g.b.v = .ok gr)
    (hask : ask gr (namedKey k g) (.actor k b j) (s.mapGraph k.ctx gr) = .ok (v, u)) :
    pageBlock ask w s = .next (u.give k b j w g.tag (g.val 2 v)) := by
  rw [namedKey] at hask
  refine (runBlk_fires h).trans ?_
  simp only [hgr, hask]

/-- A page that stands placed is not asked for (R237). -/
theorem exec_pgld_placed {gr : Graph} (h : BlockFires true true 0 w k b j s g) (hgr : s.namedPage k.ctx g.a.v g.b.v = .ok gr)
    (hp : ((s.mapGraph k.ctx gr).page? (namedKey k g)).map Page.placed = some true) :
    exec (.pgld w) s = .next ((s.mapGraph k.ctx gr).give k b j w g.tag (g.val 2 0)) := by
  change execPgld w s = _
  refine pageBlock_answers h hgr ?_
  simp only [hp]

/-- A page that does not stand placed is handed to the Stagehand, once (R237). -/
theorem exec_pgld_asks {gr : Graph} (h : BlockFires true true 0 w k b j s g) (hgr : s.namedPage k.ctx g.a.v g.b.v = .ok gr)
    (hp : ((s.mapGraph k.ctx gr).page? (namedKey k g)).map Page.placed ≠ some true) :
    let t := s.mapGraph k.ctx gr
    exec (.pgld w) s = .next ((t.modPart k.ctx.part (fun x => if x.asked.any (fun a => a.1 == namedKey k g) then x
      else { x with asked := x.asked ++ [(namedKey k g, t.roundOf k.ctx (t.behindCut (.actor k b j)))] })).give k b j w g.tag (g.val 2 1)) := by
  change execPgld w s = _
  refine pageBlock_answers h hgr ?_
  cases hpage : ((s.mapGraph k.ctx gr).page? (namedKey k g)).map Page.placed with
  | none => rfl
  | some placed => cases placed with
    | false => rfl
    | true => exact absurd hpage hp

/-- An absent page needs no eviction (R237). -/
theorem exec_pgev_absent {gr : Graph} (h : BlockFires true true 0 w k b j s g) (hgr : s.namedPage k.ctx g.a.v g.b.v = .ok gr)
    (hp : ((s.mapGraph k.ctx gr).page? (namedKey k g)).map Page.st = some .absent) :
    exec (.pgev w) s = .next ((s.mapGraph k.ctx gr).give k b j w g.tag (g.val 2 0)) := by
  change execPgev w s = _
  refine pageBlock_answers h hgr ?_
  simp only [hp]

/-- The eviction of any other page is asked, once (R237). -/
theorem exec_pgev_asks {gr : Graph} {x : Page} (h : BlockFires true true 0 w k b j s g) (hgr : s.namedPage k.ctx g.a.v g.b.v = .ok gr)
    (hpage : (s.mapGraph k.ctx gr).page? (namedKey k g) = some x) (hst : x.st ≠ .absent) :
    let t := s.mapGraph k.ctx gr
    exec (.pgev w) s = .next ((t.modPage (namedKey k g) (fun y =>
      { y with evict := y.evict.orElse (fun _ => some (t.roundOf k.ctx (t.behindCut (.actor k b j)))) })).give k b j w g.tag (g.val 2 1)) := by
  change execPgev w s = _
  refine pageBlock_answers h hgr ?_
  simp only [hpage, Option.map_some]
  split
  · next hx => exact absurd (Option.some.inj hx) hst
  · next hx => cases hx
  · rfl

/-- A fold to the unfolded level, or to one of which the graph holds a variant, is asked at the close (R237, R266). -/
theorem exec_fold_asks {gr : Graph} (h : BlockFires true true 0 w k b j s g) (hgr : s.namedPage k.ctx g.a.v g.b.v = .ok gr)
    (hlevel : bitsOf w.md.toNat 0 2 = 0 ∨ (State.foldMembers gr g.b.v.toNat (bitsOf w.md.toNat 0 2)).isEmpty = false) :
    exec (.fold w) s = .next (((s.mapGraph k.ctx gr).askAtClose (.actor k b j) (.fold g.a.v g.b.v.toNat (bitsOf w.md.toNat 0 2))).give
      k b j w g.tag (g.val 2 0)) := by
  change execFold w s = _
  rw [execFold]
  refine pageBlock_answers h hgr ?_
  refine if_neg ?_
  rintro ⟨hne, hempty⟩
  obtain hzero | hsome := hlevel
  · exact hne hzero
  · exact Bool.false_ne_true (hsome.symm.trans hempty)

end Block

/-- Settles O15: an instruction fires and takes the branch of its condition; INVAL and CENSUS begin what they then wait for, and a request
about a page answers by the page's state. -/
theorem systemInstructionsGiveResult : Obligations.SystemInstructionsGiveResult := by
  unfold Obligations.SystemInstructionsGiveResult
  intro w k b j s g p round
  refine ⟨?waiting, fun h => ⟨?wmarkOn, ?wmarkOff, ?sealOn, ?sealOff, ?rdsr, ?aflg, ?rtmr, ?quota, ?invalAll, ?yieldOwn, ?yieldOther,
    ?census, ?argw⟩, fun h => ⟨?inval, ?page⟩⟩
  case waiting =>
    intro f q hcur hf hq t
    rw [exec_inval, exec_invalAll, invalBlock_waits hcur hf hq, invalBlock_waits hcur hf hq]
    refine ⟨fun hopen => ?_, fun hover hroom => ?_⟩
    · simp only [hopen, Bool.true_or, if_true, and_self]
    · simp only [hover, hroom, Bool.not_true, Bool.or_self, Bool.false_eq_true, if_false, t, and_self]
  case wmarkOn =>
    intro hon
    rw [exec_wmark h, if_pos hon]
  case wmarkOff =>
    intro hoff
    rw [exec_wmark h, if_neg (by simp [hoff])]
  case sealOn =>
    intro hon
    rw [exec_sealWindow h, if_pos hon]
  case sealOff =>
    intro hoff
    rw [exec_sealWindow h, if_neg (by simp [hoff])]
  case rdsr => exact runBlk_fires h
  case aflg => exact exec_wrsrAflg h
  case rtmr => exact exec_wrsrRtmr h
  case quota => exact exec_wrsrQuota h
  case invalAll =>
    rw [exec_invalAll]
    exact invalBlock_begins h rfl
  case yieldOwn =>
    intro hown
    rw [exec_yield h, if_pos hown]
  case yieldOther =>
    intro hother
    rw [exec_yield h, if_neg hother]
  case census => exact exec_census_begins h
  case argw => exact runBlk_fires h
  case inval =>
    intro code va size hcode hbits
    have hok : ¬(5 < code ∨ bitsOf g.b.v.toNat 23 9 ≠ 0) := by omega
    rw [exec_inval]
    exact invalBlock_begins h (if_neg hok)
  case page =>
    intro gr hgr key t gave
    refine ⟨exec_pgld_placed h hgr, exec_pgev_absent h hgr, exec_pgld_asks h hgr, fun x => exec_pgev_asks h hgr, fun hlevel => ?_⟩
    have hlow : bitsOf w.md.toNat 0 2 = w.md.toNat % 4 := by simp [bitsOf]
    exact exec_fold_asks h hgr (hlevel.imp_left hlow.trans)

end Sys2Proof.Machine
end

section
/-!
PROOF. TRAP and BRK (R233, R234, R351, R352).
-/
namespace Sys2Proof.Machine

/-! ### The operand that a trapped element holds (R234) -/

/-- The per-tag states of an element. -/
def State.tagStates (s : State) (k : PageKey) (n : Nat) : List TagState := ((s.dyn k).elem n).tags

/-- An element holds the operand of a trap that waits (R234). -/
def State.holdsOperand (s : State) (k : PageKey) (n : Nat) : Bool := (s.tagStates k n).any (fun y => y.acc.isSome)

section Held
variable {s t : State} {k : PageKey} {n : Nat}

theorem State.tagStates_of_pages (h : t.pages = s.pages) : t.tagStates k n = s.tagStates k n := by
  rw [State.tagStates, State.dyn_of_pages h, State.tagStates]

theorem State.tagStates_modElem {f : ElemState → ElemState} (hn : ∀ x, (f x).elem = x.elem) (hf : ∀ x, (f x).tags = x.tags) :
    (s.modDyn k (fun d => d.modElem n f)).tagStates k n = s.tagStates k n := by
  by_cases h : s.page? k = none
  · simp [State.tagStates, State.dyn, h]
  · simp only [State.tagStates, State.dyn_modDyn h, PageDyn.elem_modElem hn, hf]

theorem State.tagStates_setTrap (v : Bool) : (s.setTrap (.elem k n) v).tagStates k n = s.tagStates k n :=
  tagStates_modElem (fun _ => rfl) (fun _ => rfl)

theorem State.tagStates_setStopped (v : Bool) : (s.setStopped (.elem k n) v).tagStates k n = s.tagStates k n :=
  tagStates_modElem (fun _ => rfl) (fun _ => rfl)

theorem State.tagStates_post (r : RingId) (f : FaultRec) : (s.post r f).tagStates k n = s.tagStates k n :=
  tagStates_of_pages (post_pages s r f)

/-- A trap of an element leaves its per-tag states as they are (R31). -/
theorem State.tagStates_trapT (cause x : Nat) (tag : Tag) (v : Word) :
    (s.trapT cause x (.elem k n) tag v).tagStates k n = s.tagStates k n := by
  unfold State.trapT
  extract_lets _ has t s1
  split
  · rw [tagStates_setStopped, tagStates_post]
  · split
    · obtain ⟨d, h⟩ := noteCause_dev (s1.setTrap (.elem k n) true) 0x16 (0x8000 + s.regionByte k) cause (ctxWord k.ctx)
      exact (congrArg (·.tagStates k n) h).trans (tagStates_setTrap true)
    · rw [tagStates_setStopped, tagStates_post]

/-- The debugger's stop of an element leaves its per-tag states as they are (R234). -/
theorem State.tagStates_breakAt (p : Party) (v : Word) : (s.breakAt p v).tagStates k n = s.tagStates k n := by
  unfold State.breakAt
  extract_lets c s1
  obtain ⟨d, l, m, h⟩ := State.tellDebug_guest s1 c 0x1B (v.setWidth 64) ((p.identity s).setWidth 64)
  rw [h]; rfl

theorem any_update_of_new {α : Type} {p q : α → Bool} {f : α → α} {x : α} (hf : ∀ y, p y = true → q (f y) = true) (hx : q x = true)
    (l : List α) : (update p f (some x) l).any q = true := by
  induction l with
  | nil => simp [update, hx]
  | cons y ys ih =>
    by_cases hy : p y = true
    · simp [update, hy, hf y hy]
    · simp [update, hy, ih]

/-- An operand written into the state of a tag is held. -/
theorem State.holdsOperand_modTag (h : s.page? k ≠ none) (tag : Tag) (v : Val) :
    (s.modTag k n tag (fun y => { y with acc := some v })).holdsOperand k n = true := by
  rw [State.holdsOperand, State.tagStates, State.modTag, State.dyn_modDyn h, PageDyn.elem_modElem (by intro _; rfl)]
  exact any_update_of_new (fun _ _ => rfl) rfl _

end Held

/-! ### Elements -/

section Element
variable {e : Ecw} {k : PageKey} {n : Nat} {s : State} {g : Args}

theorem ElemFires.page {tri : Bool} (h : ElemFires tri e k n s g) : s.page? k ≠ none := by
  obtain ⟨-, ts, hheads, -⟩ := h
  intro hpage
  simp [State.elemHeads, hpage] at hheads

/-- The operands and conditions of a firing do not ask whose turn it is. -/
theorem fireElem_under {tri : Bool} {check : Args → State → Option (Nat × Word × Nat)} {data : Args → State → State}
    (h : ElemFires tri e k n s g) (u : Option Subject) (hc : ∀ t, check g t = none) :
    fireElem tri check data e k n { s with cur := u } = data g (({ s with cur := u } : State).taken k n e g.tag) := by
  obtain ⟨-, ts, hheads, hg, hgate, hl, hr, hp⟩ := h
  have hheads' : ({ s with cur := u } : State).elemHeads k n e = .data ts := hheads
  have hgate' : ({ s with cur := u } : State).elemGate k n e g.tag = true := hgate
  have hg' : elemArgs tri (({ s with cur := u } : State).dyn k) n e ts = g := hg.symm
  unfold fireElem fireWith
  rw [hheads']
  simp only [stdRule, hg', hgate', hl, hr, hp, hc, Bool.and_self, Bool.not_true, Bool.or_self, Bool.false_eq_true, if_false, if_true]
  rfl

/-- The state of an element that has taken its heads as the trap holds its operand: the firing is not counted as a step (R365). -/
def State.heldFor (s : State) (k : PageKey) (n : Nat) (e : Ecw) (g : Args) : State :=
  (({ s with cur := none } : State).taken k n e g.tag).modTag k n g.tag (fun y => { y with acc := some (g.val 1 g.a.v) })

theorem State.holdsOperand_heldFor (h : s.page? k ≠ none) : (s.heldFor k n e g).holdsOperand k n = true := by
  refine holdsOperand_modTag (fun hpage => h ?_) g.tag _
  rw [State.taken_page] at hpage
  exact Option.map_eq_none_iff.mp hpage

/-- What a first turn makes of the held operand is the answer, as long as the operand stays held. -/
theorem trapForm_elem_holds {cause : Nat} {stops : State → CtxId → Bool} {u : State} (h : ElemFires false e k n s g)
    (hfree : (s.tagStates k n).find? (fun x => x.acc.isSome) = none)
    (hu : (let t := ({ s with cur := none } : State).taken k n e g.tag
      if stops t k.ctx then ((s.heldFor k n e g).breakAt (.elem k n) g.a.v).setTrap (.elem k n) true
      else if ((t.page? k).map Page.hasHandler).getD false then (s.heldFor k n e g).trapT cause e.x.toNat (.elem k n) g.tag g.a.v
      else ({ s with cur := t.cur } : State).trapT cause e.x.toNat (.elem k n) g.tag g.a.v) = u)
    (hheld : u.holdsOperand k n = true) :
    trapForm cause stops (.elem e) s = .next { u with cur := s.cur } := by
  refine runForm_elem_eq h.1 ?_
  have hnone : ((s.dyn k).elem n).tags.find? (fun x => x.acc.isSome) = none := hfree
  simp only [hnone, fireElem_under (check := fun _ _ => none) h none (fun _ => rfl)]
  subst hu
  exact if_pos hheld

/-- TRAP and BRK of an element on a page with a handler: the operand is held and the trap waits for the handler (R233, R351). -/
theorem trapForm_elem_traps {cause : Nat} {stops : State → CtxId → Bool} (h : ElemFires false e k n s g)
    (hfree : (s.tagStates k n).find? (fun x => x.acc.isSome) = none)
    (hstop : stops (({ s with cur := none } : State).taken k n e g.tag) k.ctx = false)
    (hhandler : (((({ s with cur := none } : State).taken k n e g.tag).page? k).map Page.hasHandler).getD false = true) :
    trapForm cause stops (.elem e) s =
      .next { (s.heldFor k n e g).trapT cause e.x.toNat (.elem k n) g.tag g.a.v with cur := s.cur } := by
  refine trapForm_elem_holds h hfree ?_ ?_
  · simp only [hstop, hhandler, Bool.false_eq_true, if_false, if_true]
  · rw [State.holdsOperand, State.tagStates_trapT]
    exact State.holdsOperand_heldFor h.page

/-- BRK of an element whose debugger takes breakpoints: the operand is held and the context stops (R234). -/
theorem trapForm_elem_stops {cause : Nat} {stops : State → CtxId → Bool} (h : ElemFires false e k n s g)
    (hfree : (s.tagStates k n).find? (fun x => x.acc.isSome) = none)
    (hstop : stops (({ s with cur := none } : State).taken k n e g.tag) k.ctx = true) :
    trapForm cause stops (.elem e) s =
      .next { ((s.heldFor k n e g).breakAt (.elem k n) g.a.v).setTrap (.elem k n) true with cur := s.cur } := by
  refine trapForm_elem_holds h hfree ?_ ?_
  · simp only [hstop, if_true]
  · rw [State.holdsOperand, State.tagStates_setTrap, State.tagStates_breakAt]
    exact State.holdsOperand_heldFor h.page

/-- The turn behind the acceptance gives the held operand, and its firing counts as a step (R234, R365). -/
theorem trapForm_elem_completes {cause : Nat} {stops : State → CtxId → Bool} {x : TagState} {v : Val}
    (hcur : s.cur = some (.party (.elem k n))) (hx : ((s.dyn k).elem n).tags.find? (fun x => x.acc.isSome) = some x)
    (hv : x.acc = some v) (hgate : s.elemGate k n e x.tag = true) :
    trapForm cause stops (.elem e) s =
      .next (((s.modTag k n x.tag (fun y => { y with acc := none })).emitBoth k n e x.tag v).countStep (.elem k n) x.tag) := by
  refine runForm_elem_eq hcur ?_
  simp only [hx, hv, hgate, if_true]

end Element

/-! ### Blocks -/

section Block
variable {w : Blk} {k : PageKey} {b j : Nat} {s : State} {g : Args} {cause : Nat} {stops : State → CtxId → Bool}

/-- The instruction's own state says that its trap has been raised, and the firing waits (R234). -/
def State.trapMark (s : State) (k : PageKey) (b j : Nat) (g : Args) (x : Wait) : State :=
  (s.setInsSt k b j { s.insSt k b j g.tag with count := 1 }).modFiring k b (fun f => f.await j x)

/-- The turn behind the acceptance gives the operand (R234). -/
theorem trapForm_block_completes (h : BlockFires true false 0 w k b j s g) (hraised : (s.insSt k b j g.tag).count = 1) :
    trapForm cause stops (.block w) s =
      .next ((s.setInsSt k b j { s.insSt k b j g.tag with count := 0 }).give k b j w g.tag (g.val 1 g.a.v)) := by
  refine (runForm_block_fires h).trans ?_
  simp only [hraised, if_true]

/-- TRAP and BRK of a block on a page with a handler, and not in the handler itself (R233, R351). -/
theorem trapForm_block_traps (h : BlockFires true false 0 w k b j s g) (hfirst : (s.insSt k b j g.tag).count ≠ 1)
    (hstop : stops s k.ctx = false) (hhandler : ((s.page? k).map Page.hasHandler).getD false = true)
    (hown : (Party.actor k b j).isHandler s = false) :
    trapForm cause stops (.block w) s = .next ((s.trapMark k b j g .trap).trapT cause w.x.toNat (.actor k b j) g.tag g.a.v) := by
  refine (runForm_block_fires h).trans ?_
  simp only [if_neg hfirst, hstop, hhandler, hown, Bool.not_false, Bool.and_self, Bool.false_eq_true, if_false, if_true]
  rfl

/-- BRK of a block whose debugger takes breakpoints (R234). -/
theorem trapForm_block_stops (h : BlockFires true false 0 w k b j s g) (hfirst : (s.insSt k b j g.tag).count ≠ 1)
    (hstop : stops s k.ctx = true) :
    trapForm cause stops (.block w) s = .next ((s.trapMark k b j g .brk).breakAt (.actor k b j) g.a.v) := by
  refine (runForm_block_fires h).trans ?_
  simp only [if_neg hfirst, hstop, if_true]
  rfl

end Block

theorem exec_trap (f : Form) (s : State) : exec (.trap f) s = trapForm 0x1A (fun _ _ => false) f s := rfl

theorem exec_brk (f : Form) (s : State) : exec (.brk f) s = trapForm 0x1B (fun t c => (t.ctx c).brkEn) f s := rfl

/-- Settles O16: both instructions run `trapForm`, whose first turn traps or stops with the operand held and whose later turn gives it. -/
theorem trapInstructionsTakeTheirTrap : Obligations.TrapInstructionsTakeTheirTrap := by
  unfold Obligations.TrapInstructionsTakeTheirTrap
  simp only [exec_trap, exec_brk]
  refine ⟨fun e k n s g h hfree => ?elem, fun e k n s x v hcur hx hv hgate => ?elemCompletes, fun w k b j s g h hraised => ?blockCompletes,
    fun w k b j s g h hfirst => ?block⟩
  case elem =>
    exact ⟨fun hhandler => ⟨trapForm_elem_traps h hfree rfl hhandler, fun hoff => trapForm_elem_traps h hfree hoff hhandler⟩,
      fun hon => trapForm_elem_stops h hfree hon⟩
  case elemCompletes => exact ⟨trapForm_elem_completes hcur hx hv hgate, trapForm_elem_completes hcur hx hv hgate⟩
  case blockCompletes => exact ⟨trapForm_block_completes h hraised, trapForm_block_completes h hraised⟩
  case block =>
    exact ⟨fun hhandler hown => ⟨trapForm_block_traps h hfirst rfl hhandler hown, fun hoff => trapForm_block_traps h hfirst hoff hhandler hown⟩,
      fun hon => trapForm_block_stops h hfirst hon⟩

end Sys2Proof.Machine
end

section
/-!
PROOF. The engines behind the messages (R219 to R229): what an engine write answers, the turns of each engine, replies.
-/
namespace Sys2Proof.Machine

/-! ### Engine writes (R74, R221, R231, R338) -/

section Write
variable {s t : State} {m : Msg} {va : Nat} {bs : List Byte} {whole fails : Bool} {next : State → State} {x : Xl}

/-- A destination takes bytes at once: it allows double backing, nothing stops the write, and its understudy exists or the message
covers the page. -/
def State.takesWrite (t : State) (m : Msg) (x : Xl) (whole : Bool) : Prop :=
  bitsOf x.leaf1 11 1 = 1 ∧ t.writeStop m.ctx.part x = none ∧ ((t.studyOf x.space (x.pa / 4096)).isSome = true ∨ whole = true)

theorem engineWrite_takes (hxl : s.engineXl m .engineWrite va fails = .ok x t) (htakes : t.takesWrite m x whole) :
    s.engineWrite m va bs whole fails next = next (t.writeStudy m x va bs whole) := by
  obtain ⟨hleaf, hstop, hstudy⟩ := htakes
  simp only [State.engineWrite, hxl, hleaf, hstop, Nat.one_ne_zero, if_false, if_pos hstudy]

/-- What the copy of a page into its first understudy reads (R221, R231). -/
def State.copyRead (t : State) (m : Msg) (va : Nat) (x : Xl) : Option Nat × State :=
  t.unreadable m va x.space (t.studySource x.space (x.pa / 4096) * 4096) 4096

section Copy
variable (hxl : s.engineXl m .engineWrite va fails = .ok x t) (hleaf : bitsOf x.leaf1 11 1 = 1) (hstop : t.writeStop m.ctx.part x = none)
  (hstudy : t.studyOf x.space (x.pa / 4096) = none) (hwhole : whole = false)
include hxl hleaf hstop hstudy hwhole

theorem engineWrite_copies (hread : (t.copyRead m va x).1 = none) :
    s.engineWrite m va bs whole fails next = next ((t.copyRead m va x).2.writeStudy m x va bs whole) := by
  obtain ⟨u, hu⟩ : ∃ u, t.copyRead m va x = (none, u) := ⟨_, Prod.ext hread rfl⟩
  rw [hu]
  rw [State.copyRead] at hu
  simp only [State.engineWrite, hxl, hleaf, hstop, hstudy, hwhole, hu, Nat.one_ne_zero, Option.isSome_none, Bool.false_eq_true, or_self,
    if_false]

theorem engineWrite_unreadable {c : Nat} (hread : (t.copyRead m va x).1 = some c) :
    s.engineWrite m va bs whole fails next = (t.copyRead m va x).2.endMsg m c 0 := by
  obtain ⟨u, hu⟩ : ∃ u, t.copyRead m va x = (some c, u) := ⟨_, Prod.ext hread rfl⟩
  rw [hu]
  rw [State.copyRead] at hu
  simp only [State.engineWrite, hxl, hleaf, hstop, hstudy, hwhole, hu, Nat.one_ne_zero, Option.isSome_none, Bool.false_eq_true, or_self,
    if_false]

end Copy

/-- A destination without double backing ends the message (R221). -/
theorem engineWrite_single (hxl : s.engineXl m .engineWrite va fails = .ok x t) (hleaf : bitsOf x.leaf1 11 1 = 0) :
    s.engineWrite m va bs whole fails next = t.endMsg m 0x2F 0 := by
  simp only [State.engineWrite, hxl, hleaf, if_true]

theorem engineWrite_stops {f : XFault} (hxl : s.engineXl m .engineWrite va fails = .ok x t) (hleaf : bitsOf x.leaf1 11 1 = 1)
    (hstop : t.writeStop m.ctx.part x = some f) : s.engineWrite m va bs whole fails next = t.engineStop m va f := by
  simp only [State.engineWrite, hxl, hleaf, hstop, Nat.one_ne_zero, if_false]

theorem writeStop_image {part : Nat} (himage : t.imageAt x.space x.pa = true) :
    t.writeStop part x = some { cause := 0x25, stage2 := true, gpa := x.gpa, level := x.level2 } := by
  rw [State.writeStop, if_pos himage]

theorem writeStop_awaited {part : Nat} (himage : t.imageAt x.space x.pa = false) :
    t.writeStop part x = t.awaited part x.space x.pa true := by
  rw [State.writeStop, if_neg (by simp [himage])]

/-- A write that waits for a pull is waited for (R340). -/
theorem engineStop_pull {f : XFault} (hpull : f.pull.isSome = true) : t.engineStop m va f = t.waitOn m.ctx.part f := by
  obtain ⟨p, hp⟩ := Option.isSome_iff_exists.mp hpull
  simp only [State.engineStop, hp]

end Write

/-! ### Turns of the engines -/

theorem engineEvent_serves {s : State} {id : Nat} {m : Msg} {work : Msg → State → State} (hcur : s.cur = some (.unit id))
    (hm : s.msg? id = some m) (hphase : m.phase = 2) : engineEvent work s = .next (work m s) := by
  simp only [engineEvent, hcur, State.engineTurn, hm, hphase]

section Turn
variable {s : State} {id : Nat} {m : Msg} (hcur : s.cur = some (.unit id)) (hm : s.msg? id = some m) (hphase : m.phase = 2)
include hcur hm hphase

/-! #### Copies and fills (R220) -/

theorem exec_copy_refused (h : m.op 0 % 64 ≠ 0 ∨ m.op 1 % 64 ≠ 0 ∨ m.op 2 < 64 ∨ 2 ^ 32 < m.op 2 ∨ m.op 2 % 64 ≠ 0) :
    exec .copy s = .next (s.endMsg m 0x3F 0) :=
  (engineEvent_serves hcur hm hphase).trans (congrArg _ (if_pos h))

theorem exec_copy_moves {bs : List Byte} {u t : State} {x : Xl} (hok : ¬(m.op 0 % 64 ≠ 0 ∨ m.op 1 % 64 ≠ 0 ∨ m.op 2 < 64 ∨ 2 ^ 32 < m.op 2 ∨ m.op 2 % 64 ≠ 0))
    (hread : s.engineRead m (m.op 1 + m.pos) 64 false = .ok (some bs, u))
    (hxl : u.engineXl m .engineWrite (m.op 0 + m.pos) false = .ok x t)
    (htakes : t.takesWrite m x (State.coversPage (m.op 0) (m.op 2) (m.op 0 + m.pos))) :
    exec .copy s = .next ((t.writeStudy m x (m.op 0 + m.pos) bs (State.coversPage (m.op 0) (m.op 2) (m.op 0 + m.pos))).moved m 64 (m.op 2)) := by
  refine (engineEvent_serves hcur hm hphase).trans ?_
  simp only [if_neg hok, hread, engineWrite_takes hxl htakes]

theorem exec_copy_fails {e : Nat} {u : State} (hok : ¬(m.op 0 % 64 ≠ 0 ∨ m.op 1 % 64 ≠ 0 ∨ m.op 2 < 64 ∨ 2 ^ 32 < m.op 2 ∨ m.op 2 % 64 ≠ 0))
    (hread : s.engineRead m (m.op 1 + m.pos) 64 false = .error (e, u)) :
    exec .copy s = .next (u.endMsg m e 0) := by
  refine (engineEvent_serves hcur hm hphase).trans ?_
  simp only [if_neg hok, hread]

theorem exec_fill_refused (h : m.op 0 % 8 ≠ 0 ∨ m.op 2 < 8 ∨ 2 ^ 32 < m.op 2 ∨ m.op 2 % 8 ≠ 0) :
    exec .fill s = .next (s.endMsg m 0x3F 0) :=
  (engineEvent_serves hcur hm hphase).trans (congrArg _ (if_pos h))

/-- FILL goes on to the next 64-byte line (R220). -/
theorem exec_fill_moves {t : State} {x : Xl} (hok : ¬(m.op 0 % 8 ≠ 0 ∨ m.op 2 < 8 ∨ 2 ^ 32 < m.op 2 ∨ m.op 2 % 8 ≠ 0))
    (hxl : s.engineXl m .engineWrite (m.op 0 + m.pos) false = .ok x t)
    (htakes : t.takesWrite m x (State.coversPage (m.op 0) (m.op 2) (m.op 0 + m.pos))) :
    let n := min (64 - (m.op 0 + m.pos) % 64) (m.op 2 - m.pos)
    exec .fill s = .next ((t.writeStudy m x (m.op 0 + m.pos) (List.replicate (n / 8) (bytesOfWord 8 (m.op 1))).flatten
      (State.coversPage (m.op 0) (m.op 2) (m.op 0 + m.pos))).moved m n (m.op 2)) := by
  refine (engineEvent_serves hcur hm hphase).trans ?_
  simp only [if_neg hok, engineWrite_takes hxl htakes]

/-! #### Gathers and scatters (R220) -/

theorem exec_gather_refused (h : gatherBad m (m.op 0) (m.op 1) = true) : exec .gather s = .next (s.endMsg m 0x3F 0) :=
  (engineEvent_serves hcur hm hphase).trans (congrArg _ (if_pos h))

theorem exec_scatter_refused (h : gatherBad m (m.op 1) (m.op 0) = true) : exec .scatter s = .next (s.endMsg m 0x3F 0) :=
  (engineEvent_serves hcur hm hphase).trans (congrArg _ (if_pos h))

omit hcur hm hphase in
theorem withIndex_reads {ix : List Byte} {u : State} {f : Nat → State → State}
    (hix : s.engineRead m (m.op 2 + 4 * m.pos) 4 false = .ok (some ix, u)) : withIndex m s f = f (wordOfBytes ix) u := by
  simp only [withIndex, hix]

section Indexed
variable {ix bs : List Byte} {u v t : State} {x : Xl} (hix : s.engineRead m (m.op 2 + 4 * m.pos) 4 false = .ok (some ix, u))
include hix

theorem exec_gather_moves (hok : gatherBad m (m.op 0) (m.op 1) = false)
    (hread : u.engineRead m (m.op 1 + wordOfBytes ix * gatherSize m) (gatherSize m) true = .ok (some bs, v))
    (hxl : v.engineXl m .engineWrite (m.op 0 + m.pos * gatherSize m) false = .ok x t)
    (htakes : t.takesWrite m x (State.coversPage (m.op 0) (gatherCount m * gatherSize m) (m.op 0 + m.pos * gatherSize m))) :
    exec .gather s = .next ((t.writeStudy m x (m.op 0 + m.pos * gatherSize m) bs
      (State.coversPage (m.op 0) (gatherCount m * gatherSize m) (m.op 0 + m.pos * gatherSize m))).moved m 1 (gatherCount m)) := by
  refine (engineEvent_serves hcur hm hphase).trans ?_
  simp only [hok, Bool.false_eq_true, if_false, withIndex_reads hix, hread, engineWrite_takes hxl htakes]

theorem exec_scatter_moves (hok : gatherBad m (m.op 1) (m.op 0) = false)
    (hread : u.engineRead m (m.op 1 + m.pos * gatherSize m) (gatherSize m) false = .ok (some bs, v))
    (hxl : v.engineXl m .engineWrite (m.op 0 + wordOfBytes ix * gatherSize m) true = .ok x t) (htakes : t.takesWrite m x false) :
    exec .scatter s = .next ((t.writeStudy m x (m.op 0 + wordOfBytes ix * gatherSize m) bs false).moved m 1 (gatherCount m)) := by
  refine (engineEvent_serves hcur hm hphase).trans ?_
  simp only [hok, Bool.false_eq_true, if_false, withIndex_reads hix, hread, engineWrite_takes hxl htakes]

end Indexed

/-! #### Publications (R222) -/

theorem exec_discard_refused (h : State.swapBad m = true) : exec .discard s = .next (s.endMsg m 0x3F 0) :=
  (engineEvent_serves hcur hm hphase).trans (congrArg _ (if_pos h))

theorem exec_discard_stops {u : State} (hok : State.swapBad m = false) (hus : s.studiesIn m = .error u) : exec .discard s = .next u := by
  refine (engineEvent_serves hcur hm hphase).trans ?_
  simp only [hok, Bool.false_eq_true, if_false, hus]

/-- An understudy dropped with its mapping record, or kept as discarded under undo logging (R222, R230). -/
def State.dropStudy (keep : Bool) (m : Msg) (x : State) (u : Understudy) : State :=
  let y := (x.settleStore u).swapRecord m.ctx u.va
  { y with
    nextId := y.nextId + 1
    understudies := if keep then
      update (fun z => z.store == u.store) (fun z => { z with state := .discarded, va := u.va, since := y.nextId }) none y.understudies
      else y.understudies.filter (fun z => z.store != u.store) }

theorem exec_discard_drops {us : List Understudy} (hok : State.swapBad m = false) (hus : s.studiesIn m = .ok us) :
    exec .discard s = .next ((us.foldl (State.dropStudy (s.ctx m.ctx).undo.on m) s).endMsg m 0 0) := by
  refine (engineEvent_serves hcur hm hphase).trans ?_
  simp only [hok, Bool.false_eq_true, if_false, hus]
  rfl

section Begin
variable (hwaits : m.waits = none)
include hwaits

theorem exec_publish_refused (h : State.swapBad m = true) : exec .publish s = .next (s.endMsg m 0x3F 0) := by
  refine (engineEvent_serves hcur hm hphase).trans ?_
  simp only [hwaits, if_pos h]

theorem exec_publish_stops {u : State} (hok : State.swapBad m = false) (hus : s.studiesIn m = .error u) : exec .publish s = .next u := by
  refine (engineEvent_serves hcur hm hphase).trans ?_
  simp only [hwaits, hok, Bool.false_eq_true, if_false, hus]

/-- A publication at system scope asks for the engine's seal at the close of its round (R222, R230). -/
def State.publishSeals (s : State) (m : Msg) : State :=
  if m.scope = .system then s.modCtx m.ctx (fun c => { c with atClose := c.atClose ++ [(c.round, .engineSeal)] }) else s

theorem exec_publish_nothing (hok : State.swapBad m = false) (hus : s.studiesIn m = .ok []) :
    exec .publish s = .next ((s.publishSeals m).endMsg m 0 0) := by
  refine (engineEvent_serves hcur hm hphase).trans ?_
  simp only [hwaits, hok, Bool.false_eq_true, if_false, hus, List.isEmpty_nil, if_true, State.publishSeals]

/-- An understudy as publication `i` of the given ones leaves it (R222). -/
def inPublication (us : List Understudy) (i : Nat) (y : Understudy) : Understudy :=
  match us.find? (fun z => z.store == y.store) with
  | some z => { y with publish := some i, va := z.va, maker := none }
  | none => y

/-- The understudies of the range are settled, their drain tokens sent, and the invalidations of cores and host under .SYSTEM begun. -/
theorem exec_publish_begins {us : List Understudy} (hok : State.swapBad m = false) (hus : s.studiesIn m = .ok us) (hsome : us ≠ []) :
    let q := (us.foldl (fun x u => x.settleStore u) (s.publishSeals m)).startInval
      { id := 0, part := m.ctx.part, ctx := some m.ctx, stage1 := true, lo := m.op 0, hi := m.op 0 + m.op 2, msg := some m.id, publish := true }
    let v : State := { q.2 with understudies := q.2.understudies.map (inPublication us q.1) }
    exec .publish s = .next (v.modMsg m.id (fun x => { x with waits := some q.1, acks := if m.scope = .system then [24, 25] else [] })) := by
  refine (engineEvent_serves hcur hm hphase).trans ?_
  have hfull : us.isEmpty = false := by simpa using hsome
  simp only [hwaits, hok, Bool.false_eq_true, if_false, hus, hfull, State.publishSeals]
  rfl

end Begin

section Drain
variable {i : Nat} (hwaits : m.waits = some i)
include hwaits

theorem exec_publish_awaits_acks (hacks : m.acks ≠ []) : exec .publish s = .next s := by
  refine (engineEvent_serves hcur hm hphase).trans ?_
  have hopen : (!m.acks.isEmpty) = true := by simpa using hacks
  simp only [hwaits, hopen, if_true]

/-- A publication whose cores and host have confirmed ends with the last acknowledgement of its scope (R222). -/
theorem exec_publish_drains {v : Inval} (hacks : m.acks = []) (hv : s.invals.find? (fun v => v.id == i) = some v) :
    exec .publish s = .next (if (s.scopeMses m).all (fun x => !v.pending.contains x) then s.endMsg m 0 0 else s) := by
  refine (engineEvent_serves hcur hm hphase).trans ?_
  simp only [hwaits, hacks, List.isEmpty_nil, Bool.not_true, Bool.false_eq_true, if_false, hv]

end Drain

/-! #### Streams and preloads (R225, R226) -/

section Istream
variable {p : Page} (hpage : s.page? m.page = some p)
include hpage

theorem exec_istream_refused (h : 8 ≤ m.op 0 ∨ 2 ^ 32 ≤ m.op 1 ∨ p.nmem ≤ m.op 0 ∨ (p.desc (m.op 0)).nkind ≠ 3) :
    exec .istream s = .next (s.endMsg m 0x3F 0) := by
  refine (engineEvent_serves hcur hm hphase).trans ?_
  simp only [hpage, if_pos h]

theorem exec_istream_starts (hok : ¬(8 ≤ m.op 0 ∨ 2 ^ 32 ≤ m.op 1 ∨ p.nmem ≤ m.op 0 ∨ (p.desc (m.op 0)).nkind ≠ 3)) :
    exec .istream s =
      .next ((s.startGen m.page (m.op 0) m.tag (m.op 1) (if m.op 2 = 0 then none else m.opnds[2]?) m.dep).endMsg m 0 0) := by
  refine (engineEvent_serves hcur hm hphase).trans ?_
  simp only [hpage, if_neg hok]

end Istream

section Preload
variable {g : Graph} (hg : s.graph? m.ctx.part (((m.opnds[0]?).getD 0).extractLsb' 0 32) = some g)
include hg

theorem exec_preload_refused (h : m.op 2 = 0 ∨ 256 < m.op 2 ∨ Memory.readNat g.header 4 2 < m.op 1 % 2 ^ 12 + m.op 2) :
    exec .preload s = .next (s.endMsg m 0x3F 0) := by
  refine (engineEvent_serves hcur hm hphase).trans ?_
  simp only [hg, if_pos h]

theorem exec_preload_caches (hok : ¬(m.op 2 = 0 ∨ 256 < m.op 2 ∨ Memory.readNat g.header 4 2 < m.op 1 % 2 ^ 12 + m.op 2)) :
    exec .preload s = .next (((List.range (m.op 2)).foldl (fun (u : State) i =>
      u.cacheImage (m.region / 32) m.ctx.part (((m.opnds[0]?).getD 0).extractLsb' 0 32) (m.op 1 % 2 ^ 12 + i) true) s).endMsg m 0 0) := by
  refine (engineEvent_serves hcur hm hphase).trans ?_
  simp only [hg, if_neg hok]

end Preload

/-! #### Migrations (R226) -/

theorem exec_migrate_refused (h : m.op 0 % 4096 ≠ 0 ∨ m.op 2 % 4096 ≠ 0 ∨ 24 ≤ m.op 1 % 32) :
    exec .migrate s = .next (s.endMsg m 0x3F 0) :=
  (engineEvent_serves hcur hm hphase).trans (congrArg _ (if_pos h))

/-- The translation of the page that a MIGRATE moves next (R226). -/
def State.migrateWalk (s : State) (m : Msg) : Except XFault Xl :=
  s.walkAll { id := s.nextId, ctx := m.ctx, va := m.op 0 + m.pos, use := .engineRead } 128

/-- What reading the page that a MIGRATE moves next finds (R226, R231). -/
def State.migrateRead (s : State) (m : Msg) (x : Xl) : Option Nat × State :=
  if x.space = .dram then s.unreadable m (m.op 0 + m.pos) .dram (s.storeOf none .dram (x.pa / 4096) * 4096) 4096 else (none, s)

/-- What a MIGRATE does with the next page of its range (R226, R231). -/
def State.migrateNext (s : State) (m : Msg) : State :=
  match s.migrateWalk m with
  | .error f => if f.pull.isSome then s else s.engineFault m (m.op 0 + m.pos) .engineRead f (State.engineMse m)
  | .ok x =>
    if (s.awaited m.ctx.part x.space x.pa false).isSome then s
    else
      let q := s.migrateRead m x
      match q.1 with
      | some c => q.2.endMsg m c 0
      | none => match q.2.migratePage m.ctx (m.op 0 + m.pos) (m.op 1 % 32) with
        | some (i, u) => u.modMsg m.id (fun y => { y with pos := m.pos + 4096, waits := some i })
        | none =>
          let u := q.2.modMsg m.id (fun y => { y with pos := m.pos + 4096, waits := none })
          if x.space = .dram ∧ x.pa / 4096 % 24 = m.op 1 % 32 then u else u.logEvent 0x17 0xC002 0x31

section Migrate
variable (hok : ¬(m.op 0 % 4096 ≠ 0 ∨ m.op 2 % 4096 ≠ 0 ∨ 24 ≤ m.op 1 % 32))
include hok

theorem exec_migrate_waits {i : Nat} (hwaits : m.waits = some i) (hopen : s.invals.any (fun v => v.id == i) = true) :
    exec .migrate s = .next s := by
  refine (engineEvent_serves hcur hm hphase).trans ?_
  simp only [if_neg hok, hwaits, Option.map_some, Option.getD_some, hopen, if_true]

theorem exec_migrate_ends (hwaits : m.waits = none) (hdone : m.op 2 ≤ m.pos) : exec .migrate s = .next (s.endMsg m 0 0) := by
  refine (engineEvent_serves hcur hm hphase).trans ?_
  simp only [if_neg hok, hwaits, Option.map_none, Option.getD_none, Bool.false_eq_true, if_false, if_pos hdone]

theorem exec_migrate_next (hwaits : m.waits = none) (hmore : m.pos < m.op 2) : exec .migrate s = .next (s.migrateNext m) := by
  refine (engineEvent_serves hcur hm hphase).trans ?_
  simp only [if_neg hok, hwaits, Option.map_none, Option.getD_none, Bool.false_eq_true, if_false, if_neg (Nat.not_le.mpr hmore)]
  rfl

end Migrate

/-! #### Queries (R227) -/

theorem exec_prompterQuery_answers {v : Nat} (hv : queryResult s m (m.op 0 % 256) = some v) :
    exec .prompterQuery s = .next (s.endMsg m 0 (BitVec.ofNat 32 v)) := by
  refine (engineEvent_serves hcur hm hphase).trans ?_
  simp only [hv]

theorem exec_prompterQuery_refused (hv : queryResult s m (m.op 0 % 256) = none) :
    exec .prompterQuery s = .next (s.endMsg m 0x3F 0) := by
  refine (engineEvent_serves hcur hm hphase).trans ?_
  simp only [hv]

end Turn

/-! ### The next page of a migration (R226) -/

section MigrateNext
variable {s : State} {m : Msg}

/-- A page that does not translate waits for its owner (R231). -/
theorem migrateNext_untranslated {f : XFault} (hw : s.migrateWalk m = .error f) :
    s.migrateNext m = if f.pull.isSome then s else s.engineFault m (m.op 0 + m.pos) .engineRead f (State.engineMse m) := by
  simp only [State.migrateNext, hw]

variable {x : Xl} (hw : s.migrateWalk m = .ok x)
include hw

theorem migrateNext_awaits (hawaited : (s.awaited m.ctx.part x.space x.pa false).isSome = true) : s.migrateNext m = s := by
  simp only [State.migrateNext, hw, hawaited, if_true]

variable (hfree : s.awaited m.ctx.part x.space x.pa false = none)
include hfree

theorem migrateNext_unreadable {e : Nat} (hread : (s.migrateRead m x).1 = some e) :
    s.migrateNext m = (s.migrateRead m x).2.endMsg m e 0 := by
  simp only [State.migrateNext, hw, hfree, Option.isSome_none, Bool.false_eq_true, if_false, hread]

theorem migrateNext_moves {i : Nat} {u : State} (hread : (s.migrateRead m x).1 = none)
    (hpage : (s.migrateRead m x).2.migratePage m.ctx (m.op 0 + m.pos) (m.op 1 % 32) = some (i, u)) :
    s.migrateNext m = u.modMsg m.id (fun y => { y with pos := m.pos + 4096, waits := some i }) := by
  simp only [State.migrateNext, hw, hfree, Option.isSome_none, Bool.false_eq_true, if_false, hread, hpage]

/-- A page that stays where it is, is passed by, with an entry in the Logbook unless it stands on the channel already (R226). -/
theorem migrateNext_passes (hread : (s.migrateRead m x).1 = none)
    (hpage : (s.migrateRead m x).2.migratePage m.ctx (m.op 0 + m.pos) (m.op 1 % 32) = none) :
    let u := (s.migrateRead m x).2.modMsg m.id (fun y => { y with pos := m.pos + 4096, waits := none })
    s.migrateNext m = if x.space = .dram ∧ x.pa / 4096 % 24 = m.op 1 % 32 then u else u.logEvent 0x17 0xC002 0x31 := by
  simp only [State.migrateNext, hw, hfree, Option.isSome_none, Bool.false_eq_true, if_false, hread, hpage]

end MigrateNext

/-- The selectors of QUERY end at 7 (R227). -/
theorem queryResult_of_gt {s : State} {m : Msg} {sel : Nat} (h : 7 < sel) : queryResult s m sel = none := by
  obtain ⟨n, rfl⟩ : ∃ n, sel = n + 8 := ⟨sel - 8, by omega⟩
  rfl

/-! ### Replies (R217, R219) -/

/-- The token of a reply (R66). -/
def replyToken (m : Msg) : Token := { kind := .data, tag := m.tag, pay := replyPayload m, dep := m.dep }

/-- What a reply that is neither discarded nor orphaned does (R216, R219). -/
def State.replyDue (s : State) (m : Msg) : State :=
  match m.sendw with
  | some (b, i) => s.replySendw m b i
  | none =>
    if m.rkind = 0 then (if m.cause = 0 then s else s.messageFault m).replied m
    else match s.deliverReply m.page (m.rkind != 1) m.rdst (replyToken m) m.region with
      | some t => (t.noteReply m).replied m
      | none => s

section Reply
variable {s : State} {id : Nat} {m : Msg} (hcur : s.cur = some (.unit id)) (hm : s.msg? id = some m) (hphase : m.phase = 3)
include hcur hm hphase

theorem exec_engineReply_discarded (h : m.voided = true ∨ (s.ctx m.ctx).frozen = true) : exec .engineReply s = .next (s.replied m) := by
  have hgone : (m.voided || (s.ctx m.ctx).frozen) = true := by simpa using h
  change execEngineReply s = _
  simp only [execEngineReply, hcur, hm, hphase, ne_eq, not_true_eq_false, if_false, hgone, if_true]

variable (hvoid : m.voided = false) (hfrozen : (s.ctx m.ctx).frozen = false)
include hvoid hfrozen

theorem exec_engineReply_orphaned (hpage : s.page? m.page = none) :
    exec .engineReply s = .next ((s.advise m.ctx 0x43 ((replyPayload m).setWidth 64) 0 m.tag).replied m) := by
  change execEngineReply s = _
  simp only [execEngineReply, hcur, hm, hphase, ne_eq, not_true_eq_false, if_false, hvoid, hfrozen, Bool.or_self, Bool.false_eq_true,
    hpage, Option.isNone_none, if_true]

theorem exec_engineReply_due (hpage : (s.page? m.page).isSome = true) : exec .engineReply s = .next (s.replyDue m) := by
  have hstands : (s.page? m.page).isNone = false := by rw [← Option.not_isSome, hpage]; rfl
  change execEngineReply s = _
  simp only [execEngineReply, hcur, hm, hphase, ne_eq, not_true_eq_false, if_false, hvoid, hfrozen, Bool.or_self, Bool.false_eq_true,
    hstands]
  rfl

end Reply

section Due
variable {s : State} {m : Msg}

theorem replyDue_sendw {b i : Nat} (hsendw : m.sendw = some (b, i)) : s.replyDue m = s.replySendw m b i := by
  simp only [State.replyDue, hsendw]

variable (hsendw : m.sendw = none)
include hsendw

/-- A message that asks for no reply ends, with its fault where it failed (R219). -/
theorem replyDue_silent (hkind : m.rkind = 0) : s.replyDue m = (if m.cause = 0 then s else s.messageFault m).replied m := by
  simp only [State.replyDue, hsendw, hkind, if_true]

theorem replyDue_delivered {t : State} (hkind : m.rkind ≠ 0)
    (hroom : s.deliverReply m.page (m.rkind != 1) m.rdst (replyToken m) m.region = some t) :
    s.replyDue m = (t.noteReply m).replied m := by
  simp only [State.replyDue, hsendw, if_neg hkind, hroom]

theorem replyDue_waits (hkind : m.rkind ≠ 0)
    (hroom : s.deliverReply m.page (m.rkind != 1) m.rdst (replyToken m) m.region = none) : s.replyDue m = s := by
  simp only [State.replyDue, hsendw, if_neg hkind, hroom]

end Due

/-! ### The obligation -/

/-- Settles O32: an engine's turn follows the branch of its message's operands and of what it reads, and moves its data through
`engineWrite`, whose destination is stated apart. -/
theorem enginesServeTheirMessages : Obligations.EnginesServeTheirMessages := by
  unfold Obligations.EnginesServeTheirMessages
  intro s id m hcur hm
  refine ⟨fun hphase => ?work, fun hphase hgone => ?discarded, fun hphase hvoid hfrozen hpage => ?orphaned,
    fun hphase hvoid hfrozen hpage => ?due⟩
  case work =>
    intro d b c takes
    refine ⟨?write, ?copyRefused, ?copy, ?fillRefused, ?fill, ⟨?gatherRefused, ?scatterRefused, ?indexed⟩, ?swapRefused, ?swap, ?acks,
      ?drains, ?istream, ?preload, ?migrateRefused, ?migrate, ?mark, ?census, ?query, ?queryRefused⟩
    case write =>
      intro va bs whole fails next t x hxl
      refine ⟨engineWrite_takes hxl, fun hleaf hstop hstudy hwhole => ⟨?_, fun e => ?_⟩, engineWrite_single hxl, fun hleaf himage => ?_,
        fun y hleaf himage hwaits hpull => ?_⟩
      · exact engineWrite_copies hxl hleaf hstop hstudy hwhole
      · exact engineWrite_unreadable hxl hleaf hstop hstudy hwhole
      · exact engineWrite_stops hxl hleaf (writeStop_image himage)
      · exact (engineWrite_stops hxl hleaf ((writeStop_awaited himage).trans hwaits)).trans (engineStop_pull hpull)
    case copyRefused => exact exec_copy_refused hcur hm hphase
    case copy =>
      intro hd hb hlow hhigh hc
      have hok : ¬(d % 64 ≠ 0 ∨ b % 64 ≠ 0 ∨ c < 64 ∨ 2 ^ 32 < c ∨ c % 64 ≠ 0) := by omega
      exact ⟨fun bs u x t hread hxl htakes => exec_copy_moves hcur hm hphase hok hread hxl htakes,
        fun e u hread => exec_copy_fails hcur hm hphase hok hread⟩
    case fillRefused => exact exec_fill_refused hcur hm hphase
    case fill =>
      intro hd hlow hhigh hc x t hxl htakes
      have hok : ¬(d % 8 ≠ 0 ∨ c < 8 ∨ 2 ^ 32 < c ∨ c % 8 ≠ 0) := by omega
      exact exec_fill_moves hcur hm hphase hok hxl htakes
    case gatherRefused => exact exec_gather_refused hcur hm hphase
    case scatterRefused => exact exec_scatter_refused hcur hm hphase
    case indexed =>
      intro ix u bs v x t hix
      exact ⟨fun hok hread hxl htakes => exec_gather_moves hcur hm hphase hix hok hread hxl htakes,
        fun hok hread hxl htakes => exec_scatter_moves hcur hm hphase hix hok hread hxl htakes⟩
    case swapRefused =>
      exact fun hbad => ⟨fun hwaits => exec_publish_refused hcur hm hphase hwaits hbad, exec_discard_refused hcur hm hphase hbad⟩
    case swap =>
      intro hok
      refine ⟨fun u hus => ⟨fun hwaits => ?_, ?_⟩, fun us hus => ⟨?_, fun hwaits hnone => ?_, fun hwaits hsome => ?_⟩⟩
      · exact exec_publish_stops hcur hm hphase hwaits hok hus
      · exact exec_discard_stops hcur hm hphase hok hus
      · exact exec_discard_drops hcur hm hphase hok hus
      · exact exec_publish_nothing hcur hm hphase hwaits hok (hnone ▸ hus)
      · exact exec_publish_begins hcur hm hphase hwaits hok hus hsome
    case acks => exact fun i hwaits hacks => exec_publish_awaits_acks hcur hm hphase hwaits hacks
    case drains =>
      intro i v hwaits hacks hv
      rw [exec_publish_drains hcur hm hphase hwaits hacks hv]
      refine ⟨fun hover => ?_, fun x hx hpending => ?_⟩
      · rw [if_pos (by simpa using hover)]
      · rw [if_neg]
        simpa using ⟨x, hx, hpending⟩
    case istream =>
      intro p hpage
      refine ⟨exec_istream_refused hcur hm hphase hpage, fun hd hb hnode hkind => ?_⟩
      have hok : ¬(8 ≤ d ∨ 2 ^ 32 ≤ b ∨ p.nmem ≤ d ∨ (p.desc d).nkind ≠ 3) := by omega
      exact exec_istream_starts hcur hm hphase hpage hok
    case preload =>
      intro gid lpn g hg
      refine ⟨exec_preload_refused hcur hm hphase hg, fun hlow hhigh hend => ?_⟩
      have hok : ¬(c = 0 ∨ 256 < c ∨ Memory.readNat g.header 4 2 < lpn + c) := by omega
      exact exec_preload_caches hcur hm hphase hg hok
    case migrateRefused => exact exec_migrate_refused hcur hm hphase
    case migrate =>
      intro hd hc hb
      have hok : ¬(d % 4096 ≠ 0 ∨ c % 4096 ≠ 0 ∨ 24 ≤ b % 32) := by omega
      refine ⟨fun i => exec_migrate_waits hcur hm hphase hok, exec_migrate_ends hcur hm hphase hok, fun hwaits hmore => ?_⟩
      rw [exec_migrate_next hcur hm hphase hok hwaits hmore]
      refine ⟨fun f hw hpull => ?_, fun f hw hpull => ?_, fun x hw => ⟨fun hawaited => ?_, fun hfree => ⟨fun e hread => ?_,
        fun hread i u hpage => ?_, fun hread hpage => ?_⟩⟩⟩
      · rw [migrateNext_untranslated hw, if_neg (by simp [hpull])]
      · rw [migrateNext_untranslated hw, if_pos hpull]
      · rw [migrateNext_awaits hw hawaited]
      · exact congrArg _ (migrateNext_unreadable hw hfree hread)
      · exact congrArg _ (migrateNext_moves hw hfree hread hpage)
      · exact congrArg _ (migrateNext_passes hw hfree hread hpage)
    case mark => exact engineEvent_serves hcur hm hphase
    case census =>
      intro tag pages all moving n
      refine ⟨engineEvent_serves hcur hm hphase, fun hle => ?_⟩
      have herr : Config.sweepError s.free % (2 * moving + 1) < 2 * moving + 1 := Nat.mod_lt _ (Nat.succ_pos _)
      omega
    case query => exact fun v => exec_prompterQuery_answers hcur hm hphase
    case queryRefused => exact fun hsel => exec_prompterQuery_refused hcur hm hphase (queryResult_of_gt hsel)
  case discarded => exact exec_engineReply_discarded hcur hm hphase hgone
  case orphaned => exact exec_engineReply_orphaned hcur hm hphase hvoid hfrozen hpage
  case due =>
    rw [exec_engineReply_due hcur hm hphase hvoid hfrozen hpage]
    refine ⟨fun b i hsendw => ?_, fun hsendw => ⟨fun hkind hcause => ?_, fun hkind hcause => ?_, fun hkind tok htok => ?_⟩⟩
    · rw [replyDue_sendw hsendw]
    · rw [replyDue_silent hsendw hkind, if_pos hcause]
    · rw [replyDue_silent hsendw hkind, if_neg hcause]
    · subst htok
      exact ⟨fun t hroom => congrArg _ (replyDue_delivered hsendw hkind hroom), fun hroom => congrArg _ (replyDue_waits hsendw hkind hroom)⟩

end Sys2Proof.Machine
end

section
/-!
PROOF. The movement of tokens: hops, egress lookups, arrivals at channels, emit ports, wings, census tokens and control codes without
a unit (R80, R81, R129, R136, R219, R249, R251).
-/
namespace Sys2Proof.Machine

theorem State.key_of_page? {s : State} {k : PageKey} {p : Page} (h : s.page? k = some p) : p.key = k := by
  simpa using List.find?_some h

theorem State.dyn_of_page? {s : State} {k : PageKey} {p : Page} (h : s.page? k = some p) : s.dyn k = p.dyn := by
  rw [State.dyn, h]

/-! ### Hops (R44, R249, R278) -/

/-- The arrivals of an item at the places that it goes to, each recorded, or replayed first (R44). -/
def State.arrivals (s : State) (k : PageKey) (src : Place) (i : Item) (qs : List Place) : Option State :=
  qs.foldl (fun x q => x.bind (fun y => y.foldArrival k (some src) q i)) (some s)

section Hop
variable {s : State} {k : PageKey} {src : Place} {p : Page} {i : Item}

theorem staleCue_of_not_cue {q : Place} (hcue : i.isKind .cue = false) : s.staleCue k q i = false := by
  cases i with
  | tok t => rw [Item.isKind] at hcue; simp only [State.staleCue, hcue, Bool.false_and]
  | head _ _ => rfl
  | row _ => rfl

/-- No place consumes an item other than a cue on its arrival. -/
theorem filter_not_staleCue (hcue : i.isKind .cue = false) (qs : List Place) : qs.filter (fun q => !s.staleCue k q i) = qs :=
  List.filter_eq_self.mpr (fun q _ => by rw [staleCue_of_not_cue hcue, Bool.not_false])

variable (hpage : s.page? k = some p)
include hpage

/-- Only an unordered reducer's queue records arrivals. -/
theorem foldArrival_of_no_reducer {q : Place} (hq : State.unordReducer p q = none) : s.foldArrival k (some src) q i = some s := by
  unfold State.foldArrival
  rw [hpage, Option.bind_some, hq]
  cases i <;> rfl

theorem arrivals_of_no_reducer {qs : List Place} (hqs : ∀ q ∈ qs, State.unordReducer p q = none) : s.arrivals k src i qs = some s := by
  induction qs with
  | nil => rfl
  | cons q qs ih =>
    have hq := foldArrival_of_no_reducer (src := src) (i := i) hpage (hqs q List.mem_cons_self)
    rw [State.arrivals, List.foldl_cons, Option.bind_some, hq]
    exact ih (fun r hr => hqs r (List.mem_cons_of_mem q hr))

variable {rest : List Item} (hruns : s.pageRuns k = true) (hhead : p.dyn.fifo src = i :: rest) (hcue : i.isKind .cue = false)
include hhead hcue

/-- A head that some next place has no room for stays. -/
theorem hop_stays (hfull : (nextPlaces p src).all (fun q => p.dyn.takes q i) = false) : s.hop k src = s := by
  simp only [State.hop, hpage, hhead, filter_not_staleCue hcue, hfull, Bool.not_false, Bool.or_true, if_true]

include hruns

theorem hop_moves (hport : ∀ q, src ≠ .ingress q) (hnext : nextPlaces p src ≠ [])
    (hroom : (nextPlaces p src).all (fun q => p.dyn.takes q i) = true) :
    s.hop k src = (s.arrivals k src i (nextPlaces p src)).elim s
      (fun u => u.modDyn k (fun d => (nextPlaces p src).foldl (fun d q => d.enter q i) (d.leave src))) := by
  have hsome : (nextPlaces p src).isEmpty = false := by simpa using hnext
  simp only [State.hop, hpage, hhead, filter_not_staleCue hcue, hruns, hsome, hroom, Bool.not_true, Bool.or_self, Bool.false_eq_true,
    if_false]
  rfl

end Hop

theorem exec_tokenHop {s : State} {k : PageKey} {src : Place} (hcur : s.cur = some (.place k src)) :
    exec .tokenHop s = .next (s.hop k src) := by
  change execTokenHop s = _
  simp only [execTokenHop, hcur]

/-! ### Egress lookups (R251, R260, R278) -/

section Consumer
variable {u : State} {to_ : PageKey} {port : Nat} {i : Item} {c : Page} (hc : u.page? to_ = some c)
  (hpend : c.dyn.pend (.wing port) = 0)
include hc hpend

/-- A consumer in its region whose wing on the edge is empty takes the item into its port buffer, or not at all. -/
theorem deliverAt_resident (hfold : c.fold = none) (hst : c.st = .resident) (hwing : c.dyn.fifo (.wing port) = []) :
    u.deliverAt to_ port i false = if c.dyn.takes (.ingress port) i then
      some (((u.noteItem to_ i).getD u).modDyn to_ (fun d => d.enter (.ingress port) i)) else none := by
  simp [State.deliverAt, hc, hpend, hwing, Page.placed, hst, Page.hasTurn, hfold]

/-- An absent consumer's item enters the wing, within its room. -/
theorem deliverAt_absent (hst : c.st = .absent) (hroom : u.wingRoom c port i = true) :
    u.deliverAt to_ port i false = some (u.intoWing c port i) := by
  simp [State.deliverAt, hc, hpend, Page.placed, hst, hroom]

end Consumer

/-- An item other than a cue or a census token signals the page that it waits for (R81, R251, R268). -/
theorem intoWing_signals {u : State} {c : Page} {port : Nat} {i : Item} (hi : i.weightless = false) :
    u.intoWing c port i =
      let v := u.modDyn c.key (fun d => (State.splitPacket d port i).enter (.wing port) i)
      (if State.chunksOf (c.dyn.push (.wing port) i) ≤ State.chunksOf c.dyn then v else v.wingPoolNote c.key.ctx).signal c.key
        (if c.peer port = 0xFFF then 0 else u.regionByte { c.key with lpn := c.peer port }) := by
  simp only [State.intoWing, hi, Bool.false_eq_true, if_false]

theorem exec_egressLookup {s : State} {k : PageKey} {q : Nat} {p : Page} {i : Item} {rest : List Item} (hcur : s.cur = some (.part k q))
    (hpage : s.page? k = some p) (hruns : s.pageRuns k = true) (hhead : p.dyn.fifo (.egress q) = i :: rest) :
    exec .egressLookup s = .next (((s.modDyn k (fun d => d.pop (.egress q))).deliverAt { k with lpn := p.peer (16 + q) }
      (p.pport (16 + q)) i false).getD s) := by
  change execEgressLookup s = _
  simp only [execEgressLookup, hcur, hruns, if_true, State.sendEgress, hpage, hhead]

/-! ### Channels (R129, R136) -/

section Channel
variable {s : State} {k : PageKey} {t : Token} {b : Nat} {h : Header} {c : CbEntry}

theorem arrive_slot {ch : Nat} (hl : s.listener? k ch = some (b, h, c)) (hcue : t.kind ≠ .cue) (hcensus : t.kind ≠ .census) :
    s.arrive k ch t = s.fillSlot k b c (State.slotOf c.wide t) := by
  simp only [State.arrive, hl, if_neg hcue, if_neg hcensus]

theorem arrive_cue {ch : Nat} (hl : s.listener? k ch = some (b, h, c)) (hcue : t.kind = .cue)
    (hround : t.pay = BitVec.ofNat 32 (s.ctx k.ctx).round) (hcut : ((s.dyn k).actor b).cut = false) :
    s.arrive k ch t = some (s.modCb k b c.handle (fun y => { y with marks := y.marks ++ [(y.slots.length, t)] })) := by
  simp [State.arrive, hl, hcue, hround, hcut]

variable {n : Nat} {second : Bool} {p : Page} {ch : BitVec 6} (hcur : s.cur = some (.place k (.out n second)))
  (hpage : s.page? k = some p) (hruns : s.pageRuns k = true) (hroute : (p.ecw n).route second = .chan ch)
  (hhead : p.dyn.headTok (.out n second) = some t)
include hcur hpage hruns hroute hhead

/-- The head leaves its output register when the channel takes it, which the Logbook records. -/
theorem exec_listenArrival (hcue : t.kind ≠ .cue) (hcensus : t.kind ≠ .census) :
    exec .listenArrival s = .next ((s.arrive k ch.toNat t).elim s (fun x =>
      (x.modDyn k (fun d => d.leave (.out n second))).noteChoice (0x6000 + s.regionByte k / 4) (s.regionByte k % 4))) := by
  change execListenArrival s = _
  simp only [execListenArrival, hcur, hpage, routeFrom, hroute, hhead, hcue, hcensus, hruns, Bool.not_true, Bool.false_eq_true, or_self,
    if_false, Option.bind_some]
  cases s.arrive k ch.toNat t <;> rfl

theorem exec_cueMark (hcue : t.kind = .cue) :
    exec .cueMark s = .next ((s.arrive k ch.toNat t).elim s (fun x => x.modDyn k (fun d => d.pop (.out n second)))) := by
  change execCueMark s = _
  simp only [execCueMark, hcur, hpage, routeFrom, hroute, hhead, hcue, hruns, ne_eq, not_true_eq_false, Bool.not_true, Bool.false_eq_true,
    or_self, if_false]
  cases s.arrive k ch.toNat t <;> rfl

end Channel

/-! ### Emit ports (R81, R129) -/

/-- With no mark before it, the first slot of a 4-byte emit port leaves as a token towards DEST. -/
theorem exec_emitForward_sends {s y : State} {k : PageKey} {b j : Nat} {p : Page} {h : Header} {c : CbEntry} {x : Slot} {rest : List Slot}
    (hcur : s.cur = some (.emitPort k b j)) (hpage : s.page? k = some p) (hheader : s.header? k b = some h)
    (hentry : p.emitEntry? h j = some c) (hruns : s.pageRuns k = true) (hwide : c.wide = false)
    (hmarks : ∀ m ∈ (s.cb k b c.handle).marks, m.1 ≠ 0) (hslots : (s.cb k b c.handle).slots = x :: rest)
    (hsend : s.sendRoute k c.dest { kind := x.kind, sc := x.sc, tag := x.tag, pay := (x.words[0]?).getD 0, dep := x.dep } = some y) :
    exec .emitForward s = .next ((if x.kind = .data then y.countSend k b x.tag j else y).modCb k b c.handle (fun z =>
      { z with slots := z.slots.drop 1, rp := (z.rp + 1) % 2 ^ c.slog, marks := z.marks.map (fun m => (m.1 - 1, m.2)) })) := by
  change execEmitForward s = _
  simp only [execEmitForward, hcur, hpage, hheader, hentry, hruns, Bool.not_true, Bool.false_eq_true, if_false, hslots, hwide,
    Bool.false_and, hsend, beq_iff_eq]
  split
  next t _ hmark => exact absurd rfl (hmarks (0, t) (hmark ▸ List.mem_cons_self))
  next => split <;> rfl

/-! ### Wings (R219, R259) -/

section Wing
variable {s : State} {k : PageKey} (hruns : s.pageRuns k = true)
include hruns

theorem exec_wingDrain_reply {t : Token} {port : Nat} {rest : List (Bool × Nat)} (hcur : s.cur = some (.place k .reply))
    (hhead : (s.dyn k).headTok .reply = some t) (hport : (s.dyn k).replies = (true, port) :: rest)
    (hroom : (s.dyn k).takes (.ingress port) (.tok t) = true) :
    exec .wingDrain s = .next (((s.noteItem k (.tok t)).getD s).modDyn k
      (fun d => { (d.pop .reply).enter (.ingress port) (.tok t) with replies := rest })) := by
  change execWingDrain s = _
  simp only [execWingDrain, hcur, hruns, Bool.not_true, Bool.false_eq_true, if_false, hhead, hport, hroom, if_true]

variable {port : Nat} (hcur : s.cur = some (.place k (.wing port)))
include hcur

/-- Replies go ahead of an external wing. -/
theorem exec_wingDrain_behind_replies (hreply : (s.dyn k).fifo .reply ≠ []) : exec .wingDrain s = .next s := by
  have hsome : ((s.dyn k).fifo .reply).isEmpty = false := by simpa using hreply
  change execWingDrain s = _
  simp only [execWingDrain, hcur, hruns, Bool.not_true, Bool.false_eq_true, if_false, hsome, Bool.not_false, if_true]

theorem exec_wingDrain_wing {i : Item} {rest : List Item} (hreply : (s.dyn k).fifo .reply = [])
    (hhead : (s.dyn k).fifo (.wing port) = i :: rest) :
    exec .wingDrain s = .next (if (s.dyn k).takes (.ingress port) i then
      ((s.noteItem k i).getD s).modDyn k (fun d => (d.pop (.wing port)).enter (.ingress port) i) else s) := by
  change execWingDrain s = _
  simp only [execWingDrain, hcur, hruns, Bool.not_true, Bool.false_eq_true, if_false, hreply, List.isEmpty_nil, hhead]

end Wing

/-! ### Census tokens and control codes (R80, R81) -/

theorem exec_censusToken_queue {s : State} {k : PageKey} {n : Nat} {q : QueueName} {p : Page} {t : Token}
    (hcur : s.cur = some (.place k (.queue n q))) (hpage : s.page? k = some p) (hhead : p.dyn.headTok (.queue n q) = some t)
    (hkind : t.kind = .census) (hruns : s.pageRuns k = true) :
    exec .censusToken s = .next (if s.censusTakes k p (.elem n) t then
      (s.modDyn k (fun d => d.pop (.queue n q))).censusVisit k (.elem n) t else s) := by
  change execCensusToken s = _
  simp only [execCensusToken, hcur, hpage, State.dyn_of_page? hpage, hhead, hkind, hruns, ne_eq, not_true_eq_false, Bool.not_true,
    Bool.false_eq_true, or_self, if_false]

theorem exec_unknownControlCode {s : State} {c : Ctl} (hcur : s.cur = some .device)
    (hc : s.ctl.find? (fun c => c.code == 0 || 0x0C < c.code) = some c) :
    exec .unknownControlCode s =
      .next (({ s with ctl := s.ctl.erase c } : State).logEvent 0x10 0xC002 (c.code * 2 ^ 24 + c.operand)) := by
  change execUnknownControlCode s = _
  simp only [execUnknownControlCode, hcur, hc]

/-! ### The obligation -/

/-- Settles O22: each event moves the head of its place, and the room of what it goes to decides whether. -/
theorem tokensMoveAlongTheirRoutes : Obligations.TokensMoveAlongTheirRoutes := by
  unfold Obligations.TokensMoveAlongTheirRoutes
  refine ⟨?hop, ?egress, ?channel, ?emit, fun s k t port rest hcur hruns hhead hport hroom => ?reply,
    fun s k port hcur hruns hreply => ?behind, fun s k port i rest hcur hruns hreply hhead => ?wing,
    fun s k n q p t hcur hpage hhead hkind hruns => ?census, fun s c hcur hc => exec_unknownControlCode hcur hc⟩
  case hop =>
    intro s k src p i rest hcur hpage hruns hhead hport hcue hnext arrived
    rw [exec_tokenHop hcur]
    refine ⟨fun hroom => ⟨fun u (hu : s.arrivals k src i _ = some u) => ?_, fun (hnone : s.arrivals k src i _ = none) => ?_,
      arrivals_of_no_reducer hpage⟩, fun hfull => ?_⟩
    · rw [hop_moves hpage hruns hhead hcue hport hnext hroom, hu]; rfl
    · rw [hop_moves hpage hruns hhead hcue hport hnext hroom, hnone]; rfl
    · rw [hop_stays hpage hhead hcue hfull]
  case egress =>
    intro s k q p c i rest hcur hpage hruns hhead to_ port u hother hc hfold hpend
    have hcu : u.page? to_ = some c := (State.page?_modDyn_other hother).trans hc
    rw [exec_egressLookup hcur hpage hruns hhead]
    refine ⟨fun hst hwing hroom => ?_, fun hst hwing hfull => ?_, fun hst hi hroom => ?_⟩
    · rw [deliverAt_resident hcu hpend hfold hst hwing, if_pos hroom]; rfl
    · rw [deliverAt_resident hcu hpend hfold hst hwing, if_neg (by simp [hfull])]; rfl
    · rw [deliverAt_absent hcu hpend hst hroom, intoWing_signals hi, State.key_of_page? hc]; rfl
  case channel =>
    intro s k n second p t ch b h c hcur hpage hruns hroute hhead hl
    refine ⟨fun hcue hcensus => ?_, fun hcue hround hcut => ?_⟩
    · rw [exec_listenArrival hcur hpage hruns hroute hhead hcue hcensus, arrive_slot hl hcue hcensus, State.fillSlot]
      refine ⟨fun hfree => ?_, fun hfull => ?_⟩
      · rw [if_pos hfree]; rfl
      · rw [if_neg (Nat.not_lt.mpr hfull)]; rfl
    · rw [exec_cueMark hcur hpage hruns hroute hhead hcue, arrive_cue hl hcue hround hcut]; rfl
  case emit =>
    intro s k b j p h c x rest y hcur hpage hheader hentry hruns hwide hmarks hslots hsend
    exact exec_emitForward_sends hcur hpage hheader hentry hruns hwide hmarks hslots hsend
  case reply => exact exec_wingDrain_reply hruns hcur hhead hport hroom
  case behind => exact exec_wingDrain_behind_replies hruns hcur hreply
  case wing =>
    rw [exec_wingDrain_wing hruns hcur hreply hhead]
    exact ⟨fun hroom => by rw [if_pos hroom], fun hfull => by rw [if_neg (by simp [hfull])]⟩
  case census =>
    rw [exec_censusToken_queue hcur hpage hhead hkind hruns]
    exact ⟨fun htakes => by rw [if_pos htakes], fun hfull => by rw [if_neg (by simp [hfull])]⟩

end Sys2Proof.Machine
end

section
/-!
PROOF. The residency of pages: signals, regions, loads, evictions, the turns of a fold, the waits of the save pool and the pages that
become eligible (R253 to R265, R353, R354, R394, R408).
-/
namespace Sys2Proof.Machine

/-! ### Signals (R237, R253, R256, R267) -/

/-- The state with the signal of a page taken, and recorded where PGLD or PRE asked for the page. -/
def State.takeSignal (s : State) (part : Nat) (k : PageKey) : State :=
  let u := s.modPart part (fun p => { p with signals := p.signals.drop 1, asked := if p.signals.isEmpty then p.asked.drop 1 else p.asked })
  let l := if (s.part part).signals.isEmpty then u.logEvent 0x17 0xC001 (k.lpn + 2 ^ 20) else u
  ({ l with ctl := l.ctl.filter (fun c => !(c.code == 0x04 && c.page == some k)) } : State).noteChoice 0xC001 (l.regionByte k)

/-- The page marked as signalled, on the pending list. -/
def State.listSignalled (s : State) (k : PageKey) : State := (s.modPage k (fun x => { x with signalled := true })).makePending k

theorem exec_pageSignal {s : State} {part : Nat} {k : PageKey} {rest : List PageKey} {p : Page} (hcur : s.cur = some (.unit part))
    (hfirst : (s.part part).signals ++ (s.part part).asked.map Prod.fst = k :: rest) (hpage : (s.takeSignal part k).page? k = some p) :
    exec .pageSignal s = .next (if p.st = .absent ∨ p.st = .pending then ((s.takeSignal part k).listSignalled k).chooseFor k
      else if p.st = .stopping then (s.takeSignal part k).listSignalled k else s.takeSignal part k) := by
  rw [State.takeSignal] at hpage
  change execPageSignal s = _
  simp only [execPageSignal, hcur, hfirst, hpage]
  rfl

/-! ### Free regions (R258, R262, R411) -/

/-- The pending page that a free region goes to. -/
def State.chosenPending (s : State) (part : Nat) : Option PageKey :=
  let ready := (s.part part).pending.filter (fun k => s.nextPending k.ctx == some k)
  let below (f : CtxId → Nat) (k : PageKey) : Bool := decide (s.regionCount k.ctx < f k.ctx) && s.ctxServed k.ctx
  (s.leastPass (ready.filter (below s.quotaMin))).orElse (fun _ => ready.find? (below s.quotaMax))

section Assign
variable {s : State} {part : Nat} (hcur : s.cur = some (.unit part))
include hcur

theorem exec_regionAssign_none (hchosen : s.chosenPending part = none) : exec .regionAssign s = .next s := by
  rw [State.chosenPending] at hchosen
  change execRegionAssign s = _
  simp only [execRegionAssign, hcur, hchosen]

theorem exec_regionAssign {k : PageKey} {p : Page} (hchosen : s.chosenPending part = some k) (hpage : s.page? k = some p) :
    exec .regionAssign s = .next ((s.bestRegion p).elim s (s.assignRegion k)) := by
  rw [State.chosenPending] at hchosen
  change execRegionAssign s = _
  simp only [execRegionAssign, hcur, hchosen, hpage, Option.bind_some]
  cases s.bestRegion p <;> rfl

end Assign

/-! ### Loads (R74, R186, R252, R259, R408) -/

/-- The configuration cache of the region's die holds the page's image. -/
def State.imageCached (s : State) (k : PageKey) (p : Page) : Bool :=
  s.dev.configCache.any (State.isImage (p.region.getD 0 / 32) k.ctx.part k.graph (imgNat p.image 2 2))

/-- The image that a page loads: the cached one, or the one fetched. -/
def State.loadImage (s : State) (k : PageKey) (p : Page) : Except (XFault × Nat) (List Host.Cell) :=
  if s.imageCached k p then .ok p.image else s.fetchImage p

theorem loadImage_of_not_cached {s : State} {k : PageKey} {p : Page} (hmiss : s.imageCached k p = false) :
    s.loadImage k p = s.fetchImage p :=
  if_neg (by simp [hmiss])

/-- The page with its image in place, its arguments bound and its generators' windows asked for again. -/
def State.loadedPage (s : State) (k : PageKey) (img : List Host.Cell) (x : Page) : Page :=
  { x with
    st := if x.fold.isSome then .folded else .resident
    since := s.cycle, crcTried := false, frames := [], image := img
    dyn := { x.dyn with
      args := s.boundArgs k.ctx k.graph img
      argsNext := s.boundNext k.ctx k.graph img
      nodes := x.dyn.nodes.map (fun n => { n with gens := n.gens.map (rewindow ({ x with image := img }.desc n.node)) }) } }

/-- The record of an image that has failed its CRC twice. -/
def State.badImageRec (s : State) (k : PageKey) : FaultRec :=
  { cause := 0x00, info0 := BitVec.ofNat 64 k.lpn, info1 := k.graph.setWidth 64, ctxid := State.ctxWord k.ctx,
    round := (s.ctx k.ctx).round % 2 ^ 32, ctx := some k.ctx }

section Load
variable {s : State} {k : PageKey} {p : Page} (hcur : s.cur = some (.page k)) (hpage : s.page? k = some p) (hst : p.st = .loading)
  (hfrozen : (s.ctx k.ctx).frozen = false)
include hcur hpage hst hfrozen

theorem exec_pageLoadDone_image {img : List Host.Cell} (himg : s.loadImage k p = .ok img) :
    exec .pageLoadDone s = .next (if s.imageCached k p = false ∧ pageCrcOk img = false then
        if p.crcTried = false then s.modPage k (fun x => { x with crcTried := true })
        else (s.modPage k (fun x => { x with st := .absent, region := none, crcTried := false })).post (State.guestRing k.ctx)
          (s.badImageRec k)
      else ((s.modPage k (s.loadedPage k img)).cacheImage (p.region.getD 0 / 32) k.ctx.part k.graph (imgNat p.image 2 2) false).logEvent
        0x17 0xC001 k.lpn) := by
  rw [State.loadImage, State.imageCached] at himg
  change execPageLoadDone s = _
  simp only [execPageLoadDone, hcur, hpage, hst, hfrozen, ne_eq, not_true_eq_false, Bool.false_eq_true, or_self, if_false, himg,
    Bool.and_eq_true, Bool.not_eq_true']
  rfl

/-- An image that does not translate is a fault of the graph's owner. -/
theorem exec_pageLoadDone_untranslated {f : XFault} {va : Nat} {g : Graph} (himg : s.loadImage k p = .error (f, va))
    (hg : s.graph? k.ctx.part k.graph = some g) : exec .pageLoadDone s = .next (s.deviceFault g.owner va .config f) := by
  rw [State.loadImage, State.imageCached] at himg
  change execPageLoadDone s = _
  simp only [execPageLoadDone, hcur, hpage, hst, hfrozen, ne_eq, not_true_eq_false, Bool.false_eq_true, or_self, if_false, himg, hg]

end Load

/-! ### Evictions (R260, R269, R353, R354) -/

theorem exec_evictionSave {s : State} {k : PageKey} {p : Page} (hcur : s.cur = some (.page k)) (hpage : s.page? k = some p)
    (hst : p.st = .stopping) :
    exec .evictionSave s = .next (if State.settled p = false ∨ (s.ctx k.ctx).frozen = true then s else s.finishEviction k) := by
  change execEvictionSave s = _
  simp only [execEvictionSave, hcur, hpage, hst, ne_eq, not_true_eq_false, false_or, Bool.not_eq_true']

theorem tellHyp_pages (s : State) (part cause : Nat) (x y : DWord) (c : Option CtxId) : (s.tellHyp part cause x y c).pages = s.pages := by
  have hirq : (s.healthIrq cause).pages = s.pages := iteInduction (motive := fun t => State.pages t = s.pages) (fun _ => rfl) (fun _ => rfl)
  rw [State.tellHyp, post_pages, hirq]

/-- A short pool gives no frames, and nothing of the pages changes. -/
theorem takeFrames_short {s : State} {die n : Nat} {r : SaveReq} (hshort : (s.framePool (State.saveReqCtx r).part die).length < n) :
    (s.takeFrames die n r).1 = none ∧ (s.takeFrames die n r).2.pages = s.pages := by
  simp only [State.takeFrames, if_neg (Nat.not_le.mpr hshort)]
  split
  · exact ⟨rfl, rfl⟩
  · exact ⟨rfl, tellHyp_pages ..⟩

theorem groupPages_alone {s : State} {p : Page} (hfold : p.fold = none) (hpage : s.page? p.key = some p) : s.groupPages p = [p] := by
  simp only [State.groupPages, State.evictGroup, hfold, List.filterMap_cons, hpage, List.filterMap_nil]

/-- An eviction that the save pool cannot supply does not begin. -/
theorem evict_short_pages {s : State} {p : Page} (hfold : p.fold = none) (hpage : s.page? p.key = some p)
    (hshort : (s.framePool p.key.ctx.part (State.pageDie p)).length < Config.snapshotFrames (State.stored p.dyn)) :
    (s.evict p).pages = s.pages := by
  obtain ⟨hnone, hpages⟩ := takeFrames_short (r := .evict p.key) hshort
  simp only [State.evict, groupPages_alone hfold hpage, List.map_cons, List.map_nil, List.foldl_cons, List.foldl_nil, Nat.zero_add, hnone,
    hpages]

/-! ### Fold turns and the waits of the save pool (R265, R354) -/

/-- The member of a fold whose turn follows. -/
def FoldInfo.next (f : FoldInfo) : Nat := (f.members[f.members.idxOf f.running + 1]?).getD (f.members.headD f.running)

/-- A page runs the fold of a region in its turn. -/
def Page.holdsTurn (l : Nat) (p : Page) : Bool :=
  p.region == some l && (match p.fold with
    | some f => f.running == p.key.lpn
    | none => false)

theorem exec_foldTurnEnd {s : State} {l : Nat} {p : Page} {f : FoldInfo} (hcur : s.cur = some (.unit l)) (hfold : p.fold = some f)
    (hturn : s.pages.find? (Page.holdsTurn l) = some p) :
    exec .foldTurnEnd s = .next (if s.turnOver p = false ∨ State.settled p = false then s else
      f.members.foldl (fun t m => t.modPage { p.key with lpn := m } (fun x =>
        { x with fold := some { f with running := f.next, since := s.cycle } })) s) := by
  change execFoldTurnEnd s = _
  simp only [execFoldTurnEnd, hcur]
  split
  next hnone => exact absurd (hnone.symm.trans hturn) (Option.some_ne_none p).symm
  next q hq =>
    obtain rfl : p = q := Option.some.inj (hturn.symm.trans hq)
    simp only [hfold, Bool.or_eq_true, Bool.not_eq_true', FoldInfo.next]

theorem exec_savePoolWaitEnd {s : State} {part : Nat} (hcur : s.cur = some (.unit part)) :
    exec .savePoolWaitEnd s =
      .next (s.modPart part (fun p => { p with saveWaits := p.saveWaits.filter (fun w => s.saveStands w.1) })) := by
  change execSavePoolWaitEnd s = _
  simp only [execSavePoolWaitEnd, hcur]

/-! ### Pages that become eligible (R237, R244, R262, R394) -/

/-- A TEST vacates the page's region. -/
def State.vacates (s : State) (p : Page) : Bool := p.region.any (fun l => s.scans.any (fun x => x.phase == 0 && x.held.contains l))

theorem eligible_not_frozen {s : State} {p : Page} (h : s.eligible p = true) : (s.ctx p.key.ctx).frozen = false := by
  rw [State.eligible, Bool.and_eq_true] at h
  simpa using h.2

theorem exec_pageBecomesEligible {s : State} {k : PageKey} {p : Page} (hcur : s.cur = some (.page k)) (hpage : s.page? k = some p)
    (hnamed : p.evict = none) (helig : s.eligible p = true) :
    exec .pageBecomesEligible s = .next (if s.vacates p then s.evict p
      else if s.quotaMax k.ctx < s.regionCount k.ctx ∧ s.stoppingOf k.ctx = 0 then
        (s.victim (s.pages.filter (fun q => q.key.ctx == k.ctx && s.eligible q))).elim s s.evict
      else (s.nextPending k.ctx).elim s s.chooseFor) := by
  have hfrozen : (s.ctx k.ctx).frozen = false := State.key_of_page? hpage ▸ eligible_not_frozen helig
  change execPageBecomesEligible s = _
  simp only [execPageBecomesEligible, hcur, hpage, hfrozen, hnamed, helig, Option.isSome_none, Bool.false_and, Bool.not_true,
    Bool.false_eq_true, if_false, State.vacates]
  congr 2
  · cases p.region <;> rfl
  · cases s.victim (s.pages.filter (fun q => q.key.ctx == k.ctx && s.eligible q)) <;> cases s.nextPending k.ctx <;> rfl

/-! ### The obligation -/

/-- Settles O29: each event's turn follows the state of its page, and an eviction that finds too few frames changes no page. -/
theorem pagesLoadAndLeave : Obligations.PagesLoadAndLeave := by
  unfold Obligations.PagesLoadAndLeave
  refine ⟨?signal, ?assign, ?load, ?save, fun s p hfold hpage hshort => ?frames, ?turn, fun s part hcur => exec_savePoolWaitEnd hcur,
    ?eligible⟩
  case signal =>
    intro s part k rest hcur hfirst u l v listed
    refine ⟨fun p hpage hst => ?_, fun p hpage hst => ?_, fun p hpage habsent hpending hstopping => ?_⟩ <;>
      rw [exec_pageSignal hcur hfirst hpage]
    · rw [if_pos hst]; rfl
    · rw [if_neg (by simp [hst]), if_pos hst]; rfl
    · rw [if_neg (not_or.mpr ⟨habsent, hpending⟩), if_neg hstopping]; rfl
  case assign =>
    intro s part hcur ready below chosen
    refine ⟨fun k p l hchosen hpage hbest => ?_, fun k p hchosen hpage hbest => ?_, exec_regionAssign_none hcur⟩
    · rw [exec_regionAssign hcur hchosen hpage, hbest]; rfl
    · rw [exec_regionAssign hcur hchosen hpage, hbest]; rfl
  case load =>
    intro s k p hcur hpage hst hfrozen die lpn hit
    refine ⟨fun img himg hgood => ?_, fun img hmiss himg hbad htried => ?_, fun img hmiss himg hbad htried => ?_,
      fun f va g hmiss himg hg => ?_⟩
    · have hkeep : ¬(s.imageCached k p = false ∧ pageCrcOk img = false) := by
        rintro ⟨hmiss, hbad⟩
        exact hgood.elim (ne_true_of_eq_false hmiss) (ne_true_of_eq_false hbad)
      rw [exec_pageLoadDone_image hcur hpage hst hfrozen himg, if_neg hkeep]; rfl
    · rw [exec_pageLoadDone_image hcur hpage hst hfrozen ((loadImage_of_not_cached hmiss).trans himg), if_pos ⟨hmiss, hbad⟩,
        if_pos htried]
    · rw [exec_pageLoadDone_image hcur hpage hst hfrozen ((loadImage_of_not_cached hmiss).trans himg), if_pos ⟨hmiss, hbad⟩,
        if_neg (ne_false_of_eq_true htried)]
      rfl
    · exact exec_pageLoadDone_untranslated hcur hpage hst hfrozen ((loadImage_of_not_cached hmiss).trans himg) hg
  case save =>
    intro s k p hcur hpage hst
    rw [exec_evictionSave hcur hpage hst]
    exact ⟨fun hsettled hfrozen => by rw [if_neg (by simp [hsettled, hfrozen])], fun hwaits => by rw [if_pos hwaits]⟩
  case frames => rw [State.page?_of_pages (evict_short_pages hfold hpage hshort), hpage]; rfl
  case turn =>
    intro s l p f hcur hfold hturn next
    rw [exec_foldTurnEnd hcur hfold hturn]
    exact ⟨fun hover hsettled => by rw [if_neg (by simp [hover, hsettled])]; rfl, fun hwaits => by rw [if_pos hwaits]⟩
  case eligible =>
    intro s k p hcur hpage hnamed helig
    rw [exec_pageBecomesEligible hcur hpage hnamed helig]
    refine ⟨fun ⟨l, hl, hheld⟩ => ?_, fun hfree => ?_⟩
    · rw [if_pos (by rw [State.vacates, hl]; exact hheld)]
    · have hstays : ¬s.vacates p = true := by simpa [State.vacates, Option.any_eq_true] using hfree
      rw [if_neg hstays]
      refine ⟨fun v hover hnone hv => ?_, fun q hquota hq => ?_, fun hquota hq => ?_⟩
      · rw [if_pos ⟨hover, hnone⟩, hv]; rfl
      · rw [if_neg (by omega), hq]; rfl
      · rw [if_neg (by omega), hq]; rfl

end Sys2Proof.Machine
end

section
/-!
PROOF. Fault rings with their resolutions, the Foghorn and the Logbook's time records (R347 to R349, R367, R369, R370).
-/
namespace Sys2Proof.Machine

/-! ### The ring behind an update -/

theorem State.ring_modRing {s : State} {r : RingId} {f : Ring → Ring} (hid : ∀ x, (f x).id = x.id) :
    (s.modRing r f).ring r = f (s.ring r) := by
  rw [State.ring, State.ring, State.modRing]
  cases hfind : s.rings.find? (fun x => x.id == r) with
  | none => simp [find?_update_none hfind, hid]
  | some x =>
    have hx : x.id = r := by simpa using List.find?_some hfind
    simp [find?_update_same hfind (f := f) (by simp [hid, hx])]

theorem State.outstanding?_of_rings {s t : State} (h : t.rings = s.rings) (r : RingId) (n : Nat) :
    t.outstanding? r n = s.outstanding? r n := by
  rw [State.outstanding?, State.outstanding?, State.ring, State.ring, h]

/-! ### Records that are written (R332, R347, R348) -/

section Write
variable {s : State} {r : RingId} {n : Nat} (hcur : s.cur = some (.record r n))
include hcur

theorem exec_faultRingWrite_disabled (hoff : (s.ring r).enabled = false) : exec .faultRingWrite s = .next s := by
  change execFaultRingWrite s = _
  simp only [execFaultRingWrite, hcur, hoff, Bool.not_false, if_true]

variable {f : FaultRec} {rest : List FaultRec} (hon : (s.ring r).enabled = true) (hwaiting : (s.ring r).waiting = f :: rest)
include hon hwaiting

theorem exec_faultRingWrite_room (hroom : (s.ring r).room = true) :
    exec .faultRingWrite s = .next (((s.ringWrite r (s.ring r).place (f.bits (s.ring r).nextNum)).map (fun t =>
      (t.modRing r (fun x => { x with
        waiting := rest
        head := x.head + 1
        nextNum := (x.nextNum + 1) % 2 ^ 16
        outstanding := if f.advisory then x.outstanding else x.outstanding ++ [{ f with fnum := (s.ring r).nextNum }] })).ringIrq r)).getD
      (s.ringWait r (s.ring r).place)) := by
  change execFaultRingWrite s = _
  simp only [execFaultRingWrite, hcur, hon, hwaiting, hroom, Bool.not_true, Bool.false_eq_true, if_false, if_true]
  cases s.ringWrite r (s.ring r).place (f.bits (s.ring r).nextNum) <;> rfl

theorem exec_faultRingWrite_full (hfull : (s.ring r).room = false) :
    exec .faultRingWrite s = .next (((s.ring r).waiting.find? FaultRec.advisory).elim s (fun g => s.modRing r (fun x => { x with
      waiting := x.waiting.erase g
      ctl := if bitsOf x.ctl.toNat 8 16 = 0xFFFF then x.ctl else x.ctl + 0x100#32 }))) := by
  change execFaultRingWrite s = _
  simp only [execFaultRingWrite, hcur, hon, hwaiting, hfull, Bool.not_true, Bool.false_eq_true, if_false]
  cases (f :: rest).find? FaultRec.advisory <;> rfl

end Write

/-! ### Resolutions (R315, R331, R349) -/

section Resolve
variable {s : State} {r : RingId} {n : Nat} (hcur : s.cur = some (.record r n))
include hcur

theorem exec_fresolveRetry : exec .fresolveRetry s = .next ((s.outstanding? r n).elim s (s.retryRecord r)) := by
  change execFresolveRetry s = _
  simp only [execFresolveRetry, hcur]
  cases s.outstanding? r n <;> rfl

theorem exec_fresolveStop : exec .fresolveStop s = .next ((s.outstanding? r n).elim s (s.stopRecord r)) := by
  change execFresolveStop s = _
  simp only [execFresolveStop, hcur]
  cases s.outstanding? r n <;> rfl

end Resolve

theorem outstanding?_fnum {s : State} {r : RingId} {n : Nat} {f : FaultRec} (h : s.outstanding? r n = some f) : f.fnum = n := by
  simpa using List.find?_some h

theorem closeRecord_rings (s : State) (r : RingId) (f : FaultRec) :
    (s.closeRecord r f).rings =
      (s.modRing r (fun x => { x with outstanding := x.outstanding.filter (fun y => y.fnum != f.fnum) })).rings := by
  rw [State.closeRecord]
  split
  · split <;> rfl
  · rfl

/-- A closed record's number is outstanding no more. -/
theorem outstanding?_closeRecord (s : State) (r : RingId) (f : FaultRec) : (s.closeRecord r f).outstanding? r f.fnum = none := by
  rw [State.outstanding?_of_rings (closeRecord_rings s r f), State.outstanding?,
    State.ring_modRing (f := fun x => { x with outstanding := x.outstanding.filter (fun y => y.fnum != f.fnum) }) (fun _ => rfl)]
  simp [List.find?_eq_none]

theorem askFreeze_rings (s : State) (c : CtxId) (cause : Nat) : (s.askFreeze c cause).rings = s.rings := by
  rw [State.askFreeze]
  split <;> rfl

theorem stopRecord_rings (s : State) (r : RingId) (f : FaultRec) : (s.stopRecord r f).rings = (s.closeRecord r f).rings := by
  rw [State.stopRecord]
  split
  · split
    · rfl
    · exact askFreeze_rings ..
  · rfl

theorem outstanding?_stopRecord {s : State} {r : RingId} {n : Nat} {f : FaultRec} (h : s.outstanding? r n = some f) :
    (s.stopRecord r f).outstanding? r n = none := by
  rw [State.outstanding?_of_rings (stopRecord_rings s r f), ← outstanding?_fnum h, outstanding?_closeRecord]

/-! ### The Foghorn (R369, R370) -/

section Foghorn
variable {s : State} {k : FrameKey} {f : Frame} (hcur : s.cur = some (.frame k)) (hframe : s.frame? k = some f)
include hcur hframe

theorem exec_hang_frozen (hfrozen : (s.ctx f.ctx).frozen = true) : exec .hang s = .next s := by
  change execHang s = _
  simp only [execHang, hcur, hframe, hfrozen, if_true]

theorem exec_hang_pauses (hfrozen : (s.ctx f.ctx).frozen = false) (hpaused : s.clockPaused f.ctx = true) :
    exec .hang s = .next (s.modFrame k (fun x => { x with pausedAt := some (x.pausedAt.getD s.cycle) })) := by
  change execHang s = _
  simp only [execHang, hcur, hframe, hfrozen, hpaused, Bool.false_eq_true, if_false, if_true]

theorem exec_hang_goesOn {t : BitVec 64} (hfrozen : (s.ctx f.ctx).frozen = false) (hruns : s.clockPaused f.ctx = false)
    (hpause : f.pausedAt = some t) :
    exec .hang s = .next (s.modFrame k (fun x =>
      { x with pausedAt := none, lastFire := if t < x.lastFire then s.cycle else x.lastFire + (s.cycle - t) })) := by
  change execHang s = _
  simp only [execHang, hcur, hframe, hfrozen, hruns, hpause, Bool.false_eq_true, if_false]

theorem exec_hang_runs (hfrozen : (s.ctx f.ctx).frozen = false) (hruns : s.clockPaused f.ctx = false) (hpause : f.pausedAt = none) :
    exec .hang s = .next (if f.lastFire.toNat + (s.part k.part).foghornMs * 1000 * Config.cyclesPerMicrosecond ≤ s.cycle.toNat
      then ((s.mapHeld f).map (s.waitOn f.ctx.part)).getD (s.hangNow f) else s) := by
  change execHang s = _
  simp only [execHang, hcur, hframe, hfrozen, hruns, hpause, Bool.false_eq_true, if_false]

end Foghorn

/-! ### Time records (R367) -/

theorem exec_logbookTimeRecord {s : State} (hcur : s.cur = some .device) :
    exec .logbookTimeRecord s = .next (if s.dev.logTimeAt.toNat + 2 ^ 22 ≤ s.cycle.toNat then s.logTime else s) := by
  change execLogbookTimeRecord s = _
  simp only [execLogbookTimeRecord, hcur]

/-! ### The obligation -/

/-- Settles O33: each turn follows its ring, record, frame or clock, and a closed record's number leaves its ring. -/
theorem faultRecordsAreWrittenAndResolved : Obligations.FaultRecordsAreWrittenAndResolved := by
  unfold Obligations.FaultRecordsAreWrittenAndResolved
  refine ⟨?rings, ?foghorn, ?time⟩
  case rings =>
    intro s r n hcur q
    refine ⟨exec_faultRingWrite_disabled hcur, fun f rest hon hwaiting => ?_, fun f hf => ?_, fun hnone => ?_⟩
    · refine ⟨fun t hroom ht => ?_, fun hroom hnone => ?_, fun hfull g hg => ?_, fun hfull hnone => ?_⟩
      · rw [exec_faultRingWrite_room hcur hon hwaiting hroom, ht]; rfl
      · rw [exec_faultRingWrite_room hcur hon hwaiting hroom, hnone]; rfl
      · rw [exec_faultRingWrite_full hcur hon hwaiting hfull, hg]; rfl
      · rw [exec_faultRingWrite_full hcur hon hwaiting hfull, List.find?_eq_none.mpr fun g hg => ne_true_of_eq_false (hnone g hg)]; rfl
    · rw [exec_fresolveRetry hcur, exec_fresolveStop hcur, hf]
      exact ⟨rfl, rfl, outstanding?_stopRecord hf⟩
    · rw [exec_fresolveRetry hcur, exec_fresolveStop hcur, hnone]
      exact ⟨rfl, rfl⟩
  case foghorn =>
    intro s k f hcur hframe
    refine ⟨exec_hang_frozen hcur hframe, exec_hang_pauses hcur hframe, fun hfrozen hruns => ?_⟩
    refine ⟨fun t => exec_hang_goesOn hcur hframe hfrozen hruns, fun hpause => ?_⟩
    intro limit
    rw [exec_hang_runs hcur hframe hfrozen hruns hpause]
    refine ⟨fun hpast hfree => ?_, fun x hpast hheld => ?_, fun hbefore => ?_⟩
    · rw [if_pos hpast, hfree]; rfl
    · rw [if_pos hpast, hheld]; rfl
    · rw [if_neg (Nat.not_le.mpr hbefore)]
  case time =>
    intro s hcur
    rw [exec_logbookTimeRecord hcur]
    exact ⟨fun hdue => by rw [if_pos hdue], fun hearly => by rw [if_neg (Nat.not_le.mpr hearly)]⟩

end Sys2Proof.Machine
end

section
/-!
PROOF. The debug commands of a context (R234, R317, R358, R360, R361, R363 to R366, R446): each is carried out when DBGCMD asks for it.
-/
namespace Sys2Proof.Machine

/-! ### Commands that are asked for (R366) -/

theorem dbgEvent_of_asks {s : State} {c : CtxId} {code : Nat} (hcur : s.cur = some (.ctx c)) (hasks : s.dbgAsks c code = true)
    (act : CtxId → State → State) : dbgEvent code act s = .next (act c s) := by
  simp only [dbgEvent, hcur, hasks, if_true]

theorem dbgEvent_of_not_asks {s : State} {c : CtxId} {code : Nat} (hcur : s.cur = some (.ctx c)) (hasks : s.dbgAsks c code = false)
    (act : CtxId → State → State) : dbgEvent code act s = .next s := by
  simp only [dbgEvent, hcur, hasks, Bool.false_eq_true, if_false]

/-! ### The log and its windows (R358, R360, R361) -/

/-- The log that LOG-ENABLE starts (R358). -/
def Context.newLog (x : Context) : UndoLog :=
  { on := true, base := x.dbgArg0.toNat / 4096 * 4096, units := bitsOf x.dbgArg1.toNat 0 9, stall := bitsOf x.dbgArg1.toNat 16 1 == 1 }

section Log
variable {s : State} {c : CtxId} (hcur : s.cur = some (.ctx c))
include hcur

theorem exec_logEnable (hasks : s.dbgAsks c 0x01 = true) {u : State} (hu : s.modUndo c (fun _ => (s.ctx c).newLog) = u) :
    exec .logEnable s = .next ((if bitsOf (s.ctx c).dbgArg1.toNat 0 9 = 0 then s
      else if s.idleRound c && (u.logHeld c 0).isNone then u.openWindow c (s.ctx c).round else u).dbgDone c 0) := by
  subst hu
  change execLogEnable s = _
  rw [execLogEnable, dbgEvent_of_asks hcur hasks]
  rfl

theorem exec_mark (hasks : s.dbgAsks c 0x03 = true) :
    exec .mark s = .next ((if (s.ctx c).undo.on then
        (s.modCtx c (fun x => { x with atClose := x.atClose ++ [(s.nextClose c, .wmark)] })).requestClose c 6 else s).dbgDone c 0) := by
  change execMark s = _
  rw [execMark, dbgEvent_of_asks hcur hasks]

theorem exec_drain (hasks : s.dbgAsks c 0x05 = true) :
    exec .drain s = .next ((s.logHeld c 0).elim
      (((s.modUndo c (fun l => Nat.repeat UndoLog.dropOldest (min (s.dbgArg c) ((s.ctx c).undo.windows.length - 1)) l)).freeEntries c
        (s.ctx c).undo.windows).dbgDone c 0) (s.waitOn c.part)) := by
  change execDrain s = _
  simp only [execDrain, dbgEvent_of_asks hcur hasks]
  cases s.logHeld c 0 <;> rfl

end Log

/-! ### REWIND (R344, R359, R363, R446) -/

/-- The records that a reversal of the window at `i` undoes: its own and those of every later window (R363). -/
def State.rewindRecords (s : State) (c : CtxId) (i : Nat) : List UndoRec :=
  (s.ctx c).undo.records.filter (fun r => ((s.ctx c).undo.windows.drop i).any (fun v => v.num == r.window))

/-- The window at `i` restored and these records undone, once the firings under way and the places written are waited for (R363). -/
def State.rewindUndo (s : State) (c : CtxId) (i : Nat) (w : UndoWindow) (recs : List UndoRec) : State :=
  if (s.firingWork c).isSome ∧ s.firingWork c ≠ (s.ctx c).voidSeen ∧ !(s.ctx c).frozen then
    s.modCtx c (fun y => { y with voidSeen := s.firingWork c })
  else (s.rewindWaits c recs).elim
    (((((recs.reverse.foldl (fun u r => u.undoOne c r) (s.voidRounds c (s.ctx c).round)).emptyWindows c i w).unlaunch c w).restoreWindow
      c w).dbgDone c 0) (s.waitOn c.part)

/-- What REWIND does with a window that the log holds: its refusals, or the reversal (R363). -/
def State.rewindTo (s : State) (c : CtxId) (i : Nat) (w : UndoWindow) : State :=
  if ((s.ctx c).undo.windows.drop i).any UndoWindow.sealed then s.dbgDone c 2
  else if w.truncated then s.dbgDone c 4
  else ((s.rewindRecords c i).findSome? (s.recordBad c)).elim (s.rewindUndo c i w (s.rewindRecords c i))
    (fun cause => (s.modCtx c (fun y => { y with report := some (cause, 0, 0) })).dbgDone c 7)

theorem Context.stands_eq_true {x : Context} (hstands : x.dbg = .stopped ∨ x.frozen = true) :
    (x.dbg == .stopped || x.frozen) = true := by
  simpa using hstands

section Rewind
variable {s : State} {c : CtxId} (hcur : s.cur = some (.ctx c)) (hasks : s.dbgAsks c 0x09 = true)
include hcur hasks

theorem exec_rewind_running (hdbg : (s.ctx c).dbg ≠ .stopped) (hthawed : (s.ctx c).frozen = false) :
    exec .rewind s = .next (s.dbgDone c 5) := by
  change execRewind s = _
  simp only [execRewind, dbgEvent_of_asks hcur hasks, beq_false_of_ne hdbg, hthawed, Bool.or_self, Bool.not_false, if_true]

variable (hstands : (s.ctx c).dbg = .stopped ∨ (s.ctx c).frozen = true)
include hstands

theorem exec_rewind_brks (hbrks : (s.ctx c).brks ≠ []) : exec .rewind s = .next (s.releaseBrks c) := by
  change execRewind s = _
  simp only [execRewind, dbgEvent_of_asks hcur hasks, Context.stands_eq_true hstands, List.isEmpty_eq_false_iff.mpr hbrks,
    Bool.not_true, Bool.not_false, Bool.false_eq_true, if_false, if_true]

variable (hbrks : (s.ctx c).brks = [])
include hbrks

theorem exec_rewind_firings (hopen : ∃ w ∈ (s.ctx c).released, s.brkOver c w = false) : exec .rewind s = .next s := by
  change execRewind s = _
  have hwaits : (s.ctx c).released.all (s.brkOver c) = false := List.all_eq_false.mpr (by simpa using hopen)
  simp only [execRewind, dbgEvent_of_asks hcur hasks, Context.stands_eq_true hstands, hbrks, hwaits, List.isEmpty_nil,
    Bool.not_true, Bool.not_false, Bool.false_eq_true, if_false, if_true]

theorem exec_rewind_window (hover : ∀ w ∈ (s.ctx c).released, s.brkOver c w = true) {i : Nat}
    (hi : (s.ctx c).undo.windows.findIdx (fun w => w.num == s.dbgArg c) = i) :
    exec .rewind s = .next ((s.ctx c).undo.windows[i]?.elim (s.dbgDone c 3) (s.rewindTo c i)) := by
  change execRewind s = _
  simp only [execRewind, dbgEvent_of_asks hcur hasks, Context.stands_eq_true hstands, hbrks, List.all_eq_true.mpr hover, hi,
    List.isEmpty_nil, Bool.not_true, Bool.false_eq_true, if_false]
  cases (s.ctx c).undo.windows[i]? with
  | none => rfl
  | some w =>
    simp only [Option.elim_some, State.rewindTo, State.rewindUndo, State.rewindRecords]
    cases ((s.ctx c).undo.records.filter _).findSome? (s.recordBad c) <;>
      cases s.rewindWaits c ((s.ctx c).undo.records.filter _) <;> rfl

end Rewind

section Reversal
variable {s : State} {c : CtxId} {i : Nat} {w : UndoWindow}

theorem rewindTo_sealed (hsealed : ((s.ctx c).undo.windows.drop i).any UndoWindow.sealed = true) : s.rewindTo c i w = s.dbgDone c 2 := by
  rw [State.rewindTo, if_pos hsealed]

variable (hopen : ((s.ctx c).undo.windows.drop i).any UndoWindow.sealed = false)
include hopen

theorem rewindTo_truncated (hcut : w.truncated = true) : s.rewindTo c i w = s.dbgDone c 4 := by
  rw [State.rewindTo, if_neg (ne_true_of_eq_false hopen), if_pos hcut]

variable (hwhole : w.truncated = false)
include hwhole

theorem rewindTo_whole {recs : List UndoRec} (hrecs : s.rewindRecords c i = recs) :
    s.rewindTo c i w = (recs.findSome? (s.recordBad c)).elim (s.rewindUndo c i w recs)
      (fun cause => (s.modCtx c (fun y => { y with report := some (cause, 0, 0) })).dbgDone c 7) := by
  rw [State.rewindTo, if_neg (ne_true_of_eq_false hopen), if_neg (ne_true_of_eq_false hwhole), hrecs]

end Reversal

section Undo
variable {s : State} {c : CtxId} {i : Nat} {w : UndoWindow} {recs : List UndoRec}

theorem rewindUndo_firing (hwork : (s.firingWork c).isSome = true) (hnew : s.firingWork c ≠ (s.ctx c).voidSeen)
    (hthawed : (s.ctx c).frozen = false) : s.rewindUndo c i w recs = s.modCtx c (fun y => { y with voidSeen := s.firingWork c }) := by
  rw [State.rewindUndo, if_pos ⟨hwork, hnew, by rw [hthawed]; rfl⟩]

theorem rewindUndo_quiet (hquiet : (s.firingWork c).isSome = false ∨ s.firingWork c = (s.ctx c).voidSeen ∨ (s.ctx c).frozen = true) :
    s.rewindUndo c i w recs = (s.rewindWaits c recs).elim
      (((((recs.reverse.foldl (fun u r => u.undoOne c r) (s.voidRounds c (s.ctx c).round)).emptyWindows c i w).unlaunch c w).restoreWindow
        c w).dbgDone c 0) (s.waitOn c.part) := by
  have hnone : ¬((s.firingWork c).isSome = true ∧ s.firingWork c ≠ (s.ctx c).voidSeen ∧ (!(s.ctx c).frozen) = true) := by
    rintro ⟨hwork, hnew, hthawed⟩
    obtain hidle | hseen | hfrozen := hquiet
    · exact absurd hwork (ne_true_of_eq_false hidle)
    · exact hnew hseen
    · simp [hfrozen] at hthawed
  rw [State.rewindUndo, if_neg hnone]

end Undo

/-! ### Steps (R308, R319, R364, R365) -/

section Steps
variable {s : State} {c : CtxId} (hcur : s.cur = some (.ctx c))
include hcur

theorem exec_stepRounds_running (hasks : s.dbgAsks c 0x0A = true) (hruns : (s.ctx c).dbg ≠ .stopped ∨ (s.ctx c).frozen = true) :
    exec .stepRounds s = .next (s.dbgDone c 5) := by
  change execStepRounds s = _
  simp only [execStepRounds, dbgEvent_of_asks hcur hasks, if_pos hruns]

theorem exec_stepRounds_stopped (hasks : s.dbgAsks c 0x0A = true) (hstill : (s.ctx c).dbg = .stopped) (hthawed : (s.ctx c).frozen = false)
    (hleft : (s.ctx c).stepsLeft = none) :
    exec .stepRounds s = .next (if s.dbgArg c = 0 then s.dbgDone c 0 else
      let u := (s.releaseBrks c).modCtx c (fun y => { y with
        dbg := .stepping
        stepsLeft := some (s.dbgArg c)
        steps := s.dbgArg c
        free := !s.dev.choices.any (fun z => z.ctx == some c && z.round == (s.ctx c).round) })
      (if (s.ctx c).round < (s.ctx c).removed then u else u.requestClose c 6).debugIrq c) := by
  change execStepRounds s = _
  simp only [execStepRounds, dbgEvent_of_asks hcur hasks, hstill, hthawed, hleft, ne_eq, not_true_eq_false, Bool.false_eq_true, or_self,
    if_false, Option.isSome_none]

variable (hasks : s.dbgAsks c 0x0B = true) (hfree : (s.ctx c).stepParty = none)
include hasks hfree

theorem exec_stepFiring_running (hruns : (s.ctx c).dbg ≠ .stopped ∨ (s.ctx c).frozen = true) :
    exec .stepFiring s = .next (s.dbgDone c 5) := by
  change execStepFiring s = _
  simp only [execStepFiring, dbgEvent_of_asks hcur hasks, hfree, if_pos hruns, Option.isSome_none, Bool.false_eq_true, if_false]

theorem exec_stepFiring_stopped (hstill : (s.ctx c).dbg = .stopped) (hthawed : (s.ctx c).frozen = false) {w : Word}
    (hw : State.partyWord ((s.ctx c).dbgArg0.setWidth 32) = w) :
    exec .stepFiring s = .next (if w ≠ 0 ∧ s.steppable c w = false then s.dbgDone c 6 else
      ((s.releaseBrks c).modCtx c (fun y => { y with dbg := .stepping, stepParty := some w, stepOnly := false, free := false })).debugIrq c) := by
  change execStepFiring s = _
  simp only [execStepFiring, dbgEvent_of_asks hcur hasks, hfree, hstill, hthawed, hw, Option.isSome_none, ne_eq, not_true_eq_false,
    Bool.false_eq_true, or_self, if_false, Bool.not_eq_true']

end Steps

/-! ### The obligation -/

/-- Settles O37: a command's turn carries out what DBGCMD asks for, case by case of its context. -/
theorem debugCommandsAct : Obligations.DebugCommandsAct := by
  unfold Obligations.DebugCommandsAct
  intro s c hcur x a n
  refine ⟨fun hidle => ?idle, fun hasks => ?enable, fun hasks => ?disable, fun hasks => ?mark, fun hasks => ?markEvery,
    fun hasks => ?drain, fun hasks => ?breakEnable, fun hasks => ?stop, fun hasks => ?resume, fun hasks => ?rewind, fun hasks => ?rounds,
    fun hasks hfree => ?firing, fun hasks => ?mask⟩
  case idle =>
    change execLogEnable s = _
    rw [execLogEnable, dbgEvent_of_not_asks hcur hidle]
  case enable =>
    intro l u
    rw [exec_logEnable hcur hasks (u := u) rfl]
    refine ⟨fun hnone => ?_, fun hsome hidle hwritable => ?_, fun hsome hwaits => ?_⟩
    · rw [if_pos hnone]
    · have hopens : (s.idleRound c && (u.logHeld c 0).isNone) = true := by rw [hidle, hwritable]; rfl
      rw [if_neg hsome, if_pos hopens]
    · have hstays : ¬(s.idleRound c && (u.logHeld c 0).isNone) = true := by
        obtain hbusy | hheld := hwaits
        · simp [hbusy]
        · simp [Option.isSome_iff_ne_none.mp hheld]
      rw [if_neg hsome, if_neg hstays]
  case disable =>
    change execLogDisable s = _
    rw [execLogDisable, dbgEvent_of_asks hcur hasks]
  case mark =>
    rw [exec_mark hcur hasks]
    exact ⟨fun hoff => by rw [if_neg (ne_true_of_eq_false hoff)], fun hon => by rw [if_pos hon]⟩
  case markEvery =>
    change execMarkEvery s = _
    rw [execMarkEvery, dbgEvent_of_asks hcur hasks]
  case drain =>
    rw [exec_drain hcur hasks]
    exact ⟨fun hfree => by rw [hfree]; rfl, fun f hheld => by rw [hheld]; rfl⟩
  case breakEnable =>
    change execBreakEnable s = _
    rw [execBreakEnable, dbgEvent_of_asks hcur hasks]
  case stop =>
    change execStop s = _
    rw [execStop, dbgEvent_of_asks hcur hasks]
  case resume =>
    intro u
    change execResume s = _
    rw [execResume, dbgEvent_of_asks hcur hasks]
  case rewind =>
    refine ⟨exec_rewind_running hcur hasks, exec_rewind_brks hcur hasks, exec_rewind_firings hcur hasks, fun hstands hbrks hover => ?_⟩
    intro i
    rw [exec_rewind_window hcur hasks hstands hbrks hover rfl]
    refine ⟨fun hnone => by rw [hnone]; rfl, fun w hw => ?_⟩
    rw [hw, Option.elim_some]
    intro later recs
    refine ⟨fun hsealed => by rw [rewindTo_sealed hsealed], fun hopen hcut => by rw [rewindTo_truncated hopen hcut],
      fun hopen hwhole => ?_⟩
    rw [rewindTo_whole hopen hwhole (recs := recs) rfl]
    refine ⟨fun cause hbad => by rw [hbad]; rfl, fun hgood hwork hnew hthawed => ?_, fun f hgood hquiet hheld => ?_,
      fun hgood hquiet hfree => ?_⟩
    · rw [hgood, Option.elim_none, rewindUndo_firing hwork hnew hthawed]
    · rw [hgood, Option.elim_none, rewindUndo_quiet hquiet, hheld]; rfl
    · rw [hgood, Option.elim_none, rewindUndo_quiet hquiet, hfree]; rfl
  case rounds =>
    refine ⟨exec_stepRounds_running hcur hasks, fun hstill hthawed hleft => ?_⟩
    rw [exec_stepRounds_stopped hcur hasks hstill hthawed hleft]
    exact ⟨fun hzero => by rw [if_pos hzero], fun hsome => by rw [if_neg hsome]⟩
  case firing =>
    intro w
    refine ⟨exec_stepFiring_running hcur hasks hfree, fun hstill hthawed => ?_⟩
    rw [exec_stepFiring_stopped hcur hasks hfree hstill hthawed rfl]
    refine ⟨fun hnamed hunknown => by rw [if_pos ⟨hnamed, hunknown⟩], fun hknown => ?_⟩
    rw [if_neg (by rintro ⟨hnamed, hunknown⟩; exact hknown.elim hnamed (ne_true_of_eq_false hunknown ·))]
  case mask =>
    intro w rest
    change execMask s = _
    rw [execMask, dbgEvent_of_asks hcur hasks]

end Sys2Proof.Machine
end

section
/-!
PROOF. The values after reset (R254, R292, R348, R368, R392, R398, R411, R437, R441).
-/
namespace Sys2Proof.Machine

/-- No granule is granted at reset (R292). -/
theorem reset_granule (g : Nat) : State.reset.granule g = 0 := rfl

/-- Settles O52: the tables of reset evaluate to the stated values, and every granule reads 0. -/
theorem resetState : Obligations.ResetState := by
  unfold Obligations.ResetState
  refine ⟨⟨rfl, rfl, rfl, rfl, rfl, rfl, rfl, fun _ => List.eq_of_mem_replicate, reset_granule, by decide, rfl, rfl, rfl, rfl, rfl, rfl,
    rfl, rfl⟩, fun c => ⟨rfl, rfl, rfl, rfl, rfl, rfl, rfl⟩, fun r => ⟨rfl, rfl, rfl, rfl⟩, fun n => ⟨rfl, rfl, rfl, rfl⟩⟩

end Sys2Proof.Machine
end

section
/-!
PROOF. Register writes, and the registers with an effect of their own (R323, R368, R424, R427 to R429).
-/
namespace Sys2Proof.Machine

/-! ### Register values (R427, R429) -/

/-- A field of a value's low word is the value's own. -/
theorem bitsOf_setWidth {v : DWord} {lo n : Nat} (h : lo + n ≤ 32) : bitsOf (v.setWidth 32).toNat lo n = bitsOf v.toNat lo n := by
  have hdvd : 2 ^ lo * 2 ^ n ∣ 2 ^ 32 := Nat.pow_add 2 lo n ▸ Nat.pow_dvd_pow 2 h
  rw [bitsOf, bitsOf, BitVec.toNat_setWidth, ← Nat.mod_mul_right_div_self, ← Nat.mod_mul_right_div_self, Nat.mod_mod_of_dvd _ hdvd]

theorem State.ctx_modCtx_same {s : State} {c : CtxId} {f : Context → Context} (hf : ∀ x, (f x).id = x.id) :
    (s.modCtx c f).ctx c = f (s.ctx c) := by
  cases h : s.ctxs.find? (fun x => x.id == c) with
  | none => simp [State.ctx, State.ctx?, State.modCtx, find?_update_none h, h, hf]
  | some x =>
    have hx : (f x).id = c := (hf x).trans (by simpa using List.find?_some h)
    simp [State.ctx, State.ctx?, State.modCtx, find?_update_same h (f := f) (by simp [hx]), h]

/-- A context whose record has been taken away reads as one never created (R428). -/
theorem State.ctx_filter_ne (s : State) (c : CtxId) : State.ctx { s with ctxs := s.ctxs.filter (fun x => x.id != c) } c = { id := c } := by
  have hnone : (s.ctxs.filter (fun x => x.id != c)).find? (fun x => x.id == c) = none := by simp
  simp only [State.ctx, State.ctx?, hnone, Option.getD_none]

theorem regWrite_cweight (s : State) (c : CtxId) (v : DWord) : ((s.regWrite (.cweight c) v).ctx c).weight = max 1 (bitsOf v.toNat 0 8) := by
  rw [State.regWrite, State.ctx_modCtx_same (by exact fun _ => rfl), bitsOf_setWidth (by decide)]

theorem regWrite_plimit (s : State) (v : DWord) : (s.regWrite .plimit v).dev.plimit =
    (if 200 ≤ bitsOf v.toNat 0 9 ∧ bitsOf v.toNat 0 9 ≤ 480 then bitsOf v.toNat 0 9 else s.dev.plimit) := by
  rw [State.regWrite, bitsOf_setWidth (by decide)]
  split <;> rfl

theorem exec_registerWrite {s : State} {o size : Nat} {v : DWord} (hcur : s.cur = some (.regWrite o size v)) :
    exec .registerWrite s = .next ((regAt o).elim s (fun r => if r.size = size then s.regWrite r v else s)) := by
  change execRegisterWrite s = _
  simp only [execRegisterWrite, hcur]
  cases regAt o <;> rfl

/-! ### The Logbook's register (R368) -/

/-- The state with LBCTL written: the enables as given, FROZEN kept where it is set and written 1. -/
def State.withLbctl (s : State) (w : Word) : State :=
  { s with dev := { s.dev with lbCtl := (w &&& 0xB8000000#32) ||| (s.dev.lbCtl &&& w &&& 0x40000000#32) } }

theorem exec_lbctlWrite {s : State} {o size : Nat} {v : DWord} (hcur : s.cur = some (.regWrite o size v)) :
    exec .lbctlWrite s = .next (if s.dev.lbCtl.getLsbD 30 = true ∧ (v.setWidth 32 : Word).getLsbD 30 = false then
      (s.withLbctl (v.setWidth 32)).logTime else s.withLbctl (v.setWidth 32)) := by
  change execLbctlWrite s = _
  simp only [execLbctlWrite, hcur, State.withLbctl, Bool.not_eq_true']

/-! ### Contexts (R428) -/

section Contexts
variable {s : State} {c : CtxId} (hcur : s.cur = some (.ctx c))
include hcur

theorem exec_contextCreate : exec .contextCreate s = .next (
    if (s.ctx c).exist = true ∨ Config.contextsPerGuest ≤ c.num ∨ (s.part c.part).exist = false then s
    else State.modCtx { s with ctxs := s.ctxs.filter (fun x => x.id != c) } c (fun x => { x with exist := true, commitAt := s.cycle })) := by
  change execContextCreate s = _
  simp only [execContextCreate, hcur, Bool.not_eq_true']

theorem exec_contextDestroy : exec .contextDestroy s = .next (if (s.ctx c).exist then s.dropContext c else s) := by
  change execContextDestroy s = _
  simp only [execContextDestroy, hcur]

end Contexts

/-! ### The obligation -/

/-- Settles O34: a write follows the register at its offset, and each register's own event is its stated effect. -/
theorem registerWritesTakeEffect : Obligations.RegisterWritesTakeEffect := by
  unfold Obligations.RegisterWritesTakeEffect
  refine ⟨fun s o size v hcur => ?write, fun s o size v hcur => ?lbctl, fun s g n hcur => ?qdirty, fun s c hcur => ?context,
    fun s c v hcur => ?s1root, fun s p v hcur => ?s2root⟩
  case write =>
    rw [exec_registerWrite hcur]
    refine ⟨fun r hr hsize => ⟨?_, ?_, ?_⟩, fun r hr hsize => ?_, fun hr => ?_⟩
    · rw [hr, Option.elim_some, if_pos hsize]
    · rintro c rfl
      exact regWrite_cweight s c v
    · rintro rfl
      exact regWrite_plimit s v
    · rw [hr, Option.elim_some, if_neg hsize]
    · rw [hr, Option.elim_none]
  case lbctl =>
    rw [exec_lbctlWrite hcur]
    refine ⟨fun hstarts => by rw [if_pos hstarts]; rfl, fun hstays => ?_⟩
    have hkeeps : ¬(s.dev.lbCtl.getLsbD 30 = true ∧ (v.setWidth 32 : Word).getLsbD 30 = false) := by
      rintro ⟨hfrozen, hclear⟩
      exact hstays.elim (ne_false_of_eq_true hfrozen) (ne_true_of_eq_false hclear)
    rw [if_neg hkeeps]
    rfl
  case qdirty =>
    change execQdirtyClear s = _
    simp only [execQdirtyClear, hcur]
  case context =>
    rw [exec_contextCreate hcur, exec_contextDestroy hcur]
    refine ⟨fun hexist => ⟨by rw [if_pos (.inl hexist)], by rw [if_pos hexist]⟩, fun hnew hnum hpart => ⟨?_, ?_⟩, fun hnew hno => ?_,
      fun hnew => ?_⟩
    · rw [if_neg (by simp [hnew, hpart, hnum])]
    · rw [State.ctx_modCtx_same (by exact fun _ => rfl), State.ctx_filter_ne]
    · rw [if_pos (.inr hno)]
    · rw [if_neg (ne_true_of_eq_false hnew)]
  case s1root =>
    change execS1rootWrite s = _
    simp only [execS1rootWrite, hcur]
  case s2root =>
    change execS2rootWrite s = _
    simp only [execS2rootWrite, hcur]

end Sys2Proof.Machine
end

section
/-!
PROOF. The commands of a guest: granules assigned and released, graphs made resident and released (R292, R408, R439).
-/
namespace Sys2Proof.Machine

section Guest
variable {s : State} {g : GuestId} (hcur : s.cur = some (.guest g))
include hcur

/-! ### Granules (R292, R439) -/

section Granule
variable {v i e : Nat} (hv : (s.guest g).gnCmd.toNat = v) (hi : bitsOf v 52 12 = i) (he : s.granule i = e)
include hv hi he

theorem exec_granuleAssign : exec .granuleAssign s = .next (
    if (s.guest g).gnStat.getLsbD 31 = false ∨ bitsOf v 49 1 = 1 then s
    else if bitsOf e 31 1 = 0 ∨ bitsOf e 28 3 ≠ g.part ∨ (bitsOf e 23 1 = 1 ∧ bitsOf e 24 2 ≠ g.slot) then s.gncmdDone g 0x2E
    else (s.setGranule i (2 ^ 31 + g.part * 2 ^ 28 + bitsOf v 50 2 * 2 ^ 26 + g.slot * 2 ^ 24 + 2 ^ 23 + bitsOf v 0 16)).gncmdDone g 0) := by
  change execGranuleAssign s = _
  simp only [execGranuleAssign, hcur, hv, hi, he, Bool.or_eq_true, Bool.not_eq_true', beq_iff_eq]

theorem exec_granuleRelease : exec .granuleRelease s = .next (
    if (s.guest g).gnStat.getLsbD 31 = false ∨ bitsOf v 49 1 = 0 then s
    else if bitsOf e 31 1 = 0 ∨ bitsOf e 28 3 ≠ g.part ∨ bitsOf e 23 1 = 0 ∨ bitsOf e 24 2 ≠ g.slot then s.gncmdDone g 0x2E
    else if s.granuleBusy i then s
    else ((s.zeroGranule i).setGranule i (e / 2 ^ 28 * 2 ^ 28)).gncmdDone g 0) := by
  change execGranuleRelease s = _
  simp only [execGranuleRelease, hcur, hv, hi, he, Bool.or_eq_true, Bool.not_eq_true', beq_iff_eq]

end Granule

/-! ### Residency (R408) -/

theorem exec_reside_none (hnone : s.residency? g 1 = none) : exec .reside s = .next s := by
  change execReside s = _
  simp only [execReside, hcur, hnone]

theorem exec_release_none (hnone : s.residency? g 2 = none) : exec .release s = .next s := by
  change execRelease s = _
  simp only [execRelease, hcur, hnone]

section Command
variable {op : Nat} {i : Instr} {c : CtxId} {x out : DWord} (hasks : s.residency? g op = some (c, x, out))
include hasks

/-- A full matching store holds both commands back. -/
theorem exec_residency_full (hop : (op, i) ∈ [(1, Instr.reside), (2, Instr.release)]) (hfull : s.storeFull = true) : exec i s = .next s := by
  simp only [List.mem_cons, Prod.mk.injEq, List.not_mem_nil, or_false] at hop
  obtain ⟨rfl, rfl⟩ | ⟨rfl, rfl⟩ := hop
  · change execReside s = _
    simp only [execReside, hcur, hasks, hfull, if_true]
  · change execRelease s = _
    simp only [execRelease, hcur, hasks, hfull, if_true]

/-- Both commands complete without effect for a context that does not exist (R428). -/
theorem exec_residency_no_context (hop : (op, i) ∈ [(1, Instr.reside), (2, Instr.release)]) (hroom : s.storeFull = false)
    (hno : s.ctx? c = none ∨ (s.ctx c).exist = false) : exec i s = .next (s.residencyDone g) := by
  simp only [List.mem_cons, Prod.mk.injEq, List.not_mem_nil, or_false] at hop
  cases hc : s.ctx? c with
  | none =>
    obtain ⟨rfl, rfl⟩ | ⟨rfl, rfl⟩ := hop
    · change execReside s = _
      simp only [execReside, hcur, hasks, hroom, hc, Bool.false_eq_true, if_false, if_true]
    · change execRelease s = _
      simp only [execRelease, hcur, hasks, hroom, hc, Bool.false_eq_true, if_false]
  | some y =>
    have hgone : y.exist = false := by simpa [hc, State.ctx] using hno
    obtain ⟨rfl, rfl⟩ | ⟨rfl, rfl⟩ := hop
    · change execReside s = _
      simp only [execReside, hcur, hasks, hroom, hc, hgone, Bool.false_eq_true, if_false, if_true]
    · change execRelease s = _
      simp only [execRelease, hcur, hasks, hroom, hc, hgone, Bool.false_eq_true, if_false]

end Command

section Exists
variable {c : CtxId} {x out : DWord} {y : Context} (hctx : s.ctx? c = some y) (hexist : y.exist = true) (hroom : s.storeFull = false)
include hctx hexist hroom

theorem exec_reside (hasks : s.residency? g 1 = some (c, x, out)) {done : Bool} {t : State}
    (ht : s.reside c (x.toNat / 0x8000 * 0x8000) out.toNat = (done, t)) :
    exec .reside s = .next (if done then t.residencyDone g else t) := by
  change execReside s = _
  simp only [execReside, hcur, hasks, hroom, hctx, hexist, ht, Bool.false_eq_true, if_false, if_true]

theorem exec_release (hasks : s.residency? g 2 = some (c, x, out)) : exec .release s =
    .next (((s.modGraph g.part (x.setWidth 32) (fun y => { y with released := true })).dropReleased g.part).residencyDone g) := by
  change execRelease s = _
  simp only [execRelease, hcur, hasks, hroom, hctx, hexist, Bool.false_eq_true, if_false, if_true]

end Exists

end Guest

/-! ### The obligation -/

/-- Settles O36: GNCMD's operation and the granule's entry decide what a granule command does, and the head of the residency queue what
RESIDE and RELEASE do. -/
theorem guestCommandsAreServed : Obligations.GuestCommandsAreServed := by
  unfold Obligations.GuestCommandsAreServed
  intro s g hcur x v i e
  refine ⟨fun hbusy hassign => ?assign, fun hbusy hrelease => ?release, fun hidle => ?idle, fun c va out y hasks hctx hexist hroom => ?reside,
    fun c gid out y hasks hctx hexist hroom => exec_release hcur hctx hexist hroom hasks, fun op i hop c x out hasks =>
      ⟨exec_residency_full hcur hasks hop, exec_residency_no_context hcur hasks hop⟩, exec_reside_none hcur, exec_release_none hcur⟩
  case assign =>
    have hserved : ¬((s.guest g).gnStat.getLsbD 31 = false ∨ bitsOf v 49 1 = 1) := by
      rintro (hidle | hother)
      · exact ne_true_of_eq_false hidle hbusy
      · omega
    rw [exec_granuleAssign hcur (v := v) (i := i) (e := e) rfl rfl rfl, if_neg hserved]
    refine ⟨fun hbad => by rw [if_pos hbad], fun hgood => by rw [if_neg hgood], ?_⟩
    rw [exec_granuleRelease hcur (v := v) (i := i) (e := e) rfl rfl rfl, if_pos (.inr hassign)]
  case release =>
    have hserved : ¬((s.guest g).gnStat.getLsbD 31 = false ∨ bitsOf v 49 1 = 0) := by
      rintro (hidle | hother)
      · exact ne_true_of_eq_false hidle hbusy
      · omega
    rw [exec_granuleRelease hcur (v := v) (i := i) (e := e) rfl rfl rfl, if_neg hserved]
    refine ⟨fun hbad => by rw [if_pos hbad], fun hgood hwaits => ?_, fun hgood hfree => ?_, ?_⟩
    · rw [if_neg hgood, if_pos hwaits]
    · rw [if_neg hgood, if_neg (ne_true_of_eq_false hfree)]
    · rw [exec_granuleAssign hcur (v := v) (i := i) (e := e) rfl rfl rfl, if_pos (.inr hrelease)]
  case idle =>
    rw [exec_granuleAssign hcur rfl rfl rfl, exec_granuleRelease hcur rfl rfl rfl, if_pos (.inl hidle), if_pos (.inl hidle)]
    exact ⟨rfl, rfl⟩
  case reside =>
    exact ⟨fun t ht => exec_reside hcur hctx hexist hroom hasks ht, fun t ht => exec_reside hcur hctx hexist hroom hasks ht⟩

end Sys2Proof.Machine
end

section
/-!
PROOF. The Ethernet ports: the transmit ring, the inbox and the receive ring, the gates (R302, R362, R434, R435).
-/
namespace Sys2Proof.Machine

/-! ### Frames that arrive (R435) -/

/-- A port with a frame that has arrived: an assigned one keeps it. -/
def EthPort.keep (data : List Byte) (x : EthPort) : EthPort := if x.part.isSome then { x with inbox := x.inbox ++ [data] } else x

section Arrival
variable {s : State} {n : Nat} {data : List Byte} (hcur : s.cur = some (.bytes n data))
include hcur

theorem exec_ethernetReceive_sync {v : BitVec 64} (hport : n = s.timePort) (hsync : Config.syncFrame data = some v) :
    exec .ethernetReceive s = .next (State.modPort { s with time := v } n (EthPort.keep data)) := by
  change execEthernetReceive s = _
  simp only [execEthernetReceive, hcur, if_pos hport, hsync]
  rfl

theorem exec_ethernetReceive_other (hother : n ≠ s.timePort ∨ Config.syncFrame data = none) :
    exec .ethernetReceive s = .next (s.modPort n (EthPort.keep data)) := by
  have hnone : (if n = s.timePort then Config.syncFrame data else none) = none := by
    obtain hport | hsync := hother
    · rw [if_neg hport]
    · rw [hsync, ite_self]
  change execEthernetReceive s = _
  simp only [execEthernetReceive, hcur, hnone]
  rfl

end Arrival

section Port
variable {s : State} {n : Nat} (hcur : s.cur = some (.unit n))
include hcur

theorem exec_port_absent (hnone : s.port? n = none) :
    exec .ethernetTransmit s = .next s ∧ exec .ethernetReceive s = .next s ∧ exec .gateControlInterval s = .next s := by
  change execEthernetTransmit s = _ ∧ execEthernetReceive s = _ ∧ execGateControlInterval s = _
  simp only [execEthernetTransmit, execEthernetReceive, execGateControlInterval, hcur, hnone, and_self]

variable {p : EthPort} (hport : s.port? n = some p)
include hport

theorem exec_port_unassigned (hnone : p.part = none) : exec .ethernetTransmit s = .next s ∧ exec .ethernetReceive s = .next s := by
  change execEthernetTransmit s = _ ∧ execEthernetReceive s = _
  simp only [execEthernetTransmit, execEthernetReceive, hcur, hport, hnone, and_self]

/-! ### Gates (R435) -/

theorem exec_gateControlInterval_list (hend : p.gates[p.pos]? = none) :
    exec .gateControlInterval s = .next (State.modPort { s with free := s.free + 1 } n (fun x =>
      { x with gates := (Config.gateList n s.free).2.take 256, gateAt := (Config.gateList n s.free).1, pos := 0 })) := by
  change execGateControlInterval s = _
  simp only [execGateControlInterval, hcur, hport, hend]

theorem exec_gateControlInterval_entry {m : BitVec 8} {ns : BitVec 24} (hentry : p.gates[p.pos]? = some (m, ns)) :
    exec .gateControlInterval s = .next (if s.time.toNat < p.gateAt.toNat then s else s.modPort n (fun x =>
      { x with mask := m, pos := (x.pos + 1) % x.gates.length, gateAt := x.gateAt + ns.setWidth 64 })) := by
  change execGateControlInterval s = _
  simp only [execGateControlInterval, hcur, hport, hentry]

variable {part : Nat} (hpart : p.part = some part)
include hpart

/-! ### The transmit ring (R302, R362, R434) -/

/-- The port with a descriptor's committed bytes sent, and the window of the context that it names sealed at the next commit (R362). -/
def State.transmit (s : State) (n : Nat) (d : EthDesc) : State :=
  let t := s.modPort n (fun x => { x with tx := x.tx.erase d, sent := x.sent ++ [s.readPages d.addr d.len] })
  d.ctx.elim t (fun c => t.modCtx c (fun x => { x with atClose := x.atClose ++ [(x.round, .engineSeal)] }))

theorem exec_ethernetTransmit_desc {d : EthDesc} (hd : p.tx.find? (fun d => p.mask.getLsbD (d.cls % 8)) = some d) :
    exec .ethernetTransmit s = .next (
      if (State.pieces d.addr d.len).any (fun x => s.addressBad part s.nextId false x.1) = true then
        s.modPort n (fun x => { x with tx := x.tx.erase d })
      else if s.dmaWaits part d.addr d.len false then s
      else s.transmit n d) := by
  change execEthernetTransmit s = _
  simp only [execEthernetTransmit, hcur, hport, hpart, hd, State.transmit]
  cases d.ctx <;> rfl

theorem exec_ethernetTransmit_fetch (hnone : p.tx.find? (fun d => p.mask.getLsbD (d.cls % 8)) = none) :
    exec .ethernetTransmit s = .next ((s.etherFetch n part false p.txNext).elim s (fun d =>
      s.modPort n (fun x => { x with tx := x.tx ++ [d], txNext := x.txNext + 1 }))) := by
  change execEthernetTransmit s = _
  simp only [execEthernetTransmit, hcur, hport, hpart, hnone]
  cases s.etherFetch n part false p.txNext <;> rfl

/-! ### The inbox and the receive ring (R74, R302, R434) -/

theorem exec_ethernetReceive_stores : exec .ethernetReceive s = .next (s.etherStore n p part) := by
  change execEthernetReceive s = _
  simp only [execEthernetReceive, hcur, hport, hpart]

end Port

section Store
variable {s : State} {n part : Nat} {p : EthPort}

theorem etherStore_nothing (hinbox : p.inbox = []) : s.etherStore n p part = s := by
  simp only [State.etherStore, hinbox]

variable {data : List Byte} {more : List (List Byte)} (hinbox : p.inbox = data :: more)
include hinbox

theorem etherStore_fetch {d : EthDesc} (hrx : p.rx = []) (hd : s.etherFetch n part true p.rxNext = some d) :
    s.etherStore n p part = s.modPort n (fun x => { x with rx := [d], rxNext := x.rxNext + 1 }) := by
  simp only [State.etherStore, hinbox, hrx, hd]

theorem etherStore_no_desc (hrx : p.rx = []) (hnone : s.etherFetch n part true p.rxNext = none) : s.etherStore n p part =
    if s.dmaWaits part (Config.etherRing n true p.rxNext) 64 false then s else s.modPort n (fun x => { x with inbox := more }) := by
  simp only [State.etherStore, hinbox, hrx, hnone]

theorem etherStore_desc {d : EthDesc} {rest : List EthDesc} (hrx : p.rx = d :: rest) : s.etherStore n p part =
    if d.len < data.length ∨
        (State.pieces d.addr data.length).any (fun x => s.addressBad part s.nextId false x.1 || s.imageAt .dram x.1) = true then
      s.modPort n (fun x => { x with inbox := more })
    else if s.dmaWaits part d.addr data.length true then
      ((State.pieces d.addr data.length).filter (fun x => s.replicaAt part .dram x.1)).foldl
        (fun t x => t.startCollapse part (s.frameOf .dram x.1)) s
    else (s.modPort n (fun x => { x with inbox := more, rx := rest })).writePages d.addr data := by
  simp only [State.etherStore, hinbox, hrx]

end Store

/-! ### The obligation -/

/-- Settles O39: a port's turn follows its descriptors, its inbox and its gate list. -/
theorem ethernetPortsAct : Obligations.EthernetPortsAct := by
  unfold Obligations.EthernetPortsAct
  refine ⟨fun s n hcur =>
      ⟨exec_port_absent hcur, fun p hport => ⟨exec_port_unassigned hcur hport, fun part hpart => ?assigned, ?list, ?entry⟩⟩,
    fun s n data hcur => ⟨fun v => exec_ethernetReceive_sync hcur, exec_ethernetReceive_other hcur⟩⟩
  case assigned =>
    refine ⟨fun d hd => ?send, fun hnone => ?fetch, fun hinbox => ?_, fun data more hinbox => ?store⟩
    case send =>
      intro off
      rw [exec_ethernetTransmit_desc hcur hport hpart hd]
      refine ⟨fun hoff => by rw [if_pos hoff], fun hin hwaits => by rw [if_neg hin, if_pos hwaits], fun hin hfree => ?_⟩
      rw [if_neg hin, if_neg (ne_true_of_eq_false hfree), State.transmit]
      exact ⟨fun hctx => by rw [hctx]; rfl, fun c hctx => by rw [hctx]; rfl⟩
    case fetch =>
      rw [exec_ethernetTransmit_fetch hcur hport hpart hnone]
      exact ⟨fun hd => by rw [hd]; rfl, fun d hd => by rw [hd]; rfl⟩
    · rw [exec_ethernetReceive_stores hcur hport hpart, etherStore_nothing hinbox]
    case store =>
      intro dropped
      rw [exec_ethernetReceive_stores hcur hport hpart]
      refine ⟨fun hrx => ?_, fun d rest hrx => ?_⟩
      · refine ⟨fun d hd => congrArg _ (etherStore_fetch hinbox hrx hd), fun hnone => ?_⟩
        rw [etherStore_no_desc hinbox hrx hnone]
        exact ⟨fun hwaits => by rw [if_pos hwaits], fun hfree => by rw [if_neg (ne_true_of_eq_false hfree)]⟩
      · intro bad
        rw [etherStore_desc hinbox hrx]
        refine ⟨fun hbad => by rw [if_pos hbad], fun hgood hfree => ?_, fun hgood hwaits => by rw [if_neg hgood, if_pos hwaits]⟩
        rw [if_neg hgood, if_neg (ne_true_of_eq_false hfree)]
  case list => exact exec_gateControlInterval_list hcur hport
  case entry =>
    intro m ns hentry
    rw [exec_gateControlInterval_entry hcur hport hentry]
    exact ⟨fun hearly => by rw [if_pos hearly], fun hdue => by rw [if_neg (Nat.not_lt.mpr hdue)]⟩

end Sys2Proof.Machine
end

section
/-!
PROOF. In-field test, retirement and repair of regions, duplicated and missing frames (R228, R255, R338, R340, R394 to R396, R426, R440).
-/
namespace Sys2Proof.Machine

/-! ### TEST (R228, R394) -/

/-- The regions that a TEST selects. -/
def Msg.testRegions (m : Msg) : List Nat := ((List.range 4).filter (fun i => bitsOf (m.op 0) i 1 == 1)).map (fun i => 4 * (m.region / 4) + i)

/-- The scan of a TEST begun, its regions held. -/
def State.startScan (s : State) (m : Msg) : State :=
  ({ s with scans := s.scans ++ [{ quad := m.region / 4, msg := m.id, part := m.ctx.part, ctx := m.ctx, seed := (m.opnds[1]?).getD 0,
                                   since := s.cycle, held := m.testRegions }] } : State).logEvent 0x17 0xC001 (m.region / 4)

section Test
variable {s : State} {id : Nat} {m : Msg} (hcur : s.cur = some (.unit id)) (hm : s.msg? id = some m) (hphase : m.phase = 2)
include hcur hm hphase

theorem exec_scanTest_first (hnone : s.scans.find? (fun c => c.msg == m.id) = none) :
    exec .scanTest s = .next (if m.testRegions = [] ∨ m.op 2 % 64 ≠ 0 ∨ m.region ∈ m.testRegions then s.endMsg m 0x3F 0
      else if s.scans.any (fun c => c.part == m.ctx.part || c.quad == m.region / 4) then s
      else s.startScan m) := by
  refine (engineEvent_serves hcur hm hphase).trans ?_
  simp only [hnone, Bool.or_eq_true, List.isEmpty_iff, bne_iff_ne, ne_eq, List.contains_iff_mem, or_assoc]
  rfl

theorem exec_scanTest_again {c : Scan} (hc : s.scans.find? (fun c => c.msg == m.id) = some c) :
    exec .scanTest s = .next (if c.phase = 3 then s.scanReport m c else s) := by
  refine (engineEvent_serves hcur hm hphase).trans ?_
  simp only [hc]

end Test

/-! ### The phases of a scan (R394, R395) -/

section Scan
variable {s : State} {quad : Nat} {c : Scan} (hcur : s.cur = some (.unit quad)) (hscan : s.scans.find? (fun c => c.quad == quad) = some c)
include hcur hscan

theorem exec_scanPhaseEnd_vacate (hphase : c.phase = 0) :
    exec .scanPhaseEnd s = .next (if s.scanHolders c = [] then s.modScan quad (fun x => { x with phase := 1, since := s.cycle })
      else ((s.scanHolders c).filter (fun p => s.eligible p)).foldl (fun (t : State) p =>
        if ((t.page? p.key).map Page.placed).getD false then t.evict p else t) s) := by
  change execScanPhaseEnd s = _
  simp only [execScanPhaseEnd, hcur, hscan, hphase, List.isEmpty_iff]

theorem exec_scanPhaseEnd_run (hphase : c.phase = 1) :
    exec .scanPhaseEnd s = .next (if c.since.toNat + 200 * Config.cyclesPerMicrosecond ≤ s.cycle.toNat then s.compareRun c else s) := by
  change execScanPhaseEnd s = _
  simp only [execScanPhaseEnd, hcur, hscan, hphase, decide_eq_true_eq]

theorem exec_scanPhaseEnd_again (hphase : c.phase = 2) :
    exec .scanPhaseEnd s = .next (if c.since.toNat + 200 * Config.cyclesPerMicrosecond ≤ s.cycle.toNat then s.compareAgain c else s) := by
  change execScanPhaseEnd s = _
  simp only [execScanPhaseEnd, hcur, hscan, hphase, decide_eq_true_eq]

theorem exec_vacateDeadline_fails {m : Msg} (hphase : c.phase = 0) (hlate : c.since.toNat + 100 * Config.cyclesPerMicrosecond ≤ s.cycle.toNat)
    (hholds : s.scanHolders c ≠ []) (hm : s.msg? c.msg = some m) :
    exec .vacateDeadline s = .next (({ s with scans := s.scans.filter (fun x => x.quad != quad) } : State).endMsg m 0x3F 0) := by
  have hfull : (s.scanHolders c).isEmpty = false := List.isEmpty_eq_false_iff.mpr hholds
  rw [State.msg?] at hm
  change execVacateDeadline s = _
  simp only [execVacateDeadline, State.msg?, hcur, hscan, hphase, hlate, hfull, hm, Bool.not_false, and_self, if_true]

theorem exec_vacateDeadline_over (hphase : c.phase ≠ 0) : exec .vacateDeadline s = .next s := by
  change execVacateDeadline s = _
  simp only [execVacateDeadline, hcur, hscan, hphase, false_and, if_false]

/-- A pending page of priority 7 has a claim on the partition's regions (R395, R412). -/
def State.urgentPending (s : State) (part : Nat) : Bool :=
  (s.part part).pending.any (fun k => decide (s.pagePrio k = 7) && s.ctxServed k.ctx && decide (s.regionCount k.ctx < s.quotaMax k.ctx))

theorem exec_quadClaim :
    exec .quadClaim s = .next (if c.phase < 3 ∧ s.urgentPending c.part = true ∧ s.freeRegions c.part = [] then s.abortScan c else s) := by
  change execQuadClaim s = _
  simp only [execQuadClaim, hcur, hscan, List.isEmpty_iff]
  rfl

end Scan

/-! ### Retirement (R255, R396, R426, R440) -/

section Retire
variable {s : State} {l : Nat} (hcur : s.cur = some (.unit l))
include hcur

theorem exec_regionRetire_unasked (hasked : l ∉ s.dev.retiring) : exec .regionRetire s = .next s := by
  have hnone : s.dev.retiring.contains l = false := by simpa using hasked
  change execRegionRetire s = _
  simp only [execRegionRetire, hcur, hnone, Bool.not_false, true_or, if_true]

variable (hasked : l ∈ s.dev.retiring) (hl : l < 64)
include hasked hl

theorem exec_regionRetire_free (hfree : s.pages.find? (fun p => p.region == some l) = none) : exec .regionRetire s = .next (s.rewriteCast l) := by
  have hserved : ¬((!s.dev.retiring.contains l) = true ∨ 64 ≤ l) := by simpa [hasked] using hl
  change execRegionRetire s = _
  simp only [execRegionRetire, hcur, if_neg hserved, hfree]

theorem exec_regionRetire_held {p : Page} (hp : s.pages.find? (fun p => p.region == some l) = some p) :
    exec .regionRetire s = .next (
      if p.st = .stopping ∨ (s.ctx p.key.ctx).frozen = true then s
      else if p.st = .loading then ((State.evictGroup p).foldl (fun (t : State) k =>
        t.modPage k (fun y => { y with st := .absent, region := none })) s).makePending p.key
      else if s.groupArmed p then s
      else if ((s.evict p).page? p.key).map Page.st = some .stopping then (s.evict p).makePending p.key else s.evict p) := by
  have hserved : ¬((!s.dev.retiring.contains l) = true ∨ 64 ≤ l) := by simpa [hasked] using hl
  change execRegionRetire s = _
  simp only [execRegionRetire, hcur, if_neg hserved, hp]

end Retire

theorem exec_repairMapWrite {s : State} (hcur : s.cur = some .device) {t : State}
    (ht : t = { s with dev := { s.dev with repairWrites := 0, repairFor := [], repairSeq := s.dev.repairSeq + 1 } }) :
    exec .repairMapWrite s = .next (if s.dev.repairWrites = 0 then s
      else if s.dev.repairFor = [] then t.healthIrq 0x5C
      else s.dev.repairFor.eraseDups.foldl (fun u p => u.tellHyp p 0x5C (BitVec.ofNat 64 (0x200 + (s.dev.repairSeq + 1) % 2)) 0 none) t) := by
  change execRepairMapWrite s = _
  simp only [execRepairMapWrite, hcur, ht, List.isEmpty_iff]

/-! ### Duplicated and missing frames (R338, R340) -/

section Frame
variable {s : State} {part frame : Nat} (hcur : s.cur = some (.units part frame))
include hcur

theorem exec_replicaCollapse : exec .replicaCollapse s = .next (
    if s.invals.any (fun v => v.part == part && v.collapse == some frame) then s
    else s.modPart part (fun p => { p with
      collapsing := p.collapsing.filter (fun c => c.1 != frame)
      placement := p.placement ++ (p.collapsing.filter (fun c => c.1 == frame)).map Prod.snd })) := by
  change execReplicaCollapse s = _
  simp only [execReplicaCollapse, hcur]

theorem exec_pullRetry_waits (h : frame ∉ (s.part part).pullBits ∨ (s.part part).frozen = true) : exec .pullRetry s = .next s := by
  have hwaits : (!(s.part part).pullBits.contains frame) = true ∨ (s.part part).frozen = true := by simpa using h
  change execPullRetry s = _
  simp only [execPullRetry, hcur, if_pos hwaits]

section Asks
variable (hbit : frame ∈ (s.part part).pullBits) (hthawed : (s.part part).frozen = false)
include hbit hthawed

theorem exec_pullRetry_first (hnone : (s.part part).pulls.find? (fun x => x.1 == frame) = none) :
    exec .pullRetry s = .next (s.modPart part (fun y => { y with pulls := y.pulls ++ [(frame, 0, s.cycle)] })) := by
  have hasks : ¬((!(s.part part).pullBits.contains frame) = true ∨ (s.part part).frozen = true) := by simp [hbit, hthawed]
  change execPullRetry s = _
  simp only [execPullRetry, hcur, if_neg hasks, hnone]

/-- The loss of a frame: its record to the hypervisor, the rounds of the accesses that wait for it voided, the partition frozen (R340). -/
def State.losePull (s : State) (part frame : Nat) : State :=
  let told := s.postVoid (.hypervisor part) (s.pullRec part frame)
  let others := (s.pullReqs part frame).map (fun r => (r.ctx, r.round)) ++
    ((s.part part).pullWaits.filter (fun x => x.1 == frame)).filterMap (fun x => x.2.ctx.map (fun c => (c, x.2.round)))
  (others.foldl (fun t x => t.requestVoid x.1 x.2) told).modPart part (fun y => { y with
    frozen := true
    pulls := y.pulls.filter (fun x => x.1 != frame)
    pullWaits := y.pullWaits.filter (fun x => x.1 != frame) })

theorem exec_pullRetry_asked {f n : Nat} {since : BitVec 64} (hpull : (s.part part).pulls.find? (fun x => x.1 == frame) = some (f, n, since)) :
    exec .pullRetry s = .next (if s.cycle.toNat < since.toNat + 2000 * Config.cyclesPerMicrosecond then s
      else if n < 3 then s.modPart part (fun y => { y with pulls := y.pulls.map (fun x => if x.1 = frame then (frame, n + 1, s.cycle) else x) })
      else s.losePull part frame) := by
  have hasks : ¬((!(s.part part).pullBits.contains frame) = true ∨ (s.part part).frozen = true) := by simp [hbit, hthawed]
  change execPullRetry s = _
  simp only [execPullRetry, hcur, if_neg hasks, hpull]
  rfl

end Asks

end Frame

theorem exec_pullComplete {s : State} {frame : Nat} {data : List Byte} (hcur : s.cur = some (.bytes frame data)) {t : State}
    (ht : t = s.writeNow .dram (frame * 4096) (data.take 4096)) :
    exec .pullComplete s = .next (if s.parts.any (fun p => p.pullBits.contains frame) then
      { t with parts := t.parts.map (fun p => { p with
        pullBits := p.pullBits.filter (fun f => f != frame)
        pulls := p.pulls.filter (fun x => x.1 != frame)
        pullWaits := p.pullWaits.filter (fun x => x.1 != frame) }) } else s) := by
  subst ht
  change execPullComplete s = _
  simp only [execPullComplete, hcur]

/-! ### The obligation -/

/-- Settles O40: each event's turn follows the phase of its scan, the page that holds its region, or what is known of its frame. -/
theorem scansRepairsAndPullsAct : Obligations.ScansRepairsAndPullsAct := by
  unfold Obligations.ScansRepairsAndPullsAct
  refine ⟨?first, fun s id m c hcur hm hphase hc => exec_scanTest_again hcur hm hphase hc, ?phases, ?retire, ?repair, ?frames, ?arrives⟩
  case first =>
    intro s id m hcur hm hphase hnone quad sel
    rw [exec_scanTest_first hcur hm hphase hnone]
    refine ⟨fun hbad => congrArg _ (if_pos hbad), fun hsome haligned hother => ?_⟩
    have hgood : ¬(m.testRegions = [] ∨ m.op 2 % 64 ≠ 0 ∨ m.region ∈ m.testRegions) :=
      not_or.mpr ⟨hsome, not_or.mpr ⟨not_not.mpr haligned, hother⟩⟩
    rw [if_neg hgood]
    exact ⟨fun hbusy => by rw [if_pos hbusy], fun hfree => by rw [if_neg (ne_true_of_eq_false hfree)]; rfl⟩
  case phases =>
    intro s quad c hcur hscan
    refine ⟨fun hphase hnone => ?_, fun hphase => ?run, fun hphase hover => ?_, fun hphase hsome => ?_,
      fun m hphase hlate hholds hm => exec_vacateDeadline_fails hcur hscan hphase hlate hholds hm, exec_vacateDeadline_over hcur hscan, ?claim⟩
    · rw [exec_scanPhaseEnd_vacate hcur hscan hphase, if_pos hnone]
    case run =>
      rw [exec_scanPhaseEnd_run hcur hscan hphase]
      exact ⟨fun hover => by rw [if_pos hover], fun hruns => by rw [if_neg (Nat.not_le.mpr hruns)]⟩
    · rw [exec_scanPhaseEnd_again hcur hscan hphase, if_pos hover]
    · rw [exec_scanPhaseEnd_vacate hcur hscan hphase, if_neg hsome]
    case claim =>
      rw [exec_quadClaim hcur hscan]
      intro urgent
      refine ⟨fun hphase hurgent hnone => by rw [if_pos ⟨hphase, hurgent, hnone⟩], fun hno => ?_⟩
      have hstays : ¬(c.phase < 3 ∧ urgent = true ∧ s.freeRegions c.part = []) := by
        rintro ⟨hphase, hurgent, hnone⟩
        exact hno.elim (Nat.not_le.mpr hphase) (·.elim (ne_false_of_eq_true hurgent) (absurd hnone))
      exact congrArg _ (if_neg hstays)
  case retire =>
    intro s l hcur
    refine ⟨exec_regionRetire_unasked hcur, fun hasked hl => ⟨exec_regionRetire_free hcur hasked hl, fun p hp => ?_⟩⟩
    rw [exec_regionRetire_held hcur hasked hl hp]
    refine ⟨fun hstays => by rw [if_pos hstays], fun hthawed hloading => ?_, fun hthawed hstopping hloading => ?_⟩
    · rw [if_neg (by simp [hthawed, hloading]), if_pos hloading]
    · rw [if_neg (by simp [hthawed, hstopping]), if_neg hloading]
      refine ⟨fun harmed => by rw [if_pos harmed], fun hfree hleaves => ?_, fun hfree hstays => ?_⟩
      · rw [if_neg (ne_true_of_eq_false hfree), if_pos hleaves]
      · rw [if_neg (ne_true_of_eq_false hfree), if_neg hstays]
  case repair =>
    intro s hcur
    rw [exec_repairMapWrite hcur rfl]
    refine ⟨fun hnone => by rw [if_pos hnone], fun hsome => ?_⟩
    rw [if_neg hsome]
    exact ⟨fun hnobody => by rw [if_pos hnobody], fun hsomebody => by rw [if_neg hsomebody]⟩
  case frames =>
    intro s part frame hcur p
    rw [exec_replicaCollapse hcur]
    refine ⟨fun hopen => by rw [if_pos hopen], fun hdrained => by rw [if_neg (ne_true_of_eq_false hdrained)],
      fun hnone => exec_pullRetry_waits hcur (.inl hnone),
      fun hbit hthawed => ⟨exec_pullRetry_first hcur hbit hthawed, fun f n since hpull => ?_⟩,
      fun hfrozen => exec_pullRetry_waits hcur (.inr hfrozen)⟩
    rw [exec_pullRetry_asked hcur hbit hthawed hpull]
    refine ⟨fun hearly => by rw [if_pos hearly], fun hdue hagain => ?_, fun hdue hlast => ?_⟩
    · rw [if_neg (Nat.not_lt.mpr hdue), if_pos hagain]
    · rw [if_neg (Nat.not_lt.mpr hdue), if_neg (Nat.not_lt.mpr hlast)]
      rfl
  case arrives =>
    intro s frame data hcur
    rw [exec_pullComplete hcur rfl]
    exact ⟨fun hmissing => by rw [if_pos hmissing], fun hknown => by rw [if_neg (ne_true_of_eq_false hknown)]⟩

end Sys2Proof.Machine
end

section
/-!
PROOF. Queues and their notifies, the distributor, time slices, shrinks and unfolds, and the commands that move contexts (R398, R402, R406,
R409 to R411, R414 to R418).
-/
namespace Sys2Proof.Machine

/-! ### Queues (R398, R402, R406) -/

/-- A queue as a notify leaves it: its tail and what was written before it are known to the distributor, and it is dirty (R305, R398). -/
def Queue.notified (tail : Word) (n : Nat) (q : Queue) : Queue :=
  { q with
    shown := tail
    known := unionOf q.known q.told
    dirty := q.dirty ||| 0x80000000
    notes := (q.notes.filter (fun x => decide (0 < (x.2 - q.head).toNat ∧ (x.2 - q.head).toNat < 2 ^ 31))) ++ [(n, tail)] }

theorem exec_qnotifyWrite {s : State} {g : GuestId} {n : Nat} {v : Word} (hcur : s.cur = some (.queueWrite g n v)) :
    exec .qnotifyWrite s = .next ((s.modQueue g n (fun q => { q with tail := v })).sendCtl
      { code := 0x01, operand := g.part * 2 ^ 21 + g.slot * 2 ^ 19 + n * 2 ^ 13 }) := by
  change execQnotifyWrite s = _
  simp only [execQnotifyWrite, hcur]

theorem exec_notify {s t u : State} {z : Ctl} {g : GuestId} {n : Nat} (hcur : s.cur = some .device) (hz : s.takeCtl 0x01 = some (z, t))
    (hg : (⟨bitsOf z.operand 21 3, bitsOf z.operand 19 2⟩ : GuestId) = g) (hn : bitsOf z.operand 13 6 = n)
    (hu : u = t.modQueue g n (Queue.notified (t.queue g n).tail t.nextNotify)) :
    exec .notify s = .next (({ u with nextNotify := u.nextNotify + 1 } : State).logEvent 0x10 0xC002 z.operand) := by
  subst hu
  change execNotify s = _
  simp only [execNotify, hcur, hz, hg, hn]
  rfl

section Distributor
variable {s : State} {g : GuestId} (hcur : s.cur = some (.guest g))
include hcur

theorem exec_distributorSelect_tag {t : State} (hserved : s.serveTagWaiter g = some t) : exec .distributorSelect s = .next t := by
  change execDistributorSelect s = _
  simp only [execDistributorSelect, hcur, hserved]

variable (hnone : s.serveTagWaiter g = none)
include hnone

theorem exec_distributorSelect_stop {q : Queue} (hq : (s.guest g).queues.find? (fun q => decide (s.lookQueue g q = .stop)) = some q) :
    exec .distributorSelect s = .next (s.stopQueue g q.num) := by
  change execDistributorSelect s = _
  simp only [execDistributorSelect, hcur, hnone, hq]

theorem exec_distributorSelect_record (hsound : (s.guest g).queues.find? (fun q => decide (s.lookQueue g q = .stop)) = none) :
    exec .distributorSelect s = .next (if (s.part g.part).slice = .running ∧ (s.part g.part).sliceGuest = g.slot ∧
      (s.part g.part).frozen = false ∧ (s.part g.part).exporting = false then s.selectRecord g else s) := by
  change execDistributorSelect s = _
  simp only [execDistributorSelect, hcur, hnone, hsound, Bool.not_eq_true']

end Distributor

theorem exec_tagWait {s : State} {g : GuestId} {n : Nat} {r : LaunchRec} {args : Option (List DWord)} {prio : Nat} {since : BitVec 64}
    (hcur : s.cur = some (.queue g n)) (hwaiting : (s.queue g n).waiting = some (r, args, prio, since)) :
    exec .tagWait s = .next (if (s.queue g n).tagWait = false ∧ since.toNat + 1000 * Config.cyclesPerMicrosecond ≤ s.cycle.toNat
      then (s.modQueue g n (fun x => { x with tagWait := true })).adviseQueue g (s.queue g n) 0x4B (BitVec.ofNat 64 n) 0 else s) := by
  change execTagWait s = _
  simp only [execTagWait, hcur, hwaiting, Bool.and_eq_true, Bool.not_eq_true', decide_eq_true_eq]

/-! ### Updates read at the record that they reach -/

/-- Two changes of the first record that a test accepts agree when they agree on that record, or on the new one where there is none. -/
theorem update_congr {α : Type} {p : α → Bool} {f g : α → α} {d : α} {l : List α} (h : f ((l.find? p).getD d) = g ((l.find? p).getD d)) :
    update p f (some (f d)) l = update p g (some (g d)) l := by
  induction l with
  | nil => simpa [update] using h
  | cons x xs ih =>
    by_cases hx : p x = true
    · simpa [update, hx] using h
    · simpa [update, hx] using ih (by simpa [hx] using h)

theorem State.modPart_congr {s : State} {n : Nat} {f g : Partition → Partition} (h : f (s.part n) = g (s.part n)) :
    s.modPart n f = s.modPart n g := by
  simp only [State.modPart, update_congr h]

/-! ### Time slices (R410, R414, R415) -/

theorem endRunOn_of_none {s : State} {x : Context} (h : x.runsOn = none) : s.endRunOn x = s := by
  simp only [State.endRunOn, h]

/-- Where no context runs on outside its slice, none is ended. -/
theorem foldl_endRunOn_of_none {s : State} {xs : List Context} (h : ∀ x ∈ xs, x.runsOn = none) :
    xs.foldl (fun (t : State) x => t.endRunOn x) s = s := by
  induction xs with
  | nil => rfl
  | cons x xs ih =>
    rw [List.foldl_cons, endRunOn_of_none (h x List.mem_cons_self)]
    exact ih (fun y hy => h y (List.mem_cons_of_mem x hy))

/-- The course of a partition's slice from the phase that it is in (R410, R414). -/
def State.sliceTurn (s : State) (part : Nat) : State :=
  match (s.part part).slice with
  | .idle => s.chooseSlice part (s.sliceOrder part)
  | .running => s.endSlice part
  | .past => s.yieldSlice part
  | .closing rounds => s.leaveSlice part rounds

section Slice
variable {s : State} {part : Nat}

section Turn
variable (hcur : s.cur = some (.unit part)) (hoff : ∀ x ∈ s.ctxs, x.id.part = part → x.runsOn = none)
  (hexist : (s.part part).exist = true) (hthawed : (s.part part).frozen = false)
include hcur hoff hexist hthawed

theorem exec_sliceEnd : exec .sliceEnd s = .next (s.sliceTurn part) := by
  have hfold : (s.ctxs.filter (fun x => x.id.part == part)).foldl (fun (t : State) x => t.endRunOn x) s = s :=
    foldl_endRunOn_of_none (fun x hx => by
      obtain ⟨hmem, hpart⟩ := List.mem_filter.mp hx
      exact hoff x hmem (by simpa using hpart))
  change execSliceEnd s = _
  simp only [execSliceEnd, hcur, hfold, hexist, hthawed, Bool.not_true, Bool.or_self, Bool.false_eq_true, if_false]
  rfl

end Turn

theorem endSlice_goesOn (hearly : s.cycle.toNat < (s.part part).sliceEnd.toNat) (hstays : (s.part part).yields = false) :
    s.endSlice part = s := by
  rw [State.endSlice, if_pos ⟨hearly, by rw [hstays]; rfl⟩]

/-- A slice that another guest's follows is over (R410). -/
theorem endSlice_over (hlate : (s.part part).sliceEnd.toNat ≤ s.cycle.toNat)
    (hother : (s.sliceOrder part).any (fun n => n != (s.part part).sliceGuest) = true) :
    s.endSlice part = s.modPart part (fun q => { q with
      slice := .past, watchFrom := if (s.part part).yields then s.cycle else q.watchFrom }) := by
  have hsome : ¬((s.sliceOrder part).all (fun n => n == (s.part part).sliceGuest) = true ∧
      State.sliceOn (s.part part) (s.part part).sliceGuest = true) := by
    rintro ⟨hall, -⟩
    obtain ⟨n, hn, hne⟩ := List.any_eq_true.mp hother
    exact absurd (List.all_eq_true.mp hall n hn) (by simpa using hne)
  rw [State.endSlice, if_neg (fun h => absurd h.1 (Nat.not_lt.mpr hlate)), if_neg hsome]
  exact State.modPart_congr rfl

/-- A slice that no other guest's can follow is renewed (R410). -/
theorem endSlice_renewed (hends : (s.part part).sliceEnd.toNat ≤ s.cycle.toNat ∨ (s.part part).yields = true)
    (hall : (s.sliceOrder part).all (fun n => n == (s.part part).sliceGuest) = true)
    (hon : State.sliceOn (s.part part) (s.part part).sliceGuest = true) {e : BitVec 64}
    (he : e = s.cycle + BitVec.ofNat 64 (State.sliceLen (s.part part) (s.part part).sliceGuest)) :
    s.endSlice part = s.modPart part (fun q => { q with sliceEnd := e, watchFrom := e, yields := false }) := by
  have hover : ¬(s.cycle.toNat < (s.part part).sliceEnd.toNat ∧ (!(s.part part).yields) = true) := by
    rintro ⟨hearly, hstays⟩
    exact hends.elim (Nat.not_le.mpr hearly) (by simpa using hstays)
  subst he
  rw [State.endSlice, if_neg hover, if_pos ⟨hall, hon⟩]

/-- The contexts of the slice's guest that have to yield. -/
def State.yielders (s : State) (part : Nat) : List Context := (s.guestCtxs part (s.part part).sliceGuest).filter State.mustYield

theorem yieldSlice_closes (hall : ∀ x ∈ s.guestCtxs part (s.part part).sliceGuest, State.mustYield x = true → s.ctxYielded x.id = true) :
    s.yieldSlice part = (((s.yielders part).foldl (fun (t : State) x => t.requestClose x.id 5) s).charge part (s.part part).sliceGuest
      (s.cycle.toNat - (s.part part).sliceEnd.toNat)).modPart part (fun q =>
        { q with slice := .closing ((s.yielders part).map (fun x => (x.id, s.nextClose x.id))) }) := by
  have hyielded : ((s.guestCtxs part (s.part part).sliceGuest).filter State.mustYield).all (fun x => s.ctxYielded x.id) = true := by
    refine List.all_eq_true.mpr fun x hx => ?_
    obtain ⟨hmem, hmust⟩ := List.mem_filter.mp hx
    exact hall x hmem hmust
  rw [State.yieldSlice, if_pos hyielded]
  rfl

theorem yieldSlice_waits {c : Context} (hc : c ∈ s.guestCtxs part (s.part part).sliceGuest) (hmust : State.mustYield c = true)
    (hruns : s.ctxYielded c.id = false) : s.yieldSlice part = s := by
  have hnot : ¬((s.guestCtxs part (s.part part).sliceGuest).filter State.mustYield).all (fun x => s.ctxYielded x.id) = true :=
    fun hall => absurd (List.all_eq_true.mp hall c (List.mem_filter.mpr ⟨hc, hmust⟩)) (ne_true_of_eq_false hruns)
  rw [State.yieldSlice, if_neg hnot]

theorem exec_sliceWatchdog (hcur : s.cur = some (.unit part)) :
    exec .sliceWatchdog s = .next (if (s.part part).slice = .past ∧ (s.part part).watchdogRaised = false ∧
        (s.part part).watchFrom.toNat + (s.part part).watchdog * Config.cyclesPerMicrosecond * 100 < s.cycle.toNat then
      (((s.guestCtxs part (s.part part).sliceGuest).filter (fun x => State.mustYield x && !s.ctxYielded x.id)).foldl
        (fun (t : State) x => (t.modCtx x.id (fun y => { y with atClose := y.atClose ++ [(t.nextClose x.id, .watchdog)] })).requestClose x.id 5)
          s).modPart part (fun p => { p with watchdogRaised := true })
      else s) := by
  change execSliceWatchdog s = _
  simp only [execSliceWatchdog, hcur, Bool.and_eq_true, Bool.not_eq_true', decide_eq_true_eq, and_assoc]

/-! ### Shrinks and unfolds (R416, R417) -/

/-- The first pending page for which a context can give a region, with the first such context. -/
theorem shrinkPick_first {ks l : List PageKey} {k : PageKey} {x : CtxId} (hfor : s.shrinkFor part = ks ++ k :: l)
    (hks : ∀ j ∈ ks, ∀ y ∈ s.shrinkOrder j.ctx (s.pagePrio j), s.shrinkFold y = none ∧ s.shrinkEvict y = none)
    (hx : (s.shrinkOrder k.ctx (s.pagePrio k)).find? (fun x => (s.shrinkFold x).isSome || (s.shrinkEvict x).isSome) = some x) :
    s.shrinkPick part = some (k, x) := by
  have hnone : ∀ j ∈ ks, (s.shrinkOrder j.ctx (s.pagePrio j)).find? (fun x => (s.shrinkFold x).isSome || (s.shrinkEvict x).isSome) = none := by
    intro j hj
    refine List.find?_eq_none.mpr fun y hy => ?_
    obtain ⟨hfold, hevict⟩ := hks j hj y hy
    simp [hfold, hevict]
  rw [State.shrinkPick, hfor, List.findSome?_append, List.findSome?_eq_none_iff.mpr (fun j hj => by rw [hnone j hj]; rfl), Option.none_or,
    List.findSome?_cons, hx]
  rfl

theorem exec_regionShrink {k : PageKey} {x : CtxId} (hcur : s.cur = some (.unit part)) (hidle : s.shrinking part = false)
    (hpick : s.shrinkPick part = some (k, x)) : exec .regionShrink s =
      .next ((s.modCtx x (fun y => { y with atClose := y.atClose ++ [(s.nextClose x, .shrink k.ctx)] })).requestClose x 5) := by
  change execRegionShrink s = _
  simp only [execRegionShrink, hcur, hidle, hpick, Bool.false_eq_true, if_false]

end Slice

theorem exec_preemptUnfold {s : State} {c : CtxId} {g : Word} {lpn level : Nat} {rest : List (Word × Nat × Nat)} (hcur : s.cur = some (.ctx c))
    (hshrunk : (s.ctx c).shrunk = (g, lpn, level) :: rest) (hasked : ∀ a ∈ (s.ctx c).atClose, ∀ g' l n, a.2 ≠ .unfold g' l n)
    (hpend : ∀ k ∈ (s.part c.part).pending, k.ctx.guest = c.guest → s.pagePrio k ≤ s.ctxPrio c) (hserved : s.ctxServed c = true)
    (hfits : (s.foldNow c g lpn level).1 = true) : exec .preemptUnfold s =
      .next ((s.modCtx c (fun y => { y with atClose := y.atClose ++ [(s.nextClose c, .unfold g lpn level)] })).requestClose c 5) := by
  have hwaits : (s.part c.part).pending.any (fun k => k.ctx.guest == c.guest && decide (s.ctxPrio c < s.pagePrio k)) = false := by
    simpa using hpend
  change execPreemptUnfold s = _
  simp only [execPreemptUnfold, hcur, hshrunk, hwaits, hserved, hfits, Bool.or_false, Bool.not_true]
  rw [if_neg]
  simp only [List.any_eq_true, not_exists, not_and]
  intro a ha
  split
  next g' l n h => exact absurd h (hasked a ha g' l n)
  next => exact Bool.false_ne_true

/-! ### Contexts on and off the fabric (R418, R428) -/

section Command
variable {s : State} {g : GuestId} {z : Word × Word} (hcur : s.cur = some (.guest g))
include hcur

theorem exec_guestSuspend (hhead : s.gcmdHead g 0x01 = some z) :
    exec .guestSuspend s = .next (if (s.ctx (State.gcmdCtx g z.1)).exist = false then s.gcmdDone g
      else if (s.suspendNow (State.gcmdCtx g z.1)).1 then (s.suspendNow (State.gcmdCtx g z.1)).2.gcmdDone g
      else (s.suspendNow (State.gcmdCtx g z.1)).2) := by
  change execGuestSuspend s = _
  simp only [execGuestSuspend, hcur, hhead, Bool.not_eq_true']

theorem exec_guestResume (hhead : s.gcmdHead g 0x02 = some z) :
    exec .guestResume s = .next (if (s.ctx (State.gcmdCtx g z.1)).exist then (s.resumeNow (State.gcmdCtx g z.1)).gcmdDone g
      else s.gcmdDone g) := by
  change execGuestResume s = _
  simp only [execGuestResume, hcur, hhead]

theorem exec_guestSwitch (hhead : s.gcmdHead g 0x03 = some z) :
    exec .guestSwitch s = .next (if (s.ctx (State.gcmdCtx g z.1)).exist = false ∨ (s.ctx (State.gcmdCtx g z.2)).exist = false then s.gcmdDone g
      else if (s.suspendNow (State.gcmdCtx g z.1)).1 then ((s.suspendNow (State.gcmdCtx g z.1)).2.resumeNow (State.gcmdCtx g z.2)).gcmdDone g
      else (s.suspendNow (State.gcmdCtx g z.1)).2) := by
  change execGuestSwitch s = _
  simp only [execGuestSwitch, hcur, hhead, Bool.not_eq_true']

end Command

/-! ### The obligation -/

/-- Settles O31: each turn follows the queue, the phase of the slice, or the command at the head of the guest's list. -/
theorem queuesAndSlicesAreServed : Obligations.QueuesAndSlicesAreServed := by
  unfold Obligations.QueuesAndSlicesAreServed
  refine ⟨fun s g n v hcur => exec_qnotifyWrite hcur, ?notify, ?distributor, ?tagWait, ?slice, ?unfold, ?commands⟩
  case notify =>
    intro s t z g n hcur hz hpart hslot hn tail u
    have hg : (⟨bitsOf z.operand 21 3, bitsOf z.operand 19 2⟩ : GuestId) = g := by rw [hpart, hslot]
    exact exec_notify hcur hz hg hn rfl
  case distributor =>
    intro s g hcur p
    refine ⟨fun t => exec_distributorSelect_tag hcur, fun hnone => ⟨fun q => exec_distributorSelect_stop hcur hnone, fun hsound => ?_⟩⟩
    rw [exec_distributorSelect_record hcur hnone hsound]
    refine ⟨fun hslice hguest hthawed hstays => congrArg _ (if_pos ⟨hslice, hguest, hthawed, hstays⟩), fun hno => congrArg _ (if_neg ?_)⟩
    rintro ⟨hslice, hguest, hthawed, hstays⟩
    obtain h | h | h | h := hno
    · exact h hslice
    · exact h hguest
    · exact ne_true_of_eq_false hthawed h
    · exact ne_true_of_eq_false hstays h
  case tagWait =>
    intro s g n r args prio since hcur hwaiting
    rw [exec_tagWait hcur hwaiting]
    refine ⟨fun hfirst hlate => by rw [if_pos ⟨hfirst, hlate⟩], fun hno => ?_⟩
    rw [if_neg]
    rintro ⟨hfirst, hlate⟩
    exact hno.elim (ne_true_of_eq_false hfirst) (Nat.not_lt.mpr hlate)
  case slice =>
    intro s part hcur p
    refine ⟨fun c hoff hexist hthawed => ?course, ?watchdog, fun ks k x hidle hfor hks hx => ?shrink⟩
    case course =>
      rw [exec_sliceEnd hcur hoff hexist hthawed, State.sliceTurn]
      refine ⟨fun hslice hearly hstays => ?_, fun hslice hlate hother => ?_, fun hslice hall => ?_, fun hslice => ?_,
        fun hslice hends hall hon => ?_, fun rounds hslice => ?_, fun hslice hc hmust hruns => ?_⟩ <;> rw [hslice]
      · exact congrArg _ (endSlice_goesOn hearly hstays)
      · exact congrArg _ (endSlice_over hlate hother)
      · exact congrArg _ (yieldSlice_closes hall)
      · exact congrArg _ (endSlice_renewed hends hall hon rfl)
      · exact congrArg _ (yieldSlice_waits hc hmust hruns)
    case watchdog =>
      rw [exec_sliceWatchdog hcur]
      refine ⟨fun hslice hfirst hdue => congrArg _ (if_pos ⟨hslice, hfirst, hdue⟩), fun hno => congrArg _ (if_neg ?_)⟩
      rintro ⟨hslice, hfirst, hdue⟩
      obtain h | h | h := hno
      · exact h hslice
      · exact ne_true_of_eq_false hfirst h
      · exact h hdue
    case shrink =>
      obtain ⟨l, hl⟩ := hfor
      exact exec_regionShrink hcur hidle (shrinkPick_first hl hks hx)
  case unfold =>
    intro s c g lpn level rest hcur hshrunk hasked hpend hserved hfits
    exact exec_preemptUnfold hcur hshrunk hasked hpend hserved hfits
  case commands =>
    intro s g hcur
    refine ⟨fun z hhead hno => ?_, fun z hhead hno => ?_, fun z hhead hno => ?_, fun z hhead hctx => ?suspend, fun z hhead hctx => ?_,
      fun z hhead ha hb => ?switch⟩
    · rw [exec_guestSuspend hcur hhead, if_pos hno]
    · rw [exec_guestResume hcur hhead, if_neg (ne_true_of_eq_false hno)]
    · rw [exec_guestSwitch hcur hhead, if_pos hno]
    case suspend =>
      rw [exec_guestSuspend hcur hhead, if_neg (ne_false_of_eq_true hctx)]
      exact ⟨fun t ht => by rw [ht]; rfl, fun t ht => by rw [ht]; rfl⟩
    · rw [exec_guestResume hcur hhead, if_pos hctx]
    case switch =>
      rw [exec_guestSwitch hcur hhead, if_neg (by simp [ha, hb])]
      exact ⟨fun t ht => by rw [ht]; rfl, fun t ht => by rw [ht]; rfl⟩

end Sys2Proof.Machine
end

section
/-!
PROOF. The course of a frame: arguments, placement, the walker, sinks, completion, phases, and the infill unit with the coverage controller
(R335, R373, R374, R378 to R380, R384 to R392, R404, R407, R413, R414).
-/
namespace Sys2Proof.Machine

/-! ### A running walker (R378 to R380) -/

section Walk
variable {s : State} {f : Frame}

/-- The tokens of one kind that a frame's walker sends at all its ports. -/
def State.walkToks (s : State) (f : Frame) (kind : Kind) (pay : Bool → Bool → Nat) : List (PageKey × Nat × Token) :=
  (s.walkPorts f).map (fun e => (e.1, e.2.1, State.walkTok f kind (pay e.2.2.1 e.2.2.2)))

/-- The position is one that the frame's lattice leaves out. -/
def State.skipsPos (s : State) (f : Frame) : Bool := f.kind != 0 && (s.planeOf f).skipped f.pos

theorem walkTurn_eor {d : Nat} {t : State} (heor : f.eor = some d) (hroom : s.deliverAll (s.walkToks f .eor (fun _ _ => d)) = some t) :
    s.walkTurn f = t.modFrame f.key (fun x => { x with eor := none }) := by
  rw [State.walkToks] at hroom
  simp only [State.walkTurn, heor, hroom]

variable (heor : f.eor = none)
include heor

theorem walkTurn_eos {t : State} (hend : f.lrec.limit ≤ f.pos)
    (hroom : s.deliverAll (s.walkToks f .eos (fun lo hi => f.sent * ((if lo then 1 else 0) + (if hi then 1 else 0)))) = some t) :
    s.walkTurn f = t.modFrame f.key (fun x => { x with walk := .done }) := by
  rw [State.walkToks] at hroom
  simp only [State.walkTurn, heor, if_pos hend, hroom]

variable (hmore : f.pos < f.lrec.limit)
include hmore

theorem walkTurn_skips (hskips : s.skipsPos f = true) (hplain : (s.planeOf f).audited f.skip = false) :
    s.walkTurn f = s.modFrame f.key (fun x =>
      { x with pos := f.pos + 1, sent := f.sent, skip := f.skip + 1, eor := f.lrec.wraps f.pos }) := by
  rw [State.skipsPos] at hskips
  simp only [State.walkTurn, heor, if_neg (Nat.not_le.mpr hmore), hskips, hplain, Bool.not_false, Bool.and_self, if_true, Nat.add_zero]

/-- An identifier that the lattice keeps or audits is sent, where every port has room. -/
theorem walkTurn_emits (hkeeps : s.skipsPos f = false ∨ (s.planeOf f).audited f.skip = true) :
    s.walkTurn f = (s.emitId f f.pos).elim s (fun t => t.modFrame f.key (fun x =>
      { x with pos := f.pos + 1, sent := f.sent + 1, skip := f.skip + (if s.skipsPos f then 1 else 0), eor := f.lrec.wraps f.pos })) := by
  have hsent : ¬(s.skipsPos f && !(s.planeOf f).audited f.skip) = true := by
    obtain hkept | haudited := hkeeps
    · simp [hkept]
    · simp [haudited]
  rw [State.skipsPos] at hsent
  simp only [State.walkTurn, heor, if_neg (Nat.not_le.mpr hmore), if_neg hsent]
  cases s.emitId f f.pos <;> rfl

end Walk

section Frame
variable {s : State} {k : FrameKey} {f : Frame} (hcur : s.cur = some (.frame k)) (hframe : s.frame? k = some f)
include hcur hframe

theorem exec_walkerEmit_running (hwalk : f.walk = .running) (hfree : s.frameFree f = true) :
    exec .walkerEmit s = .next (if s.walkHeld f then s else s.walkTurn f) := by
  change execWalkerEmit s = _
  simp only [execWalkerEmit, hcur, hframe, hwalk, hfree, Bool.true_and, Bool.not_eq_true']
  cases s.walkHeld f <;> rfl

/-! ### Arguments and placement (R335, R404) -/

theorem exec_walkerEmit_waitClose {r : Nat} (hwalk : f.walk = .waitClose r) :
    exec .walkerEmit s = .next (if (s.ctx f.ctx).round ≤ r then s
      else if f.placer then s.modFrame k (fun x => { x with walk := .placing }) else s.startWalk f) := by
  change execWalkerEmit s = _
  simp only [execWalkerEmit, hcur, hframe, hwalk]

theorem exec_walkerEmit_placing (hwalk : f.walk = .placing) :
    exec .walkerEmit s = .next (if (s.ctx f.ctx).placed.contains f.graph then s.startWalk f else s) := by
  change execWalkerEmit s = _
  simp only [execWalkerEmit, hcur, hframe, hwalk]

theorem exec_argBlockLoad {vs : List DWord} (hwalk : f.walk = .loadingArgs) (hargs : f.argBlock = some vs) {u : State}
    (hu : u = s.modGraph k.part f.graph (fun g =>
      { g with args := vs.zipIdx.foldl (fun (l : List (Nat × DWord)) v => assign v.2 v.1 l) g.args })) :
    exec .argBlockLoad s =
      .next ((u.requestClose f.ctx 5).modFrame k (fun x => { x with walk := .waitClose (s.nextClose f.ctx), argBlock := none })) := by
  subst hu
  change execArgBlockLoad s = _
  simp only [execArgBlockLoad, hcur, hframe, hwalk, hargs]

end Frame

section Placement
variable {s : State} {c : CtxId} {gid : Word} (hcur : s.cur = some (.graph c gid)) (hnew : (s.ctx c).placed.contains gid = false)
include hcur hnew

theorem exec_placement_moving {ids : List Nat} (hids : lookup gid (s.ctx c).placing = some ids) :
    exec .placement s = .next (if s.invals.any (fun v => ids.contains v.id) then s else s.modCtx c (fun y =>
      { y with placing := y.placing.filter (fun p => p.1 != gid), placed := y.placed ++ [gid] })) := by
  change execPlacement s = _
  simp only [execPlacement, hcur, hnew, hids, Bool.false_eq_true, if_false]

theorem exec_placement_begins {g : Graph} (hnone : lookup gid (s.ctx c).placing = none) (hg : s.graph? c.part gid = some g)
    (hasks : s.frames.any (fun f => f.ctx == c && f.graph == gid && f.walk == .placing) = true) :
    exec .placement s = .next (s.placeGraph c g) := by
  change execPlacement s = _
  simp only [execPlacement, hcur, hnew, hnone, hg, hasks, Bool.false_eq_true, if_false, if_true]

end Placement

/-! ### Sinks and completion (R80, R275, R407) -/

/-- A frame with a reported sink counted once. -/
def Frame.countSink (f : Frame) (sink : Nat) : Frame := { f with sinks := if f.sinks.contains sink then f.sinks else f.sinks ++ [sink] }

theorem exec_sinkCounted {s t : State} {z : Ctl} {f f1 : Frame} (hcur : s.cur = some .device) (hz : s.takeCtl 0x0C = some (z, t))
    (hframe : t.frame? ⟨z.part, z.tag⟩ = some f) (hf1 : f.countSink z.operand = f1) :
    exec .sinkCounted s = .next (if f1.infill.order = none ∧ t.allCounted f1 = true then
      t.fresh.2.modFrame f.key (fun _ => { f1 with infill := { f1.infill with order := some t.fresh.1 } })
      else t.modFrame f.key (fun _ => f1)) := by
  subst hf1
  change execSinkCounted s = _
  simp only [execSinkCounted, hcur, hz, hframe, Option.isNone_iff_eq_none]
  rfl

theorem exec_frameComplete_calls {s : State} (hcur : s.cur = some .device) : exec .frameComplete s = .next s.giveCallReplies := by
  change execFrameComplete s = _
  simp only [execFrameComplete, hcur]

section Frame
variable {s : State} {k : FrameKey} {f : Frame} (hcur : s.cur = some (.frame k)) (hframe : s.frame? k = some f)
include hcur hframe

section Complete
variable (hfree : s.frameFree f = true)
include hfree

/-- A live frame takes its census once its sinks have counted, its infill is done, no section of its tag is armed and the matching store
has room. -/
theorem exec_frameComplete_live (hlive : f.phaseOf = .live) :
    exec .frameComplete s = .next (if s.allCounted f = true ∧ (f.infills = true → f.infill.done = true) ∧ s.sectionArmed f = false ∧
        s.storeFull = false then
      ((s.modFrame k (fun x => { x with phaseOf := .census })).beginCensus k.part k.tag (some k) none).2 else s) := by
  have hinfill : (!f.infills || f.infill.done) = true ↔ (f.infills = true → f.infill.done = true) := by
    cases f.infills <;> simp
  change execFrameComplete s = _
  simp only [execFrameComplete, hcur, hframe, hfree, hlive, Bool.not_true, Bool.false_eq_true, if_false, Bool.and_eq_true, hinfill,
    Bool.not_eq_true', and_assoc]

theorem exec_frameComplete_census {z : Census} {q : Word} {v : Option Word} {u : State} (hphase : f.phaseOf = .census)
    (hz : s.censuses.find? (fun z => z.frame == some k) = some z) (hu : s.censusNext z.seq = (q, v, u)) :
    exec .frameComplete s = .next (v.elim u (u.censusAnswer f)) := by
  change execFrameComplete s = _
  simp only [execFrameComplete, hcur, hframe, hfree, hphase, hz, hu, Bool.not_true, Bool.false_eq_true, if_false]
  cases v <;> rfl

end Complete

/-! ### Phases (R413, R414) -/

/-- The token by which the stage manager names a frame's next phase (R80). -/
def isPhaseToken (c : CtxId) (tag : Tag) (z : Ctl) : Bool := z.code == 0x0A && z.ctx == some c && z.tag == tag

/-- The state without the tokens that name a frame's next phase. -/
def State.withoutPhaseTokens (s : State) (c : CtxId) (tag : Tag) : State := { s with ctl := s.ctl.filter (fun z => !isPhaseToken c tag z) }

theorem exec_phaseRelease {g : Graph} {ps : List Page} {t u : State} (hg : s.graph? k.part f.graph = some g)
    (hps : s.phasePages f g f.phase = ps) (hmore : f.phase < g.phaseStarts.length) (hfree : s.frameFree f = true)
    (hover : s.phaseOver f ps = true) (ht : s.withoutPhaseTokens f.ctx k.tag = t) (hu : t.releasePhase f g ps = u) :
    exec .phaseRelease s = .next (if s.ctl.any (isPhaseToken f.ctx k.tag) = false then
        s.sendCtl { code := 0x0A, tag := k.tag, operand := (f.phase + 1) % 16, ctx := some f.ctx, part := k.part }
      else if s.holdAsked f.ctx then t.modFrame k (fun x => { x with held := true })
      else if (u.frame? k).map Frame.phase = some f.phase then s else u) := by
  subst hu ht
  change execPhaseRelease s = _
  simp only [execPhaseRelease, State.withoutPhaseTokens, hcur, hframe, hg, hps, Nat.not_le.mpr hmore, hfree, hover, Bool.not_true,
    Bool.false_eq_true, or_self, if_false, Bool.not_eq_true']
  rfl

/-! ### The infill unit (R373, R386, R387) -/

section Infill
variable (hfree : s.frameFree f = true)
include hfree

theorem exec_infillStart_committed {r : Nat} (hwait : f.infill.waitRound = some r) (hround : r < (s.ctx f.ctx).round) :
    exec .infillStart s = .next (s.modInfill k (fun i => { i with active := true, waitRound := none })) := by
  change execInfillStart s = _
  simp only [execInfillStart, hcur, hframe, hfree, hwait, if_pos hround, Bool.not_true, Bool.false_eq_true, if_false]

theorem exec_infillStart_asks (hwait : f.infill.waitRound = none) (hwants : s.infillWants f = true) (hidle : f.infill.active = false)
    (hturn : s.infillTurn f = true) : exec .infillStart s =
      .next ((s.modInfill k (fun i =>
        { i with waitRound := some (s.nextClose f.ctx), last := s.allCounted f && f.infill.asked == 0 })).requestClose f.ctx 2) := by
  change execInfillStart s = _
  simp only [execInfillStart, hcur, hframe, hfree, hwait, hwants, hidle, hturn, Bool.not_true, Bool.not_false, Bool.and_self,
    Bool.false_eq_true, if_false, if_true]

theorem exec_infillPoint : exec .infillPoint s = .next (if s.pageRuns (State.infillPage f) then s.infillSteps k 4 else s) := by
  change execInfillPoint s = _
  simp only [execInfillPoint, hcur, hframe, hfree, Bool.true_and]

/-! ### The coverage controller (R374, R387, R388) -/

/-- The pass of a frame's infill unit over, its sums cleared (R387). -/
def State.pastUpdate (s : State) (k : FrameKey) (f : Frame) (n : Nat) : State := s.modFrame k (fun x => { x with
  updates := n
  infill := { f.infill with due := false, sd := 0, sc := 0, n := 0, updates := f.infill.updates + 1, asked := f.infill.asked - 1,
                            done := f.infill.last } })

/-- The controller of a frame's graph updated with the metric of its pass (R374, R388). -/
def State.chargeMetric (s : State) (f : Frame) : State := s.modCtx f.ctx (fun x => { x with covers := x.covers.map (fun v =>
  if v.graph = f.graph then v.update x (s.coverBound f.ctx f.graph) (metricOf f.lrec.kernel f.infill.n f.infill.sd f.infill.sc) else v) })

variable (hdue : f.infill.due = true)
include hdue

/-- An update that a frame before has given is counted again (R391). -/
theorem exec_coverageUpdate_given (hgiven : f.infill.updates < f.updates) :
    exec .coverageUpdate s = .next (s.pastUpdate k f f.updates) := by
  change execCoverageUpdate s = _
  simp only [execCoverageUpdate, hcur, hframe, hdue, hfree, decide_eq_true hgiven, Bool.not_true, Bool.or_self, Bool.false_and,
    Bool.false_eq_true, if_false, if_true]
  rfl

theorem exec_coverageUpdate_new (hnew : f.updates ≤ f.infill.updates) :
    exec .coverageUpdate s = .next (State.pastUpdate (if f.infill.n ≠ 0 ∧ sumZero f.lrec.kernel f.infill.sc = false then s.chargeMetric f
      else s) k f (f.updates + 1)) := by
  change execCoverageUpdate s = _
  simp only [execCoverageUpdate, hcur, hframe, hdue, hfree, decide_eq_false (Nat.not_lt.mpr hnew), Bool.not_true, Bool.or_self,
    Bool.not_false, Bool.true_and, Bool.false_eq_true, if_false, Bool.and_eq_true, bne_iff_ne, Bool.not_eq_true']
  rfl

end Infill

end Frame

theorem exec_covgstatWrite {s : State} {c : CtxId} {v : DWord} (hcur : s.cur = some (.ctxWrite c v)) :
    exec .covgstatWrite s = .next (s.modCtx c (fun x => { x with covers := x.covers.map (fun z => if z.graph = (s.ctx c).covGsel
      then { z with below := 0, level := min (bitsOf v.toNat 0 4) (s.coverBound c (s.ctx c).covGsel) } else z) })) := by
  change execCovgstatWrite s = _
  simp only [execCovgstatWrite, hcur]

/-! ### The obligation -/

/-- Settles O30: a frame's turns follow the state of its walker, its census, its phase and its infill unit. -/
theorem framesAreWalkedAndInfilled : Obligations.FramesAreWalkedAndInfilled := by
  unfold Obligations.FramesAreWalkedAndInfilled
  refine ⟨?walk, ?wait, ?placement, ?sinks, ?complete, fun s hcur => exec_frameComplete_calls hcur, ?phase, ?infill,
    fun s c v hcur => exec_covgstatWrite hcur⟩
  case walk =>
    intro s k f hcur hframe hwalk hfree
    rw [exec_walkerEmit_running hcur hframe hwalk hfree]
    refine ⟨fun hheld => by rw [if_pos hheld], fun hfollows => ?_⟩
    rw [if_neg (ne_true_of_eq_false hfollows)]
    refine ⟨fun d t heor hroom => congrArg _ (walkTurn_eor heor hroom), fun heor hmore hkeeps => ?_, fun heor hmore hskips hplain => ?_,
      fun heor hend t hroom => congrArg _ (walkTurn_eos heor hend hroom)⟩
    · rw [walkTurn_emits heor hmore hkeeps]
      exact ⟨fun t ht => by rw [ht]; rfl, fun hfull => by rw [hfull]; rfl⟩
    · exact congrArg _ (walkTurn_skips heor hmore hskips hplain)
  case wait =>
    intro s k f hcur hframe
    refine ⟨fun r hwalk => ?_, fun hwalk => ?_, fun vs hwalk hargs => ?_⟩
    · rw [exec_walkerEmit_waitClose hcur hframe hwalk]
      refine ⟨fun hopen => by rw [if_pos hopen], fun hclosed hplacer => ?_, fun hclosed hplacer => ?_⟩
      · rw [if_neg (Nat.not_le.mpr hclosed), if_pos hplacer]
      · rw [if_neg (Nat.not_le.mpr hclosed), if_neg (ne_true_of_eq_false hplacer)]
    · rw [exec_walkerEmit_placing hcur hframe hwalk]
      exact ⟨fun hplaced => by rw [if_pos hplaced], fun hwaits => by rw [if_neg (ne_true_of_eq_false hwaits)]⟩
    · exact exec_argBlockLoad hcur hframe hwalk hargs rfl
  case placement =>
    intro s c gid g hcur hnew
    refine ⟨fun ids hids => ?_, fun hnone hg hasks => exec_placement_begins hcur hnew hnone hg hasks⟩
    rw [exec_placement_moving hcur hnew hids]
    exact ⟨fun hdone => by rw [if_neg (ne_true_of_eq_false hdone)], fun hopen => by rw [if_pos hopen]⟩
  case sinks =>
    intro s z t f hcur hz hframe f1
    rw [exec_sinkCounted hcur hz hframe (f1 := f1) rfl]
    refine ⟨fun hno => ?_, fun horder hall => by rw [if_pos ⟨horder, hall⟩]⟩
    rw [if_neg]
    rintro ⟨horder, hall⟩
    exact hno.elim (Option.isSome_iff_ne_none.mp · horder) (ne_true_of_eq_false · hall)
  case complete =>
    intro s k f hcur hframe hfree
    refine ⟨fun hlive hall hinfill hunarmed hroom => ?_, fun hlive hno => ?_, fun z q v u hphase hz hu => ?_, fun z q u hphase hz hu => ?_⟩
    · rw [exec_frameComplete_live hcur hframe hfree hlive, if_pos ⟨hall, hinfill, hunarmed, hroom⟩]
    · rw [exec_frameComplete_live hcur hframe hfree hlive, if_neg]
      rintro ⟨hall, hinfill, hunarmed, hroom⟩
      obtain h | ⟨hinfills, hopen⟩ | h | h := hno
      · exact ne_true_of_eq_false h hall
      · exact ne_true_of_eq_false hopen (hinfill hinfills)
      · exact ne_true_of_eq_false hunarmed h
      · exact ne_true_of_eq_false hroom h
    · exact exec_frameComplete_census hcur hframe hfree hphase hz hu
    · exact exec_frameComplete_census hcur hframe hfree hphase hz hu
  case phase =>
    intro s k f g hcur hframe hg ps hmore hfree hover mine t
    rw [exec_phaseRelease hcur hframe hg rfl hmore hfree hover (t := t) rfl rfl]
    refine ⟨fun hnone => congrArg _ (if_pos hnone), fun hsome hhold => congrArg _ ((if_neg (ne_false_of_eq_true hsome)).trans ?_),
      fun hsome hgoes hnext => congrArg _ ((if_neg (ne_false_of_eq_true hsome)).trans ?_),
      fun hsome hgoes hstays => congrArg _ ((if_neg (ne_false_of_eq_true hsome)).trans ?_)⟩
    · rw [if_pos hhold]
    · rw [if_neg (ne_true_of_eq_false hgoes), if_neg hnext]
    · rw [if_neg (ne_true_of_eq_false hgoes), if_pos hstays]
  case infill =>
    intro s k f hcur hframe hfree
    rw [exec_infillPoint hcur hframe hfree]
    refine ⟨fun r hwait hround => exec_infillStart_committed hcur hframe hfree hwait hround,
      fun hwait hwants hidle hturn => exec_infillStart_asks hcur hframe hfree hwait hwants hidle hturn, fun hruns => by rw [if_pos hruns],
      fun hstands => by rw [if_neg (ne_true_of_eq_false hstands)], fun hdue => ?coverage⟩
    case coverage =>
      intro i past
      refine ⟨exec_coverageUpdate_given hcur hframe hfree hdue, fun hnew hno => ?_, fun hnew hsome hsum => ?_⟩ <;>
        rw [exec_coverageUpdate_new hcur hframe hfree hdue hnew]
      · rw [if_neg]
        · rfl
        · rintro ⟨hsome, hsum⟩
          exact hno.elim hsome (ne_true_of_eq_false hsum)
      · rw [if_pos ⟨hsome, hsum⟩]
        rfl

end Sys2Proof.Machine
end

section
/-!
PROOF. The commands of the hypervisor (R292, R327, R339, R340, R353, R420 to R424, R434, R436, R438).
-/
namespace Sys2Proof.Machine

/-! ### Commands that are asked for (R438) -/

section Event
variable {s : State} {part op : Nat} (hcur : s.cur = some (.unit part)) (act : Nat → State → State)
include hcur

theorem hcmdEvent_held (hheld : s.hcmdHeld op part = true) : hcmdEvent op act s = .next s := by
  simp only [hcmdEvent, hcur, hheld, or_true, if_true]

variable (hasks : s.hcmdIs op part = true) (hfree : s.hcmdHeld op part = false)
include hasks hfree

theorem hcmdEvent_absent (habsent : (s.part part).exist = false) : hcmdEvent op act s = .next (s.hcmdDone 0x4A) := by
  simp only [hcmdEvent, hcur, hasks, hfree, habsent, Bool.not_true, Bool.not_false, Bool.false_eq_true, or_self, or_true, if_false, if_true]

theorem hcmdEvent_serves (hpart : part < 8) (hexist : (s.part part).exist = true) : hcmdEvent op act s = .next (act part s) := by
  simp only [hcmdEvent, hcur, hasks, hfree, hexist, Nat.not_le.mpr hpart, Bool.not_true, Bool.false_eq_true, or_self, if_false]

end Event

/-- Every command whose partition may hold it back does nothing while it does. -/
theorem exec_hcmd_held {s : State} {part op : Nat} {i : Instr} (hcur : s.cur = some (.unit part))
    (hheld : s.hcmdHeld op part = true) (hmem : (op, i) ∈ [(0x01, Instr.create), (0x02, .destroy), (0x03, .reset), (0x04, .grant),
      (0x05, .remove), (0x06, .bind), (0x07, .exportPart), (0x08, .importPart), (0x09, .scrub), (0x0A, .port), (0x0C, .s2inval),
      (0x0D, .placefill), (0x0E, .donate), (0x0F, .reclaim)]) : exec i s = .next s := by
  have hcreate (h : s.hcmdHeld 0x01 part = true) : exec .create s = .next s := by
    change execCreate s = _
    simp only [execCreate, hcur, h, or_true, if_true]
  simp only [List.mem_cons, Prod.mk.injEq, List.not_mem_nil, or_false] at hmem
  obtain ⟨rfl, rfl⟩ | ⟨rfl, rfl⟩ | ⟨rfl, rfl⟩ | ⟨rfl, rfl⟩ | ⟨rfl, rfl⟩ | ⟨rfl, rfl⟩ | ⟨rfl, rfl⟩ |
    ⟨rfl, rfl⟩ | ⟨rfl, rfl⟩ | ⟨rfl, rfl⟩ | ⟨rfl, rfl⟩ | ⟨rfl, rfl⟩ | ⟨rfl, rfl⟩ | ⟨rfl, rfl⟩ := hmem
  · exact hcreate hheld
  · exact show execDestroy s = _ from hcmdEvent_held hcur _ hheld
  · exact show execReset s = _ from hcmdEvent_held hcur _ hheld
  · exact show execGrant s = _ from hcmdEvent_held hcur _ hheld
  · exact show execRemove s = _ from hcmdEvent_held hcur _ hheld
  · exact show execBind s = _ from hcmdEvent_held hcur _ hheld
  · exact show execExportPart s = _ from hcmdEvent_held hcur _ hheld
  · exact show execImportPart s = _ from hcmdEvent_held hcur _ hheld
  · exact show execScrub s = _ from hcmdEvent_held hcur _ hheld
  · exact show execPort s = _ from hcmdEvent_held hcur _ hheld
  · exact show execS2inval s = _ from hcmdEvent_held hcur _ hheld
  · exact show execPlacefill s = _ from hcmdEvent_held hcur _ hheld
  · exact show execDonate s = _ from hcmdEvent_held hcur _ hheld
  · exact show execReclaim s = _ from hcmdEvent_held hcur _ hheld

/-! ### Creation (R420) -/

/-- The parameters of a CREATE are refused. -/
def State.paramsBad (s : State) (part : Nat) : Bool :=
  s.createBad part (s.devNat s.harg 2) (s.devNat (s.harg + 0x08) 8 % 2 ^ 46) (s.devNat (s.harg + 0x10) 2) (s.devNat (s.harg + 0x30) 2)
    (s.devNat (s.harg + 0x32) 2) (s.devNat (s.harg + 0x36) 2)

/-- The partition that a CREATE's parameter block describes, with a full tag pool and the defaults. -/
def State.createdPart (s : State) (part : Nat) : Partition :=
  let a := s.harg
  let fog := s.devNat (a + 0x32) 2
  let flags := s.devNat (a + 0x34) 1
  let dog := s.devNat (a + 0x36) 2
  { num := part
    exist := true
    quads := s.devNat a 2
    s2root := (s.part part).s2root
    gslice := (s.part part).gslice
    covFloor := BitVec.ofNat 32 (flags % 16)
    saveAllow := s.devNat (a + 0x10) 2
    wingBase := BitVec.ofNat 64 (s.devNat (a + 0x18) 8)
    wingChunks := s.devNat (a + 0x20) 4
    ovfBase := BitVec.ofNat 64 (s.devNat (a + 0x28) 8)
    rbAllow := s.devNat (a + 0x30) 2
    foghornMs := if fog = 0 then 100 else fog
    mapBase := BitVec.ofNat 64 (s.devNat (a + 0x38) 8)
    priv := bitsOf flags 4 1 == 1
    permissive := bitsOf flags 5 1 == 1
    stallMode := bitsOf flags 6 1 == 1
    watchdog := if dog = 0 then 10 else dog
    tags := (List.range 4095).map (BitVec.ofNat 12)
    sliceGuest := 3 }

theorem exec_create {s : State} {part : Nat} (hcur : s.cur = some (.unit part)) (hasks : s.hcmdIs 0x01 part = true)
    (hfree : s.hcmdHeld 0x01 part = false) : exec .create s = .next (if s.paramsBad part then s.hcmdDone 0x4A else
      (State.modPart { s with dev := { s.dev with blocks := s.dev.blocks.zipIdx.map (fun b =>
        if bitsOf (s.devNat (s.harg + 0x08) 8 % 2 ^ 46) b.2 1 = 1 then .granted part else b.1) } } part
          (fun _ => s.createdPart part)).hcmdDone 0) := by
  change execCreate s = _
  simp only [execCreate, State.paramsBad, hcur, hasks, hfree, Bool.not_true, Bool.false_eq_true, or_self, if_false]
  rfl

/-! ### Destruction (R422, R438) -/

theorem granted_not_mem_freed (part : Nat) (l : List BlockState) :
    BlockState.granted part ∉ l.map (fun b => if b == .granted part then .free else b) := by
  intro h
  obtain ⟨b, -, hb⟩ := List.mem_map.mp h
  split at hb
  next => exact BlockState.noConfusion hb
  next hother => exact hother (by rw [hb]; exact beq_self_eq_true _)

/-! ### Commands of an existing partition -/

section Served
variable {s : State} {part : Nat} (hcur : s.cur = some (.unit part)) (hpart : part < 8) (hexist : (s.part part).exist = true)
  (hfree : ∀ op, s.hcmdIs op part = true → s.hcmdHeld op part = false)
include hcur hpart hexist hfree

theorem hcmdEvent_acts {op : Nat} (hasks : s.hcmdIs op part = true) (act : Nat → State → State) : hcmdEvent op act s = .next (act part s) :=
  hcmdEvent_serves hcur act hasks (hfree op hasks) hpart hexist

/-! #### Blocks (R339) -/

theorem exec_grant (hasks : s.hcmdIs 0x04 part = true) : exec .grant s = .next (if s.dev.blocks[bitsOf s.harg 0 6]? = some .free then
    ({ s with dev := { s.dev with blocks := s.dev.blocks.set (bitsOf s.harg 0 6) (.granted part) } } : State).hcmdDone 0 else s.hcmdDone 0x4A) := by
  change execGrant s = _
  exact hcmdEvent_acts hcur hpart hexist hfree hasks _

/-- The overflow table of a partition reaches into a block. -/
def State.tableIn (s : State) (part k : Nat) : Bool :=
  (s.part part).ovfBase != 0 && decide ((s.part part).ovfBase.toNat < (k + 1) * 2 ^ 31 ∧ k * 2 ^ 31 < (s.part part).ovfBase.toNat + 2 ^ 24)

section Remove
variable (hasks : s.hcmdIs 0x05 part = true) {k : Nat} (hk : bitsOf s.harg 0 6 = k)
include hasks hk

theorem exec_remove_granted {q : Nat} (hblock : s.dev.blocks[k]? = some (.granted q)) : exec .remove s = .next (
    if q ≠ part ∨ (s.donatedUsed part).any (fun f => f / 2 ^ 19 == k) = true ∨ s.tableIn part k = true then s.hcmdDone 0x4A
    else ((State.modPart { s with dev := { s.dev with
        blocks := s.dev.blocks.set k (.removing part (if bitsOf s.harg 11 1 = 1 then none else some (bitsOf s.harg 8 3))) } } part
          (fun p => { p with
      donated := p.donated.filter (fun f => !(f / 2 ^ 19 == k))
      placement := p.placement.filter (fun f => !(f / 2 ^ 19 == k)) })).startInval { State.invalPart part with block := some k }).2) := by
  subst hk
  change execRemove s = _
  refine (hcmdEvent_acts hcur hpart hexist hfree hasks _).trans ?_
  simp only [hblock]
  rfl

/-- A block that is neither granted nor on its way out is not removed. -/
theorem exec_remove_other (hgranted : ∀ q, s.dev.blocks[k]? ≠ some (.granted q))
    (hremoving : ∀ q d, s.dev.blocks[k]? ≠ some (.removing q d)) (hscrubbing : ∀ d, s.dev.blocks[k]? ≠ some (.scrubbing d)) :
    exec .remove s = .next (s.hcmdDone 0x4A) := by
  subst hk
  change execRemove s = _
  refine (hcmdEvent_acts hcur hpart hexist hfree hasks _).trans ?_
  cases hblock : s.dev.blocks[bitsOf s.harg 0 6]? with
  | none => simp only [hblock]
  | some b =>
    cases b with
    | free | logbook => simp only [hblock]
    | granted q => exact absurd hblock (hgranted q)
    | removing q d => exact absurd hblock (hremoving q d)
    | scrubbing d => exact absurd hblock (hscrubbing d)

theorem exec_remove_refused (h : s.dev.blocks[k]? = some .free ∨ (s.donatedUsed part).any (fun f => f / 2 ^ 19 == k) = true)
    (hremoving : ∀ q d, s.dev.blocks[k]? ≠ some (.removing q d)) (hscrubbing : ∀ d, s.dev.blocks[k]? ≠ some (.scrubbing d)) :
    exec .remove s = .next (s.hcmdDone 0x4A) := by
  by_cases hgranted : ∃ q, s.dev.blocks[k]? = some (.granted q)
  · obtain ⟨q, hq⟩ := hgranted
    have hused : (s.donatedUsed part).any (fun f => f / 2 ^ 19 == k) = true := h.resolve_left (by simp [hq])
    rw [exec_remove_granted hcur hpart hexist hfree hasks hk hq, if_pos (.inr (.inl hused))]
  · exact exec_remove_other hcur hpart hexist hfree hasks hk (fun q hq => hgranted ⟨q, hq⟩) hremoving hscrubbing

end Remove

/-! #### Granules (R292) -/

section Granule
variable (hasks : s.hcmdIs 0x0B part = true) {g : Nat} (hg : bitsOf s.harg 0 12 = g)
include hasks hg

theorem exec_granuleGrant (hgrant : bitsOf s.harg 12 1 = 1) : exec .granuleGrant s = .next (
    if bitsOf (s.granule g) 31 1 = 1 ∨ bitsOf (s.part part).quads (bitsOf g 5 6 / 4) 1 = 0 then s.hcmdDone 0x2E
    else (s.setGranule g (2 ^ 31 + part * 2 ^ 28)).hcmdDone 0) := by
  subst hg
  change execGranuleGrant s = _
  refine (hcmdEvent_acts hcur hpart hexist hfree hasks _).trans (congrArg _ (if_neg ?_))
  rw [hgrant]
  exact Nat.one_ne_zero

theorem exec_granuleRevoke (hrevoke : bitsOf s.harg 12 1 = 0) : exec .granuleRevoke s = .next (
    if bitsOf (s.granule g) 31 1 = 0 ∨ bitsOf (s.granule g) 28 3 ≠ part then s.hcmdDone 0x2E
    else if s.granuleBusy g then s
    else ((s.zeroGranule g).setGranule g (s.granule g % 2 ^ 31)).hcmdDone 0) := by
  subst hg
  change execGranuleRevoke s = _
  refine (hcmdEvent_acts hcur hpart hexist hfree hasks _).trans (congrArg _ (if_neg ?_))
  rw [hrevoke]
  exact Nat.zero_ne_one

end Granule

/-! #### Translations and frame lists (R334, R335, R353) -/

theorem exec_s2inval (hasks : s.hcmdIs 0x0C part = true) (hidle : s.invals.any (fun v => v.hcmd && v.part == part) = false) {lo : Nat}
    (hlo : s.harg / 4096 * 4096 / 2 ^ boundary (bitsOf s.harg 0 3) * 2 ^ boundary (bitsOf s.harg 0 3) = lo) :
    exec .s2inval s = .next (if bitsOf s.harg 3 1 = 1 then (s.startInval { State.invalPart part with hcmd := true }).2
      else if 5 < bitsOf s.harg 0 3 then s.hcmdDone 0x4A
      else (s.startInval { State.invalPart part with lo := lo, hi := lo + 2 ^ boundary (bitsOf s.harg 0 3), hcmd := true }).2) := by
  subst hlo
  change execS2inval s = _
  exact (hcmdEvent_acts hcur hpart hexist hfree hasks _).trans (congrArg _ (if_neg (ne_true_of_eq_false hidle)))

theorem exec_placefill (hasks : s.hcmdIs 0x0D part = true) : exec .placefill s = .next (if s.listBad part s.listPage then s.hcmdDone 0x26
    else (s.modPart part (fun p => { p with placement := p.placement ++ s.listPage.map (· / 4096) })).hcmdDone 0) := by
  change execPlacefill s = _
  exact hcmdEvent_acts hcur hpart hexist hfree hasks _

theorem exec_donate (hasks : s.hcmdIs 0x0E part = true) : exec .donate s = .next (if s.listBad part s.listPage then s.hcmdDone 0x26
    else (s.modPart part (fun p => { p with donated := p.donated ++ s.listPage.map (· / 4096) })).hcmdDone 0) := by
  change execDonate s = _
  exact hcmdEvent_acts hcur hpart hexist hfree hasks _

/-! #### Migration (R423, R424) -/

section Export
variable (hasks : s.hcmdIs 0x07 part = true)
include hasks

theorem exec_exportPart_begins (hfirst : (s.part part).exporting = false) : exec .exportPart s =
    .next (((s.ctxs.filter (fun x => x.id.part == part && x.exist && !x.frozen)).map Context.id).foldl (fun u c => u.requestClose c 7)
      (s.modPart part (fun p => { p with exporting := true }))) := by
  change execExportPart s = _
  exact (hcmdEvent_acts hcur hpart hexist hfree hasks _).trans (congrArg _ (if_pos (by rw [hfirst]; rfl)))

theorem exec_exportPart_writes (hasked : (s.part part).exporting = true) (hstill : s.exportReady part = true) {e : ExportArea}
    (he : s.exportArea part s.harg = e) : exec .exportPart s =
    .next ((({ s with exports := s.exports.filter (fun x => x.area != e.area) ++ [e] } : State).writeQueues part s.harg).hcmdDone 0) := by
  subst he
  change execExportPart s = _
  refine (hcmdEvent_acts hcur hpart hexist hfree hasks _).trans (congrArg _ ?_)
  simp only [hasked, hstill, Bool.not_true, Bool.false_eq_true, if_false]

end Export

section Import
variable (hasks : s.hcmdIs 0x08 part = true)
include hasks

theorem exec_importPart_nothing (hnone : s.exports.find? (fun e => e.area == s.harg) = none) : exec .importPart s = .next (s.hcmdDone 0x4A) := by
  change execImportPart s = _
  refine (hcmdEvent_acts hcur hpart hexist hfree hasks _).trans (congrArg _ ?_)
  simp only [hnone]

/-- The partition holds frames or graphs. -/
def State.partUsed (s : State) (part : Nat) : Bool := s.frames.any (fun f => f.key.part == part) || s.graphs.any (fun g => g.part == part)

/-- The largest sum of the minimum quotas of one guest's contexts in an area (R423). -/
def ExportArea.quotaSum (e : ExportArea) : Nat :=
  ((List.range 4).map (fun g => ((e.ctxs.filter (fun x => x.id.guest == g)).map (fun x => bitsOf x.quota.toNat 0 8)).foldl (· + ·) 0)).foldl max 0

theorem exec_importPart {e : ExportArea} (he : s.exports.find? (fun e => e.area == s.harg) = some e) : exec .importPart s = .next (
    if s.partUsed part = true ∨ (s.regionsOf part).length < e.quotaSum then s.hcmdDone 0x4A else (s.importArea part e).hcmdDone 0) := by
  change execImportPart s = _
  refine (hcmdEvent_acts hcur hpart hexist hfree hasks _).trans (congrArg _ ?_)
  simp only [he]
  rfl

end Import

end Served

/-! ### The scrub of a block (R339) -/

theorem exec_scrubComplete {s : State} {k : Nat} {dst : Option Nat} (hcur : s.cur = some (.unit k))
    (hblock : s.dev.blocks[k]? = some (.scrubbing dst)) (halive : s.dev.deadLines.find? (fun l => l / 2 ^ 25 == k) = none) {z t : State}
    (hz : s.zeroRange .dram (k * 2 ^ 31) ((k + 1) * 2 ^ 31) = z)
    (ht : ({ z with dev := { z.dev with
      poisoned := z.dev.poisoned.filter (fun f => f / 2 ^ 19 != k)
      suspect := z.dev.suspect.filter (fun x => !(x.1 == .dram && x.2 / 2 ^ 25 == k))
      blocks := z.dev.blocks.set k (dst.elim .free .granted) } } : State) = t) :
    exec .scrubComplete s =
      .next (if s.dev.hbusy && bitsOf s.dev.hcmd.toNat 24 8 == 0x05 && bitsOf s.dev.harg.toNat 0 6 == k then t.hcmdDone 0 else t) := by
  subst ht hz
  change execScrubComplete s = _
  simp only [execScrubComplete, hcur, hblock, halive]
  cases dst <;> rfl

/-! ### The obligation -/

/-- Settles O35: a command that nothing holds back and whose partition exists has its effect, CREATE as its parameters allow; a command
of a partition that does not exist is refused, and a held one waits. -/
theorem hypervisorCommandsAreServed : Obligations.HypervisorCommandsAreServed := by
  unfold Obligations.HypervisorCommandsAreServed
  refine ⟨?served, ?absent, fun s part op i hcur hasks hheld hmem => exec_hcmd_held hcur hheld hmem, ?scrubbed⟩
  case served =>
    intro s part hcur hpart hexist hfree a k g
    refine ⟨fun hasks => ?reset, fun hasks => ?destroy, fun hasks => ?grant, fun hasks hblock => ?remove,
      fun hasks h hremoving hscrubbing => ?refused, fun hasks => ?scrub, fun hasks => ?bind, fun hasks => ?port,
      fun hasks hgrant => ?granuleGrant, fun hasks hrevoke => ?granuleRevoke,
      fun hasks hidle => ?s2inval, fun hbad => ?badList, fun hgood => ?goodList, fun hasks => ?reclaim, fun hasks => ?exporting,
      fun hasks => ?importing⟩
    case reset => exact show execReset s = _ from hcmdEvent_acts hcur hpart hexist hfree hasks _
    case destroy =>
      refine ⟨_, show execDestroy s = _ from hcmdEvent_acts hcur hpart hexist hfree hasks _, rfl, ?_, ?_, granted_not_mem_freed part _,
        rfl, rfl⟩
      · exact List.all_eq_true.mpr fun p hp => (List.mem_filter.mp hp).2
      · exact List.all_eq_true.mpr fun x hx => (List.mem_filter.mp hx).2
    case grant =>
      rw [exec_grant hcur hpart hexist hfree hasks]
      exact ⟨fun hblock => by rw [if_pos hblock], fun hblock => by rw [if_neg hblock]⟩
    case remove =>
      intro table
      have hremove := exec_remove_granted hcur hpart hexist hfree hasks (k := k) rfl hblock
      refine ⟨fun hunused houtside => hremove.trans (congrArg _ (if_neg ?_)), fun hinside => hremove.trans (congrArg _ (if_pos ?_))⟩
      · rintro (hother | hused | hinside)
        · exact hother rfl
        · exact ne_true_of_eq_false hunused hused
        · exact ne_true_of_eq_false houtside hinside
      · exact .inr (.inr hinside)
    case refused => exact exec_remove_refused hcur hpart hexist hfree hasks rfl h hremoving hscrubbing
    case scrub => exact show execScrub s = _ from hcmdEvent_acts hcur hpart hexist hfree hasks _
    case bind => exact show execBind s = _ from hcmdEvent_acts hcur hpart hexist hfree hasks _
    case port => exact show execPort s = _ from hcmdEvent_acts hcur hpart hexist hfree hasks _
    case granuleGrant =>
      intro bad
      rw [exec_granuleGrant hcur hpart hexist hfree hasks (g := g) rfl hgrant]
      exact ⟨fun hbad => by rw [if_pos hbad], fun hgood => by rw [if_neg hgood]⟩
    case granuleRevoke =>
      intro bad
      rw [exec_granuleRevoke hcur hpart hexist hfree hasks (g := g) rfl hrevoke]
      refine ⟨fun hbad => by rw [if_pos hbad], fun hgood hbusy => ?_, fun hgood hidle => ?_⟩
      · rw [if_neg hgood, if_pos hbusy]
      · rw [if_neg hgood, if_neg (ne_true_of_eq_false hidle)]
    case s2inval =>
      have hinval := exec_s2inval hcur hpart hexist hfree hasks hidle rfl
      refine ⟨fun hall => hinval.trans (congrArg _ (if_pos hall)), fun hrange hsize => ?_, fun hrange hsize => ?_⟩ <;>
        have hone : ¬bitsOf s.harg 3 1 = 1 := by rw [hrange]; exact Nat.zero_ne_one
      · exact hinval.trans (congrArg _ ((if_neg hone).trans (if_neg (Nat.not_lt.mpr hsize))))
      · exact hinval.trans (congrArg _ ((if_neg hone).trans (if_pos hsize)))
    case badList =>
      refine ⟨fun hasks => ?_, fun hasks => ?_⟩
      · rw [exec_placefill hcur hpart hexist hfree hasks, if_pos hbad]
      · rw [exec_donate hcur hpart hexist hfree hasks, if_pos hbad]
    case goodList =>
      refine ⟨fun hasks => ?_, fun hasks => ?_⟩
      · rw [exec_placefill hcur hpart hexist hfree hasks, if_neg (ne_true_of_eq_false hgood)]
      · rw [exec_donate hcur hpart hexist hfree hasks, if_neg (ne_true_of_eq_false hgood)]
    case reclaim => exact show execReclaim s = _ from hcmdEvent_acts hcur hpart hexist hfree hasks _
    case exporting =>
      exact ⟨exec_exportPart_begins hcur hpart hexist hfree hasks,
        fun hasked hstill => exec_exportPart_writes hcur hpart hexist hfree hasks hasked hstill rfl⟩
    case importing =>
      refine ⟨exec_importPart_nothing hcur hpart hexist hfree hasks, fun e he => ?_⟩
      intro used sums
      have himport := exec_importPart hcur hpart hexist hfree hasks he
      refine ⟨fun hunused hroom => himport.trans (congrArg _ (if_neg ?_)), fun hbad => himport.trans (congrArg _ (if_pos hbad))⟩
      rintro (hused | hshort)
      · exact ne_true_of_eq_false hunused hused
      · exact Nat.not_lt.mpr hroom hshort
  case absent =>
    intro s part hcur habsent hfree
    refine ⟨fun hasks => show execGrant s = _ from hcmdEvent_absent hcur _ hasks (hfree _ hasks) habsent,
      fun hasks => show execDestroy s = _ from hcmdEvent_absent hcur _ hasks (hfree _ hasks) habsent,
      fun hasks => ?_⟩
    have hcreate := exec_create hcur hasks (hfree _ hasks)
    exact ⟨fun hbad => hcreate.trans (congrArg _ (if_pos hbad)),
      fun hgood => hcreate.trans (congrArg _ (if_neg (ne_true_of_eq_false hgood)))⟩
  case scrubbed =>
    intro s k dst hcur hblock halive z t
    refine exec_scrubComplete hcur hblock halive rfl ?_
    cases dst <;> rfl

end Sys2Proof.Machine
end

section
/-!
PROOF. What a home serves (R294, R300, R310): a performed write adds one entry that its own context alone sees.
-/
namespace Sys2Proof.Machine

/-! ### What a home serves -/

/-- Two states serve the same bytes when their memories and home entries are the same. -/
structure SameHomes (s t : State) : Prop where
  mem : t.mem = s.mem
  homeWrites : t.homeWrites = s.homeWrites

namespace SameHomes

variable {s t u : State}

theorem refl (s : State) : SameHomes s s := ⟨rfl, rfl⟩

theorem trans (h : SameHomes s t) (h' : SameHomes t u) : SameHomes s u := ⟨h'.mem.trans h.mem, h'.homeWrites.trans h.homeWrites⟩

theorem byteAt (h : SameHomes s t) (sp : Space) (c : Option CtxId) (a : Nat) : t.byteAt sp c a = s.byteAt sp c a := by
  simp only [State.byteAt, h.mem, h.homeWrites]

theorem of_fields (hs : t.sram = s.sram) (hd : t.dram = s.dram) (hh : t.hostMem = s.hostMem) (hw : t.homeWrites = s.homeWrites) : SameHomes s t where
  mem := by funext sp; cases sp <;> assumption
  homeWrites := hw

theorem foldl {α : Type} {f : State → α → State} (hf : ∀ t x, SameHomes t (f t x)) (l : List α) : SameHomes s (l.foldl f s) := by
  induction l generalizing s with
  | nil => exact refl s
  | cons x l ih => exact (hf s x).trans ih

theorem noteCause (a b c : Nat) (x : Word) : SameHomes s (s.noteCause a b c x) := by
  obtain ⟨d, h⟩ := noteCause_dev s a b c x
  rw [h]
  exact of_fields rfl rfl rfl rfl

theorem healthIrq (cause : Nat) : SameHomes s (s.healthIrq cause) :=
  iteInduction (fun _ => of_fields rfl rfl rfl rfl) (fun _ => refl s)

theorem initialRec (sp : Space) (a : Nat) : SameHomes s (s.initialRec sp a) :=
  iteInduction (fun _ => of_fields rfl rfl rfl rfl) (fun _ => refl s)

theorem recordWords (w : Who) (c : Option CtxId) (b : Bool) (sp : Space) (a : Nat) (bs : List Byte) (ws : List Nat) :
    SameHomes s (s.recordWords w c b sp a bs ws).2 := by
  induction ws generalizing s with
  | nil => exact refl s
  | cons x ws ih =>
    have h : SameHomes s (s.recordWord w c b sp a bs x).2 := (initialRec sp x).trans (of_fields rfl rfl rfl rfl)
    exact h.trans ih

theorem twinPair (ids : List Nat) : SameHomes s (s.twinPair ids) := by
  unfold State.twinPair
  split
  · exact of_fields rfl rfl rfl rfl
  · exact refl s

theorem eccTransient (sp : Space) (a : Nat) : SameHomes s (s.eccTransient sp a) := by
  unfold State.eccTransient State.noteTransient
  extract_lets t
  have ht : SameHomes s t := by
    show SameHomes s (match s.homePart sp a with | some n => _ | none => _)
    split
    · exact of_fields rfl rfl rfl rfl
    · exact refl s
  exact (ht.trans (healthIrq _)).trans (noteCause _ _ _ _)

theorem soundWords (sp : Space) (a n : Nat) : SameHomes s (s.soundWords sp a n) := by
  unfold State.soundWords
  extract_lets p t whole
  have ht : SameHomes s t := iteInduction (fun _ => of_fields rfl rfl rfl rfl) (fun _ => refl s)
  split
  · exact ht
  · refine trans ?_ (foldl (fun _ _ => eccTransient _ _) _)
    exact ht.trans (of_fields rfl rfl rfl rfl)

theorem markRing (sp : Space) (a n : Nat) : SameHomes s (s.markRing sp a n) :=
  iteInduction (fun _ => refl s) (fun _ => of_fields rfl rfl rfl rfl)

end SameHomes

/-- The memories stand, and one entry has joined those of the homes: the written bytes, for the writer's context. -/
theorem State.performWrite_homes (s : State) (w : Who) (sp : Space) (a va : Nat) (bs : List Byte) (atomic committed : Bool) :
    ∃ x : HomeWrite, x.ctx = w.ctx ∧ x.space = sp ∧ x.addr = a ∧ x.bytes = bs ∧ x.committed = committed ∧
      (s.performWrite w sp a va bs atomic committed).2.mem = s.mem ∧
      (s.performWrite w sp a va bs atomic committed).2.homeWrites = s.homeWrites ++ [x] := by
  unfold State.performWrite
  extract_lets old r s1 x t
  have h1 : SameHomes s s1 :=
    (SameHomes.recordWords _ _ _ _ _ _ _).trans (iteInduction (fun _ => SameHomes.twinPair _) (fun _ => SameHomes.refl _))
  have h2 : SameHomes t ((t.markRing sp a bs.length).soundWords sp a bs.length) := (SameHomes.markRing sp a bs.length).trans (.soundWords _ _ _)
  have ht : t.mem = s1.mem := by funext sp; cases sp <;> rfl
  refine ⟨x, rfl, rfl, rfl, rfl, rfl, (h2.mem.trans ht).trans h1.mem, ?_⟩
  rw [h2.homeWrites, ← h1.homeWrites]

/-- A new entry of a home answers for its bytes where its reader sees it, and for no other byte. -/
theorem State.byteAt_append {s t : State} {x : HomeWrite} (hm : t.mem = s.mem) (hw : t.homeWrites = s.homeWrites ++ [x])
    (sp : Space) (c : Option CtxId) (a : Nat) :
    t.byteAt sp c a = if State.sees sp c a x = true then (x.bytes[a - x.addr]?).getD 0 else s.byteAt sp c a := by
  unfold State.byteAt
  rw [hm, hw, List.reverse_append, List.reverse_singleton, List.singleton_append, List.find?_cons]
  cases State.sees sp c a x <;> rfl

/-- Settles O59: the write adds one uncommitted entry of its context, which that context alone sees. -/
theorem theWorkOfTheHomeKeepsOtherContexts : Obligations.TheWorkOfTheHomeKeepsOtherContexts := by
  unfold Obligations.TheWorkOfTheHomeKeepsOtherContexts
  intro s w sp a va bs atomic sp' c x
  obtain ⟨e, hctx, hsp, haddr, hbytes, hcom, hmem, hw⟩ := s.performWrite_homes w sp a va bs atomic false
  rw [State.byteAt_append hmem hw, haddr, hbytes]
  refine if_congr ?_ rfl rfl
  simp only [State.sees, hctx, hsp, haddr, hbytes, hcom, Bool.false_or, Bool.and_eq_true, beq_iff_eq, decide_eq_true_eq]
  tauto

end Sys2Proof.Machine
end

section
/-!
PROOF. Write-back (R294, R311, R337): the bytes of an entry land at its address and in the other copy of a duplicated frame.
-/
namespace Sys2Proof.Machine

/-- The place of the other copy of a duplicated frame that holds an address of device memory (R337). -/
def State.twinPlace (s : State) (sp : Space) (a : Nat) : Option Nat :=
  if sp = .dram then (s.twinOf (s.frameOf .dram a)).map (fun f => f * 4096 + a % 4096) else none

/-- Bytes land at their address, and again at the place of the other copy. -/
theorem State.land_eq (s : State) (sp : Space) (a : Nat) (bs : List Byte) :
    s.land sp a bs = match s.twinPlace sp a with
      | some b => (s.setMem sp (Memory.writeBytes (s.mem sp) a bs)).setMem sp (Memory.writeBytes (Memory.writeBytes (s.mem sp) a bs) b bs)
      | none => s.setMem sp (Memory.writeBytes (s.mem sp) a bs) := by
  cases sp with
  | sram | host => rfl
  | dram =>
    unfold State.land State.twinPlace
    cases s.twinOf (s.frameOf .dram a) <;> rfl

/-- The memory that bytes land in. -/
theorem State.mem_land (s : State) (sp : Space) (a : Nat) (bs : List Byte) :
    (s.land sp a bs).mem sp = match s.twinPlace sp a with
      | some b => Memory.writeBytes (Memory.writeBytes (s.mem sp) a bs) b bs
      | none => Memory.writeBytes (s.mem sp) a bs := by
  rw [State.land_eq]
  split <;> simp

theorem State.mem_land_other {sp sp' : Space} (h : sp' ≠ sp) (s : State) (a : Nat) (bs : List Byte) : (s.land sp a bs).mem sp' = s.mem sp' := by
  rw [State.land_eq]
  split <;> simp only [State.mem_setMem_other h]

/-- Landing bytes changes nothing but the memories. -/
theorem State.land_frame (s : State) (sp : Space) (a : Nat) (bs : List Byte) :
    s.land sp a bs = { s with sram := (s.land sp a bs).sram, dram := (s.land sp a bs).dram, hostMem := (s.land sp a bs).hostMem } := by
  have hset (t : State) (m : List Host.Cell) : t.setMem sp m =
      { t with sram := (t.setMem sp m).sram, dram := (t.setMem sp m).dram, hostMem := (t.setMem sp m).hostMem } := by cases sp <;> rfl
  rw [State.land_eq]
  split
  · rw [hset (s.setMem _ _), hset s]
  · exact hset s _

/-- A byte behind the landing: at the other copy's place the written byte, at the address the written byte, elsewhere as before. -/
theorem State.read_land {s : State} (h : MemOk s) (sp : Space) (a : Nat) (bs : List Byte) (x : Nat) :
    (∀ b, s.twinPlace sp a = some b → b ≤ x → x < b + bs.length → Memory.read ((s.land sp a bs).mem sp) x = (bs[x - b]?).getD 0) ∧
    ((∀ b, s.twinPlace sp a = some b → x < b ∨ b + bs.length ≤ x) → Memory.read ((s.land sp a bs).mem sp) x =
      if a ≤ x ∧ x < a + bs.length then (bs[x - a]?).getD 0 else Memory.read (s.mem sp) x) := by
  have hown := Memory.wf_writeBytes (h.mem sp) a bs
  rw [State.mem_land]
  cases s.twinPlace sp a with
  | none => exact ⟨nofun, fun _ => Memory.read_writeBytes (h.mem sp) a bs x⟩
  | some b =>
    refine ⟨fun c hc hle hlt => ?_, fun hout => ?_⟩
    · cases hc
      exact (Memory.read_writeBytes hown b bs x).trans (if_pos ⟨hle, hlt⟩)
    · have hx := hout b rfl
      exact (Memory.read_writeBytes hown b bs x).trans ((if_neg (by omega)).trans (Memory.read_writeBytes (h.mem sp) a bs x))

/-- Settles O26: the entry's bytes land at its address and at the other copy's, and the entry goes. -/
theorem writeBackStoresItsEntryAlone : Obligations.WriteBackStoresItsEntryAlone := by
  unfold Obligations.WriteBackStoresItsEntryAlone
  intro s h n w hok hcur hfind hwin
  have hhome : w.home = h := by
    have := List.find?_some hfind
    simp only [Bool.and_eq_true, beq_iff_eq] at this
    exact this.2
  refine ⟨{ s.land w.space w.addr w.bytes with homeWrites := s.homeWrites.erase w }, ?_, rfl, ?_, ?_, ?_, ?_⟩
  · show execWriteBack s = _
    unfold execWriteBack
    simp only [hcur, hfind, hwin, hhome, Bool.false_eq_true, if_false]
  · intro b hb x hle hlt
    exact (State.read_land hok w.space w.addr w.bytes x).1 b hb hle hlt
  · intro x hx
    exact (State.read_land hok w.space w.addr w.bytes x).2 hx
  · intro sp hsp
    exact State.mem_land_other hsp s w.addr w.bytes
  · conv_lhs => rw [State.land_frame]
end Sys2Proof.Machine
end

section
/-!
PROOF. The canonical form of the memories (R291, R310, R311) under every step: what a result of each kind must hold, and one
lemma per operation, in the order in which the model defines them.
-/
namespace Sys2Proof.Machine

/-! ### Results that carry states -/

/-- What an optional result holds, if there is one. -/
def OptOk {α : Type} (P : α → Prop) : Option α → Prop
  | none => True
  | some a => P a

/-- What a result, or the error in its place, holds. -/
def ExcOk {ε α : Type} (E : ε → Prop) (P : α → Prop) : Except ε α → Prop
  | .error e => E e
  | .ok a => P a

/-- The memories of the next state, if there is one, are canonical. -/
def NextOk : Out → Prop
  | .next t => MemOk t
  | _ => True

/-- The state that a held island instruction leaves. -/
def HoldOk : Hold → Prop
  | .wait => True
  | .fault _ _ _ t => MemOk t
  | .gone t => MemOk t
  | .eos _ t => MemOk t

/-- The state that an access's reach leaves. -/
def ReachOk : Reach → Prop
  | .wait t => MemOk t
  | .gone t => MemOk t
  | .stop _ t => MemOk t
  | .ready _ _ t => MemOk t

/-- The state that an engine's translation leaves. -/
def EngOk : Eng → Prop
  | .wait t => MemOk t
  | .fail _ t => MemOk t
  | .ok _ t => MemOk t

/-- The state behind a performed island instruction. -/
def DoneOk (d : Done) : Prop := MemOk d.t

/-- What an element opcode does with strikes and closing tokens keeps the memories canonical. -/
structure RuleOk (r : ElemRule) : Prop where
  strikes : ∀ t x, MemOk x → MemOk (r.strikes t x)
  closing : ∀ t x, MemOk x → MemOk (r.closing t x)

theorem OptOk.of_eq {α : Type} {P : α → Prop} {o o' : Option α} (h : OptOk P o) (e : o = o') : OptOk P o' := e ▸ h
theorem ExcOk.of_eq {ε α : Type} {E : ε → Prop} {P : α → Prop} {o o' : Except ε α} (h : ExcOk E P o) (e : o = o') : ExcOk E P o' := e ▸ h
theorem HoldOk.of_eq {o o' : Hold} (h : HoldOk o) (e : o = o') : HoldOk o' := e ▸ h
theorem ReachOk.of_eq {o o' : Reach} (h : ReachOk o) (e : o = o') : ReachOk o' := e ▸ h
theorem EngOk.of_eq {o o' : Eng} (h : EngOk o) (e : o = o') : EngOk o' := e ▸ h
theorem NextOk.of_eq {o o' : Out} (h : NextOk o) (e : o = o') : NextOk o' := e ▸ h

theorem ReachOk.ite {c : Prop} [Decidable c] {a b : Reach} (ha : ReachOk a) (hb : ReachOk b) : ReachOk (if c then a else b) :=
  iteInduction (fun _ => ha) (fun _ => hb)

theorem EngOk.ite {c : Prop} [Decidable c] {a b : Eng} (ha : EngOk a) (hb : EngOk b) : EngOk (if c then a else b) :=
  iteInduction (fun _ => ha) (fun _ => hb)

theorem HoldOk.ite {c : Prop} [Decidable c] {a b : Hold} (ha : HoldOk a) (hb : HoldOk b) : HoldOk (if c then a else b) :=
  iteInduction (fun _ => ha) (fun _ => hb)

theorem OptOk.map {α β : Type} {P : α → Prop} {Q : β → Prop} {o : Option α} {f : α → β} (h : OptOk P o) (hf : ∀ a, P a → Q (f a)) : OptOk Q (o.map f) := by
  cases o with
  | none => trivial
  | some a => exact hf a h

theorem OptOk.bind {α β : Type} {P : α → Prop} {Q : β → Prop} {o : Option α} {f : α → Option β} (h : OptOk P o)
    (hf : ∀ a, P a → OptOk Q (f a)) : OptOk Q (o.bind f) := by
  cases o with
  | none => trivial
  | some a => exact hf a h

theorem OptOk.elim {α β : Type} {P : α → Prop} {Q : β → Prop} {o : Option α} {b : β} {f : α → β} (h : OptOk P o) (hb : Q b)
    (hf : ∀ a, P a → Q (f a)) : Q (o.elim b f) := by
  cases o with
  | none => exact hb
  | some a => exact hf a h

namespace MemOk

variable {s t : State}

theorem of_pair {α : Type} {p q : α × State} (h : MemOk p.2) (e : p = q) : MemOk q.2 := e ▸ h
theorem of_triple {α β : Type} {p q : α × β × State} (h : MemOk p.2.2) (e : p = q) : MemOk q.2.2 := e ▸ h

/-- An update of fields that are no memories. -/
theorem same (h : MemOk s) (e : (t.sram, t.dram, t.hostMem) = (s.sram, s.dram, s.hostMem)) : MemOk t := by
  obtain ⟨hs, he⟩ := Prod.mk.inj e
  obtain ⟨hd, hh⟩ := Prod.mk.inj he
  unfold MemOk
  rw [hs, hd, hh]
  exact h

theorem ite {c : Prop} [Decidable c] (hs : MemOk s) (ht : MemOk t) : MemOk (if c then s else t) := iteInduction (fun _ => hs) (fun _ => ht)

theorem foldl {α : Type} {f : State → α → State} {l : List α} (h : MemOk s) (hf : ∀ t x, MemOk t → MemOk (f t x)) : MemOk (l.foldl f s) := by
  induction l generalizing s with
  | nil => exact h
  | cons x l ih => exact ih (hf s x h)

theorem getD {o : Option State} (h : MemOk s) (ho : OptOk MemOk o) : MemOk (o.getD s) := by
  cases o with
  | none => exact h
  | some t => exact ho

end MemOk
end Sys2Proof.Machine
end

section
/-!
PROOF. The canonical form of the memories: what an event, a token, a cause and a firing change.
-/
namespace Sys2Proof.Machine

theorem MemOk.modPage {s : State} {k : PageKey} {f : Page → Page} (h : MemOk s) : MemOk (s.modPage k f) := h.same (by rfl)
theorem MemOk.modDyn {s : State} {k : PageKey} {f : PageDyn → PageDyn} (h : MemOk s) : MemOk (s.modDyn k f) := h.modPage
theorem MemOk.modCtx {s : State} {c : CtxId} {f : Context → Context} (h : MemOk s) : MemOk (s.modCtx c f) := h.same (by rfl)
theorem MemOk.modPart {s : State} {n : Nat} {f : Partition → Partition} (h : MemOk s) : MemOk (s.modPart n f) := h.same (by rfl)
theorem MemOk.modGuest {s : State} {g : GuestId} {f : Guest → Guest} (h : MemOk s) : MemOk (s.modGuest g f) := h.same (by rfl)
theorem MemOk.modRing {s : State} {r : RingId} {f : Ring → Ring} (h : MemOk s) : MemOk (s.modRing r f) := h.same (by rfl)
theorem MemOk.modFrame {s : State} {k : FrameKey} {f : Frame → Frame} (h : MemOk s) : MemOk (s.modFrame k f) := h.same (by rfl)
theorem MemOk.modGraph {s : State} {part : Nat} {gid : Word} {f : Graph → Graph} (h : MemOk s) : MemOk (s.modGraph part gid f) := h.same (by rfl)
theorem MemOk.modMsg {s : State} {id : Nat} {f : Msg → Msg} (h : MemOk s) : MemOk (s.modMsg id f) := h.same (by rfl)
theorem MemOk.modReq {s : State} {id : Nat} {f : Req → Req} (h : MemOk s) : MemOk (s.modReq id f) := h.same (by rfl)
theorem MemOk.fresh {s : State} (h : MemOk s) : MemOk s.fresh.2 := h.same (by rfl)
theorem MemOk.choose {s : State} {n : Nat} (h : MemOk s) : MemOk (s.choose n).2 := h.same (by rfl)
theorem MemOk.sendCtl {s : State} {c : Ctl} (h : MemOk s) : MemOk (s.sendCtl c) := h.same (by rfl)
theorem MemOk.logEvent {s : State} {type arb payload : Nat} (h : MemOk s) : MemOk (s.logEvent type arb payload) := MemOk.ite (h.same (by rfl)) h

theorem MemOk.logChoice {s : State} {arb k : Nat} (h : MemOk s) : MemOk (s.logChoice arb k) := by
  unfold State.logChoice
  extract_lets
  split
  · exact MemOk.ite (h.same (by rfl)) h.logEvent
  · exact h.logEvent

theorem MemOk.decideBy {s : State} {arb : Nat} {c : CtxId} {round input : Nat} (h : MemOk s) : MemOk (s.decideBy arb c round input).2 := by
  unfold State.decideBy
  extract_lets _ _ _ _ _ _ s1
  have hs1 : MemOk s1 := h.same (by rfl)
  exact hs1.logChoice

theorem MemOk.noteChoice {s : State} {arb input : Nat} (h : MemOk s) : MemOk (s.noteChoice arb input) := h.logChoice
theorem MemOk.requestClose {s : State} {c : CtxId} {trigger : Nat} (h : MemOk s) : MemOk (s.requestClose c trigger) :=
    MemOk.ite h h.modCtx.sendCtl.noteChoice
theorem MemOk.logTime {s : State} (h : MemOk s) : MemOk s.logTime := MemOk.ite (h.same (by rfl)) h
theorem MemOk.lbFreeze {s : State} {payload : Nat} (h : MemOk s) : MemOk (s.lbFreeze payload) := MemOk.ite (h.logTime.logEvent.same (by rfl)) h
theorem MemOk.noteCause {s : State} {type arb cause : Nat} {ctxid : Word} (h : MemOk s) : MemOk (s.noteCause type arb cause ctxid) :=
    MemOk.ite h.logEvent.lbFreeze h.logEvent
theorem MemOk.post {s : State} {r : RingId} {f : FaultRec} (h : MemOk s) : MemOk (s.post r f) := h.modRing.noteCause

theorem MemOk.setStopped {s : State} {p : Party} {v : Bool} (h : MemOk s) : MemOk (s.setStopped p v) := by
  unfold State.setStopped
  split
  · exact h.modDyn
  · exact h.modDyn
  · exact h.modDyn
  · exact h.modDyn
  · exact h.same (by rfl)

theorem MemOk.setTrap {s : State} {p : Party} {v : Bool} (h : MemOk s) : MemOk (s.setTrap p v) := by
  unfold State.setTrap
  split
  · exact h.modDyn
  · exact h.modDyn
  · exact h.modDyn
  · exact h
  · exact h

theorem MemOk.faultWide {s : State} {cause : Nat} {p : Party} {tag : Tag} {info0 : DWord} {node : Nat} (h : MemOk s) :
    MemOk (s.faultWide cause p tag info0 node) := by
  unfold State.faultWide
  extract_lets _ _ _ _ s1
  have hs1 : MemOk s1 := h.post.setStopped
  exact MemOk.ite (hs1.same (by rfl)) hs1

theorem MemOk.faultP {s : State} {cause : Nat} {p : Party} {tag : Tag} {value : Word} {node : Nat} (h : MemOk s) :
    MemOk (s.faultP cause p tag value node) := h.faultWide
theorem MemOk.trapT {s : State} {cause x : Nat} {p : Party} {tag : Tag} {value : Word} (h : MemOk s) :
    MemOk (s.trapT cause x p tag value) := MemOk.ite h.post.setStopped (MemOk.ite (h.same (by rfl)).setTrap.noteCause h.post.setStopped)

theorem MemOk.raiseFlags {s : State} {f : Flags} {p : Party} {tag : Tag} {value : Word} (h : MemOk s) :
    MemOk (s.raiseFlags f p tag value) := by
  unfold State.raiseFlags
  extract_lets _ s1
  have hs1 : MemOk s1 := h.modDyn
  split
  · exact hs1.trapT
  · exact hs1

theorem MemOk.advise {s : State} {c : CtxId} {cause : Nat} {info0 info1 : DWord} {tag : Tag} (h : MemOk s) :
    MemOk (s.advise c cause info0 info1 tag) := h.post
theorem MemOk.guestIrq {s : State} {g : GuestId} {v : Nat} (h : MemOk s) : MemOk (s.guestIrq g v) := MemOk.ite h.modGuest h.modGuest
theorem MemOk.healthIrq {s : State} {cause : Nat} (h : MemOk s) : MemOk (s.healthIrq cause) := MemOk.ite (h.same (by rfl)) h
theorem MemOk.tellHyp {s : State} {part cause : Nat} {info0 info1 : DWord} {c : Option CtxId} (h : MemOk s) :
    MemOk (s.tellHyp part cause info0 info1 c) := h.healthIrq.post

theorem MemOk.tellAll {s : State} {cause : Nat} {info0 info1 : DWord} (h : MemOk s) : MemOk (s.tellAll cause info0 info1) := by
  unfold State.tellAll
  split
  · exact h.healthIrq
  · exact h.foldl (fun _ _ ht1 => ht1.tellHyp)

theorem MemOk.debugIrq {s : State} {c : CtxId} (h : MemOk s) : MemOk (s.debugIrq c) := h.guestIrq
theorem MemOk.tellDebug {s : State} {c : CtxId} {cause : Nat} {info0 info1 : DWord} (h : MemOk s) :
    MemOk (s.tellDebug c cause info0 info1) := h.modCtx.debugIrq.noteCause
theorem MemOk.diverge {s : State} {c : CtxId} {arb : Nat} (h : MemOk s) : MemOk (s.diverge c arb) := h.modCtx.tellDebug

theorem MemOk.countStep {s : State} {p : Party} {tag : Tag} (h : MemOk s) : MemOk (s.countStep p tag) := by
  unfold State.countStep
  extract_lets _ _ _ _ s1
  have hs1 : MemOk s1 := MemOk.ite h.modCtx h
  split
  · exact hs1
  · exact MemOk.ite hs1.modCtx.tellDebug hs1

theorem MemOk.touchFrame {s : State} {part : Nat} {tag : Tag} (h : MemOk s) : MemOk (s.touchFrame part tag) := h.modFrame
theorem MemOk.fireAt {s : State} {k : PageKey} (h : MemOk s) : MemOk (s.fireAt k) := h.modPage

theorem MemOk.touch {s : State} {k : PageKey} {tag : Tag} (h : MemOk s) : MemOk (s.touch k tag) := by
  unfold State.touch
  extract_lets t
  have ht : MemOk t := h.fireAt.touchFrame
  split
  · exact ht.countStep
  · exact ht

theorem MemOk.spillInto {s : State} {k : PageKey} {count : Nat} {party : Party} {tag : Tag} {put : State → State} (h : MemOk s)
    (hput : ∀ (t : State), MemOk t → MemOk (put t)) : MemOk (s.spillInto k count party tag put) := by
  unfold State.spillInto
  extract_lets _ t u
  have ht : MemOk t := (hput _ h).modPart
  have hu : MemOk u := ht.same (by rfl)
  exact MemOk.ite (MemOk.ite h h.tellHyp.modPart) (MemOk.ite h.faultP (MemOk.ite hu.advise hu))

theorem MemOk.elemWaits {s : State} {k : PageKey} {n : Nat} {e : Ecw} {tag : Tag} (h : MemOk s) : MemOk (s.elemWaits k n e tag) := by
  unfold State.elemWaits
  split
  · exact MemOk.ite (h.spillInto (fun _ hx1 => hx1.modDyn)) h
  · exact h

theorem MemOk.sinkEos {s : State} {k : PageKey} {n : Nat} {tag : Tag} (h : MemOk s) : MemOk (s.sinkEos k n tag) := by
  unfold State.sinkEos
  extract_lets s1
  have hs1 : MemOk s1 := h.modDyn
  exact hs1.foldl (fun _ _ ht1 => ht1.sendCtl)

theorem MemOk.cutElem {s : State} {k : PageKey} {n : Nat} (h : MemOk s) : MemOk (s.cutElem k n) := h.modPage
theorem MemOk.cueElem {s : State} {k : PageKey} {n : Nat} {e : Ecw} {both : Bool} {t : Token} (h : MemOk s) :
    MemOk (s.cueElem k n e both t) := MemOk.ite h (h.same (by rfl)).fireAt.cutElem.modDyn

theorem MemOk.closeElem {s : State} {k : PageKey} {n : Nat} {e : Ecw} {t : Token} (h : MemOk s) : MemOk (s.closeElem k n e t) := by
  unfold State.closeElem
  extract_lets s1
  have hs1 : MemOk s1 := h.touch.modDyn
  exact MemOk.ite hs1.sinkEos hs1

theorem MemOk.strikeElem {s : State} {k : PageKey} {n : Nat} {e : Ecw} {t : Token} (h : MemOk s) : MemOk (s.strikeElem k n e t) :=
    h.touch.modDyn

theorem memOk_fireWith {r : ElemRule} {check : Args → State → Option (Nat × Word × Nat)} {data : Args → State → State} {e : Ecw}
    {k : PageKey} {n : Nat} {s : State} (hr : RuleOk r) (hdata : ∀ (x : Args) (t : State), MemOk t → MemOk (data x t)) (h : MemOk s) :
    MemOk (fireWith r check data e k n s) := by
  unfold fireWith
  split
  · exact h
  · exact MemOk.ite h.faultP h
  · exact MemOk.ite h.cueElem h
  · exact MemOk.ite (hr.strikes _ _ h) h.elemWaits
  · exact MemOk.ite (hr.closing _ _ h) h.elemWaits
  · extract_lets _ s1
    have hs1 : MemOk s1 := h.touch.modDyn
    split
    · exact h.elemWaits
    · split
      · exact h.faultP
      · split
        · split
          · exact h.faultP
          · exact hdata _ _ hs1
        · exact hs1

theorem ruleOk_stdRule {tri : Bool} {e : Ecw} {k : PageKey} {n : Nat} : RuleOk (stdRule tri e k n) :=
    ⟨fun _ _ hx => hx.strikeElem, fun _ _ hx => hx.closeElem⟩
theorem memOk_fireElem {tri : Bool} {check : Args → State → Option (Nat × Word × Nat)} {data : Args → State → State} {e : Ecw}
    {k : PageKey} {n : Nat} {s : State} (hdata : ∀ (x : Args) (t : State), MemOk t → MemOk (data x t)) (h : MemOk s) :
    MemOk (fireElem tri check data e k n s) := memOk_fireWith ruleOk_stdRule hdata h

theorem memOk_takeHead {q : QueueName} {f : Token → State → State} {e : Ecw} {k : PageKey} {n : Nat} {s : State}
    (hf : ∀ (x : Token) (t : State), MemOk t → MemOk (f x t)) (h : MemOk s) : MemOk (takeHead q f e k n s) := by
  unfold takeHead
  extract_lets
  split
  · split
    · exact h.elemWaits
    · split
      · exact h.faultP
      · split
        · split
          · exact h.faultP
          · extract_lets s1
            have hs1 : MemOk s1 := h.touch.modDyn
            exact MemOk.ite (hf _ _ hs1) hs1
        · split
          · exact h.faultP
          · extract_lets s1
            have hs1 : MemOk s1 := h.touch.modDyn
            exact MemOk.ite (hf _ _ hs1) hs1
  · exact h

theorem memOk_takePair {f : State → State} {e : Ecw} {k : PageKey} {n : Nat} {t : Token} {s : State}
    (hf : ∀ (t1 : State), MemOk t1 → MemOk (f t1)) (h : MemOk s) : MemOk (takePair f e k n t s) := by
  unfold takePair
  split
  · exact h
  · exact MemOk.ite h.elemWaits (MemOk.ite h.faultP (hf _ h.touch.modDyn))

theorem MemOk.modTag {s : State} {k : PageKey} {n : Nat} {t : Tag} {f : TagState → TagState} (h : MemOk s) : MemOk (s.modTag k n t f) :=
    h.modDyn
theorem MemOk.sendBoth {s : State} {k : PageKey} {n : Nat} {e : Ecw} {t : Token} (h : MemOk s) : MemOk (s.sendBoth k n e t) := h.modDyn
theorem MemOk.sendTok {s : State} {k : PageKey} {n : Nat} {e : Ecw} {second : Bool} {t : Token} (h : MemOk s) :
    MemOk (s.sendTok k n e second t) := h.modDyn
theorem MemOk.forwardEnd {s : State} {k : PageKey} {n : Nat} {e : Ecw} {t : Token} (h : MemOk s) : MemOk (s.forwardEnd k n e t) :=
    MemOk.ite h.modDyn.sinkEos h.modDyn
theorem MemOk.takeAll {s : State} {k : PageKey} {n : Nat} {e : Ecw} {t : Token} (h : MemOk s) : MemOk (s.takeAll k n e t) := h.touch.modDyn
theorem MemOk.emitOn {s : State} {k : PageKey} {n : Nat} {e : Ecw} {second : Bool} {tag : Tag} {v : Val} (h : MemOk s) :
    MemOk (s.emitOn k n e second tag v) := h.modDyn
theorem MemOk.emitBoth {s : State} {k : PageKey} {n : Nat} {e : Ecw} {tag : Tag} {v : Val} (h : MemOk s) :
    MemOk (s.emitBoth k n e tag v) := h.modDyn
theorem MemOk.modFiring {s : State} {k : PageKey} {b : Nat} {f : Firing → Firing} (h : MemOk s) : MemOk (s.modFiring k b f) := h.modDyn
theorem MemOk.countSend {s : State} {k : PageKey} {b : Nat} {tag : Tag} {edge : Nat} (h : MemOk s) : MemOk (s.countSend k b tag edge) :=
    h.modDyn

theorem MemOk.deliverTo {s : State} {k : PageKey} {b i : Nat} {second : Bool} {t : Target} {kind : Kind} {tag : Tag} {v : Val}
    (h : MemOk s) : MemOk (s.deliverTo k b i second t kind tag v) := by
  unfold State.deliverTo
  split
  · exact h
  · exact h.modFiring
  · exact h.modFiring
  · exact h.modFiring
  · exact (MemOk.ite h.countSend h).modDyn
  · split
    · exact h
    · split
      · exact h
      · split
        · exact h
        · exact h.modFiring

theorem MemOk.giveAs {s : State} {k : PageKey} {b i : Nat} {w : Blk} {kind : Kind} {tag : Tag} {v : Val} (h : MemOk s) :
    MemOk (s.giveAs k b i w kind tag v) := h.modFiring.deliverTo.deliverTo
theorem MemOk.give {s : State} {k : PageKey} {b i : Nat} {w : Blk} {tag : Tag} {v : Val} (h : MemOk s) : MemOk (s.give k b i w tag v) :=
    h.giveAs
theorem MemOk.giveNone {s : State} {k : PageKey} {b i : Nat} (h : MemOk s) : MemOk (s.giveNone k b i) := h.modFiring
theorem MemOk.faultPast {s : State} {cause : Nat} {k : PageKey} {b i : Nat} {tag : Tag} {info0 : DWord} {node : Nat} (h : MemOk s) :
    MemOk (s.faultPast cause k b i tag info0 node) := h.faultWide.modDyn.giveNone

theorem MemOk.spillFor {s : State} {k : PageKey} {b i : Nat} {w : Blk} {f : Firing} (h : MemOk s) : MemOk (s.spillFor k b i w f) := by
  unfold State.spillFor
  split
  · exact h
  · exact h.spillInto (fun _ hx1 => hx1.modDyn)

theorem MemOk.blockWaits {left right : Bool} {third : Word} {w : Blk} {k : PageKey} {b i : Nat} {s : State} (h : MemOk s) :
    MemOk (State.blockWaits left right third w k b i s) := by
  unfold State.blockWaits
  split
  · exact h
  · split
    · exact h
    · exact MemOk.ite h.spillFor h

theorem memOk_fireBlock {left right : Bool} {third : Word} {data : Args → State → State} {w : Blk} {k : PageKey} {b i : Nat} {s : State}
    (hdata : ∀ (x : Args) (t : State), MemOk t → MemOk (data x t)) (h : MemOk s) : MemOk (fireBlock left right third data w k b i s) := by
  unfold fireBlock
  split
  · exact h.blockWaits
  · split
    · exact h
    · exact MemOk.ite (hdata _ _ h) h.giveNone

theorem nextOk_runForm {f : Form} {s : State} {elem : Ecw → PageKey → Nat → State} {block : Blk → PageKey → Nat → Nat → State}
    (_h : MemOk s) (helem : ∀ (x : Ecw) (x1 : PageKey) (x2 : Nat), MemOk (elem x x1 x2))
    (hblock : ∀ (x : Blk) (x1 : PageKey) (x2 x3 : Nat), MemOk (block x x1 x2 x3)) : NextOk (runForm f s elem block) := by
  unfold runForm
  split
  · exact helem _ _ _
  · exact hblock _ _ _ _
  · exact trivial

theorem nextOk_runBlk {s : State} {block : PageKey → Nat → Nat → State} (_h : MemOk s)
    (hblock : ∀ (x : PageKey) (x1 x2 : Nat), MemOk (block x x1 x2)) : NextOk (runBlk s block) := by
  unfold runBlk
  split
  · exact hblock _ _ _
  · exact trivial

theorem nextOk_runEcw {s : State} {elem : PageKey → Nat → State} (_h : MemOk s) (helem : ∀ (x : PageKey) (x1 : Nat), MemOk (elem x x1)) :
    NextOk (runEcw s elem) := by
  unfold runEcw
  split
  · exact helem _ _
  · exact trivial

theorem nextOk_scalar {f : Form} {n : Nat} {op : Args → Res} {s : State} (h : MemOk s) : NextOk (scalar f n op s) :=
    nextOk_runForm h (fun _ _ _ => memOk_fireElem (fun _ _ ht1 => ht1.emitBoth.raiseFlags) h)
    (fun _ _ _ _ => memOk_fireBlock (fun _ _ ht1 => ht1.give.raiseFlags) h)

theorem MemOk.endHolds {s : State} {c : CtxId} {mine : HomeWrite → Bool} (h : MemOk s) : MemOk (s.endHolds c mine) := MemOk.ite h (h.same (by rfl))

end Sys2Proof.Machine
end

section
/-!
PROOF. The canonical form of the memories: what the homes, the translation and an access change.
-/
namespace Sys2Proof.Machine

theorem MemOk.pick {s : State} {ws : List WriteRec} (h : MemOk s) : MemOk (s.pick ws).2 := by
  unfold State.pick
  split
  · exact h
  · exact h
  · extract_lets r
    have hr : MemOk r.2 := h.choose
    exact hr

theorem MemOk.readAs {s : State} {c : Option CtxId} {d : Dep} {newest : Bool} {sp : Space} {a n : Nat} (h : MemOk s) :
    MemOk (s.readAs c d newest sp a n).2.2 := by
  unfold State.readAs
  extract_lets _ r
  have hr : MemOk r.2 := h.pick
  exact hr

theorem MemOk.readMany {s : State} {d : Dep} {sp : Space} {pa n : Nat} {l : List Nat} (h : MemOk s) : MemOk (s.readMany d sp pa n l).2 := by
  induction l generalizing s with
  | nil => exact h
  | cons w ws ih => exact ih h.readAs

theorem MemOk.readWord {s : State} {w : Who} {sp : Space} {a n : Nat} (h : MemOk s) : MemOk (s.readWord w sp a n).2.2 := h.readAs

theorem MemOk.readPair {s : State} {w : Who} {sp : Space} {a : Nat} (h : MemOk s) : MemOk (s.readPair w sp a).2.2 := by
  unfold State.readPair
  extract_lets ls hs pairs both l h1 r
  have hl : MemOk h1.2 := h.pick.pick
  have hr : MemOk r.2 := by
    unfold r
    split
    · exact h
    · exact h.choose
  clear_value r h1 l pairs
  cases pairs with
  | nil => exact hl
  | cons x xs =>
    dsimp only
    split
    · exact hr
    · exact hr

theorem MemOk.initialRec {s : State} {sp : Space} {a : Nat} (h : MemOk s) : MemOk (s.initialRec sp a) := MemOk.ite (h.same (by rfl)) h

theorem MemOk.recordWord {s : State} {w : Who} {ctx : Option CtxId} {committed : Bool} {sp : Space} {a : Nat} {bs : List Byte} {base : Nat}
    (h : MemOk s) : MemOk (s.recordWord w ctx committed sp a bs base).2 := by
  unfold State.recordWord
  extract_lets s1
  have hs1 : MemOk s1 := h.initialRec
  exact hs1.same (by rfl)

theorem MemOk.recordWords {s : State} {w : Who} {ctx : Option CtxId} {committed : Bool} {sp : Space} {a : Nat} {bs : List Byte}
    {l : List Nat} (h : MemOk s) : MemOk (s.recordWords w ctx committed sp a bs l).2 := by
  induction l generalizing s with
  | nil => exact h
  | cons b rest ih => exact ih h.recordWord

theorem MemOk.twinPair {s : State} {ids : List Nat} (h : MemOk s) : MemOk (s.twinPair ids) := by
  unfold State.twinPair
  split
  · exact h.same (by rfl)
  · exact h

theorem MemOk.noteTransient {s : State} {part : Option Nat} {arb cause : Nat} (h : MemOk s) : MemOk (s.noteTransient part arb cause) := by
  unfold State.noteTransient
  extract_lets t
  have ht : MemOk t := by
    unfold t
    split
    · exact h.modPart
    · exact h
  exact ht.healthIrq.noteCause

theorem MemOk.eccTransient {s : State} {sp : Space} {a : Nat} (h : MemOk s) : MemOk (s.eccTransient sp a) := h.noteTransient

theorem MemOk.soundWords {s : State} {sp : Space} {a n : Nat} (h : MemOk s) : MemOk (s.soundWords sp a n) := by
  unfold State.soundWords
  extract_lets _ t
  have ht : MemOk t := MemOk.ite (h.same (by rfl)) h
  exact MemOk.ite ht ((ht.same (by rfl)).foldl (fun _ _ hu1 => hu1.eccTransient))

theorem MemOk.markRing {s : State} {sp : Space} {a n : Nat} (h : MemOk s) : MemOk (s.markRing sp a n) := MemOk.ite h (h.same (by rfl))

theorem MemOk.performWrite {s : State} {w : Who} {sp : Space} {a va : Nat} {bs : List Byte} {atomic committed : Bool} (h : MemOk s) :
    MemOk (s.performWrite w sp a va bs atomic committed).2 := by
  unfold State.performWrite
  extract_lets _ r s1 _ t
  have hr : MemOk r.2 := h.recordWords
  have hs1 : MemOk s1 := MemOk.ite hr.twinPair hr
  have ht : MemOk t := hs1.same (by rfl)
  exact ht.markRing.soundWords

theorem MemOk.land {s : State} {sp : Space} {a : Nat} {bs : List Byte} (h : MemOk s) : MemOk (s.land sp a bs) := by
  unfold State.land
  extract_lets t
  have ht : MemOk t := h.setMem sp (Memory.wf_writeBytes (h.mem sp) a bs)
  split
  · exact ht.setMem .dram (Memory.wf_writeBytes (ht.mem .dram) _ bs)
  · exact ht

theorem MemOk.writeBackAll {s : State} (h : MemOk s) : MemOk s.writeBackAll := (h.foldl (fun _ _ ht1 => ht1.land)).same (by rfl)

theorem MemOk.writeBy {s : State} {region : Nat} {d : Dep} {words : List Nat} {sp : Space} {a : Nat} {bs : List Byte} (h : MemOk s) :
    MemOk (s.writeBy region d words sp a bs).2 := by
  unfold State.writeBy
  extract_lets _ r
  have hr : MemOk r.2 := h.writeBackAll.recordWords
  exact (hr.setMem sp (Memory.wf_writeBytes (hr.mem sp) a bs)).markRing.soundWords

theorem MemOk.writeNow {s : State} {sp : Space} {a : Nat} {bs : List Byte} (h : MemOk s) : MemOk (s.writeNow sp a bs) := h.writeBy
theorem MemOk.writeNatNow {s : State} {sp : Space} {a n v : Nat} (h : MemOk s) : MemOk (s.writeNatNow sp a n v) := h.writeNow

theorem MemOk.zeroRange {s : State} {sp : Space} {lo hi : Nat} (h : MemOk s) : MemOk (s.zeroRange sp lo hi) := by
  have hs : MemOk s.writeBackAll := h.writeBackAll
  exact (hs.setMem sp (Memory.wf_clear (hs.mem sp) lo hi)).soundWords.same (by rfl)

theorem MemOk.release {s : State} {w : Who} {sc : Scope} (h : MemOk s) : MemOk (s.release w sc).2 := h.same (by rfl)

theorem MemOk.cacheTable {s : State} {w : Walk} (h : MemOk s) : MemOk (s.cacheTable w) := by
  unfold State.cacheTable
  split
  · extract_lets _ mine q _
    have hq : MemOk q.2 := h.choose
    exact MemOk.ite h (MemOk.ite (h.same (by rfl)) (hq.same (by rfl)))
  · exact h

theorem MemOk.writeGpa {s : State} {part gpa n v : Nat} (h : MemOk s) : ExcOk (fun _ => True) MemOk (s.writeGpa part gpa n v) := by
  unfold State.writeGpa
  split
  · split
    · exact trivial
    · exact h.writeNatNow
  · exact trivial

theorem MemOk.readVa {s : State} {c : CtxId} {d : Dep} {va n : Nat} (h : MemOk s) : ExcOk (fun _ => True) (fun r => MemOk r.2)
    (s.readVa c d va n) := by
  unfold State.readVa
  split
  · split
    · exact trivial
    · exact h.readMany
  · exact trivial

theorem MemOk.retranslate {s : State} {part : Nat} {covers : GuestId → Queue → Bool} (h : MemOk s) : MemOk (s.retranslate part covers) :=
    h.same (by rfl)
theorem MemOk.requestVoid {s : State} {c : CtxId} {round : Nat} (h : MemOk s) : MemOk (s.requestVoid c round) :=
    MemOk.ite h h.modCtx.noteChoice

theorem MemOk.postVoid {s : State} {r : RingId} {f : FaultRec} (h : MemOk s) : MemOk (s.postVoid r f) := by
  unfold State.postVoid
  split
  · exact h.post.requestVoid
  · exact h.post

theorem MemOk.waitPull {s : State} {part frame : Nat} {r : FaultRec} (h : MemOk s) : MemOk (s.waitPull part frame r) :=
    MemOk.ite h h.modPart
theorem MemOk.xlFault {s : State} {c : CtxId} {va : Nat} {u : WalkFor} {f : XFault} {mse : Nat} {tag : Tag} {round : Nat} {window : Bool}
    (h : MemOk s) : MemOk (s.xlFault c va u f mse tag round window) := MemOk.ite h (h.same (by rfl)).postVoid

theorem MemOk.tlbFill {s : State} {mse : Nat} {c : CtxId} {va : Nat} {x : Xl} (h : MemOk s) : MemOk (s.tlbFill mse c va x) := by
  unfold State.tlbFill
  extract_lets _ _ _ _ _ q src
  have hq : MemOk q.2 := h.choose
  have hsrc : MemOk src := hq
  split
  · exact h.same (by rfl)
  · split
    · exact hsrc.same (by rfl)
    · exact h

theorem MemOk.translateAt {s : State} {mse : Nat} {c : CtxId} {u : WalkFor} {va : Nat} (h : MemOk s) :
    ExcOk (fun _ => True) (fun r => MemOk r.2) (s.translateAt mse c u va) := by
  unfold State.translateAt
  split
  · split
    · exact trivial
    · exact h
  · split
    · exact h.tlbFill
    · exact trivial

theorem MemOk.startCollapse {s : State} {part frame : Nat} (h : MemOk s) : MemOk (s.startCollapse part frame) := h.same (by rfl)

theorem MemOk.waitOn {s : State} {part : Nat} {f : XFault} (h : MemOk s) : MemOk (s.waitOn part f) := by
  unfold State.waitOn
  split
  · exact MemOk.ite h.startCollapse h
  · exact h

theorem MemOk.deviceFault {s : State} {c : CtxId} {va : Nat} {u : WalkFor} {f : XFault} (h : MemOk s) : MemOk (s.deviceFault c va u f) := by
  unfold State.deviceFault
  split
  · exact MemOk.ite h.startCollapse h
  · exact MemOk.ite h (h.same (by rfl)).post

theorem MemOk.noteReplica {s : State} {c : CtxId} {arb : Nat} (h : MemOk s) : MemOk (s.noteReplica c arb) := h.modPart.noteCause
theorem MemOk.startInval {s : State} {v : Inval} (h : MemOk s) : MemOk (s.startInval v).2 := h.same (by rfl)
theorem MemOk.modUndo {s : State} {c : CtxId} {f : UndoLog → UndoLog} (h : MemOk s) : MemOk (s.modUndo c f) := h.modCtx

theorem MemOk.logWrite {s : State} {c : CtxId} {gpa n v : Nat} (h : MemOk s) : MemOk (s.logWrite c gpa n v) := by
  unfold State.logWrite
  split
  · next he => exact h.writeGpa.of_eq he
  · exact h.tellHyp.modUndo

theorem MemOk.writeWindow {s : State} {c : CtxId} (h : MemOk s) : MemOk (s.writeWindow c) := by
  unfold State.writeWindow
  extract_lets
  split
  · exact h
  · exact h.logWrite

theorem MemOk.freeEntries {s : State} {c : CtxId} {old : List UndoWindow} (h : MemOk s) : MemOk (s.freeEntries c old) :=
    h.foldl (fun _ _ ht1 => ht1.logWrite)

theorem MemOk.appendUndo {s : State} {c : CtxId} {rs : List UndoRec} (h : MemOk s) : MemOk (s.appendUndo c rs) := by
  unfold State.appendUndo
  extract_lets _ _ _ _ s1
  have hs1 : MemOk s1 := h.foldl (fun _ _ ht1 => ht1.logWrite)
  exact MemOk.ite h hs1.modUndo.freeEntries.writeWindow

theorem MemOk.sealOpen {s : State} {c : CtxId} (h : MemOk s) : MemOk (s.sealOpen c) := by
  unfold State.sealOpen
  extract_lets
  split
  · exact h
  · split
    · exact h
    · exact MemOk.ite h h.modUndo.writeWindow.logEvent

theorem MemOk.openWindow {s : State} {c : CtxId} {round : Nat} (h : MemOk s) : MemOk (s.openWindow c round) :=
    h.modUndo.freeEntries.writeWindow

theorem MemOk.enterQueue {s : State} {id : Nat} (h : MemOk s) : MemOk (s.enterQueue id) := by
  unfold State.enterQueue
  split
  · exact h
  · exact MemOk.ite h.modReq h.modReq

theorem MemOk.letIn {s : State} {h : Home} {q : Nat} (hs : MemOk s) : MemOk (s.letIn h q) := by
  unfold State.letIn
  split
  · exact MemOk.ite hs.modReq hs
  · exact hs

theorem MemOk.enterHome {s : State} {id : Nat} {sp : Space} {pa : Nat} (h : MemOk s) : MemOk (s.enterHome id sp pa) := by
  unfold State.enterHome
  split
  · exact h
  · extract_lets _ s1
    have hs1 : MemOk s1 := h.modReq
    exact MemOk.ite hs1.modReq.requestClose hs1.enterQueue

theorem MemOk.beginWalk {s : State} {r : Req} {mse : Nat} (h : MemOk s) : MemOk (s.beginWalk r mse) := MemOk.ite h (h.same (by rfl))

theorem MemOk.issue {s : State} {p : Party} {n : Nat} {op : MemOp} {tag : Tag} {va size : Nat} {a b : DWord} {dep : Dep} {keep : Bool}
    (h : MemOk s) : MemOk (s.issue p n op tag va size a b dep keep).2 := by
  unfold State.issue
  extract_lets _ _ _ _ _ _ s1
  have hs1 : MemOk s1 := h.same (by rfl)
  split
  · exact hs1.enterHome
  · split
    · split
      · extract_lets
        exact hs1.enterHome
      · exact hs1.beginWalk
    · exact hs1.beginWalk

theorem MemOk.queueClosing {s : State} {p : Party} {t : Token} (h : MemOk s) : MemOk (s.queueClosing p t) := h.same (by rfl)

theorem MemOk.queueFence {s : State} {p : Party} {tag : Tag} {rel acq : Bool} {sc : Scope} {v : Val} {keep : Bool} (h : MemOk s) :
    MemOk (s.queueFence p tag rel acq sc v keep).2 := by
  unfold State.queueFence
  extract_lets _ _ s1
  have hs1 : MemOk s1 := h.same (by rfl)
  exact hs1.requestClose

theorem MemOk.addSeen {s : State} {p : Party} {round : Nat} {sp : Space} {a n : Nat} {d : Dep} (h : MemOk s) :
    MemOk (s.addSeen p round sp a n d) := h.same (by rfl)
theorem MemOk.addNodeDep {s : State} {k : PageKey} {n : Nat} {tag : Tag} {round : Nat} {d : Dep} (h : MemOk s) :
    MemOk (s.addNodeDep k n tag round d) := h.same (by rfl)

theorem MemOk.addLate {s : State} {r : Req} {d : Dep} (h : MemOk s) : MemOk (s.addLate r d) := by
  unfold State.addLate
  split
  · exact h.same (by rfl)
  · exact h

theorem MemOk.releaseBehind {s : State} {id : Nat} {d : Dep} (h : MemOk s) : MemOk (s.releaseBehind id d) := h.same (by rfl)
theorem MemOk.dropReq {s : State} {id : Nat} (h : MemOk s) : MemOk (s.dropReq id) := h.same (by rfl)

theorem MemOk.finish {s : State} {r : Req} {v : DWord} {fl : BitVec 6} {d : Dep} (h : MemOk s) : MemOk (s.finish r v fl d) := by
  unfold State.finish
  extract_lets s1 s2
  have hs1 : MemOk s1 := h.modReq
  have hs2 : MemOk s2 := hs1.addSeen.addNodeDep.addLate.releaseBehind
  exact hs2.modFrame

theorem MemOk.openWindowAt {s : State} {sp : Space} {a n : Nat} (h : MemOk s) : MemOk (s.openWindowAt sp a n) := h.same (by rfl)

theorem MemOk.writeReq {s : State} {r : Req} {w : Who} {atomic : Bool} {bs : List Byte} (h : MemOk s) :
    MemOk (s.writeReq r w atomic bs).2 := by
  unfold State.writeReq
  extract_lets q s1 s2
  have hq : MemOk q.2 := h.performWrite
  have hs1 : MemOk s1 := MemOk.ite hq.openWindowAt hq
  have hs2 : MemOk s2 := hs1.modCtx.appendUndo
  split
  · exact MemOk.ite hs2.sealOpen hs2
  · exact hs1

theorem MemOk.tellStall {s : State} {c : CtxId} (h : MemOk s) : MemOk (s.tellStall c) := MemOk.ite h h.modCtx.tellDebug
theorem MemOk.modFadd {s : State} {r : Req} {f : FaddWindow → FaddWindow} (h : MemOk s) : MemOk (s.modFadd r f) := h.same (by rfl)
theorem MemOk.addContribution {s : State} {r : Req} (h : MemOk s) : MemOk (s.addContribution r) := h.writeReq.finish
theorem MemOk.foldNext {s : State} {r : Req} (h : MemOk s) : MemOk (s.foldNext r) := h.addContribution.modFadd

theorem MemOk.homeFaultP {s : State} {r : Req} {cause : Nat} {value : Word} (h : MemOk s) : MemOk (s.homeFaultP r cause value) := by
  unfold State.homeFaultP
  extract_lets s1
  have hs1 : MemOk s1 := h.dropReq
  split
  · exact hs1.faultPast
  · exact hs1.faultP

theorem MemOk.homeFaultV {s : State} {r : Req} {f : XFault} (h : MemOk s) : MemOk (s.homeFaultV r f) := h.dropReq.xlFault

theorem MemOk.replicaFault {s : State} {r : Req} {frame : Nat} (h : MemOk s) : MemOk (s.replicaFault r frame) := by
  unfold State.replicaFault
  extract_lets s1
  have hs1 : MemOk s1 := h.dropReq.requestVoid.startCollapse
  exact hs1.noteReplica

theorem MemOk.markSuspect {s : State} {who : Word} {sp : Space} {a : Nat} (h : MemOk s) : MemOk (s.markSuspect who sp a) := (h.same (by rfl)).noteCause
theorem MemOk.firstFailure {s : State} {c : CtxId} {round : Nat} {sp : Space} {a : Nat} (h : MemOk s) :
    MemOk (s.firstFailure c round sp a) := h.markSuspect.requestVoid

theorem MemOk.secondTry {s : State} {part : Nat} {c : Option CtxId} {sp : Space} {a : Nat} (h : MemOk s) :
    MemOk (s.secondTry part c sp a).2 := by
  unfold State.secondTry
  extract_lets _ _ s1 _ s2
  have hs1 : MemOk s1 := h.same (by rfl)
  have hs2 : MemOk s2 := by
    unfold s2
    split <;> exact hs1.same (by rfl)
  split
  · exact hs1.eccTransient
  · exact hs2.tellHyp

theorem MemOk.secondAttempt {s : State} {r : Req} (h : MemOk s) : MemOk (s.secondAttempt r).2 := by
  unfold State.secondAttempt
  extract_lets q
  have hq : MemOk q.2 := h.secondTry
  split
  · exact hq
  · exact hq.homeFaultP

theorem MemOk.performOp {s : State} {r : Req} (h : MemOk s) : MemOk (s.performOp r) := by
  unfold State.performOp
  extract_lets _ _ q q1 _ _ q2 _ _ q3 q4 _ _ q5
  have hq : MemOk q.2.2 := h.readWord
  have hq1 : MemOk q1.2 := h.writeReq
  have hq2 : MemOk q2.2 := h.writeReq
  have hq3 : MemOk q3.2.2 := h.readPair
  have hq4 : MemOk q4.2 := h.writeReq
  have hq5 : MemOk q5.2 := h.writeReq
  split
  · exact hq.finish
  · exact hq1.finish
  · exact h.writeReq.finish
  · exact MemOk.ite hq2.finish h.openWindowAt.finish
  · exact h.addContribution
  · split
    · exact h.homeFaultP
    · extract_lets s1
      have hs1 : MemOk s1 := h.modReq.modFadd
      exact MemOk.ite hs1.foldNext hs1
  · exact hq3.finish
  · exact hq4.finish
  · exact MemOk.ite hq5.finish h.openWindowAt.finish
  · exact h

theorem MemOk.performReq {s : State} {r : Req} (h : MemOk s) : MemOk (s.performReq r) := by
  unfold State.performReq
  split
  · exact h.foldNext
  · extract_lets _ q t
    have hq : MemOk q.2 := h.secondAttempt
    have ht : MemOk t := h.performOp
    split
    · exact h.dropReq.postVoid
    · split
      · exact h.dropReq.postVoid
      · split
        · exact h.homeFaultV
        · split
          · exact h.replicaFault
          · split
            · split
              · exact h.tellHyp.homeFaultP
              · exact MemOk.ite h.dropReq.firstFailure (MemOk.ite (MemOk.ite hq.performOp hq) (MemOk.ite ht.requestClose ht))
            · split
              · exact h.tellHyp.homeFaultP
              · exact MemOk.ite h.dropReq.firstFailure (MemOk.ite (MemOk.ite hq.performOp hq) (MemOk.ite ht.requestClose ht))
            · split
              · exact h.tellHyp.homeFaultP
              · exact MemOk.ite h.dropReq.firstFailure (MemOk.ite (MemOk.ite hq.performOp hq) (MemOk.ite ht.requestClose ht))

theorem MemOk.takeReq {s : State} {h : Home} {r : Req} (hs : MemOk s) : MemOk (s.takeReq h r) := (MemOk.ite hs hs.decideBy).performReq

theorem MemOk.arbitrate {s : State} {h : Home} (hs : MemOk s) : MemOk (s.arbitrate h) := by
  unfold State.arbitrate
  extract_lets _ _ _ c
  have hc : MemOk c.2 := hs.choose
  split
  · split
    · exact hs
    · exact MemOk.ite hc hc.diverge
  · exact hs.takeReq
  · extract_lets c1
    have hc11 : MemOk c1.2 := hs.choose
    split <;> exact hc11.takeReq

theorem MemOk.joinClose {s : State} {h : Home} (hs : MemOk s) : MemOk (s.joinClose h) := hs.same (by rfl)

theorem nextOk_execHomeArbitrate {s : State} (h : MemOk s) : NextOk (execHomeArbitrate s) := by
  unfold execHomeArbitrate
  split
  · extract_lets t
    have ht : MemOk t := h.letIn.joinClose
    split
    · exact ht.tellStall.arbitrate
    · exact ht.arbitrate
  · exact trivial

theorem nextOk_execWriteBack {s : State} (h : MemOk s) : NextOk (execWriteBack s) := by
  unfold execWriteBack
  split
  · split
    · exact h
    · exact MemOk.ite h (h.land.same (by rfl)).noteChoice
  · exact trivial

theorem MemOk.deliverDone {s : State} {r : Req} (h : MemOk s) : MemOk (s.deliverDone r) := MemOk.ite h.modReq (h.same (by rfl))

theorem MemOk.respondElem {s : State} {k : PageKey} {n : Nat} {e : Ecw} {r : Req} (h : MemOk s) : MemOk (s.respondElem k n e r) := by
  unfold State.respondElem
  split
  · exact h
  · split
    · extract_lets s1
      have hs1 : MemOk s1 := h.deliverDone
      exact MemOk.ite hs1.sendBoth (MemOk.ite hs1.modDyn hs1.forwardEnd)
    · split
      · exact h
      · extract_lets _ s1 s2
        have hs1 : MemOk s1 := h.deliverDone
        have hs2 : MemOk s2 := MemOk.ite hs1.sendBoth hs1
        exact hs2.raiseFlags

theorem MemOk.respondBlock {s : State} {k : PageKey} {b i : Nat} {r : Req} (h : MemOk s) : MemOk (s.respondBlock k b i r) := by
  unfold State.respondBlock
  split
  · split
    · exact h
    · split
      · exact h.deliverDone
      · extract_lets _ _ _ _ _ _ s1 s2
        have hs1 : MemOk s1 := h.deliverDone.modFiring
        have hs2 : MemOk s2 := hs1.deliverTo.deliverTo
        exact MemOk.ite h hs2.raiseFlags
  · exact h.deliverDone

theorem nextOk_execAccessResponse {s : State} (h : MemOk s) : NextOk (execAccessResponse s) := by
  unfold execAccessResponse
  split
  · split
    · exact h
    · split
      · exact h
      · split
        · split
          · exact h.respondElem
          · exact h.deliverDone
        · exact h.respondBlock
        · exact MemOk.ite h.deliverDone h
  · exact trivial

theorem nextOk_execTlbWalkStep {s : State} (h : MemOk s) : NextOk (execTlbWalkStep s) := by
  unfold execTlbWalkStep
  split
  · split
    · split
      · split
        · exact h.beginWalk
        · exact h
      · exact h
    · extract_lets drop restart fault src
      have hdrop : ∀ (t : State), MemOk t → MemOk (drop t) := fun _ ht1 => ht1.same (by rfl)
      have hrestart : MemOk restart := h.same (by rfl)
      have hfault : ∀ (f : XFault), MemOk (fault f) := fun _ => MemOk.ite hrestart (((hdrop _ h).dropReq).xlFault)
      have hsrc : MemOk src := h.cacheTable
      split
      · exact MemOk.ite h.waitPull h
      · exact hsrc.same (by rfl)
      · exact hfault _
      · split
        · exact hfault _
        · extract_lets s1
          have hs1 : MemOk s1 := MemOk.ite (((hdrop _ h).cacheTable).tlbFill) (hdrop _ h)
          exact hs1.enterHome
  · exact trivial

theorem MemOk.engineRecord {s : State} {c : CtxId} {r : UndoRec} (h : MemOk s) : MemOk (s.engineRecord c r) := MemOk.ite h.modUndo h
theorem MemOk.swapRecord {s : State} {c : CtxId} {va : Nat} (h : MemOk s) : MemOk (s.swapRecord c va) := (h.same (by rfl)).engineRecord

theorem MemOk.invalDone {s : State} {v : Inval} (h : MemOk s) : MemOk (s.invalDone v) := by
  unfold State.invalDone
  extract_lets s0 _ _ _ _ t s1 _ s4 s5
  have hs0 : MemOk s0 := h.same (by rfl)
  have ht : MemOk t := hs0.same (by rfl)
  have hs1 : MemOk s1 := by
    unfold s1
    split
    · split
      · exact ht.foldl (fun _ _ hx1 => hx1.swapRecord)
      · exact ht
    · exact hs0
  have hs4 : MemOk s4 := by
    unfold s4
    split
    · exact hs1.same (by rfl)
    · exact hs1
  have hs5 : MemOk s5 := MemOk.ite hs4 hs4.retranslate
  exact MemOk.ite (hs5.same (by rfl)) hs5

theorem nextOk_execDrainAck {s : State} (h : MemOk s) : NextOk (execDrainAck s) := by
  unfold execDrainAck
  split
  · refine MemOk.ite (h.same (by rfl)) ?_
    split
    · exact h
    · extract_lets _ _ _ _ _ _ s0 s1
      have hs0 : MemOk s0 := h.same (by rfl)
      have hs1 : MemOk s1 := hs0.same (by rfl)
      exact MemOk.ite h (MemOk.ite hs0 (MemOk.ite hs1.invalDone hs1))
  · exact trivial

theorem MemOk.takeDirect {s : State} {h : Home} {p : Party} {round : Nat} (hs : MemOk s) : MemOk (s.takeDirect h p round) := hs.decideBy

theorem MemOk.reachAt {s : State} {p : Party} {mse : Nat} {sram : Bool} {a size : Nat} {write window : Bool} {tag : Tag} {round : Nat}
    (h : MemOk s) : ReachOk (s.reachAt p mse sram a size write window tag round) := by
  unfold State.reachAt
  extract_lets k use found
  have hfound : ExcOk (fun _ => True) (fun r => MemOk r.2.2) found := by
    unfold found
    split
    · exact h
    · split
      · next he =>
          have ht := h.translateAt.of_eq he
          exact ht
      · trivial
  clear_value found
  cases found with
  | error f =>
    dsimp only
    split
    · exact MemOk.ite h.waitPull h
    · exact h.xlFault
  | ok r =>
    obtain ⟨sp, pa, t⟩ := r
    have ht : MemOk t := hfound
    have hq : MemOk (t.secondTry k.ctx.part (some k.ctx) sp pa).2 := ht.secondTry
    exact ReachOk.ite ht.waitPull <| ReachOk.ite ht <| ReachOk.ite ht.postVoid <| ReachOk.ite ht.postVoid <|
      ReachOk.ite ht.xlFault <| ReachOk.ite ht.requestVoid.startCollapse.noteReplica <| ReachOk.ite ht.tellHyp <|
      ReachOk.ite ht.firstFailure <| ReachOk.ite (ReachOk.ite hq.takeDirect hq) ht.takeDirect

theorem MemOk.reachNode {s : State} {y : Party} {n : Nat} {pos : Int} {size : Nat} {write window : Bool} {tag : Tag} {round : Nat}
    (h : MemOk s) : ReachOk (s.reachNode y n pos size write window tag round) := by
  unfold State.reachNode
  extract_lets
  split
  · exact h
  · extract_lets
    split
    · exact h
    · split
      · exact h
      · split
        · exact h
        · exact h.reachAt

theorem MemOk.readRow {s : State} {w : Who} {sp : Space} {a n : Nat} (h : MemOk s) : MemOk (s.readRow w sp a n).2.2 := by
  induction n generalizing s a with
  | zero => exact h
  | succ n ih => exact ih h.readWord

theorem MemOk.readElem {s : State} {w : Who} {sp : Space} {a size : Nat} (h : MemOk s) : MemOk (s.readElem w sp a size).2.2 := by
  unfold State.readElem
  split
  · extract_lets q
    have hq : MemOk q.2.2 := h.readWord
    exact hq
  · extract_lets q
    have hq : MemOk q.2.2 := h.readRow
    exact hq

theorem MemOk.storeElem {s : State} {w : Who} {sp : Space} {a va : Nat} {bs : List Byte} (h : MemOk s) :
    MemOk (s.storeElem w sp a va bs).2 := by
  unfold State.storeElem
  extract_lets q
  have hq : MemOk q.2 := h.performWrite
  exact MemOk.ite hq.requestClose hq

end Sys2Proof.Machine
end

section
/-!
PROOF. The canonical form of the memories: the dataflow instructions.
-/
namespace Sys2Proof.Machine

theorem MemOk.setInsSt {s : State} {k : PageKey} {b i : Nat} {st : TagState} (h : MemOk s) : MemOk (s.setInsSt k b i st) := h.modDyn
theorem MemOk.passBoth {s : State} {k : PageKey} {n : Nat} {e : Ecw} {t : Token} (h : MemOk s) : MemOk (s.passBoth k n e t) :=
    MemOk.ite h.emitBoth h.sendBoth
theorem MemOk.passFirst {s : State} {k : PageKey} {n : Nat} {e : Ecw} {t : Token} (h : MemOk s) : MemOk (s.passFirst k n e t) :=
    MemOk.ite h.emitOn h.sendTok
theorem MemOk.giveOne {s : State} {k : PageKey} {b i : Nat} {w : Blk} {second : Bool} {tag : Tag} {v : Val} (h : MemOk s) :
    MemOk (s.giveOne k b i w second tag v) := h.giveNone.deliverTo

theorem nextOk_execSteer {f : Form} {s : State} (h : MemOk s) : NextOk (execSteer f s) := by
  exact nextOk_runForm h
    (fun _ _ _ => memOk_fireWith ⟨fun _ _ hx => hx.strikeElem, fun _ _ hx => hx.takeAll.modDyn⟩ (fun _ _ ht => ht.emitOn) h)
    (fun _ _ _ _ => memOk_fireBlock (fun _ _ ht => ht.giveOne) h)

theorem memOk_mergeBlock {w : Blk} {k : PageKey} {b i : Nat} {s : State} (h : MemOk s) : MemOk (mergeBlock w k b i s) := by
  unfold mergeBlock
  split
  · split
    · exact h
    · extract_lets q _ _ v
      clear_value q v
      split
      · split
        · exact MemOk.ite h.spillFor h
        · exact MemOk.ite h.give h.giveNone
      · exact h
  · exact h

theorem memOk_mergeEnds {e : Ecw} {k : PageKey} {n : Nat} {a b : Token} {s : State} (h : MemOk s) : MemOk (mergeEnds e k n a b s) :=
    MemOk.ite h (MemOk.ite (memOk_takePair (fun _ hx1 => hx1.forwardEnd) h) (MemOk.ite h.faultP h))

theorem memOk_mergeElem {solo : Token → Bool} {pick : Token → Token → State → QueueName × State} {e : Ecw} {k : PageKey} {n : Nat}
    {s : State} (hpick : ∀ (x x1 : Token) (t : State), MemOk t → MemOk (pick x x1 t).2) (h : MemOk s) :
    MemOk (mergeElem solo pick e k n s) := by
  unfold mergeElem
  extract_lets take
  have htake : ∀ (q : QueueName) (s1 : State), MemOk s1 → MemOk (take q s1) :=
      fun _ _ hs1 => memOk_takeHead (fun _ _ hx1 => hx1.modDyn.passBoth) hs1
  split
  · exact MemOk.ite h.cueElem h
  · split
    · exact h
    · exact MemOk.ite h (htake _ _ h)
    · exact MemOk.ite h (htake _ _ h)
    · exact MemOk.ite (memOk_mergeEnds h)
        (MemOk.ite (htake _ _ h) (MemOk.ite (htake _ _ h) (MemOk.ite (htake _ _ (hpick _ _ _ h)) (htake _ _ h))))

theorem nextOk_execMerge {f : Form} {s : State} (h : MemOk s) : NextOk (execMerge f s) :=
    nextOk_runForm h (fun _ _ _ => memOk_mergeElem (fun _ _ _ ht => ht.decideBy) h) (fun _ _ _ _ => memOk_mergeBlock h)
theorem nextOk_execOmerge {f : Form} {s : State} (h : MemOk s) : NextOk (execOmerge f s) :=
    nextOk_runForm h (fun _ _ _ => memOk_mergeElem (fun _ _ _ ht1 => ht1) h) (fun _ _ _ _ => memOk_mergeBlock h)

theorem memOk_cmergeElem {e : Ecw} {k : PageKey} {n : Nat} {s : State} (h : MemOk s) : MemOk (cmergeElem e k n s) := by
  unfold cmergeElem
  split
  · exact MemOk.ite h.cueElem h
  · split
    · exact h
    · split
      · exact h.elemWaits
      · split
        · extract_lets
          split
          · exact h
          · split
            · exact h
            · split
              · exact h
              · split
                · exact h.faultP
                · split
                  · exact h.faultP
                  · extract_lets s1
                    have hs1 : MemOk s1 := h.touch.modDyn
                    exact MemOk.ite hs1.emitBoth hs1.sendBoth
        · split
          · exact h
          · split
            · extract_lets _ s1
              have hs1 : MemOk s1 := h.touch.modDyn
              exact MemOk.ite hs1.sendBoth hs1.forwardEnd
            · exact h.faultP

theorem nextOk_execCmerge {f : Form} {s : State} (h : MemOk s) : NextOk (execCmerge f s) :=
    nextOk_runForm h (fun _ _ _ => memOk_cmergeElem h) (fun _ _ _ _ => memOk_mergeBlock h)

theorem memOk_gateElem {e : Ecw} {k : PageKey} {n : Nat} {s : State} (h : MemOk s) : MemOk (gateElem e k n s) := by
  unfold gateElem
  split
  · exact MemOk.ite h.cueElem h
  · extract_lets
    split
    · exact memOk_takeHead (fun _ _ hx1 => MemOk.ite hx1.modTag.emitBoth (MemOk.ite hx1.sendBoth hx1.forwardEnd)) h
    · split
      · exact h
      · split
        · exact h
        · split
          · exact h.elemWaits
          · split
            · exact h.faultP
            · extract_lets s1
              have hs1 : MemOk s1 := h.touch.modDyn
              exact MemOk.ite hs1.modTag hs1

theorem nextOk_execGate {f : Form} {s : State} (h : MemOk s) : NextOk (execGate f s) :=
    nextOk_runForm h (fun _ _ _ => memOk_gateElem h) (fun _ _ _ _ => memOk_fireBlock (fun _ _ ht1 => MemOk.ite ht1.giveNone ht1.give) h)

theorem nextOk_execDup {f : Form} {s : State} (h : MemOk s) : NextOk (execDup f s) :=
    nextOk_runForm h (fun _ _ _ => memOk_fireWith (⟨fun _ _ hx1 => hx1.takeAll.sendBoth, fun _ _ hx1 => hx1.takeAll.sendBoth.modDyn⟩)
    (fun _ _ ht1 => ht1.emitBoth) h) (fun _ _ _ _ => memOk_fireBlock (fun _ _ ht1 => ht1.give) h)

theorem nextOk_execDrop {f : Form} {s : State} (h : MemOk s) : NextOk (execDrop f s) :=
    nextOk_runForm h (fun _ _ _ => memOk_fireWith (⟨fun _ _ hx1 => hx1.takeAll, fun _ _ hx1 => hx1.closeElem⟩) (fun _ _ ht1 => ht1) h)
    (fun _ _ _ _ => memOk_fireBlock (fun _ _ ht1 => ht1.giveNone) h)

theorem memOk_repeatReplay {e : Ecw} {k : PageKey} {n : Nat} {t : Tag} {s : State} (h : MemOk s) : MemOk (repeatReplay e k n t s) := by
  unfold repeatReplay
  extract_lets
  split
  · exact h.touch.modTag.sendBoth
  · exact h.modTag

theorem memOk_repeatElem {e : Ecw} {k : PageKey} {n : Nat} {s : State} (h : MemOk s) : MemOk (repeatElem e k n s) := by
  unfold repeatElem
  extract_lets
  split
  · exact MemOk.ite (memOk_repeatReplay h) h.elemWaits
  · split
    · exact MemOk.ite h.cueElem h
    · split
      · exact h
      · split
        · exact h
        · split
          · exact h.elemWaits
          · split
            · split
              · exact h
              · split
                · exact h.faultP
                · split
                  · exact h.faultP
                  · split
                    · exact h.touch.modDyn.modTag.modDyn
                    · exact MemOk.ite (memOk_takePair (fun _ hy1 => hy1.forwardEnd) h) (MemOk.ite h.touch.modDyn (MemOk.ite h h.faultP))
            · split
              · exact h
              · extract_lets
                split
                · exact h.modTag.modDyn
                · split
                  · exact h.faultP
                  · refine memOk_takeHead (fun _ _ hy1 => ?_) h
                    extract_lets y11 y2
                    have hy11 : MemOk y11 := hy1.modTag
                    have hy2 : MemOk y2 := MemOk.ite hy11 hy11.sendBoth
                    exact MemOk.ite hy2.modTag.modDyn hy2

theorem nextOk_execRepeatSeg {e : Ecw} {s : State} (h : MemOk s) : NextOk (execRepeatSeg e s) :=
    nextOk_runEcw h (fun _ _ => memOk_repeatElem h)

theorem nextOk_execCount {f : Form} {s : State} (h : MemOk s) : NextOk (execCount f s) := by
  unfold execCount
  extract_lets
  refine nextOk_runForm h (fun e k n => memOk_fireWith ⟨fun t x hx => MemOk.ite hx.takeAll.sendTok hx.strikeElem, fun t x hx => ?_⟩
      (fun _ _ ht1 => MemOk.ite ht1.modTag.emitOn ht1.modTag) h) (fun _ _ _ _ => memOk_fireBlock (fun _ _ ht1 => ht1.setInsSt.give) h)
  have hy : MemOk (x.takeAll k n e t) := hx.takeAll
  exact (MemOk.ite hy.sendTok.modTag hy).forwardEnd

theorem memOk_iterStep {e : Ecw} {k : PageKey} {n : Nat} {t : Tag} {s : State} (h : MemOk s) : MemOk (iterStep e k n t s) := by
  unfold iterStep
  extract_lets
  split
  · exact h.modTag.emitBoth
  · exact h.modTag.sendBoth

theorem nextOk_execIter {f : Form} {s : State} (h : MemOk s) : NextOk (execIter f s) := by
  unfold execIter
  refine nextOk_runForm h (fun _ _ _ => ?_) (fun _ _ _ _ => memOk_fireBlock (fun _ _ ht1 => ht1.giveOne) h)
  split
  · exact MemOk.ite (memOk_iterStep h.touch) h.elemWaits
  · refine memOk_fireElem (fun _ _ ht1 => ?_) h
    extract_lets _ t11
    have ht11 : MemOk t11 := ht1.modTag
    exact MemOk.ite (memOk_iterStep ht11) ht11

theorem nextOk_execStrikeMake {f : Form} {s : State} (h : MemOk s) : NextOk (execStrikeMake f s) :=
    nextOk_runForm h (fun _ _ _ => memOk_fireElem (fun _ _ ht1 => ht1.sendBoth) h)
    (fun _ _ _ _ => memOk_fireBlock (fun _ _ ht1 => ht1.giveAs) h)

theorem memOk_annulPass {e : Ecw} {k : PageKey} {n : Nat} {s : State} (h : MemOk s) : MemOk (annulPass e k n s) :=
    memOk_takeHead (fun _ _ hy1 => MemOk.ite hy1.modTag.passFirst (MemOk.ite hy1.sendTok hy1.modDyn.modDyn.modTag)) h

theorem memOk_annulElem {e : Ecw} {k : PageKey} {n : Nat} {s : State} (h : MemOk s) : MemOk (annulElem e k n s) := by
  unfold annulElem
  extract_lets fwd
  split
  · exact MemOk.ite h.cueElem h
  · split
    · exact h
    · exact MemOk.ite h.faultP h
    · have hpass : MemOk (annulPass e k n s) := memOk_annulPass h
      refine MemOk.ite h.elemWaits <| MemOk.ite h.faultP <| MemOk.ite hpass <| MemOk.ite h.faultP <|
        MemOk.ite (MemOk.ite h.faultP <| MemOk.ite h <| MemOk.ite hpass <| memOk_takeHead (fun t y hy => ?_) h) <|
        MemOk.ite (MemOk.ite hpass h) <| MemOk.ite h <| MemOk.ite (memOk_takePair (fun y hy => ?_) h) hpass
      · exact MemOk.ite hy.modDyn.modTag.sendTok hy.modDyn.modTag
      · extract_lets y1 y2 y3
        have hy1 : MemOk y1 := MemOk.ite hy hy.modDyn
        exact MemOk.ite hy1.modTag.modDyn.sinkEos hy1.modTag.modDyn

theorem nextOk_execStrikeAnnul {e : Ecw} {s : State} (h : MemOk s) : NextOk (execStrikeAnnul e s) :=
    nextOk_runEcw h (fun _ _ => memOk_annulElem h)

theorem memOk_joinHead {e : Ecw} {q : QueueName} {k : PageKey} {n : Nat} {s : State} (h : MemOk s) : MemOk (joinHead e q k n s) := by
  unfold joinHead
  refine memOk_takeHead (fun _ _ hy1 => ?_) h
  extract_lets _ _ _ _ _ y11 y12 y2
  have hy11 : MemOk y11 := MemOk.ite hy1.modDyn hy1
  have hy12 : MemOk y12 := hy1.modDyn
  have hy2 : MemOk y2 := MemOk.ite (MemOk.ite hy12.modTag hy12.modDyn) hy12.modDyn
  exact MemOk.ite (MemOk.ite hy11.modTag.emitBoth hy11.modTag) (MemOk.ite (MemOk.ite hy2.sinkEos hy2) hy1)

theorem nextOk_execJoin {f : Form} {s : State} (h : MemOk s) : NextOk (execJoin f s) := by
  unfold execJoin
  refine nextOk_runForm h (fun _ _ _ => ?_)
      (fun _ _ _ _ => memOk_fireBlock (fun _ _ ht1 => MemOk.ite ht1.setInsSt.give ht1.setInsSt.giveNone) h)
  split
  · exact MemOk.ite h.cueElem h
  · exact MemOk.ite (memOk_joinHead h) (MemOk.ite (memOk_joinHead h) h)

theorem memOk_reduceElem {e : Ecw} {k : PageKey} {n : Nat} {s : State} (h : MemOk s) : MemOk (reduceElem e k n s) := by
  unfold reduceElem
  extract_lets unord md x
  refine memOk_fireWith
      ⟨fun _ _ hy => MemOk.ite hy.takeAll (MemOk.ite hy.faultP (MemOk.ite hy hy.takeAll.modTag.raiseFlags)), fun t y hy => ?_⟩
    (fun _ _ ht => MemOk.ite ht.modTag.raiseFlags ht.modTag.raiseFlags) h
  have hy1 : MemOk (y.takeAll k n e t) := hy.takeAll
  refine MemOk.ite ?_ hy1.forwardEnd
  split
  · exact hy1.modTag.sendBoth.forwardEnd.raiseFlags
  · exact hy1.modTag.forwardEnd

theorem nextOk_execReduce {f : Form} {s : State} (h : MemOk s) : NextOk (execReduce f s) := by
  unfold execReduce
  refine nextOk_runForm h (fun _ _ _ => memOk_reduceElem h) (fun _ _ _ _ => memOk_fireBlock (fun _ _ ht1 => ?_) h)
  extract_lets _ _ _ _ _ _ t11
  have ht11 : MemOk t11 := by
    unfold t11
    split
    · exact MemOk.ite ht1.setInsSt.give ht1.setInsSt.giveNone
    · exact ht1.setInsSt.giveNone
  exact MemOk.ite ht1.faultP ht11.raiseFlags

theorem nextOk_execScanp {f : Form} {s : State} (h : MemOk s) : NextOk (execScanp f s) := by
  exact nextOk_runForm h
    (fun _ _ _ => memOk_fireWith ⟨fun _ _ hx => hx.strikeElem, fun _ _ hx => (MemOk.ite hx.takeAll.modTag hx.takeAll).forwardEnd⟩
      (fun _ _ ht => ht.modTag.emitBoth.raiseFlags) h)
    (fun _ _ _ _ => memOk_fireBlock (fun _ _ ht => ht.setInsSt.give.raiseFlags) h)

theorem memOk_mkeosOwn {e : Ecw} {k : PageKey} {n : Nat} {t : Tag} {count : Nat} {s : State} (h : MemOk s) :
    MemOk (mkeosOwn e k n t count s) := MemOk.ite h.modTag.sendBoth h.modTag.sendBoth
theorem memOk_mkeosEnd {e : Ecw} {k : PageKey} {n : Nat} {t : Token} {seen : Nat} {s : State} (h : MemOk s) :
    MemOk (mkeosElem.mkeosEnd e k n t seen s) := MemOk.ite h.modTag h

theorem memOk_mkeosLeft {e : Ecw} {k : PageKey} {n : Nat} {s : State} (h : MemOk s) : MemOk (mkeosElem.mkeosLeft e k n s) := by
  unfold mkeosElem.mkeosLeft
  split
  · exact h
  · extract_lets
    split
    · exact h
    · refine memOk_takeHead (fun _ _ hy1 => MemOk.ite ?_ (MemOk.ite hy1.sendBoth (MemOk.ite (memOk_mkeosEnd hy1.modDyn) ?_))) h
      · extract_lets y11
        have hy11 : MemOk y11 := hy1.modTag.emitBoth
        exact MemOk.ite (memOk_mkeosOwn hy11) hy11
      · extract_lets y11
        have hy11 : MemOk y11 := MemOk.ite (memOk_mkeosOwn hy1) hy1
        exact memOk_mkeosEnd hy11.modTag.forwardEnd

theorem memOk_mkeosElem {e : Ecw} {k : PageKey} {n : Nat} {s : State} (h : MemOk s) : MemOk (mkeosElem e k n s) := by
  unfold mkeosElem
  split
  · exact MemOk.ite h.cueElem h
  · extract_lets
    split
    · split
      · split
        · exact h.elemWaits
        · split
          · exact h.faultP
          · extract_lets s1 s2
            have hs1 : MemOk s1 := h.touch.modDyn
            have hs2 : MemOk s2 := hs1.modTag
            exact MemOk.ite (MemOk.ite (memOk_mkeosOwn hs2) hs2) (MemOk.ite (MemOk.ite hs1.modDyn hs1.modTag) hs1)
      · exact memOk_mkeosLeft h
    · exact memOk_mkeosLeft h

theorem nextOk_execMkeos {f : Form} {s : State} (h : MemOk s) : NextOk (execMkeos f s) :=
    nextOk_runForm h (fun _ _ _ => memOk_mkeosElem h) (fun _ _ _ _ => memOk_fireBlock (fun _ _ ht1 => MemOk.ite ht1.giveAs ht1.giveAs) h)

theorem nextOk_execTagw {f : Form} {s : State} (h : MemOk s) : NextOk (execTagw f s) := by
  unfold execTagw
  extract_lets
  exact nextOk_runForm h (fun _ _ _ => memOk_fireElem (fun _ _ ht1 => ht1.modDyn) h)
      (fun _ _ _ _ => memOk_fireBlock (fun _ _ ht1 => MemOk.ite ht1.giveAs ht1.faultP) h)

theorem nextOk_execNexti {f : Form} {s : State} (h : MemOk s) : NextOk (execNexti f s) :=
    nextOk_runForm h (fun _ _ _ => memOk_fireElem (fun _ _ ht1 => ht1.modTag.emitBoth) h)
    (fun _ _ _ _ => memOk_fireBlock (fun _ _ ht1 => ht1.giveNone.modDyn) h)

theorem nextOk_execRclose {f : Form} {s : State} (h : MemOk s) : NextOk (execRclose f s) :=
    nextOk_runForm h (fun _ _ _ => memOk_fireElem (fun _ _ ht1 => ht1.emitBoth.requestClose) h)
    (fun _ _ _ _ => memOk_fireBlock (fun _ _ ht1 => ht1.give.requestClose) h)

theorem MemOk.modCb {s : State} {k : PageKey} {b h : Nat} {f : Cb → Cb} (hs : MemOk s) : MemOk (s.modCb k b h f) := hs.modDyn

theorem nextOk_execRecv {w : Blk} {s : State} (h : MemOk s) : NextOk (execRecv w s) := by
  unfold execRecv
  refine nextOk_runBlk h (fun _ _ _ => memOk_fireBlock (fun _ _ ht1 => ?_) h)
  split
  · exact ht1
  · exact ht1.give

theorem nextOk_execPeek {w : Blk} {s : State} (h : MemOk s) : NextOk (execPeek w s) := by
  unfold execPeek
  refine nextOk_runBlk h (fun _ _ _ => memOk_fireBlock (fun _ _ ht1 => ?_) h)
  extract_lets
  split
  · exact ht1.faultP
  · split
    · exact ht1
    · exact ht1.give

theorem nextOk_execEmit {w : Blk} {s : State} (h : MemOk s) : NextOk (execEmit w s) :=
    nextOk_runBlk h (fun _ _ _ => memOk_fireBlock (fun _ _ ht1 => ht1.giveNone.modFiring) h)
theorem nextOk_advance {w : Blk} {s : State} (h : MemOk s) : NextOk (advance w s) :=
    nextOk_runBlk h (fun _ _ _ => memOk_fireBlock (fun _ _ ht1 => ht1.giveNone.modFiring) h)
theorem nextOk_execAdvr {w : Blk} {s : State} (h : MemOk s) : NextOk (execAdvr w s) := nextOk_advance h
theorem nextOk_execAdvw {w : Blk} {s : State} (h : MemOk s) : NextOk (execAdvw w s) := nextOk_advance h
theorem nextOk_execCbq {w : Blk} {s : State} (h : MemOk s) : NextOk (execCbq w s) :=
    nextOk_runBlk h (fun _ _ _ => memOk_fireBlock (fun _ _ ht1 => ht1.give) h)

theorem nextOk_execOneos {f : Form} {s : State} (h : MemOk s) : NextOk (execOneos f s) := by
  unfold execOneos
  extract_lets sel
  refine nextOk_runForm h
    (fun e k n => memOk_fireWith ⟨fun _ _ hx => hx.takeAll.sendTok, fun t x hx => ?_⟩ (fun _ _ ht => MemOk.ite ht ht.emitOn) h)
    (fun _ _ _ _ => memOk_fireBlock (fun _ _ ht => ?_) h)
  · have hy : MemOk (x.takeAll k n e t) := hx.takeAll
    have hsend : ∀ b u, MemOk ((x.takeAll k n e t).sendTok k n e b u) := fun _ _ => hy.sendTok
    have hy1 := MemOk.ite (c := sel t.kind) (hsend true { kind := .data, tag := t.tag, pay := t.pay, dep := t.dep }) hy
    have hy2 := MemOk.ite (c := e.eosp == .absorb && sel t.kind) hy1 (hy1.modDyn (k := k) (f := fun d => d.sendClose n e false t))
    exact MemOk.ite hy2.modDyn.sinkEos hy2.modDyn
  · split
    · exact ht
    · exact ht.give

theorem memOk_fxWrite {s : State} {k : PageKey} {b i : Nat} {tag : Tag} {ws : List SlotWrite} {fl : Flags} (h : MemOk s) :
    MemOk (fxWrite s k b i tag ws fl) := h.giveNone.modFiring.raiseFlags

theorem nextOk_execFxpk {w : Blk} {s : State} (h : MemOk s) : NextOk (execFxpk w s) := by
  unfold execFxpk
  refine nextOk_runBlk h (fun _ _ _ => memOk_fireBlock (fun _ _ ht1 => ?_) h)
  split
  · exact ht1
  · exact memOk_fxWrite ht1

theorem nextOk_execFxsc {w : Blk} {s : State} (h : MemOk s) : NextOk (execFxsc w s) := by
  unfold execFxsc
  refine nextOk_runBlk h (fun _ _ _ => memOk_fireBlock (fun _ _ ht1 => ?_) h)
  split
  · exact ht1
  · exact memOk_fxWrite ht1

theorem nextOk_execFxun {w : Blk} {s : State} (h : MemOk s) : NextOk (execFxun w s) := by
  unfold execFxun
  refine nextOk_runBlk h (fun _ _ _ => memOk_fireBlock (fun _ _ ht1 => ?_) h)
  split
  · exact ht1
  · exact memOk_fxWrite ht1

end Sys2Proof.Machine
end

section
/-!
PROOF. The canonical form of the memories: channels, wings and censuses.
-/
namespace Sys2Proof.Machine

theorem MemOk.noteTag {s : State} {k : PageKey} {tag : Tag} (h : MemOk s) : OptOk MemOk (s.noteTag k tag) := by
  unfold State.noteTag
  split
  · exact h
  · extract_lets _ _ _ start s1
    have hstart : ∀ (t : State) (n : Nat), MemOk t → MemOk (start t n) := fun _ _ ht1 => MemOk.ite ht1.modDyn ht1
    have hs1 : MemOk s1 := MemOk.ite h.modDyn h
    split
    · exact trivial
    · exact hs1.foldl hstart

theorem MemOk.noteItem {s : State} {k : PageKey} {i : Item} (h : MemOk s) : OptOk MemOk (s.noteItem k i) := by
  unfold State.noteItem
  split
  · split
    · exact h
    · exact h.noteTag
  · exact h

theorem MemOk.foldArrival {s : State} {k : PageKey} {src : Option Place} {q : Place} {i : Item} (h : MemOk s) :
    OptOk MemOk (s.foldArrival k src q i) := by
  unfold State.foldArrival
  split
  · split
    · exact h
    · extract_lets
      split
      · exact trivial
      · exact h.decideBy
  · exact h

theorem MemOk.hop {s : State} {k : PageKey} {src : Place} (h : MemOk s) : MemOk (s.hop k src) := by
  unfold State.hop
  split
  · exact h
  · split
    · exact h
    · extract_lets _ next go
      have hgo : ∀ t, MemOk t → MemOk (go t) := fun t ht =>
        (List.foldlRecOn (motive := OptOk MemOk) next _ (b := some t) ht fun _ ho _ _ => ho.bind fun _ hy => hy.foldArrival).elim h
          fun _ hy => hy.modDyn
      refine MemOk.ite h ?_
      split
      · split
        · next he => exact hgo _ (h.noteItem.of_eq he)
        · exact h
      · exact hgo _ h

theorem MemOk.fillSlot {s : State} {k : PageKey} {b : Nat} {c : CbEntry} {x : Slot} (h : MemOk s) : OptOk MemOk (s.fillSlot k b c x) := by
  unfold State.fillSlot
  extract_lets
  split
  · exact h.modCb
  · exact trivial

theorem MemOk.arrive {s : State} {k : PageKey} {chan : Nat} {t : Token} (h : MemOk s) : OptOk MemOk (s.arrive k chan t) := by
  unfold State.arrive
  split
  · exact trivial
  · split
    · split
      · exact h
      · exact h.modCb
    · split
      · exact h.modCb
      · exact h.fillSlot

theorem MemOk.sendRoute {s : State} {k : PageKey} {r : Route} {t : Token} (h : MemOk s) : OptOk MemOk (s.sendRoute k r t) := by
  unfold State.sendRoute
  split
  · exact h
  · exact h.arrive
  · split
    · split
      · exact h
      · split
        · exact h.foldArrival.map fun _ hx => hx.modDyn
        · exact trivial
    · exact trivial

theorem MemOk.makePending {s : State} {k : PageKey} (h : MemOk s) : MemOk (s.makePending k) := by
  unfold State.makePending
  extract_lets _ t
  have ht : MemOk t := h.foldl (fun _ _ ht1 => ht1.modPage)
  exact ht.modPart

theorem MemOk.signal {s : State} {k : PageKey} {by_ : Nat} (h : MemOk s) : MemOk (s.signal k by_) := by
  unfold State.signal
  split
  · exact h
  · split
    · exact MemOk.ite h h.modPart.sendCtl.logEvent
    · exact h.modPage.makePending
    · exact h.modPage
    · exact h

theorem MemOk.wingPoolNote {s : State} {c : CtxId} (h : MemOk s) : MemOk (s.wingPoolNote c) := MemOk.ite (h.same (by rfl)).advise (h.same (by rfl))

theorem MemOk.intoWing {s : State} {p : Page} {port : Nat} {i : Item} (h : MemOk s) : MemOk (s.intoWing p port i) := by
  unfold State.intoWing
  extract_lets _ _ s0 s1
  have hs0 : MemOk s0 := h.modDyn
  have hs1 : MemOk s1 := MemOk.ite hs0 hs0.wingPoolNote
  exact MemOk.ite hs1 hs1.signal

theorem MemOk.deliverAt {s : State} {k : PageKey} {port : Nat} {i : Item} {force : Bool} (h : MemOk s) :
    OptOk MemOk (s.deliverAt k port i force) := by
  unfold State.deliverAt
  split
  · exact trivial
  · extract_lets _ _ s1
    have hs1 : MemOk s1 := h.getD h.noteItem
    split
    · split
      · exact hs1.modDyn
      · split
        · exact h.intoWing
        · exact trivial
    · split
      · exact h.intoWing
      · exact trivial

theorem MemOk.injectAt {s : State} {k : PageKey} {port : Nat} {t : Token} (h : MemOk s) : OptOk MemOk (s.injectAt k port t) := by
  unfold State.injectAt
  split
  · exact h.deliverAt
  · exact trivial

theorem MemOk.sendEgress {s : State} {k : PageKey} {port : Nat} {force : Bool} (h : MemOk s) : OptOk MemOk (s.sendEgress k port force) := by
  unfold State.sendEgress
  split
  · exact trivial
  · split
    · exact trivial
    · exact h.modDyn.deliverAt

theorem MemOk.censusForward {s : State} {k : PageKey} {p : Page} {at_ : CensusAt} {t : Token} (h : MemOk s) :
    MemOk (s.censusForward k p at_ t) := by
  unfold State.censusForward
  split
  · exact h.modDyn
  · split
    · exact h.foldl (fun _ _ hx2 => MemOk.ite hx2.modCb hx2)
    · exact h
  · exact h.foldl (fun _ _ hx1 => MemOk.ite hx1.modDyn hx1)
  · exact h.getD h.sendRoute

theorem MemOk.modCensus {s : State} {seq : Word} {f : Census → Census} (h : MemOk s) : MemOk (s.modCensus seq f) := h.same (by rfl)

theorem MemOk.censusVisit {s : State} {k : PageKey} {at_ : CensusAt} {t : Token} (h : MemOk s) : MemOk (s.censusVisit k at_ t) := by
  unfold State.censusVisit
  split
  · exact h
  · exact MemOk.ite h h.modDyn.modCensus.censusForward

theorem MemOk.censusSend {s : State} {k : PageKey} {x : CensusFrom} {t : Token} (h : MemOk s) : OptOk MemOk (s.censusSend k x t) := by
  unfold State.censusSend
  split
  · exact h.injectAt
  · split
    · exact h.censusVisit
    · exact trivial
  · exact h

theorem MemOk.censusLate {s : State} {k : PageKey} (h : MemOk s) : MemOk (s.censusLate k) := by
  unfold State.censusLate
  refine h.foldl (fun _ _ hx1 => hx1.foldl (fun _ _ hy1 => ?_))
  split
  · next he => exact (hy1.censusSend.of_eq he).modCensus
  · exact hy1

theorem MemOk.censusRest {s : State} {c : Census} (h : MemOk s) : MemOk (s.censusRest c) := h.foldl (fun _ _ hx1 => hx1.modCensus)
theorem MemOk.censusCollect {s : State} {seq : Word} (h : MemOk s) : MemOk (s.censusCollect seq) :=
    h.foldl (fun _ _ hs1 => MemOk.ite hs1 hs1.modDyn)
theorem MemOk.censusStart {s : State} {part : Nat} {seq : Word} {tag : Tag} (h : MemOk s) : MemOk (s.censusStart part seq tag) :=
    h.foldl (fun _ _ hx1 => hx1.foldl (fun _ _ hy1 => hy1.modCensus.getD hy1.censusSend))

theorem nextOk_execTokenHop {s : State} (h : MemOk s) : NextOk (execTokenHop s) := by
  unfold execTokenHop
  split
  · exact h.hop
  · exact trivial

theorem nextOk_execEgressLookup {s : State} (h : MemOk s) : NextOk (execEgressLookup s) := by
  unfold execEgressLookup
  split
  · exact MemOk.ite (h.getD h.sendEgress) h
  · exact trivial

theorem nextOk_execListenArrival {s : State} (h : MemOk s) : NextOk (execListenArrival s) := by
  unfold execListenArrival
  split
  · split
    · exact h
    · split
      · refine MemOk.ite h ?_
        extract_lets s0
        have hs0 : OptOk MemOk s0 := by
          unfold s0
          split
          · exact h.noteItem
          · exact h
        split
        · next he =>
            have hx := (hs0.bind fun _ hy => hy.arrive).of_eq he
            exact (MemOk.modDyn hx).noteChoice
        · exact h
      · exact h
  · exact trivial

theorem nextOk_execEmitForward {s : State} (h : MemOk s) : NextOk (execEmitForward s) := by
  unfold execEmitForward
  split
  · split
    · split
      · exact h
      · extract_lets cb gone _ s1
        have hgone : ∀ (t : State), MemOk t → MemOk (gone t) := by
          intro _ ht1
          unfold gone
          extract_lets t11
          have ht11 : MemOk t11 := by
            unfold t11
            split
            · exact MemOk.ite ht1.countSend ht1
            · exact ht1
          exact ht11.modCb
        have hs1 : MemOk s1 := MemOk.ite (h.same (by rfl)) h
        refine MemOk.ite h ?_
        split
        · split
          · next he5 => exact (h.sendRoute.of_eq he5).modCb
          · exact h
        · split
          · exact h
          · extract_lets whole _ pay
            have hwhole : OptOk MemOk whole := by
              unfold whole
              split
              · refine iteInduction (fun _ => trivial) fun _ => ?_
                split
                · exact iteInduction (fun _ => h.fillSlot) fun _ => trivial
                · trivial
              · trivial
            clear_value whole
            refine MemOk.ite ?_ ?_
            · cases whole with
              | none => exact h
              | some y => exact hgone _ hwhole
            · split
              · next he5 => exact hgone _ (hs1.sendRoute.of_eq he5)
              · exact h
    · exact h
  · exact trivial

theorem nextOk_execWingDrain {s : State} (h : MemOk s) : NextOk (execWingDrain s) := by
  unfold execWingDrain
  split
  · refine MemOk.ite h ?_
    split
    · split
      · exact MemOk.ite ((h.getD h.noteItem).modDyn) h
      · split
        · next he3 => exact (h.arrive.of_eq he3).modDyn
        · exact h
      · exact h
    · split
      · exact h
      · split
        · exact h
        · exact MemOk.ite ((h.getD h.noteItem).modDyn) h
    · exact h
  · exact trivial

theorem nextOk_execCensusToken {s : State} (h : MemOk s) : NextOk (execCensusToken s) := by
  unfold execCensusToken
  split
  · split
    · refine MemOk.ite h ?_
      extract_lets gone visit
      have hvisit : ∀ a, MemOk (visit a) := fun a => MemOk.ite h.modDyn.censusVisit h
      split
      · exact hvisit _
      · exact hvisit _
      · exact hvisit _
      · split
        · split
          · next he4 => exact (h.arrive.of_eq he4).modDyn
          · exact h
        · exact h
    · exact h
  · split
    · refine MemOk.ite h (h.foldl fun _ _ hx3 => MemOk.ite hx3 ?_)
      split
      · exact MemOk.ite hx3.modCb.censusVisit hx3
      · exact hx3
    · exact h
  · exact MemOk.ite h.censusLate h
  · exact trivial

end Sys2Proof.Machine
end

section
/-!
PROOF. The canonical form of the memories: firings, traps, pages and evictions.
-/
namespace Sys2Proof.Machine

theorem MemOk.cutBlock {s : State} {k : PageKey} {b : Nat} {t : Token} (h : MemOk s) : MemOk (s.cutBlock k b t) := by
  unfold State.cutBlock
  split
  · extract_lets _ _ _ _ _ _ _ s1
    have hs1 : MemOk s1 := h.modPage
    exact hs1.foldl (fun _ _ hx2 => hx2.modCb)
  · exact h

theorem nextOk_execCueMark {s : State} (h : MemOk s) : NextOk (execCueMark s) := by
  unfold execCueMark
  split
  · split
    · exact h
    · split
      · split
        · exact h
        · split
          · next he4 => exact (h.arrive.of_eq he4).modDyn
          · exact h
      · exact h
  · split
    · extract_lets
      split
      · exact h
      · split
        · exact h.cutBlock
        · exact h
    · exact h
  · exact trivial

theorem MemOk.beginFiring {s : State} {k : PageKey} {p : Page} {b : Nat} {h : Header} (hs : MemOk s) : MemOk (s.beginFiring k p b h) :=
    MemOk.ite hs.faultP hs.touch.modDyn

theorem nextOk_execActorSelect {s : State} (h : MemOk s) : NextOk (execActorSelect s) := by
  unfold execActorSelect
  split
  · extract_lets _ _ _ _ _ _ _ z
    have hz : MemOk z.2 := h.choose
    split
    · split
      · exact h
      · exact MemOk.ite hz hz.diverge
    · exact (h.same (by rfl)).decideBy.modCtx.beginFiring
  · exact trivial

theorem nextOk_execMatchOverflowProbe {s : State} (h : MemOk s) : NextOk (execMatchOverflowProbe s) := by
  unfold execMatchOverflowProbe
  split
  · exact h.same (by rfl)
  · exact trivial

theorem nextOk_execFiringComplete {s : State} (h : MemOk s) : NextOk (execFiringComplete s) := by
  unfold execFiringComplete
  split
  · split
    · extract_lets _ _ _ one s1 s2
      have hone : ∀ (t : State) (c : CbEntry), MemOk t → MemOk (one t c) := fun _ _ ht1 => MemOk.ite ht1.modCb ht1.modCb
      have hs1 : MemOk s1 := (h.foldl hone).modDyn
      have hs2 : MemOk s2 := hs1.same (by rfl)
      exact MemOk.ite h hs2.touch.countStep
    · exact h
  · exact trivial

theorem nextOk_execTrapDeliver {s : State} (h : MemOk s) : NextOk (execTrapDeliver s) := by
  unfold execTrapDeliver
  split
  · split
    · exact h
    · split
      · exact h
      · split
        · exact h
        · extract_lets put _ src s1
          have hput : ∀ (x3 : State) (w : Word), MemOk x3 → MemOk (put x3 w) := fun _ _ hx3 => hx3.modCb
          have hsrc : MemOk src := h.foldl hput
          have hs1 : MemOk s1 := (hsrc.same (by rfl)).modPage
          split
          · exact hs1.sendCtl
          · exact hs1
  · exact trivial

theorem MemOk.takeCtl {s : State} {code : Nat} (h : MemOk s) : OptOk (fun r => MemOk r.2) (s.takeCtl code) := by
  unfold State.takeCtl
  cases s.ctl.find? (fun c => c.code == code) with
  | none => trivial
  | some c => exact h.same (by rfl)

theorem nextOk_execTrapAccept {s : State} (h : MemOk s) : NextOk (execTrapAccept s) := by
  unfold execTrapAccept
  split
  · split
    · exact h
    · next he1 =>
        split
        · exact h.takeCtl.of_eq he1
        · extract_lets _ _ _ _ u
          have hu : MemOk u := (h.takeCtl.of_eq he1).setTrap
          exact hu.modFiring
  · exact trivial

theorem nextOk_execUnknownControlCode {s : State} (h : MemOk s) : NextOk (execUnknownControlCode s) := by
  unfold execUnknownControlCode
  split
  · split
    · exact h
    · exact (h.same (by rfl)).logEvent
  · exact trivial

theorem MemOk.setArg {s : State} {part : Nat} {g : Word} {a half : Nat} {v : Word} (h : MemOk s) : MemOk (s.setArg part g a half v) :=
    h.modGraph
theorem MemOk.fixArgs {s : State} {c : CtxId} {round : Nat} (h : MemOk s) : MemOk (s.fixArgs c round) := h.same (by rfl)
theorem MemOk.refreshArgs {s : State} {c : CtxId} (h : MemOk s) : MemOk (s.refreshArgs c) := h.same (by rfl)
theorem MemOk.mapGraph {s : State} {c : CtxId} {g : Graph} (h : MemOk s) : MemOk (s.mapGraph c g) :=
    h.foldl (fun _ _ ht1 => MemOk.ite ht1 (ht1.same (by rfl)))

theorem MemOk.takeFrames {s : State} {die n : Nat} {r : SaveReq} (h : MemOk s) : MemOk (s.takeFrames die n r).2 := by
  unfold State.takeFrames
  extract_lets
  split
  · exact MemOk.ite h.modPart h
  · split
    · exact h
    · exact h.modPart.tellHyp

theorem MemOk.evict {s : State} {p : Page} (h : MemOk s) : MemOk (s.evict p) := by
  unfold State.evict
  extract_lets _ _ r
  have hr : MemOk r.2 := h.takeFrames
  split
  · exact hr
  · extract_lets t
    have ht : MemOk t := hr.foldl (fun _ _ ht1 => ht1.modPage.logEvent)
    exact ht.foldl (fun _ _ ht1 => MemOk.ite ht1.makePending ht1)

theorem MemOk.evictFor {s : State} {p : Page} {dst : CtxId} (h : MemOk s) : MemOk (s.evictFor p dst) :=
    h.evict.foldl (fun _ _ ht1 => ht1.modPage)

theorem MemOk.assignRegion {s : State} {k : PageKey} {l : Nat} (h : MemOk s) : MemOk (s.assignRegion k l) := by
  unfold State.assignRegion
  extract_lets _ t
  have ht : MemOk t := h.foldl (fun _ _ ht1 => ht1.modPage)
  exact ht.modPart.logEvent

theorem MemOk.ownVictim {s : State} {c : CtxId} (h : MemOk s) : MemOk (s.ownVictim c).2 := by
  unfold State.ownVictim
  extract_lets
  split
  · exact h
  · split
    · exact h
    · exact h.same (by rfl)

theorem MemOk.chooseFor {s : State} {k : PageKey} (h : MemOk s) : MemOk (s.chooseFor k) := by
  unfold State.chooseFor
  split
  · exact h
  · extract_lets
    split
    · exact h
    · split
      · exact h.assignRegion
      · split
        · split
          · exact h
          · split
            · exact h.evictFor
            · exact h
        · split
          · next he2 => exact (h.ownVictim.of_pair he2).evict
          · next he2 => exact h.ownVictim.of_pair he2

theorem MemOk.flushEgress {s : State} {k : PageKey} {n : Nat} (h : MemOk s) : MemOk (s.flushEgress k n) := by
  induction n generalizing s with
  | zero => exact h
  | succ n ih =>
    unfold State.flushEgress
    split
    · exact h
    · split
      · next he => exact ih (h.sendEgress.of_eq he)
      · exact h

theorem MemOk.finishEviction {s : State} {k : PageKey} (h : MemOk s) : MemOk (s.finishEviction k) := by
  unfold State.finishEviction
  extract_lets s1 s2
  have hs1 : MemOk s1 := h.modDyn.flushEgress
  have hs2 : MemOk s2 := hs1.modPage
  split
  · exact hs1
  · extract_lets _ s3 s4
    have hs3 : MemOk s3 := MemOk.ite hs2.makePending hs2
    have hs4 : MemOk s4 := hs3.logEvent
    split
    · exact MemOk.ite hs4.assignRegion hs4
    · exact hs4

theorem MemOk.setGroup {s : State} {g : Graph} {key : Nat → PageKey} {level : Nat} {region : Option Nat} {store : List SaveFrame}
    {ms : List Nat} (h : MemOk s) : MemOk (s.setGroup g key level region store ms) := h.foldl (fun _ _ ht1 => ht1.modPage)

theorem MemOk.foldNow {s : State} {c : CtxId} {graph : Word} {lpn level : Nat} (h : MemOk s) : MemOk (s.foldNow c graph lpn level).2 := by
  unfold State.foldNow
  split
  · exact h
  · extract_lets _ _ _ _ _ _ _ _ _ _ got
    have hgot : MemOk got.2 := h.takeFrames
    split
    · exact h
    · split
      · exact h
      · split
        · exact h.foldl (fun _ _ ht1 => ht1.modPage)
        · split
          · exact h
          · split
            · exact hgot
            · extract_lets t
              have ht : MemOk t := hgot.foldl (fun _ _ ht1 => ht1.setGroup)
              exact ht.logEvent

theorem nextOk_execPageSignal {s : State} (h : MemOk s) : NextOk (execPageSignal s) := by
  unfold execPageSignal
  split
  · extract_lets _ s0
    have hs0 : MemOk s0 := h.modPart
    split
    · exact h
    · extract_lets s1 s2
      have hs1 : MemOk s1 := MemOk.ite hs0.logEvent hs0
      have hs2 : MemOk s2 := (hs1.same (by rfl)).noteChoice
      split
      · exact hs2
      · exact MemOk.ite hs2.modPage.makePending.chooseFor (MemOk.ite hs2.modPage.makePending hs2)
  · exact trivial

theorem MemOk.cacheImage {s : State} {die part : Nat} {graph : Word} {lpn : Nat} {preload : Bool} (h : MemOk s) :
    MemOk (s.cacheImage die part graph lpn preload) := by
  unfold State.cacheImage
  extract_lets l _ new _ set out
  have hset : ∀ (c : List CachedImage), MemOk (set c) := fun _ => h.same (by rfl)
  refine MemOk.ite (hset _) (MemOk.ite (hset _) ?_)
  clear_value out
  cases out with
  | none => exact h
  | some e => exact hset _

theorem nextOk_execPageLoadDone {s : State} (h : MemOk s) : NextOk (execPageLoadDone s) := by
  unfold execPageLoadDone
  split
  · split
    · exact h
    · split
      · exact h
      · extract_lets
        split
        · split
          · exact h.deviceFault
          · exact h
        · exact MemOk.ite (MemOk.ite h.modPage h.modPage.post) h.modPage.cacheImage.logEvent
  · exact trivial

theorem nextOk_execEvictionSave {s : State} (h : MemOk s) : NextOk (execEvictionSave s) := by
  unfold execEvictionSave
  split
  · split
    · exact h
    · exact MemOk.ite h h.finishEviction
  · exact trivial

theorem nextOk_execRegionAssign {s : State} (h : MemOk s) : NextOk (execRegionAssign s) := by
  unfold execRegionAssign
  split
  · extract_lets
    split
    · exact h
    · split
      · exact h.assignRegion
      · exact h
  · exact trivial

theorem nextOk_execSavePoolWaitEnd {s : State} (h : MemOk s) : NextOk (execSavePoolWaitEnd s) := by
  unfold execSavePoolWaitEnd
  split
  · exact h.modPart
  · exact trivial

theorem nextOk_execFoldTurnEnd {s : State} (h : MemOk s) : NextOk (execFoldTurnEnd s) := by
  unfold execFoldTurnEnd
  split
  · split
    · exact h
    · split
      · exact h
      · exact MemOk.ite h (h.foldl (fun _ _ ht1 => ht1.modPage))
  · exact trivial

theorem nextOk_execPageBecomesEligible {s : State} (h : MemOk s) : NextOk (execPageBecomesEligible s) := by
  unfold execPageBecomesEligible
  split
  · split
    · exact h
    · extract_lets
      split
      · exact h
      · split
        · exact h.evict
        · split
          · exact h
          · split
            · exact h.evict
            · split
              · split
                · exact h.evict
                · exact h
              · split
                · exact h
                · exact h.chooseFor
  · exact trivial

end Sys2Proof.Machine
end

section
/-!
PROOF. The canonical form of the memories: frames, rounds, commits and voids.
-/
namespace Sys2Proof.Machine

theorem MemOk.dropPages {s : State} {gone : PageKey → Bool} (h : MemOk s) : MemOk (s.dropPages gone) := (h.same (by rfl)).same (by rfl)
theorem MemOk.dropGraph {s : State} {part : Nat} {gid : Word} (h : MemOk s) : MemOk (s.dropGraph part gid) := (h.same (by rfl)).same (by rfl)
theorem MemOk.dropReleased {s : State} {part : Nat} (h : MemOk s) : MemOk (s.dropReleased part) := h.foldl (fun _ _ ht1 => ht1.dropGraph)

theorem MemOk.releaseRounds {s : State} {c : CtxId} {region round : Nat} {tag : Tag} (h : MemOk s) :
    MemOk (s.releaseRounds c region round tag).2 := by
  unfold State.releaseRounds
  extract_lets
  exact h.release

theorem MemOk.storeReleased {s : State} {c : CtxId} {region round : Nat} {tag : Tag} {va v : Nat} (h : MemOk s) :
    ExcOk (fun _ => True) (fun r => MemOk r.2) (s.storeReleased c region round tag va v) := by
  unfold State.storeReleased
  split
  · exact trivial
  · split
    · exact trivial
    · exact h.releaseRounds.performWrite

theorem MemOk.endFrame {s : State} {f : Frame} (h : MemOk s) : MemOk (s.endFrame f) := (h.same (by rfl)).modPart
theorem MemOk.callReply {s : State} {k : PageKey} {chan : Nat} {t : Token} (h : MemOk s) : MemOk (s.callReply k chan t) := h.same (by rfl)

theorem MemOk.deliverReply {s : State} {k : PageKey} {port : Bool} {n : Nat} {t : Token} {by_ : Nat} (h : MemOk s) :
    OptOk MemOk (s.deliverReply k port n t by_) := by
  unfold State.deliverReply
  split
  · exact trivial
  · split
    · split
      · exact h.arrive
      · extract_lets q
        split
        · exact h.noteItem.map fun _ hx => hx.modDyn
        · exact trivial
    · extract_lets
      split
      · exact h.modDyn.signal
      · exact trivial

theorem MemOk.giveCallReplies {s : State} (h : MemOk s) : MemOk s.giveCallReplies := by
  unfold State.giveCallReplies
  extract_lets
  refine h.foldl (fun _ _ ht1 => ?_)
  split
  · next he => exact (ht1.deliverReply.of_eq he).same (by rfl)
  · exact ht1

theorem MemOk.completeFrame {s : State} {c : CtxId} {round : Nat} {tag : Tag} (h : MemOk s) : MemOk (s.completeFrame c round tag) := by
  unfold State.completeFrame
  split
  · exact h
  · refine MemOk.ite h (MemOk.ite h.modFrame ?_)
    extract_lets _ _ _ stored
    have hstored : ExcOk (fun _ => True) (fun r => MemOk r.2) stored := iteInduction (fun _ => h.releaseRounds) fun _ => h.storeReleased
    clear_value stored
    cases stored with
    | error x => exact h.deviceFault.modFrame
    | ok r =>
      have hr : MemOk r.2 := hstored
      dsimp -zeta only
      extract_lets s2 g irq s3
      have hs2 : MemOk s2 := by
        unfold s2
        split
        · exact MemOk.ite hr.callReply hr
        · exact hr
      exact (MemOk.ite hs2.guestIrq hs2).endFrame.dropReleased.logEvent

theorem MemOk.saveContext {s : State} {c : CtxId} (h : MemOk s) : MemOk (s.saveContext c).2 := by
  unfold State.saveContext
  extract_lets _ _ r r2
  have hr : MemOk r.2 := h.takeFrames
  have hr2 : MemOk r2 := hr.modCtx
  split
  · exact h
  · split
    · exact h
    · split
      · exact hr
      · exact hr2.foldl (fun _ _ ht1 => MemOk.ite ht1.modPage ht1.modPage.finishEviction)

theorem MemOk.restoreSaved {s : State} {c : CtxId} (h : MemOk s) : MemOk (s.restoreSaved c) :=
    (h.foldl (fun _ _ ht1 => MemOk.ite ht1.makePending ht1)).modCtx

theorem MemOk.giveRegions {s : State} {dst : CtxId} {ls : List Nat} (h : MemOk s) : MemOk (s.giveRegions dst ls) := by
  unfold State.giveRegions
  refine h.foldl (fun _ _ ht1 => ?_)
  split
  · exact MemOk.ite ht1.assignRegion ht1
  · exact ht1

theorem MemOk.shrinkNow {s : State} {c dst : CtxId} (h : MemOk s) : MemOk (s.shrinkNow c dst) := by
  unfold State.shrinkNow
  extract_lets told
  have htold : ∀ (t : State) (n : Nat), MemOk t → MemOk (told t n) := fun _ _ ht1 => ht1.advise
  split
  · extract_lets r t
    have hr : MemOk r.2 := h.foldNow
    have ht : MemOk t := hr
    exact MemOk.ite ht.modCtx.requestClose (htold _ _ ht.modCtx.giveRegions)
  · split
    · extract_lets t
      have ht : MemOk t := h.evictFor
      exact MemOk.ite (htold _ _ ht) ht
    · exact h

theorem MemOk.unfoldNow {s : State} {c : CtxId} {g : Word} {lpn level : Nat} (h : MemOk s) : MemOk (s.unfoldNow c g lpn level) :=
    MemOk.ite h.foldNow.modCtx h.foldNow
theorem MemOk.cutNode {s : State} {k : PageKey} {n : Nat} (h : MemOk s) : MemOk (s.cutNode k n) := h.modPage

theorem MemOk.injectPage {s : State} {k : PageKey} {t : Token} (h : MemOk s) : MemOk (s.injectPage k t) := by
  unfold State.injectPage
  split
  · exact h
  · extract_lets port node block s1 s2 s4
    have hport : ∀ (x1 : State) (i : Nat), MemOk x1 → MemOk (port x1 i) := fun _ _ hx1 => MemOk.ite (hx1.modPage.getD hx1.injectAt) hx1
    have hnode : ∀ (x1 : State) (n : Nat), MemOk x1 → MemOk (node x1 n) := fun _ _ hx1 => MemOk.ite hx1 hx1.modDyn
    have hblock : ∀ (x1 : State) (b : Nat), MemOk x1 → MemOk (block x1 b) := by
      intro _ _ hx1
      unfold block
      split
      · exact MemOk.ite hx1.modDyn hx1
      · exact hx1
    have hs1 : MemOk s1 := h.foldl hport
    have hs2 : MemOk s2 := hs1.foldl hnode
    have hs4 : MemOk s4 := hs2.foldl hblock
    exact MemOk.ite hs4.modDyn hs4

theorem MemOk.injectLate {s : State} {k : PageKey} {t : Token} (h : MemOk s) : MemOk (s.injectLate k t) := by
  unfold State.injectLate
  refine h.foldl (fun _ _ hx1 => ?_)
  split
  · next he => exact (hx1.injectAt.of_eq he).modPage
  · exact hx1

theorem MemOk.sendReport {s : State} {k : PageKey} (h : MemOk s) : MemOk (s.sendReport k) := h.sendCtl

theorem MemOk.beginClose {s : State} {c : CtxId} (h : MemOk s) : MemOk (s.beginClose c) := by
  unfold State.beginClose
  extract_lets _ _ _ s0 s1 _ one s2
  have hs0 : MemOk s0 := h.modCtx
  have hs1 : MemOk s1 := (hs0.same (by rfl)).fixArgs
  have hone : ∀ (y : State) (k : PageKey), MemOk y → MemOk (one y k) := fun _ _ hy1 => MemOk.ite hy1.injectPage hy1.modPage.sendReport
  have hs2 : MemOk s2 := hs1.foldl hone
  exact hs2.same (by rfl)

theorem MemOk.cutAbsent {s : State} {k : PageKey} {round : Nat} (h : MemOk s) : MemOk (s.cutAbsent k round) := by
  unfold State.cutAbsent
  split
  · exact h
  · extract_lets come t on sent _ _ _ _ _ all
    have hsent : OptOk MemOk sent := List.foldlRecOn (motive := OptOk MemOk) _ on (b := some s) h fun _ ho _ _ => ho.bind fun _ hy =>
        hy.deliverAt
    clear_value sent
    cases sent with
    | none => exact h
    | some s0 =>
      have hs0 : MemOk s0 := hsent
      exact MemOk.ite h hs0.modPage.sendReport

theorem MemOk.cutUnfed {s : State} {k : PageKey} {round : Nat} (h : MemOk s) : MemOk (s.cutUnfed k round) := by
  unfold State.cutUnfed
  split
  · exact h
  · exact h.foldl (fun _ _ hx1 => MemOk.ite hx1.cutElem.modDyn hx1)

theorem MemOk.reportPage {s : State} {k : PageKey} {round : Nat} (h : MemOk s) : MemOk (s.reportPage k round) := by
  unfold State.reportPage
  split
  · exact h
  · split
    · exact h
    · split
      · split
        · exact h
        · extract_lets _ _ _ same _ r
          have hr : MemOk r.2 := (h.same (by rfl)).takeFrames
          split
          · exact hr.modPage.sendReport
          · exact hr
      · exact h.cutAbsent

theorem MemOk.voidHomes {s : State} {c : CtxId} {v : Nat} (h : MemOk s) : MemOk (s.voidHomes c v) := by
  unfold State.voidHomes
  extract_lets _ _ s0 s1
  have hs0 : MemOk s0 := h.foldl (fun _ _ ht1 => ht1.dropReq)
  have hs1 : MemOk s1 := hs0.endHolds
  exact hs1.same (by rfl)

theorem MemOk.voidRounds {s : State} {c : CtxId} {v : Nat} (h : MemOk s) : MemOk (s.voidRounds c v) := by
  unfold State.voidRounds
  extract_lets s1 _ _ _ _ s11 t1 _ _ s2 s3 s4 s5
  have hs1 : MemOk s1 := h.voidHomes
  have hs11 : MemOk s11 := hs1.same (by rfl)
  have ht1 : MemOk t1 := hs11.same (by rfl)
  have hs2 : MemOk s2 := ht1.same (by rfl)
  have hs3 : MemOk s3 := hs2.modPart
  have hs4 : MemOk s4 := hs3.modCtx
  have hs5 : MemOk s5 := hs4.foldl (fun _ _ ht2 => MemOk.ite ht2.makePending ht2)
  exact hs5.dropReleased.sendCtl.logEvent

theorem MemOk.commitEntries {s : State} {c : CtxId} {round : Nat} (h : MemOk s) : MemOk (s.commitEntries c round) := h.endHolds.same (by rfl)

theorem MemOk.applyAtClose {s : State} {c : CtxId} {a : Nat × AtClose} (h : MemOk s) : MemOk (s.applyAtClose c a) := by
  unfold State.applyAtClose
  split
  · exact h
  · exact h.sealOpen
  · exact h.sealOpen
  · extract_lets _ r t
    have hr : MemOk r.2 := h.foldNow
    have ht : MemOk t := hr.modCtx
    exact MemOk.ite hr.modPart (MemOk.ite ht.makePending ht)
  · exact h.setArg.noteChoice
  · exact h.modCtx
  · exact h.modCtx
  · exact h.completeFrame
  · exact h.shrinkNow
  · exact h.unfoldNow
  · exact h

theorem MemOk.wakeRequest {s : State} {round : Nat} {r : Req} (h : MemOk s) : MemOk (s.wakeRequest round r) := by
  unfold State.wakeRequest
  split
  · split
    · exact h
    · split
      · extract_lets _ _ q _ t
        have hq : MemOk q.2 := by
          unfold q
          split
          · exact h.release
          · exact h
        have ht : MemOk t := hq.modReq
        exact MemOk.ite ht.sealOpen ht
      · exact h.enterQueue
  · exact h

theorem MemOk.watchdogAct {s : State} {c : CtxId} (h : MemOk s) : MemOk (s.watchdogAct c) := by
  unfold State.watchdogAct
  extract_lets _ deepest _ _ _ _ t
  have hdeepest : ∀ (t1 : State) (x : Word × Nat × Nat), MemOk t1 → MemOk (deepest t1 x) :=
      fun _ _ ht1 => MemOk.ite ht1.foldNow ht1.foldNow.modCtx
  have ht : MemOk t := h.voidRounds.modCtx
  exact MemOk.ite ((h.foldl hdeepest).modCtx) (MemOk.ite ht.saveContext h.post.tellHyp)

theorem MemOk.commitRound {s : State} {c : CtxId} {n : Nat} (h : MemOk s) : MemOk (s.commitRound c n) := by
  unfold State.commitRound
  extract_lets _ _ _ s1 s2 _ s3 s4 s5 s6 _ s8 _ _ s9 s11 s10 _ _ t
  have hs1 : MemOk s1 := h.commitEntries.appendUndo.modUndo
  have hs2 : MemOk s2 := MemOk.ite hs1.sealOpen hs1
  have hs3 : MemOk s3 := hs2.modCtx.foldl (fun _ _ ht1 => ht1.applyAtClose)
  have hs4 : MemOk s4 := hs3.refreshArgs
  have hs5 : MemOk s5 := hs4.modCtx
  have hs6 : MemOk s6 := hs5.same (by rfl)
  have hs8 : MemOk s8 := hs6.foldl (fun _ _ ht1 => ht1.wakeRequest)
  have hs9 : MemOk s9 := MemOk.ite hs8.openWindow hs8
  have hs11 : MemOk s11 := hs9.sendCtl.logEvent
  have hs10 : MemOk s10 := MemOk.ite hs11.watchdogAct hs11
  have ht : MemOk t := hs10.modCtx
  exact MemOk.ite (MemOk.ite ht.tellDebug ht.debugIrq) (MemOk.ite hs10.requestClose hs10)

theorem MemOk.freezeCtx {s : State} {c : CtxId} {cause : Nat} (h : MemOk s) : MemOk (s.freezeCtx c cause) := by
  unfold State.freezeCtx
  extract_lets _ s1 s2
  have hs1 : MemOk s1 := h.voidHomes
  have hs2 : MemOk s2 := hs1.modCtx
  exact hs2.advise.debugIrq.logEvent

theorem MemOk.askFreeze {s : State} {c : CtxId} {cause : Nat} (h : MemOk s) : MemOk (s.askFreeze c cause) := MemOk.ite h h.modCtx.sendCtl
theorem MemOk.thaw {s : State} {c : CtxId} (h : MemOk s) : MemOk (s.thaw c) := h.modCtx.voidRounds

theorem nextOk_execRoundTimer {s : State} (h : MemOk s) : NextOk (execRoundTimer s) := by
  unfold execRoundTimer
  split
  · exact MemOk.ite h.requestClose h
  · exact trivial

theorem nextOk_execCloseRequest {s : State} (h : MemOk s) : NextOk (execCloseRequest s) := by
  unfold execCloseRequest
  split
  · exact MemOk.ite h.beginClose h
  · exact trivial

theorem MemOk.takeTokens {s : State} {c : CtxId} {code : Nat} (h : MemOk s) : MemOk (s.takeTokens c code) := h.same (by rfl)
theorem MemOk.takeReports {s : State} {c : CtxId} (h : MemOk s) : MemOk (s.takeReports c) :=
    h.takeTokens.foldl (fun _ _ ht1 => ht1.decideBy)

theorem nextOk_execCutReport {s : State} (h : MemOk s) : NextOk (execCutReport s) := by
  unfold execCutReport
  split
  · split
    · exact h
    · extract_lets _ go t
      have hgo : ∀ (x2 : State) (k : PageKey), MemOk x2 → MemOk (go x2 k) := by
        intro _ _ hx2
        unfold go
        extract_lets x3 y
        have hx3 : MemOk x3 := hx2.injectLate
        have hy : MemOk y := MemOk.ite hx3.cutUnfed hx3
        exact hy.reportPage
      have ht : MemOk t := h.takeReports.foldl hgo
      exact MemOk.ite ht.modCtx ht
  · exact trivial

theorem nextOk_execCommit {s : State} (h : MemOk s) : NextOk (execCommit s) := by
  unfold execCommit
  split
  · extract_lets s1
    have hs1 : MemOk s1 := h.takeTokens
    split
    · exact hs1
    · refine MemOk.ite hs1 (MemOk.ite (hs1.getD ?_) (MemOk.ite hs1.tellStall hs1.commitRound))
      cases s1.logHeld _ _ with
      | none => trivial
      | some f => exact hs1.waitOn
  · exact trivial

theorem nextOk_execVoid {s : State} (h : MemOk s) : NextOk (execVoid s) := by
  unfold execVoid
  split
  · extract_lets s1
    have hs1 : MemOk s1 := h.takeTokens
    split
    · exact MemOk.ite hs1 (MemOk.ite hs1.voidRounds hs1.modCtx)
    · exact MemOk.ite hs1.modCtx hs1
  · exact trivial

theorem nextOk_execFreeze {s : State} (h : MemOk s) : NextOk (execFreeze s) := by
  unfold execFreeze
  split
  · split
    · exact h
    · exact MemOk.ite (h.same (by rfl)) (h.same (by rfl)).freezeCtx
  · exact trivial

end Sys2Proof.Machine
end

section
/-!
PROOF. The canonical form of the memories: generators and the memory instructions.
-/
namespace Sys2Proof.Machine

theorem MemOk.modGen {s : State} {k : PageKey} {n : Nat} {tag : Tag} {f : Gen → Gen} (h : MemOk s) : MemOk (s.modGen k n tag f) := h.modDyn
theorem MemOk.startGen {s : State} {k : PageKey} {n : Nat} {tag : Tag} {off : Nat} {table : Option DWord} {dep : Dep} (h : MemOk s) :
    MemOk (s.startGen k n tag off table dep) := h.modDyn
theorem MemOk.genFault {s : State} {k : PageKey} {n : Nat} {tag : Tag} {cause : Nat} {value : Word} (h : MemOk s) :
    MemOk (s.genFault k n tag cause value) := h.faultP.modDyn

theorem MemOk.takePort {s : State} {k : PageKey} {n port : Nat} {t : Token} (h : MemOk s) : MemOk (s.takePort k n port t) := by
  unfold State.takePort
  extract_lets _ s1
  have hs1 : MemOk s1 := h.modDyn
  exact MemOk.ite h (MemOk.ite hs1 (MemOk.ite hs1.modDyn hs1.modPage))

theorem MemOk.readPosition {s : State} {k : PageKey} {n : Nat} {d : Desc} {g : Gen} {i : Nat} (h : MemOk s) :
    ExcOk MemOk (fun r => MemOk r.2.2) (s.readPosition k n d g i) := by
  unfold State.readPosition
  extract_lets _ dep w read _ _ size
  have hread : ∀ t d0 sp pa size, MemOk t → MemOk (read t d0 sp pa size).2.2 := fun _ _ _ _ _ ht => ht.readElem.addSeen
  split
  · exact h
  · split
    · next he => exact h.reachNode.of_eq he
    · next he => exact h.reachNode.of_eq he
    · next he => exact (h.reachNode.of_eq he).genFault
    · next he =>
        extract_lets q
        have hq : MemOk q.2.2 := hread _ _ _ _ _ (h.reachNode.of_eq he)
        split
        · exact hq
        · split
          · next he1 => exact hq.reachAt.of_eq he1
          · next he1 => exact hq.reachAt.of_eq he1
          · next he1 => exact (hq.reachAt.of_eq he1).genFault
          · next he1 => exact hread _ _ _ _ _ (hq.reachAt.of_eq he1)

theorem MemOk.readPositions {s : State} {k : PageKey} {n : Nat} {d : Desc} {g : Gen} {l : List Nat} (h : MemOk s) :
    ExcOk MemOk (fun r => MemOk r.2.2) (s.readPositions k n d g l) := by
  induction l generalizing s with
  | nil => exact h
  | cons i rest ih =>
    unfold State.readPositions
    split
    · next he => exact h.readPosition.of_eq he
    · next q he =>
        have hq : MemOk q.2.2 := h.readPosition.of_eq he
        split
        · next he1 => exact (ih hq).of_eq he1
        · next r he1 =>
            have hr := (ih hq).of_eq he1
            exact hr

theorem MemOk.sendPacket {s : State} {k : PageKey} {lane : Nat} {h : DWord} {dep : Dep} {rows : List (BitVec 512)} (hs : MemOk s) :
    OptOk MemOk (s.sendPacket k lane h dep rows) := by
  unfold State.sendPacket
  extract_lets
  split
  · exact hs.modDyn
  · exact trivial

theorem MemOk.emitElement {s : State} {k : PageKey} {d : Desc} {g : Gen} {dep : Dep} {rows : List (List Word)} (h : MemOk s) :
    OptOk MemOk (s.emitElement k d g dep rows) := by
  unfold State.emitElement
  split
  · split
    · exact h.sendPacket
    · exact trivial
  · extract_lets _ _ wide s1
    have hs1 : MemOk s1 := h.same (by rfl)
    refine iteInduction (fun _ => h.sendRoute) fun _ => ?_
    clear_value wide
    cases wide with
    | none => exact hs1.sendRoute
    | some x => exact h.fillSlot

theorem MemOk.emitNext {s : State} {k : PageKey} {n : Nat} {d : Desc} {g : Gen} (h : MemOk s) : MemOk (s.emitNext k n d g) := by
  unfold State.emitNext
  extract_lets
  split
  · split
    · next he1 => exact ((h.sendRoute.of_eq he1).modGen).touch
    · exact h
  · split
    · split
      · next he1 => exact ((h.sendRoute.of_eq he1).modGen).touch
      · exact h
    · split
      · exact h
      · split
        · next he1 => exact h.readPositions.of_eq he1
        · next he1 =>
            split
            · exact h
            · next he2 => exact (((((h.readPositions.of_eq he1).emitElement).of_eq he2).addNodeDep).modGen).touch

theorem MemOk.storeNext {s : State} {k : PageKey} {n : Nat} {d : Desc} {g : Gen} {bs : List Byte} {dep : Dep} (h : MemOk s) :
    ExcOk MemOk MemOk (s.storeNext k n d g bs dep) := by
  unfold State.storeNext
  extract_lets
  split
  · exact h
  · split
    · next he => exact h.reachNode.of_eq he
    · next he => exact h.reachNode.of_eq he
    · next he => exact (h.reachNode.of_eq he).genFault
    · next he =>
        extract_lets q
        have hq : MemOk q.2 := (h.reachNode.of_eq he).storeElem
        exact hq.addSeen.addNodeDep.modGen.touchFrame

theorem MemOk.writeHead {s : State} {k : PageKey} {n : Nat} {d : Desc} (h : MemOk s) : MemOk (s.writeHead k n d) := by
  unfold State.writeHead
  extract_lets _ pop
  have hpop : ∀ (t : State), MemOk t → MemOk (pop t) := fun _ ht1 => ht1.modDyn
  split
  · exact h
  · split
    · split
      · exact h
      · split
        · exact h
        · split
          · exact h.genFault
          · split
            · next he3 => exact hpop _ (h.storeNext.of_eq he3)
            · next he3 => exact h.storeNext.of_eq he3
    · split
      · exact hpop _ h
      · split
        · exact h
        · split
          · next he2 => exact ((hpop _ (h.sendRoute.of_eq he2)).cutNode).fireAt
          · exact h
    · exact h
    · exact h
    · exact hpop _ h
  · extract_lets
    split
    · exact h
    · exact MemOk.ite h (MemOk.ite h.genFault ((hpop _ h).modDyn))
  · split
    · exact hpop _ h
    · split
      · exact h
      · split
        · exact h
        · split
          · next he3 => exact (hpop _ (h.storeNext.of_eq he3)).modDyn
          · next he3 => exact h.storeNext.of_eq he3

theorem nextOk_execGeneratorStart {s : State} (h : MemOk s) : NextOk (execGeneratorStart s) := by
  unfold execGeneratorStart
  split
  · split
    · exact h
    · exact MemOk.ite h (MemOk.ite h.takePort.startGen h.takePort)
  · exact trivial

theorem nextOk_execGeneratorStop {s : State} (h : MemOk s) : NextOk (execGeneratorStop s) := by
  unfold execGeneratorStop
  split
  · split
    · exact h
    · exact MemOk.ite h (MemOk.ite h.takePort.modGen h.takePort)
  · exact trivial

theorem nextOk_execWriteNodeData {s : State} (h : MemOk s) : NextOk (execWriteNodeData s) := by
  unfold execWriteNodeData
  split
  · exact MemOk.ite h.writeHead h
  · exact trivial

theorem nextOk_execWriteNodeEos {s : State} (h : MemOk s) : NextOk (execWriteNodeEos s) := by
  unfold execWriteNodeEos
  split
  · extract_lets _ s1
    have hs1 : MemOk s1 := h.modDyn
    split
    · exact h
    · split
      · split
        · exact h
        · split
          · next he2 => exact ((h.sendRoute.of_eq he2).modGen).touch
          · exact h
      · split
        · exact h
        · split
          · exact h
          · split
            · exact h
            · exact MemOk.ite hs1 hs1.modGen
  · exact trivial

theorem nextOk_execGeneratorEmit {s : State} (h : MemOk s) : NextOk (execGeneratorEmit s) := by
  unfold execGeneratorEmit
  split
  · extract_lets
    split
    · exact h
    · split
      · split
        · exact h
        · split
          · next he2 => exact ((h.sendRoute.of_eq he2).cutNode).fireAt
          · exact h
      · split
        · exact h
        · split
          · exact h
          · exact MemOk.ite h.emitNext h
  · exact trivial

theorem nextOk_execWindowReturn {s : State} (h : MemOk s) : NextOk (execWindowReturn s) := by
  unfold execWindowReturn
  split
  · extract_lets
    split
    · exact h
    · split
      · exact h
      · exact MemOk.ite h.modGen h
  · exact trivial

theorem MemOk.takeClosing {s : State} {k : PageKey} {n : Nat} {e : Ecw} {t : Token} (h : MemOk s) : MemOk (s.takeClosing k n e t) :=
    h.takeAll.modDyn

theorem memOk_memElem {tri : Bool} {ask : Args → State → Ask} {e : Ecw} {k : PageKey} {n : Nat} {s : State} (h : MemOk s) :
    MemOk (memElem tri ask e k n s) := by
  unfold memElem
  extract_lets
  refine memOk_fireWith (⟨fun _ _ hx1 => hx1.takeAll.queueClosing, fun _ _ hx1 => hx1.takeClosing.queueClosing⟩) (fun _ _ ht1 => ?_) h
  extract_lets
  split
  · exact ht1
  · exact ht1.issue

theorem memOk_memBlock {left right : Bool} {ask : Args → State → Option Ask} {note : Nat → Firing → Firing} {w : Blk} {k : PageKey}
    {b i : Nat} {s : State} (h : MemOk s) : MemOk (memBlock left right ask note w k b i s) := by
  unfold memBlock
  extract_lets
  refine memOk_fireBlock (fun _ _ ht1 => MemOk.ite ht1 ?_) h
  split
  · exact ht1
  · split
    · exact ht1.faultPast
    · exact ht1.issue.modFiring

theorem nextOk_memForm {f : Form} {right : Bool} {ask : Args → Ask} {s : State} (h : MemOk s) : NextOk (memForm f right ask s) :=
    nextOk_runForm h (fun _ _ _ => memOk_memElem h) (fun _ _ _ _ => memOk_memBlock h)
theorem nextOk_execLd {f : Form} {s : State} (h : MemOk s) : NextOk (execLd f s) := nextOk_memForm h
theorem nextOk_execSt {f : Form} {s : State} (h : MemOk s) : NextOk (execSt f s) := nextOk_memForm h

theorem nextOk_execPf {f : Form} {s : State} (h : MemOk s) : NextOk (execPf f s) := by
  unfold execPf
  refine nextOk_runForm h (fun _ _ _ => memOk_fireElem (fun _ _ ht1 => ht1) h) (fun _ _ _ _ => memOk_fireBlock (fun _ _ ht1 => ?_) h)
  split
  · exact ht1.faultPast
  · exact ht1.giveNone

theorem nextOk_execLdx {b : Blk} {s : State} (h : MemOk s) : NextOk (execLdx b s) := nextOk_runBlk h (fun _ _ _ => memOk_memBlock h)
theorem nextOk_execStx {b : Blk} {s : State} (h : MemOk s) : NextOk (execStx b s) := nextOk_runBlk h (fun _ _ _ => memOk_memBlock h)
theorem nextOk_execAcasD {b : Blk} {s : State} (h : MemOk s) : NextOk (execAcasD b s) := nextOk_runBlk h (fun _ _ _ => memOk_memBlock h)
theorem nextOk_atomicForm {op : Nat} {f : Form} {s : State} (h : MemOk s) : NextOk (atomicForm op f s) := nextOk_memForm h
theorem nextOk_execAadd {f : Form} {s : State} (h : MemOk s) : NextOk (execAadd f s) := nextOk_atomicForm h
theorem nextOk_execAadds {f : Form} {s : State} (h : MemOk s) : NextOk (execAadds f s) := nextOk_atomicForm h
theorem nextOk_execAmin {f : Form} {s : State} (h : MemOk s) : NextOk (execAmin f s) := nextOk_atomicForm h
theorem nextOk_execAmax {f : Form} {s : State} (h : MemOk s) : NextOk (execAmax f s) := nextOk_atomicForm h
theorem nextOk_execAminn {f : Form} {s : State} (h : MemOk s) : NextOk (execAminn f s) := nextOk_atomicForm h
theorem nextOk_execAmaxn {f : Form} {s : State} (h : MemOk s) : NextOk (execAmaxn f s) := nextOk_atomicForm h
theorem nextOk_execAand {f : Form} {s : State} (h : MemOk s) : NextOk (execAand f s) := nextOk_atomicForm h
theorem nextOk_execAor {f : Form} {s : State} (h : MemOk s) : NextOk (execAor f s) := nextOk_atomicForm h
theorem nextOk_execAxor {f : Form} {s : State} (h : MemOk s) : NextOk (execAxor f s) := nextOk_atomicForm h
theorem nextOk_execAxch {f : Form} {s : State} (h : MemOk s) : NextOk (execAxch f s) := nextOk_atomicForm h
theorem nextOk_execAinc {f : Form} {s : State} (h : MemOk s) : NextOk (execAinc f s) := nextOk_atomicForm h
theorem nextOk_execAcas {f : Form} {s : State} (h : MemOk s) : NextOk (execAcas f s) :=
    nextOk_runForm h (fun _ _ _ => memOk_memElem h) (fun _ _ _ _ => memOk_memBlock h)

theorem nextOk_execAfadd {f : Form} {s : State} (h : MemOk s) : NextOk (execAfadd f s) := by
  unfold execAfadd
  extract_lets
  refine nextOk_runForm h (fun _ _ _ => memOk_memElem h) (fun _ _ _ _ => ?_)
  extract_lets _ t
  have ht : MemOk t := memOk_memBlock h
  exact MemOk.ite ht.modDyn ht

theorem MemOk.fenceDep {s : State} {p : Party} {tag : Tag} {rel acq : Bool} {sc : Scope} {d : Dep} (h : MemOk s) :
    MemOk (s.fenceDep p tag rel acq sc d).2 := by
  unfold State.fenceDep
  extract_lets r
  have hr : MemOk r.2 := by
    unfold r
    split
    · exact h.release
    · exact h
  exact hr

theorem nextOk_fence {rel acq : Bool} {f : Form} {s : State} (h : MemOk s) : NextOk (fence rel acq f s) := by
  unfold fence
  extract_lets
  exact nextOk_runForm h
      (fun _ _ _ => memOk_fireWith (⟨fun _ _ hx1 => hx1.takeAll.queueClosing, fun _ _ hx1 => hx1.takeClosing.queueClosing⟩)
      (fun _ _ ht1 => MemOk.ite ht1.queueFence ht1.fenceDep.emitBoth) h)
      (fun _ _ _ _ => memOk_fireBlock (fun _ _ ht1 => MemOk.ite ht1 (MemOk.ite ht1.queueFence.modFiring ht1.fenceDep.give)) h)

theorem nextOk_execFenceAcq {f : Form} {s : State} (h : MemOk s) : NextOk (execFenceAcq f s) := nextOk_fence h
theorem nextOk_execFenceRel {f : Form} {s : State} (h : MemOk s) : NextOk (execFenceRel f s) := nextOk_fence h
theorem nextOk_execFenceAr {f : Form} {s : State} (h : MemOk s) : NextOk (execFenceAr f s) := nextOk_fence h

end Sys2Proof.Machine
end

section
/-!
PROOF. The canonical form of the memories: the messages and the instructions that reach the device.
-/
namespace Sys2Proof.Machine

theorem MemOk.queueMsg {s : State} {k : PageKey} {b i code : Nat} {scope : Scope} {tag : Tag} {reply : DWord} {opnds : List DWord}
    {wait : Bool} {dep : Dep} (h : MemOk s) : MemOk (s.queueMsg k b i code scope tag reply opnds wait dep).2 := by
  unfold State.queueMsg
  extract_lets
  exact h.same (by rfl)

theorem nextOk_sendCode {code : Nat} {wait : Bool} {w : Blk} {s : State} (h : MemOk s) : NextOk (sendCode code wait w s) := by
  unfold sendCode
  extract_lets
  refine nextOk_runBlk h (fun _ _ _ => memOk_fireBlock (fun _ _ ht1 => ?_) h)
  split
  · exact ht1
  · extract_lets _ _ _ q u
    have hq : MemOk q.2 := ht1.queueMsg
    have hu : MemOk u := hq.give
    exact MemOk.ite ht1.giveNone.faultWide (MemOk.ite ht1 (MemOk.ite hq.modFiring (MemOk.ite hu.requestClose hu)))

theorem nextOk_execSendCopy {b : Blk} {s : State} (h : MemOk s) : NextOk (execSendCopy b s) := nextOk_sendCode h
theorem nextOk_execSendFill {b : Blk} {s : State} (h : MemOk s) : NextOk (execSendFill b s) := nextOk_sendCode h
theorem nextOk_execSendGather {b : Blk} {s : State} (h : MemOk s) : NextOk (execSendGather b s) := nextOk_sendCode h
theorem nextOk_execSendScatter {b : Blk} {s : State} (h : MemOk s) : NextOk (execSendScatter b s) := nextOk_sendCode h
theorem nextOk_execSendIstream {b : Blk} {s : State} (h : MemOk s) : NextOk (execSendIstream b s) := nextOk_sendCode h
theorem nextOk_execSendPublish {b : Blk} {s : State} (h : MemOk s) : NextOk (execSendPublish b s) := nextOk_sendCode h
theorem nextOk_execSendDiscard {b : Blk} {s : State} (h : MemOk s) : NextOk (execSendDiscard b s) := nextOk_sendCode h
theorem nextOk_execSendPreload {b : Blk} {s : State} (h : MemOk s) : NextOk (execSendPreload b s) := nextOk_sendCode h
theorem nextOk_execSendMigrate {b : Blk} {s : State} (h : MemOk s) : NextOk (execSendMigrate b s) := nextOk_sendCode h
theorem nextOk_execSendMark {b : Blk} {s : State} (h : MemOk s) : NextOk (execSendMark b s) := nextOk_sendCode h
theorem nextOk_execSendTest {b : Blk} {s : State} (h : MemOk s) : NextOk (execSendTest b s) := nextOk_sendCode h
theorem nextOk_execSendw {b : Blk} {s : State} (h : MemOk s) : NextOk (execSendw b s) := nextOk_sendCode h
theorem nextOk_execSendwCensus {b : Blk} {s : State} (h : MemOk s) : NextOk (execSendwCensus b s) := nextOk_sendCode h
theorem nextOk_execSendwQuery {b : Blk} {s : State} (h : MemOk s) : NextOk (execSendwQuery b s) := nextOk_sendCode h
theorem MemOk.breakAt {s : State} {p : Party} {v : Word} (h : MemOk s) : MemOk (s.breakAt p v) := h.modCtx.tellDebug

theorem nextOk_trapForm {cause : Nat} {stops : State → CtxId → Bool} {f : Form} {s : State} (h : MemOk s) :
    NextOk (trapForm cause stops f s) := by
  unfold trapForm
  extract_lets
  refine nextOk_runForm h (fun _ _ _ => ?_) (fun _ _ _ _ => memOk_fireBlock (fun _ _ ht1 => ?_) h)
  · split
    · split
      · exact MemOk.ite h.modTag.emitBoth.countStep h
      · exact h
    · extract_lets fire r
      have hfire : ∀ (s1 : State), MemOk s1 → MemOk (fire s1) := by
        refine fun _ hs1 => memOk_fireElem (fun _ _ ht1 => ?_) hs1
        extract_lets _ hold
        have hhold : MemOk hold := ht1.modTag
        exact MemOk.ite hhold.breakAt.setTrap (MemOk.ite hhold.trapT (h.same (by rfl)).trapT)
      have hr : MemOk r := hfire _ (h.same (by rfl))
      exact MemOk.ite (hr.same (by rfl)) (hfire _ h)
  · extract_lets _ _ mark
    have hmark : MemOk mark := ht1.setInsSt.modFiring
    exact MemOk.ite ht1.setInsSt.give (MemOk.ite hmark.breakAt (MemOk.ite hmark.trapT ht1.trapT))

theorem nextOk_execTrap {f : Form} {s : State} (h : MemOk s) : NextOk (execTrap f s) := nextOk_trapForm h
theorem nextOk_execBrk {f : Form} {s : State} (h : MemOk s) : NextOk (execBrk f s) := nextOk_trapForm h
theorem MemOk.askAtClose {s : State} {p : Party} {a : AtClose} (h : MemOk s) : MemOk (s.askAtClose p a) := h.modCtx
theorem nextOk_execWmark {w : Blk} {s : State} (h : MemOk s) : NextOk (execWmark w s) :=
    nextOk_runBlk h (fun _ _ _ => memOk_fireBlock (fun _ _ ht1 => MemOk.ite ht1.askAtClose.give ht1.give) h)
theorem nextOk_execSealWindow {w : Blk} {s : State} (h : MemOk s) : NextOk (execSealWindow w s) :=
    nextOk_runBlk h (fun _ _ _ => memOk_fireBlock (fun _ _ ht1 => (MemOk.ite ht1.askAtClose ht1).give) h)

theorem MemOk.readSys {s : State} {p : Party} {n : Nat} (h : MemOk s) : MemOk (s.readSys p n).2 := by
  unfold State.readSys
  extract_lets
  split
  · exact h
  · exact h
  · exact h
  · exact h.modDyn
  · exact h
  · exact h.modDyn
  · exact h
  · exact h
  · exact h
  · exact h
  · exact h
  · split
    · exact h
    · split
      · exact h
      · exact h.same (by rfl)
  · exact h
  · exact h
  · exact h

theorem nextOk_execRdsr {w : Blk} {s : State} (h : MemOk s) : NextOk (execRdsr w s) :=
    nextOk_runBlk h (fun _ _ _ => memOk_fireBlock (fun _ _ ht1 => ht1.readSys.give) h)

theorem nextOk_wrsr {n : Nat} {bad : State → CtxId → Word → Option Nat} {write : Word → Party → State → State} {w : Blk} {s : State}
    (hwrite : ∀ (x : Word) (x1 : Party) (t : State), MemOk t → MemOk (write x x1 t)) (h : MemOk s) : NextOk (wrsr n bad write w s) := by
  unfold wrsr
  refine nextOk_runBlk h (fun _ _ _ => memOk_fireBlock (fun _ _ ht1 => ?_) h)
  extract_lets _ r
  have hr : MemOk r.2 := ht1.readSys
  split
  · exact ht1.giveNone.faultP
  · exact (hwrite _ _ _ hr).give

theorem nextOk_execWrsrAflg {b : Blk} {s : State} (h : MemOk s) : NextOk (execWrsrAflg b s) := nextOk_wrsr (fun _ _ _ ht1 => ht1.modDyn) h
theorem nextOk_execWrsrRtmr {b : Blk} {s : State} (h : MemOk s) : NextOk (execWrsrRtmr b s) :=
    nextOk_wrsr (fun _ _ _ ht1 => ht1.askAtClose) h
theorem nextOk_execWrsrQuota {b : Blk} {s : State} (h : MemOk s) : NextOk (execWrsrQuota b s) :=
    nextOk_wrsr (fun _ _ _ ht1 => ht1.askAtClose) h

theorem nextOk_invalBlock {range : Args → Option (Nat × Nat)} {right : Bool} {w : Blk} {s : State} (h : MemOk s) :
    NextOk (invalBlock range right w s) := by
  unfold invalBlock
  refine nextOk_runBlk h (fun _ _ _ => ?_)
  split
  · exact MemOk.ite h h.give
  · refine memOk_fireBlock (fun _ _ ht1 => ?_) h
    split
    · exact ht1.giveNone.faultP
    · exact ht1.startInval.modFiring

theorem nextOk_execInval {b : Blk} {s : State} (h : MemOk s) : NextOk (execInval b s) := nextOk_invalBlock h
theorem nextOk_execInvalAll {b : Blk} {s : State} (h : MemOk s) : NextOk (execInvalAll b s) := nextOk_invalBlock h

theorem nextOk_pageBlock {ask : Graph → PageKey → Party → State → Except Nat (Word × State)} {w : Blk} {s : State}
    (hask : ∀ (x : Graph) (x1 : PageKey) (x2 : Party) (t : State),   MemOk t → ExcOk (fun _ => True) (fun r => MemOk r.2) (ask x x1 x2 t))
    (h : MemOk s) : NextOk (pageBlock ask w s) := by
  unfold pageBlock
  refine nextOk_runBlk h (fun _ _ _ => memOk_fireBlock (fun _ _ ht1 => ?_) h)
  extract_lets
  split
  · exact ht1.giveNone.faultP
  · split
    · exact ht1.giveNone.faultP
    · next he1 => exact ((hask _ _ _ _ ht1.mapGraph).of_eq he1).give

theorem nextOk_execPgld {b : Blk} {s : State} (h : MemOk s) : NextOk (execPgld b s) := by
  unfold execPgld
  refine nextOk_pageBlock (fun _ _ _ _ ht1 => ?_) h
  extract_lets
  split
  · exact ht1
  · exact ht1.modPart

theorem nextOk_execPgev {b : Blk} {s : State} (h : MemOk s) : NextOk (execPgev b s) := by
  unfold execPgev
  refine nextOk_pageBlock (fun _ _ _ _ ht1 => ?_) h
  extract_lets
  split
  · exact ht1
  · exact ht1
  · exact ht1.modPage

theorem nextOk_execFold {b : Blk} {s : State} (h : MemOk s) : NextOk (execFold b s) := by
  unfold execFold
  extract_lets
  refine nextOk_pageBlock (fun _ _ _ _ ht1 => ?_) h
  split
  · exact trivial
  · exact ht1.askAtClose

theorem nextOk_execYield {w : Blk} {s : State} (h : MemOk s) : NextOk (execYield w s) :=
    nextOk_runBlk h (fun _ _ _ => memOk_fireBlock (fun _ _ ht1 => (MemOk.ite ht1.modPart ht1).give) h)

theorem MemOk.beginCensus {s : State} {part : Nat} {tag : Tag} {frame : Option FrameKey} {waiter : Option (PageKey × Nat × Nat)}
    (h : MemOk s) : MemOk (s.beginCensus part tag frame waiter).2 := by
  unfold State.beginCensus
  extract_lets _ _ s1
  have hs1 : MemOk s1 := h.same (by rfl)
  exact hs1.censusStart

theorem MemOk.censusNext {s : State} {seq : Word} (h : MemOk s) : MemOk (s.censusNext seq).2.2 := by
  unfold State.censusNext
  split
  · exact h
  · refine iteInduction (motive := fun r : Word × Option Word × State => MemOk r.2.2) (fun _ => h) fun _ => ?_
    extract_lets s1 c drop _ _ again
    have hs1 : MemOk s1 := h.censusRest
    have hdrop : ∀ (t1 : State), MemOk t1 → MemOk (drop t1) := fun _ ht1 => ht1.censusCollect.same (by rfl)
    have hagain : ∀ sweep pairs prev, MemOk (again sweep pairs prev).2.2 := fun _ _ _ => ((hdrop _ hs1).same (by rfl)).censusStart
    split
    · exact hagain _ _ _
    · split
      · exact hdrop _ hs1
      · split
        · exact hdrop _ hs1
        · exact hagain _ _ _

theorem nextOk_execCensus {w : Blk} {s : State} (h : MemOk s) : NextOk (execCensus w s) := by
  unfold execCensus
  refine nextOk_runBlk h (fun _ _ _ => ?_)
  split
  · extract_lets r
    have hr : MemOk r.2.2 := h.censusNext
    split
    · exact MemOk.ite hr.give h
    · exact hr.modFiring
  · exact memOk_fireBlock (fun _ _ ht1 => MemOk.ite ht1.giveNone.faultP ht1.beginCensus.modFiring) h

theorem nextOk_execArgw {w : Blk} {s : State} (h : MemOk s) : NextOk (execArgw w s) :=
    nextOk_runBlk h (fun _ _ _ => memOk_fireBlock (fun _ _ ht1 => ht1.giveNone.askAtClose) h)

theorem MemOk.tryStart {s : State} {m : Msg} (h : MemOk s) : MemOk (s.tryStart m) := by
  unfold State.tryStart
  split
  · exact h
  · split
    · exact MemOk.ite h.modMsg h
    · exact MemOk.ite h h.modMsg

theorem MemOk.fillFree {s : State} {sp : Space} {a n : Nat} (h : MemOk s) : MemOk (s.fillFree sp a n) := by
  induction n generalizing s a with
  | zero => exact h
  | succ n ih =>
    have ht : MemOk { s with free := s.free + 1 } := h.same (by rfl)
    exact ih ht.writeNatNow

theorem MemOk.settleStore {s : State} {u : Understudy} (h : MemOk s) : MemOk (s.settleStore u) := by
  unfold State.settleStore
  split
  · exact h
  · exact h.fillFree.same (by rfl)

theorem MemOk.endMsg {s : State} {m : Msg} {cause : Nat} {result : Word} (h : MemOk s) : MemOk (s.endMsg m cause result) := by
  unfold State.endMsg
  extract_lets _ s1 src
  have hs1 : MemOk s1 := h.foldl (fun _ _ ht1 => ht1.settleStore)
  have hsrc : MemOk src := hs1.modMsg
  exact hsrc.same (by rfl)

end Sys2Proof.Machine
end

section
/-!
PROOF. The canonical form of the memories: the engines.
-/
namespace Sys2Proof.Machine

theorem MemOk.engineTurn {s : State} {id : Nat} {work : Msg → State → State} (h : MemOk s)
    (hwork : ∀ (x : Msg) (t : State), MemOk t → MemOk (work x t)) : MemOk (s.engineTurn id work) := by
  unfold State.engineTurn
  split
  · exact h
  · split
    · exact h.tryStart
    · exact hwork _ _ h
    · exact MemOk.ite (h.same (by rfl)) h
    · exact h

theorem nextOk_engineEvent {work : Msg → State → State} {s : State} (hwork : ∀ (x : Msg) (t : State), MemOk t → MemOk (work x t))
    (h : MemOk s) : NextOk (engineEvent work s) := by
  unfold engineEvent
  split
  · exact h.engineTurn hwork
  · exact trivial

theorem MemOk.engineFault {s : State} {m : Msg} {va : Nat} {u : WalkFor} {f : XFault} {mse : Nat} (h : MemOk s) :
    MemOk (s.engineFault m va u f mse) := MemOk.ite h (h.same (by rfl)).post

theorem MemOk.engineXl {s : State} {m : Msg} {u : WalkFor} {va : Nat} {fails : Bool} (h : MemOk s) : EngOk (s.engineXl m u va fails) := by
  unfold State.engineXl
  extract_lets
  split
  · next he => exact h.translateAt.of_eq he
  · split
    · exact h
    · split
      · exact h
      · exact h.engineFault

theorem MemOk.engineLost {s : State} {m : Msg} {sp : Space} {pa : Nat} (h : MemOk s) : MemOk (s.engineLost m sp pa) := h.tellHyp

theorem MemOk.unreadable {s : State} {m : Msg} {va : Nat} {sp : Space} {pa n : Nat} (h : MemOk s) : MemOk (s.unreadable m va sp pa n).2 :=
    by
  unfold State.unreadable
  split
  · exact h.tellHyp
  · split
    · exact h.engineLost
    · extract_lets _ lines try_
      refine List.foldlRecOn (motive := fun r => MemOk r.2) lines try_ (b := (none, s)) h fun a ha l _ => ?_
      unfold try_
      split
      · exact ha
      · exact ha.secondTry

theorem MemOk.engineRead {s : State} {m : Msg} {va n : Nat} {fails : Bool} (h : MemOk s) : ExcOk (fun r => MemOk r.2) (fun r => MemOk r.2)
    (s.engineRead m va n fails) := by
  unfold State.engineRead
  split
  · next he => exact h.engineXl.of_eq he
  · next he => exact h.engineXl.of_eq he
  · next he =>
      extract_lets
      split
      · exact h.engineXl.of_eq he
      · split
        · next he1 => exact ((h.engineXl.of_eq he).unreadable).of_pair he1
        · next he1 =>
            extract_lets r
            have hr : MemOk r.2 := (((h.engineXl.of_eq he).unreadable).of_pair he1).readMany
            exact hr.noteChoice

theorem MemOk.ensureStudy {s : State} {m : Msg} {sp : Space} {frame va : Nat} {whole : Bool} (h : MemOk s) :
    MemOk (s.ensureStudy m sp frame va whole).2 := by
  unfold State.ensureStudy
  split
  · exact h
  · extract_lets _ _ t
    have ht : MemOk t := h.same (by rfl)
    exact MemOk.ite ht ht.writeNow

theorem MemOk.writeStudy {s : State} {m : Msg} {x : Xl} {va : Nat} {bs : List Byte} {whole : Bool} (h : MemOk s) :
    MemOk (s.writeStudy m x va bs whole) := by
  unfold State.writeStudy
  extract_lets q _ _ _ rec1 s1 s2 s3
  have hq : MemOk q.2 := h.ensureStudy
  have hrec1 : ∀ (t : State) (i : Nat), MemOk t → MemOk (rec1 t i) := fun _ _ ht1 => ht1.engineRecord
  have hs1 : MemOk s1 := (hq.foldl hrec1).noteChoice
  have hs2 : MemOk s2 := hs1.writeNow
  have hs3 : MemOk s3 := hs2.same (by rfl)
  exact MemOk.ite hs3.modCtx hs3

theorem MemOk.engineStop {s : State} {m : Msg} {va : Nat} {f : XFault} (h : MemOk s) : MemOk (s.engineStop m va f) := by
  unfold State.engineStop
  split
  · exact h.engineFault
  · exact h.waitOn

theorem MemOk.engineWrite {s : State} {m : Msg} {va : Nat} {bs : List Byte} {whole fails : Bool} {next : State → State} (h : MemOk s)
    (hnext : ∀ (t : State), MemOk t → MemOk (next t)) : MemOk (s.engineWrite m va bs whole fails next) := by
  unfold State.engineWrite
  split
  · next he => exact h.engineXl.of_eq he
  · next he => exact (h.engineXl.of_eq he).endMsg
  · next he =>
      extract_lets
      split
      · exact (h.engineXl.of_eq he).endMsg
      · split
        · exact (h.engineXl.of_eq he).engineStop
        · split
          · exact hnext _ ((h.engineXl.of_eq he).writeStudy)
          · split
            · next he2 => exact hnext _ ((((h.engineXl.of_eq he).unreadable).of_pair he2).writeStudy)
            · next he2 => exact (((h.engineXl.of_eq he).unreadable).of_pair he2).endMsg

theorem MemOk.moved {s : State} {m : Msg} {n total : Nat} (h : MemOk s) : MemOk (s.moved m n total) := MemOk.ite h.modMsg.endMsg h.modMsg

theorem nextOk_execCopy {s : State} (h : MemOk s) : NextOk (execCopy s) := by
  unfold execCopy
  refine nextOk_engineEvent (fun _ _ ht1 => ?_) h
  extract_lets
  split
  · exact ht1.endMsg
  · split
    · next he => exact (ht1.engineRead.of_eq he).endMsg
    · next he => exact ht1.engineRead.of_eq he
    · next he => exact (ht1.engineRead.of_eq he).engineWrite (fun _ hv1 => hv1.moved)

theorem nextOk_execFill {s : State} (h : MemOk s) : NextOk (execFill s) :=
    nextOk_engineEvent (fun _ _ ht1 => MemOk.ite ht1.endMsg (ht1.engineWrite (fun _ hv1 => hv1.moved))) h

theorem memOk_withIndex {m : Msg} {t : State} {f : Nat → State → State} (ht : MemOk t)
    (hf : ∀ (x : Nat) (t1 : State), MemOk t1 → MemOk (f x t1)) : MemOk (withIndex m t f) := by
  unfold withIndex
  split
  · next he => exact (ht.engineRead.of_eq he).endMsg
  · next he => exact ht.engineRead.of_eq he
  · next he => exact hf _ _ (ht.engineRead.of_eq he)

theorem nextOk_execGather {s : State} (h : MemOk s) : NextOk (execGather s) := by
  unfold execGather
  refine nextOk_engineEvent (fun _ _ ht1 => ?_) h
  extract_lets
  split
  · exact ht1.endMsg
  · refine memOk_withIndex ht1 (fun _ _ hu1 => ?_)
    split
    · next he => exact (hu1.engineRead.of_eq he).endMsg
    · next he => exact hu1.engineRead.of_eq he
    · next he => exact (hu1.engineRead.of_eq he).engineWrite (fun _ hw1 => hw1.moved)

theorem nextOk_execScatter {s : State} (h : MemOk s) : NextOk (execScatter s) := by
  unfold execScatter
  refine nextOk_engineEvent (fun _ _ ht1 => ?_) h
  extract_lets
  split
  · exact ht1.endMsg
  · refine memOk_withIndex ht1 (fun _ _ hu1 => ?_)
    split
    · next he => exact (hu1.engineRead.of_eq he).endMsg
    · next he => exact hu1.engineRead.of_eq he
    · next he => exact (hu1.engineRead.of_eq he).engineWrite (fun _ hw1 => hw1.moved)

theorem MemOk.studiesIn {s : State} {m : Msg} (h : MemOk s) : ExcOk MemOk (fun _ => True) (s.studiesIn m) := by
  unfold State.studiesIn
  split
  · exact trivial
  · extract_lets one
    refine List.foldlRecOn (motive := ExcOk MemOk fun _ => True) _ one (b := .ok []) trivial fun acc hacc i _ => ?_
    unfold one
    split
    · exact hacc
    · dsimp only
      split
      · trivial
      · exact MemOk.ite h h.engineFault

theorem nextOk_execPublish {s : State} (h : MemOk s) : NextOk (execPublish s) := by
  unfold execPublish
  refine nextOk_engineEvent (fun _ _ ht1 => ?_) h
  split
  · split
    · exact ht1
    · split
      · exact ht1.endMsg
      · exact MemOk.ite ht1.endMsg ht1
  · split
    · exact ht1.endMsg
    · split
      · next he1 => exact ht1.studiesIn.of_eq he1
      · extract_lets t11 t2 q src u
        have ht11 : MemOk t11 := MemOk.ite ht1.modCtx ht1
        have ht2 : MemOk t2 := ht11.foldl (fun _ _ hx1 => hx1.settleStore)
        have hq : MemOk q.2 := ht2.startInval
        have hsrc : MemOk src := hq
        have hu : MemOk u := hsrc.same (by rfl)
        exact MemOk.ite ht11.endMsg hu.modMsg

theorem nextOk_execDiscard {s : State} (h : MemOk s) : NextOk (execDiscard s) := by
  unfold execDiscard
  refine nextOk_engineEvent (fun _ _ ht1 => MemOk.ite ht1.endMsg ?_) h
  split
  · next he => exact ht1.studiesIn.of_eq he
  · exact (ht1.foldl (fun _ _ hx1 => hx1.settleStore.swapRecord.same (by rfl))).endMsg

theorem nextOk_execIstream {s : State} (h : MemOk s) : NextOk (execIstream s) := by
  unfold execIstream
  refine nextOk_engineEvent (fun _ _ ht1 => ?_) h
  extract_lets
  split
  · exact ht1.endMsg
  · exact MemOk.ite ht1.endMsg ht1.startGen.endMsg

theorem nextOk_execPreload {s : State} (h : MemOk s) : NextOk (execPreload s) := by
  unfold execPreload
  refine nextOk_engineEvent (fun _ _ ht1 => ?_) h
  extract_lets
  split
  · exact ht1.endMsg
  · exact MemOk.ite ht1.endMsg ((ht1.foldl (fun _ _ hu1 => hu1.cacheImage)).endMsg)

theorem MemOk.moveFrame {s : State} {old new : Nat} (h : MemOk s) : MemOk (s.moveFrame old new) := by
  unfold State.moveFrame
  extract_lets _ mvStore _ copy s1
  have hcopy : ∀ (t : State) (f : Nat), MemOk t → MemOk (copy t f) :=
      fun t f ht => ht.setMem .dram (Memory.wf_writeBytes (ht.mem .dram) _ _)
  have hs1 : MemOk s1 := h.writeBackAll.foldl hcopy
  exact hs1.same (by rfl)
theorem MemOk.migratePage {s : State} {c : CtxId} {va chan : Nat} (h : MemOk s) : OptOk (fun r => MemOk r.2) (s.migratePage c va chan) := by
  unfold State.migratePage
  split
  · trivial
  · extract_lets frame store bad
    refine iteInduction (fun _ => trivial) fun _ => ?_
    split
    · next new _ _ =>
      have hs0 := MemOk.ite (c := (s.twinOf frame).any (fun w => w % 24 / 12 == chan / 12))
          (h.startCollapse (part := c.part) (frame := frame)) h
      have hs1 := hs0.moveFrame (old := frame) (new := new)
      exact hs1.writeNatNow.modPart.startInval
    · trivial

theorem nextOk_execMigrate {s : State} (h : MemOk s) : NextOk (execMigrate s) := by
  unfold execMigrate
  refine nextOk_engineEvent (fun m t ht => ?_) h
  extract_lets chan va
  refine MemOk.ite ht.endMsg (MemOk.ite ht (MemOk.ite ht.endMsg ?_))
  split
  · exact MemOk.ite ht ht.engineFault
  · refine MemOk.ite ht ?_
    extract_lets q u
    have hq : MemOk q.2 := by
      unfold q
      split
      · exact ht.unreadable
      · exact ht
    have hu : MemOk u := hq.modMsg
    split
    · exact hq.endMsg
    · split
      · next he =>
          have hi := hq.migratePage.of_eq he
          exact MemOk.modMsg hi
      · exact MemOk.ite hu hu.logEvent

theorem nextOk_execLogbookMark {s : State} (h : MemOk s) : NextOk (execLogbookMark s) :=
    nextOk_engineEvent (fun _ _ ht1 => ht1.logEvent.logEvent.endMsg) h
theorem nextOk_execCensusSweep {s : State} (h : MemOk s) : NextOk (execCensusSweep s) :=
    nextOk_engineEvent (fun _ _ ht1 => (ht1.same (by rfl)).endMsg) h
theorem MemOk.replied {s : State} {m : Msg} (h : MemOk s) : MemOk (s.replied m) := MemOk.ite (h.same (by rfl)) h.modMsg
theorem MemOk.messageFault {s : State} {m : Msg} (h : MemOk s) : MemOk (s.messageFault m) := MemOk.ite h.post (h.post.same (by rfl))
theorem MemOk.noteReply {s : State} {m : Msg} (h : MemOk s) : MemOk (s.noteReply m) := MemOk.ite h h.noteCause

theorem MemOk.replySendw {s : State} {m : Msg} {b i : Nat} (h : MemOk s) : MemOk (s.replySendw m b i) := by
  unfold State.replySendw
  extract_lets _ s1
  have hs1 : MemOk s1 := h.noteReply.replied.modFiring
  split
  · exact MemOk.ite h.replied (MemOk.ite h hs1.deliverTo.deliverTo)
  · exact h.replied

theorem nextOk_execEngineReply {s : State} (h : MemOk s) : NextOk (execEngineReply s) := by
  unfold execEngineReply
  split
  · split
    · exact h
    · split
      · exact h
      · split
        · exact h.replied
        · split
          · exact h.advise.replied
          · split
            · exact h.replySendw
            · split
              · exact (MemOk.ite h h.messageFault).replied
              · split
                · next he3 => exact ((h.deliverReply.of_eq he3).noteReply).replied
                · exact h
  · exact trivial

theorem memOk_widResult {s : State} {part sel : Nat} {g : Args} (h : MemOk s) : MemOk (widResult s part sel g).2 := by
  unfold widResult
  split
  · exact h
  · exact h.same (by rfl)

theorem nextOk_execWid {f : Form} {s : State} (h : MemOk s) : NextOk (execWid f s) :=
    nextOk_runForm h (fun _ _ _ => memOk_fireElem (fun _ _ ht1 => (memOk_widResult ht1).emitBoth) h)
    (fun _ _ _ _ => memOk_fireBlock (fun _ _ ht1 => (memOk_widResult ht1).give) h)

end Sys2Proof.Machine
end

section
/-!
PROOF. The canonical form of the memories: launches, queues, placement and the walker.
-/
namespace Sys2Proof.Machine

theorem MemOk.argBlock {s : State} {c : CtxId} {d : Dep} {r : LaunchRec} {g : Graph} (h : MemOk s) :
    ExcOk (fun _ => True) (fun r => MemOk r.2) (s.argBlock c d r g) := by
  unfold State.argBlock
  split
  · exact h
  · extract_lets one
    have hone : ExcOk (fun _ => True) (fun r => MemOk r.2) ((List.range g.ngarg).foldl one (.ok ([], s))) := by
      refine List.foldlRecOn (motive := ExcOk (fun _ => True) fun r => MemOk r.2) _ one ?_ fun acc hacc i _ => ?_
      · exact h
      unfold one
      split
      · trivial
      · next l =>
          have hl : MemOk l.2 := hacc
          split
          · next he => exact hl.readVa.of_eq he
          · trivial
    split
    · next he => exact hone.of_eq he
    · trivial

theorem MemOk.coverCreate {s : State} {c : CtxId} {r : LaunchRec} (h : MemOk s) : MemOk (s.coverCreate c r) := MemOk.ite h h.modCtx

theorem MemOk.launchFrame {s : State} {c : CtxId} {g : Graph} {f : Frame} {round : Nat} (h : MemOk s) :
    OptOk (fun r => MemOk r.2) (s.launchFrame c g f round) := by
  unfold State.launchFrame
  split
  · exact trivial
  · next tag rest _ =>
      extract_lets s1 _ _ _ _ s2 s3
      have hs0 : MemOk (s.modPart c.part (fun p => { p with tags := rest })) := h.modPart
      have hm := hs0.mapGraph (c := c) (g := g)
      have hs1 : MemOk s1 := hm.coverCreate
      clear_value s1
      have hs2 : MemOk s2 := hs1.same (by rfl)
      clear_value s2
      have hs3 : MemOk s3 := hs2.modPart
      clear_value s3
      exact hs3.logEvent

theorem nextOk_launchBlock {call : Bool} {w : Blk} {s : State} (h : MemOk s) : NextOk (launchBlock call w s) := by
  unfold launchBlock
  -- behind names of their own the kernel does not evaluate the two calls when it compares their branches
  obtain ⟨block, hblock⟩ : ∃ f, f = State.argBlock := ⟨_, rfl⟩
  obtain ⟨launch, hlaunch⟩ : ∃ f, f = State.launchFrame := ⟨_, rfl⟩
  rw [← hblock, ← hlaunch]
  refine nextOk_runBlk h (fun k b i => memOk_fireBlock (fun g t ht => ?_) h)
  have hu : MemOk { t with free := t.free + 1 } := ht.same (by rfl)
  split
  · exact ht
  · dsimp only
    split
    · exact hu.advise.give
    · split
      · exact MemOk.ite ht hu.advise.give
      · next he =>
          rw [hblock] at he
          have ha := ht.argBlock.of_eq he
          refine MemOk.ite ha ?_
          split
          · exact ha
          · next he1 =>
              rw [hlaunch] at he1
              have hu1 := (MemOk.launchFrame ha).of_eq he1
              exact MemOk.give hu1

theorem nextOk_execLaunch {b : Blk} {s : State} (h : MemOk s) : NextOk (execLaunch b s) := nextOk_launchBlock h
theorem nextOk_execCall {b : Blk} {s : State} (h : MemOk s) : NextOk (execCall b s) := nextOk_launchBlock h
theorem MemOk.modQueue {s : State} {g : GuestId} {n : Nat} {f : Queue → Queue} (h : MemOk s) : MemOk (s.modQueue g n f) := h.modGuest
theorem MemOk.adviseQueue {s : State} {g : GuestId} {q : Queue} {cause : Nat} {info0 info1 : DWord} (h : MemOk s) :
    MemOk (s.adviseQueue g q cause info0 info1) := MemOk.ite h.advise h.post
theorem MemOk.stopQueue {s : State} {g : GuestId} {n : Nat} (h : MemOk s) : MemOk (s.stopQueue g n) := h.modQueue.adviseQueue

theorem MemOk.refuseRecord {s : State} {g : GuestId} {n : Nat} {c : CtxId} {r : LaunchRec} (h : MemOk s) :
    MemOk (s.refuseRecord g n c r) := by
  unfold State.refuseRecord
  extract_lets gone
  have hgone : ∀ (t : State), MemOk t → MemOk (gone t) := fun _ ht1 => ht1.modQueue.adviseQueue
  split
  · exact hgone _ h
  · split
    · next he => exact hgone _ (h.storeReleased.of_eq he)
    · exact h.deviceFault

theorem MemOk.bindRecord {s : State} {g : GuestId} {n : Nat} {c : CtxId} {r : LaunchRec} {args : Option (List DWord)} {prio : Nat}
    (h : MemOk s) : OptOk MemOk (s.bindRecord g n c r args prio) := by
  unfold State.bindRecord
  split
  · exact h.refuseRecord
  · extract_lets
    split
    · exact trivial
    · next he1 => exact (h.launchFrame.of_eq he1).modQueue

theorem MemOk.takeRecord {s : State} {g : GuestId} {n : Nat} {c : CtxId} {r : LaunchRec} {prio : Nat} (h : MemOk s) :
    MemOk (s.takeRecord g n c r prio) := by
  unfold State.takeRecord
  split
  · exact h.refuseRecord
  · split
    · exact MemOk.ite h h.stopQueue
    · next args s1 he =>
        have hs1 : MemOk s1 := h.argBlock.of_eq he
        split
        · next t he1 =>
            split at he1
            · exact hs1.bindRecord.of_eq he1
            · cases he1
        · exact hs1.modQueue.modPart

theorem MemOk.readRecord {s : State} {q : Queue} {sp : Space} {a : Nat} (h : MemOk s) : MemOk (s.readRecord q sp a).2 := by
  unfold State.readRecord
  extract_lets r
  have hr : MemOk r.2 := h.readMany
  exact hr

theorem MemOk.presentedRecords {s : State} {g : GuestId} {l : List Queue} (h : MemOk s) : MemOk (s.presentedRecords g l).2 := by
  induction l generalizing s with
  | nil => exact h
  | cons q rest ih =>
    unfold State.presentedRecords
    split
    · exact ih h.readRecord
    · exact ih h

theorem MemOk.refreshPasses {s : State} {g : GuestId} {now : List CtxId} (h : MemOk s) : MemOk (s.refreshPasses g now) := h.same (by rfl)

theorem MemOk.selectRecord {s : State} {g : GuestId} (h : MemOk s) : MemOk (s.selectRecord g) := by
  unfold State.selectRecord
  split
  · exact h
  · extract_lets seen _ _ s1
    have hseen : MemOk seen.2 := h.presentedRecords
    have hs1 : MemOk s1 := hseen.refreshPasses
    split
    · exact hs1
    · split
      · exact hs1
      · exact hs1.modCtx.takeRecord

theorem MemOk.serveTagWaiter {s : State} {g : GuestId} (h : MemOk s) : OptOk MemOk (s.serveTagWaiter g) := by
  unfold State.serveTagWaiter
  split
  · exact trivial
  · split
    · exact trivial
    · extract_lets _ s1
      have hs1 : MemOk s1 := h.modPart
      split
      · exact hs1
      · exact hs1.bindRecord

theorem nextOk_execNotify {s : State} (h : MemOk s) : NextOk (execNotify s) := by
  unfold execNotify
  split
  · split
    · exact h
    · next he1 => exact (((h.takeCtl.of_eq he1).same (by rfl))).logEvent
  · exact trivial

theorem nextOk_execQnotifyWrite {s : State} (h : MemOk s) : NextOk (execQnotifyWrite s) := by
  unfold execQnotifyWrite
  split
  · exact h.modQueue.sendCtl
  · exact trivial

theorem nextOk_execDistributorSelect {s : State} (h : MemOk s) : NextOk (execDistributorSelect s) := by
  unfold execDistributorSelect
  split
  · extract_lets
    split
    · next he1 => exact h.serveTagWaiter.of_eq he1
    · split
      · exact h.stopQueue
      · exact MemOk.ite h.selectRecord h
  · exact trivial

theorem nextOk_execTagWait {s : State} (h : MemOk s) : NextOk (execTagWait s) := by
  unfold execTagWait
  split
  · extract_lets
    split
    · exact MemOk.ite h.modQueue.adviseQueue h
    · exact h
  · exact trivial

theorem nextOk_execArgBlockLoad {s : State} (h : MemOk s) : NextOk (execArgBlockLoad s) := by
  unfold execArgBlockLoad
  split
  · split
    · exact h
    · split
      · exact h.modGraph.requestClose.modFrame
      · exact h
  · exact trivial

theorem MemOk.placeAt {s : State} {c : CtxId} {w : Want} {big : Bool} {chan : Nat} (h : MemOk s) : MemOk (s.placeAt c w big chan).2 := by
  unfold State.placeAt
  split
  · exact h
  · split
    · exact h.logEvent
    · split
      · next he => exact h.migratePage.of_eq he
      · exact h.logEvent

theorem MemOk.duplicate {s : State} {c : CtxId} {w : Want} {chan : Nat} (h : MemOk s) : MemOk (s.duplicate c w chan) := by
  unfold State.duplicate
  extract_lets primary p t bs
  have ht : MemOk t := h.writeBackAll
  split
  · next twin _ =>
      have hm := ht.setMem .dram (Memory.wf_writeBytes (ht.mem .dram) (twin * 4096) bs)
      exact MemOk.ite hm.modPart h
  · exact h.logEvent

theorem MemOk.placeFrame {s : State} {c : CtxId} {big : Bool} {ws : List Want} (h : MemOk s) : MemOk (s.placeFrame c big ws).2 := by
  unfold State.placeFrame
  split
  · exact h
  · split
    · exact h.placeAt
    · extract_lets r
      have hr : MemOk r.2 := h.placeAt
      split
      · split
        · exact hr.duplicate
        · exact hr
      · exact hr

theorem MemOk.placeGraph {s : State} {c : CtxId} {g : Graph} (h : MemOk s) : MemOk (s.placeGraph c g) := by
  unfold State.placeGraph
  extract_lets ws go r
  have hr : MemOk r.2 := List.foldlRecOn (motive := fun a => MemOk a.2) _ go (b := ([], s)) h fun _ ha _ _ => ha.placeFrame
  exact hr.modCtx

theorem nextOk_execPlacement {s : State} (h : MemOk s) : NextOk (execPlacement s) := by
  unfold execPlacement
  split
  · extract_lets
    refine MemOk.ite h ?_
    split
    · exact MemOk.ite h h.modCtx
    · split
      · exact MemOk.ite h.placeGraph h
      · exact h
  · exact trivial

theorem MemOk.deliverAll {s : State} {ts : List (PageKey × Nat × Token)} (h : MemOk s) : OptOk MemOk (s.deliverAll ts) := by
  unfold State.deliverAll
  split
  · exact trivial
  · exact List.foldlRecOn (motive := OptOk MemOk) ts _ (b := some s) h fun _ ho _ _ => ho.bind fun _ hy => hy.deliverAt

theorem MemOk.emitId {s : State} {f : Frame} {v : Nat} (h : MemOk s) : OptOk MemOk (s.emitId f v) := h.deliverAll

theorem MemOk.walkTurn {s : State} {f : Frame} (h : MemOk s) : MemOk (s.walkTurn f) := by
  unfold State.walkTurn
  extract_lets _ _ _ _ on
  have hon : ∀ (t : State) (sent : Nat), MemOk t → MemOk (on t sent) := fun _ _ ht1 => ht1.modFrame
  split
  · split
    · next he1 => exact (h.deliverAll.of_eq he1).modFrame
    · exact h
  · split
    · split
      · next he1 => exact (h.deliverAll.of_eq he1).modFrame
      · exact h
    · split
      · exact hon _ _ h
      · split
        · next he1 => exact hon _ _ (h.emitId.of_eq he1)
        · exact h

theorem MemOk.startWalk {s : State} {f : Frame} (h : MemOk s) : MemOk (s.startWalk f) := h.modFrame

theorem nextOk_execWalkerEmit {s : State} (h : MemOk s) : NextOk (execWalkerEmit s) := by
  unfold execWalkerEmit
  split
  · split
    · exact h
    · split
      · exact MemOk.ite h (MemOk.ite h.modFrame h.startWalk)
      · exact MemOk.ite h.startWalk h
      · exact MemOk.ite h.walkTurn h
      · exact h
  · exact trivial

theorem nextOk_execSinkCounted {s : State} (h : MemOk s) : NextOk (execSinkCounted s) := by
  unfold execSinkCounted
  split
  · split
    · exact h
    · next he1 =>
        split
        · exact h.takeCtl.of_eq he1
        · extract_lets _ q
          have hq : MemOk q.2 := (h.takeCtl.of_eq he1).fresh
          exact MemOk.ite hq.modFrame ((h.takeCtl.of_eq he1).modFrame)
  · exact trivial

theorem MemOk.askCompletion {s : State} {f : Frame} (h : MemOk s) : MemOk (s.askCompletion f) := by
  unfold State.askCompletion
  extract_lets c _ bad s1
  clear_value bad
  cases bad with
  | none =>
    have hs1 : MemOk s1 := h.modFrame
    exact hs1.modCtx.requestClose
  | some x => exact MemOk.ite h.deviceFault h.xlFault

theorem MemOk.censusAnswer {s : State} {f : Frame} {v : Word} (h : MemOk s) : MemOk (s.censusAnswer f v) := by
  unfold State.censusAnswer
  split
  · exact h.modFrame
  · exact MemOk.ite h.modFrame.askCompletion (MemOk.ite h.modFrame (MemOk.ite h.modFrame.post h.modFrame))

theorem nextOk_execFrameComplete {s : State} (h : MemOk s) : NextOk (execFrameComplete s) := by
  unfold execFrameComplete
  split
  · exact h.giveCallReplies
  · split
    · exact h
    · split
      · exact h
      · split
        · exact MemOk.ite h.modFrame.beginCensus h
        · split
          · exact h.modFrame
          · extract_lets r
            have hr : MemOk r.2.2 := h.censusNext
            split
            · exact hr.censusAnswer
            · exact hr
        · exact h
  · exact trivial

theorem MemOk.finishPage {s : State} {p : Page} (h : MemOk s) : MemOk (s.finishPage p) :=
    MemOk.ite (MemOk.ite h.evict h) (MemOk.ite h.modPage.modPart h)

theorem MemOk.releasePhase {s : State} {f : Frame} {g : Graph} {ps : List Page} (h : MemOk s) : MemOk (s.releasePhase f g ps) := by
  unfold State.releasePhase
  extract_lets
  split
  · exact h
  · next he =>
      extract_lets t1
      have ht1 : MemOk t1 := (h.deliverAll.of_eq he).modFrame
      exact MemOk.ite ht1 (ht1.foldl (fun _ _ hs1 => hs1.finishPage))

theorem nextOk_execPhaseRelease {s : State} (h : MemOk s) : NextOk (execPhaseRelease s) := by
  unfold execPhaseRelease
  split
  · split
    · exact h
    · split
      · exact h
      · extract_lets _ _ t u
        have ht : MemOk t := h.same (by rfl)
        have hu : MemOk u := ht.releasePhase
        exact MemOk.ite ht (MemOk.ite h.sendCtl (MemOk.ite ht.modFrame (MemOk.ite h hu)))
  · exact trivial

theorem MemOk.modInfill {s : State} {k : FrameKey} {g : Infill → Infill} (h : MemOk s) : MemOk (s.modInfill k g) := h.modFrame

end Sys2Proof.Machine
end

section
/-!
PROOF. The canonical form of the memories: infill and time slices.
-/
namespace Sys2Proof.Machine

theorem MemOk.infillRead {s : State} {f : Frame} {p : Plane} {v : Nat} (h : MemOk s) : MemOk (s.infillRead f p v).2 := by
  unfold State.infillRead
  extract_lets
  split
  · next he => exact h.reachNode.of_eq he
  · next he => exact (h.reachNode.of_eq he).faultP
  · next he => exact h.reachNode.of_eq he
  · next he => exact h.reachNode.of_eq he

theorem MemOk.infillReads {s : State} {f : Frame} {p : Plane} {l : List Nat} (h : MemOk s) : MemOk (s.infillReads f p l).2 := by
  induction l generalizing s with
  | nil => exact h
  | cons v vs ih =>
    unfold State.infillReads
    split
    · next he => exact h.infillRead.of_pair he
    · next he =>
        have ht := h.infillRead.of_pair he
        split
        · next he1 =>
            have hu := (ih ht).of_pair he1
            exact hu
        · next he1 =>
            have hu := (ih ht).of_pair he1
            exact hu

theorem MemOk.infillStore {s : State} {f : Frame} {p : Plane} {v : Nat} {x : Nat × Flags} (h : MemOk s) :
    MemOk (s.infillStore f p v x).2 := by
  unfold State.infillStore
  extract_lets
  split
  · next he => exact h.reachNode.of_eq he
  · next he => exact (h.reachNode.of_eq he).faultP
  · next he => exact h.reachNode.of_eq he
  · next he =>
      extract_lets _ q
      have hq : MemOk q.2 := (h.reachNode.of_eq he).storeElem
      exact hq.raiseFlags.touch

theorem MemOk.infillStep {s : State} {f : Frame} (h : MemOk s) : MemOk (s.infillStep f).2 := by
  unfold State.infillStep
  extract_lets p v closed audit on
  split
  · exact h.modInfill
  · split
    · exact h.modInfill
    · split
      · next he => exact h.infillReads.of_pair he
      · next xs t he =>
          have ht : MemOk t := h.infillReads.of_pair he
          extract_lets y r r1
          have hr1 : MemOk r1.2 := ht.infillStore
          split
          · exact MemOk.modInfill ht
          · split
            · exact MemOk.modInfill hr1
            · exact hr1

theorem MemOk.infillSteps {s : State} {k : FrameKey} {n : Nat} (h : MemOk s) : MemOk (s.infillSteps k n) := by
  induction n generalizing s with
  | zero => exact h
  | succ n ih =>
    unfold State.infillSteps
    split
    · exact h
    · exact MemOk.ite h (MemOk.ite (ih h.infillStep) h.infillStep)

theorem nextOk_execInfillStart {s : State} (h : MemOk s) : NextOk (execInfillStart s) := by
  unfold execInfillStart
  split
  · split
    · exact h
    · split
      · exact h
      · split
        · exact MemOk.ite h.modInfill h
        · exact MemOk.ite h.modInfill.requestClose h
  · exact trivial

theorem nextOk_execInfillPoint {s : State} (h : MemOk s) : NextOk (execInfillPoint s) := by
  unfold execInfillPoint
  split
  · split
    · exact h
    · exact MemOk.ite h.infillSteps h
  · exact trivial

theorem nextOk_execCoverageUpdate {s : State} (h : MemOk s) : NextOk (execCoverageUpdate s) := by
  unfold execCoverageUpdate
  split
  · split
    · exact h
    · exact MemOk.ite h ((MemOk.ite h.modCtx h).modFrame)
  · exact trivial

theorem nextOk_execCovgstatWrite {s : State} (h : MemOk s) : NextOk (execCovgstatWrite s) := by
  unfold execCovgstatWrite
  split
  · exact h.modCtx
  · exact trivial

theorem nextOk_execPrompterQuery {s : State} (h : MemOk s) : NextOk (execPrompterQuery s) := by
  unfold execPrompterQuery
  refine nextOk_engineEvent (fun _ _ ht1 => ?_) h
  split <;> exact ht1.endMsg

theorem MemOk.charge {s : State} {part n cycles : Nat} (h : MemOk s) : MemOk (s.charge part n cycles) := h.modPart

theorem MemOk.startSlice {s : State} {part n : Nat} (h : MemOk s) : MemOk (s.startSlice part n) := by
  unfold State.startSlice
  extract_lets _ _ _ _ s1 back
  have hs1 : MemOk s1 := h.modPart
  have hback : ∀ (t : State) (x : Context), MemOk t → MemOk (back t x) := by
    intro _ _ ht1
    unfold back
    extract_lets u
    have hu : MemOk u := ht1.modCtx
    exact MemOk.ite hu hu.restoreSaved
  exact hs1.foldl hback

theorem MemOk.chooseSlice {s : State} {part : Nat} {l : List Nat} (h : MemOk s) : MemOk (s.chooseSlice part l) := by
  induction l generalizing s with
  | nil => exact h
  | cons n rest ih => exact MemOk.ite h.startSlice (ih h.modPart)

theorem MemOk.endSlice {s : State} {part : Nat} (h : MemOk s) : MemOk (s.endSlice part) := MemOk.ite h (MemOk.ite h.modPart h.modPart)

theorem MemOk.yieldSlice {s : State} {part : Nat} (h : MemOk s) : MemOk (s.yieldSlice part) := by
  unfold State.yieldSlice
  extract_lets _ _ _ s1
  have hs1 : MemOk s1 := h.foldl (fun _ _ ht1 => ht1.requestClose)
  exact MemOk.ite hs1.charge.modPart h

theorem MemOk.leaveSlice {s : State} {part : Nat} {rounds : List (CtxId × Nat)} (h : MemOk s) : MemOk (s.leaveSlice part rounds) := by
  unfold State.leaveSlice
  extract_lets held waits go q
  have hgo : ∀ a r, MemOk a.2 → MemOk (go a r).2 := by
    intro a r ha
    unfold go
    dsimp only
    split
    · exact ha.modCtx.saveContext
    · exact ha.modCtx.saveContext
  have hq : MemOk q.2 := List.foldlRecOn (motive := fun a => MemOk a.2) _ go (b := ([], s)) h fun _ ha _ _ => hgo _ _ ha
  exact MemOk.ite (h.foldl (fun _ _ ht1 => ht1.requestClose)) hq.modPart

theorem MemOk.endRunOn {s : State} {x : Context} (h : MemOk s) : MemOk (s.endRunOn x) := by
  unfold State.endRunOn
  split
  · exact h
  · split
    · exact h
    · extract_lets q
      have hq : MemOk q.2 := h.modCtx.saveContext
      exact MemOk.ite hq.charge h.saveContext

theorem nextOk_execSliceEnd {s : State} (h : MemOk s) : NextOk (execSliceEnd s) := by
  unfold execSliceEnd
  split
  · extract_lets s1
    have hs1 : MemOk s1 := h.foldl (fun _ _ ht1 => ht1.endRunOn)
    refine MemOk.ite h ?_
    split
    · exact hs1.chooseSlice
    · exact hs1.endSlice
    · exact hs1.yieldSlice
    · exact hs1.leaveSlice
  · exact trivial

theorem nextOk_execSliceWatchdog {s : State} (h : MemOk s) : NextOk (execSliceWatchdog s) := by
  unfold execSliceWatchdog
  split
  · exact MemOk.ite ((h.foldl (fun _ _ ht1 => ht1.modCtx.requestClose)).modPart) h
  · exact trivial

theorem nextOk_execRegionShrink {s : State} (h : MemOk s) : NextOk (execRegionShrink s) := by
  unfold execRegionShrink
  split
  · refine MemOk.ite h ?_
    split
    · exact h
    · exact h.modCtx.requestClose
  · exact trivial

theorem nextOk_execPreemptUnfold {s : State} (h : MemOk s) : NextOk (execPreemptUnfold s) := by
  unfold execPreemptUnfold
  split
  · extract_lets
    split
    · exact MemOk.ite h h.modCtx.requestClose
    · exact h
  · exact trivial

end Sys2Proof.Machine
end

section
/-!
PROOF. The canonical form of the memories: guests, scans and the repair map.
-/
namespace Sys2Proof.Machine

theorem MemOk.gcmdDone {s : State} {g : GuestId} (h : MemOk s) : MemOk (s.gcmdDone g) := h.modGuest.guestIrq

theorem MemOk.suspendNow {s : State} {c : CtxId} (h : MemOk s) : MemOk (s.suspendNow c).2 := by
  unfold State.suspendNow
  split
  · exact h
  · extract_lets q
    have hq : MemOk q.2 := h.modCtx.saveContext
    split
    · exact hq
    · exact h.saveContext

theorem MemOk.resumeNow {s : State} {c : CtxId} (h : MemOk s) : MemOk (s.resumeNow c) := h.modCtx.restoreSaved

theorem nextOk_execGuestSuspend {s : State} (h : MemOk s) : NextOk (execGuestSuspend s) := by
  unfold execGuestSuspend
  split
  · split
    · exact h
    · extract_lets _ q
      have hq : MemOk q.2 := h.suspendNow
      exact MemOk.ite h.gcmdDone (MemOk.ite hq.gcmdDone hq)
  · exact trivial

theorem nextOk_execGuestResume {s : State} (h : MemOk s) : NextOk (execGuestResume s) := by
  unfold execGuestResume
  split
  · split
    · exact h
    · exact MemOk.ite h.resumeNow.gcmdDone h.gcmdDone
  · exact trivial

theorem nextOk_execGuestSwitch {s : State} (h : MemOk s) : NextOk (execGuestSwitch s) := by
  unfold execGuestSwitch
  split
  · split
    · exact h
    · extract_lets _ _ q
      have hq : MemOk q.2 := h.suspendNow
      exact MemOk.ite h.gcmdDone (MemOk.ite hq.resumeNow.gcmdDone hq)
  · exact trivial

theorem MemOk.modScan {s : State} {quad : Nat} {f : Scan → Scan} (h : MemOk s) : MemOk (s.modScan quad f) := h.same (by rfl)
theorem MemOk.compareRun {s : State} {c : Scan} (h : MemOk s) : MemOk (s.compareRun c) := (h.same (by rfl)).modScan

theorem MemOk.compareAgain {s : State} {c : Scan} (h : MemOk s) : MemOk (s.compareAgain c) := by
  unfold State.compareAgain
  extract_lets _ _ _ _ _ s1
  have hs1 : MemOk s1 := (h.same (by rfl)).foldl (fun _ _ ht1 => ht1.noteTransient)
  exact hs1.modScan

theorem MemOk.abortScan {s : State} {c : Scan} (h : MemOk s) : MemOk (s.abortScan c) := by
  unfold State.abortScan
  extract_lets _ _ _ _ _ _ t
  have ht : MemOk t := MemOk.ite (h.same (by rfl)) h
  exact (ht.same (by rfl)).modScan.logEvent

theorem MemOk.askRetire {s : State} {l : Nat} (h : MemOk s) : MemOk (s.askRetire l) := h.same (by rfl)
theorem MemOk.mismatchRec {s : State} {c : Scan} {l : Nat} (h : MemOk s) : MemOk (s.mismatchRec c l) := h.healthIrq.post

theorem MemOk.scanReport {s : State} {m : Msg} {c : Scan} (h : MemOk s) : MemOk (s.scanReport m c) := by
  unfold State.scanReport
  split
  · next he => exact h.engineXl.of_eq he
  · next he => exact (h.engineXl.of_eq he).endMsg
  · next he =>
      split
      · exact (h.engineXl.of_eq he).engineStop
      · extract_lets t0 t1 t2
        have ht0 : MemOk t0 := MemOk.ite ((h.engineXl.of_eq he).modCtx) (h.engineXl.of_eq he)
        have ht1 : MemOk t1 := ht0.writeNow
        have ht2 : MemOk t2 := ht1.foldl (fun _ _ hu1 => hu1.mismatchRec.askRetire)
        exact (ht2.same (by rfl)).endMsg

theorem nextOk_execScanTest {s : State} (h : MemOk s) : NextOk (execScanTest s) := by
  unfold execScanTest
  refine nextOk_engineEvent (fun _ _ ht1 => ?_) h
  split
  · exact MemOk.ite ht1.scanReport ht1
  · exact MemOk.ite ht1.endMsg (MemOk.ite ht1 (ht1.same (by rfl)).logEvent)

theorem nextOk_execScanPhaseEnd {s : State} (h : MemOk s) : NextOk (execScanPhaseEnd s) := by
  unfold execScanPhaseEnd
  split
  · split
    · exact h
    · extract_lets
      split
      · exact MemOk.ite h.modScan (h.foldl (fun _ _ ht1 => MemOk.ite ht1.evict ht1))
      · exact MemOk.ite h.compareRun h
      · exact MemOk.ite h.compareAgain h
      · exact h
  · exact trivial

theorem nextOk_execVacateDeadline {s : State} (h : MemOk s) : NextOk (execVacateDeadline s) := by
  unfold execVacateDeadline
  split
  · split
    · exact h
    · split
      · extract_lets t
        have ht : MemOk t := h.same (by rfl)
        split
        · exact ht.endMsg
        · exact ht
      · exact h
  · exact trivial

theorem nextOk_execQuadClaim {s : State} (h : MemOk s) : NextOk (execQuadClaim s) := by
  unfold execQuadClaim
  split
  · split
    · exact h
    · exact MemOk.ite h.abortScan h
  · exact trivial

theorem MemOk.poisonLine {s : State} {x : Space × Nat} (h : MemOk s) : MemOk (s.poisonLine x) := h.same (by rfl)

theorem MemOk.copyTiles {s : State} {l : Nat} (h : MemOk s) : MemOk (s.copyTiles l) := by
  unfold State.copyTiles
  extract_lets _ t
  have ht : MemOk t := h.foldl (fun _ _ hs1 => hs1.poisonLine)
  exact ht.foldl (fun _ _ ht1 => MemOk.ite (ht1.same (by rfl)).eccTransient (ht1.same (by rfl)).poisonLine)

theorem MemOk.lowerQuotas {s : State} {part : Nat} (h : MemOk s) : MemOk (s.lowerQuotas part) := h.same (by rfl)

theorem MemOk.rewriteCast {s : State} {l : Nat} (h : MemOk s) : MemOk (s.rewriteCast l) := by
  unfold State.rewriteCast
  extract_lets quad old t d owner finish u
  have ht : MemOk t := h.copyTiles
  have hfinish : ∀ e, MemOk (finish e) := fun _ => ht.same (by rfl)
  clear_value owner
  split
  · extract_lets entry u1
    have hu1 : MemOk u1 := hfinish _
    cases owner with
    | none => exact hu1
    | some n => exact hu1.tellHyp.foldl fun _ _ hv => hv.post
  · have hu : MemOk u := hfinish _
    cases owner with
    | none => exact hu
    | some n => exact hu.tellHyp.lowerQuotas

theorem nextOk_execRegionRetire {s : State} (h : MemOk s) : NextOk (execRegionRetire s) := by
  unfold execRegionRetire
  split
  · refine MemOk.ite h ?_
    split
    · exact h.rewriteCast
    · split
      · exact h
      · split
        · exact (h.foldl (fun _ _ ht1 => ht1.modPage)).makePending
        · exact MemOk.ite h (MemOk.ite h.evict.makePending h.evict)
  · exact trivial

theorem nextOk_execRepairMapWrite {s : State} (h : MemOk s) : NextOk (execRepairMapWrite s) := by
  unfold execRepairMapWrite
  split
  · extract_lets _ t
    have ht : MemOk t := h.same (by rfl)
    exact MemOk.ite h (MemOk.ite ht.healthIrq (ht.foldl (fun _ _ hu1 => hu1.tellHyp)))
  · exact trivial

theorem nextOk_execReplicaCollapse {s : State} (h : MemOk s) : NextOk (execReplicaCollapse s) := by
  unfold execReplicaCollapse
  split
  · exact MemOk.ite h h.modPart
  · exact trivial

theorem nextOk_execPullRetry {s : State} (h : MemOk s) : NextOk (execPullRetry s) := by
  unfold execPullRetry
  split
  · extract_lets _ s1
    have hs1 : MemOk s1 := h.postVoid
    refine MemOk.ite h ?_
    split
    · exact h.modPart
    · exact MemOk.ite h (MemOk.ite h.modPart ((hs1.foldl (fun _ _ ht1 => ht1.requestVoid)).modPart))
  · exact trivial

theorem nextOk_execPullComplete {s : State} (h : MemOk s) : NextOk (execPullComplete s) := by
  unfold execPullComplete
  split
  · exact MemOk.ite (h.writeNow.same (by rfl)) h
  · exact trivial

end Sys2Proof.Machine
end

section
/-!
PROOF. The canonical form of the memories: fault rings and the debugger.
-/
namespace Sys2Proof.Machine

theorem MemOk.ringWrite {s : State} {r : RingId} {a v : Nat} (h : MemOk s) : OptOk MemOk (s.ringWrite r a v) := by
  unfold State.ringWrite
  split
  · split
    · next he => exact h.writeGpa.of_eq he
    · exact trivial
  · split
    · exact h.writeNatNow
    · exact trivial

theorem MemOk.ringWait {s : State} {r : RingId} {a : Nat} (h : MemOk s) : MemOk (s.ringWait r a) := by
  unfold State.ringWait
  split
  · split
    · exact h
    · exact h.waitOn
  · refine h.getD ?_
    cases s.awaited _ Space.dram a true with
    | none => trivial
    | some f => exact h.waitOn

theorem MemOk.ringIrq {s : State} {r : RingId} (h : MemOk s) : MemOk (s.ringIrq r) := by
  unfold State.ringIrq
  split
  · exact h.guestIrq
  · exact h.same (by rfl)

theorem MemOk.closeRecord {s : State} {r : RingId} {f : FaultRec} (h : MemOk s) : MemOk (s.closeRecord r f) := by
  unfold State.closeRecord
  extract_lets t
  have ht : MemOk t := h.modRing
  split
  · exact MemOk.ite (ht.same (by rfl)) ht
  · exact ht

theorem MemOk.letGo {s : State} {f : FaultRec} (h : MemOk s) : MemOk (s.letGo f) := by
  unfold State.letGo
  split
  · exact h
  · exact h.modDyn
  · exact h.setStopped

theorem MemOk.thawRun {s : State} {c : CtxId} (h : MemOk s) : MemOk (s.thawRun c) := h.thaw.modCtx
theorem MemOk.startQueues {s : State} {c : CtxId} (h : MemOk s) : MemOk (s.startQueues c) := h.modGuest

theorem MemOk.retryRecord {s : State} {r : RingId} {f : FaultRec} (h : MemOk s) : MemOk (s.retryRecord r f) := by
  unfold State.retryRecord
  extract_lets t
  have ht : MemOk t := h.closeRecord.letGo
  split
  · refine MemOk.ite (ht.foldl fun _ _ hu => hu.thawRun.startQueues) (MemOk.ite ?_ ht)
    split
    · exact ht.modPart
    · exact ht
  · refine MemOk.ite ht.modFrame (MemOk.ite ?_ (MemOk.ite ht.modPart (MemOk.ite ht.modPart (MemOk.ite ht.thawRun ht))))
    dsimp only
    split
    · exact MemOk.ite ht.makePending ht
    · exact ht

theorem MemOk.stopRecord {s : State} {r : RingId} {f : FaultRec} (h : MemOk s) : MemOk (s.stopRecord r f) := by
  unfold State.stopRecord
  extract_lets t
  have ht : MemOk t := h.closeRecord
  split
  · exact MemOk.ite ht ht.askFreeze
  · exact ht

theorem MemOk.writeMap {s : State} {f : Frame} (h : MemOk s) : MemOk (s.writeMap f) := h.writeNow
theorem MemOk.hangNow {s : State} {f : Frame} (h : MemOk s) : MemOk (s.hangNow f) := h.freezeCtx.writeMap.post.post

theorem nextOk_execFaultRingWrite {s : State} (h : MemOk s) : NextOk (execFaultRingWrite s) := by
  unfold execFaultRingWrite
  split
  · extract_lets
    refine MemOk.ite h ?_
    split
    · exact h
    · split
      · split
        · exact h.ringWait
        · next he3 => exact ((h.ringWrite.of_eq he3).modRing).ringIrq
      · split
        · exact h
        · exact h.modRing
  · exact trivial

theorem nextOk_execFresolveRetry {s : State} (h : MemOk s) : NextOk (execFresolveRetry s) := by
  unfold execFresolveRetry
  split
  · split
    · exact h
    · exact h.retryRecord
  · exact trivial

theorem nextOk_execFresolveStop {s : State} (h : MemOk s) : NextOk (execFresolveStop s) := by
  unfold execFresolveStop
  split
  · split
    · exact h
    · exact h.stopRecord
  · exact trivial

theorem nextOk_execHang {s : State} (h : MemOk s) : NextOk (execHang s) := by
  unfold execHang
  split
  · split
    · exact h
    · next f _ =>
        refine MemOk.ite h (MemOk.ite h.modFrame ?_)
        split
        · exact h.modFrame
        · refine MemOk.ite (h.hangNow.getD ?_) h
          cases s.mapHeld f with
          | none => trivial
          | some x => exact h.waitOn
  · exact trivial

theorem nextOk_execLogbookTimeRecord {s : State} (h : MemOk s) : NextOk (execLogbookTimeRecord s) := by
  unfold execLogbookTimeRecord
  split
  · exact MemOk.ite h.logTime h
  · exact trivial

theorem MemOk.dbgDone {s : State} {c : CtxId} {res : Nat} (h : MemOk s) : MemOk (s.dbgDone c res) := h.modCtx.debugIrq

theorem MemOk.releaseBrks {s : State} {c : CtxId} (h : MemOk s) : MemOk (s.releaseBrks c) := by
  unfold State.releaseBrks
  extract_lets one
  have hone : ∀ (t : State) (p : Party), MemOk t → MemOk (one t p) := by
    intro _ _ ht1
    unfold one
    extract_lets u
    have hu : MemOk u := by
      unfold u
      split
      · exact ht1.modFiring
      · exact ht1.setTrap
    exact hu.modCtx
  exact (h.foldl hone).modCtx

theorem MemOk.dbgStop {s : State} {c : CtxId} (h : MemOk s) : MemOk (s.dbgStop c) := h.modCtx

theorem nextOk_dbgEvent {code : Nat} {act : CtxId → State → State} {s : State}
    (hact : ∀ (x : CtxId) (t : State), MemOk t → MemOk (act x t)) (h : MemOk s) : NextOk (dbgEvent code act s) := by
  unfold dbgEvent
  split
  · exact MemOk.ite (hact _ _ h) h
  · exact trivial

theorem nextOk_execLogEnable {s : State} (h : MemOk s) : NextOk (execLogEnable s) := by
  unfold execLogEnable
  refine nextOk_dbgEvent (fun _ _ ht1 => ?_) h
  extract_lets _ _ _ u
  have hu : MemOk u := ht1.modUndo
  exact (MemOk.ite ht1 (MemOk.ite hu.openWindow hu)).dbgDone

theorem nextOk_execLogDisable {s : State} (h : MemOk s) : NextOk (execLogDisable s) :=
    nextOk_dbgEvent (fun _ _ ht1 => ht1.modUndo.dbgDone) h

theorem nextOk_execMark {s : State} (h : MemOk s) : NextOk (execMark s) := by
  unfold execMark
  refine nextOk_dbgEvent (fun _ _ ht1 => ?_) h
  extract_lets u
  have hu : MemOk u := MemOk.ite ht1.modCtx.requestClose ht1
  exact hu.dbgDone

theorem nextOk_execMarkEvery {s : State} (h : MemOk s) : NextOk (execMarkEvery s) := nextOk_dbgEvent (fun _ _ ht1 => ht1.modUndo.dbgDone) h

theorem nextOk_execDrain {s : State} (h : MemOk s) : NextOk (execDrain s) := by
  unfold execDrain
  refine nextOk_dbgEvent (fun c t ht => ?_) h
  extract_lets l n
  refine MemOk.ite (ht.getD ?_) ht.modUndo.freeEntries.dbgDone
  cases t.logHeld c 0 with
  | none => trivial
  | some x => exact ht.waitOn

theorem nextOk_execBreakEnable {s : State} (h : MemOk s) : NextOk (execBreakEnable s) :=
    nextOk_dbgEvent (fun _ _ ht1 => ht1.modCtx.dbgDone) h
theorem nextOk_execStop {s : State} (h : MemOk s) : NextOk (execStop s) := nextOk_dbgEvent (fun _ _ ht1 => ht1.dbgStop.dbgDone) h

theorem nextOk_execResume {s : State} (h : MemOk s) : NextOk (execResume s) := by
  unfold execResume
  refine nextOk_dbgEvent (fun _ _ ht1 => ?_) h
  extract_lets u v
  have hu : MemOk u := ht1.releaseBrks
  have hv : MemOk v := MemOk.ite hu.thaw hu
  exact hv.modCtx.dbgDone

theorem MemOk.unswap {s : State} {sp : Space} {frame : Nat} (h : MemOk s) : MemOk (s.unswap sp frame) := by
  unfold State.unswap
  extract_lets
  split
  · exact h
  · exact MemOk.ite (h.same (by rfl)) (h.same (by rfl))

theorem MemOk.undoOne {s : State} {c : CtxId} {r : UndoRec} (h : MemOk s) : MemOk (s.undoOne c r) := by
  unfold State.undoOne
  extract_lets
  split
  · exact h.writeNow
  · split
    · exact h
    · split
      · exact h.unswap
      · split
        · split
          · exact h.writeNow
          · exact h
        · exact h.writeNow

theorem MemOk.unlaunch {s : State} {c : CtxId} {w : UndoWindow} (h : MemOk s) : MemOk (s.unlaunch c w) := by
  unfold State.unlaunch
  extract_lets _ t
  have ht : MemOk t := h.foldl (fun _ _ ht1 => ht1.endFrame)
  exact ht.modGuest

theorem MemOk.restoreWindow {s : State} {c : CtxId} {w : UndoWindow} (h : MemOk s) : MemOk (s.restoreWindow c w) :=
    (h.same (by rfl)).modCtx.voidRounds.modCtx
theorem MemOk.emptyWindows {s : State} {c : CtxId} {i : Nat} {w : UndoWindow} (h : MemOk s) : MemOk (s.emptyWindows c i w) :=
    h.modUndo.freeEntries.writeWindow

theorem nextOk_execRewind {s : State} (h : MemOk s) : NextOk (execRewind s) := by
  unfold execRewind
  refine nextOk_dbgEvent (fun _ _ ht1 => ?_) h
  extract_lets _ _ _ _ _ _ t11 t2
  have ht11 : MemOk t11 := ht1.voidRounds
  have ht2 : MemOk t2 := ht11.foldl (fun _ _ hu1 => hu1.undoOne)
  split
  · exact ht1.dbgDone
  · split
    · exact ht1.releaseBrks
    · split
      · exact ht1
      · split
        · exact ht1.dbgDone
        · split
          · exact ht1.dbgDone
          · split
            · exact ht1.dbgDone
            · split
              · exact ht1.modCtx.dbgDone
              · split
                · exact ht1.modCtx
                · split
                  · exact ht1.waitOn
                  · exact ht2.emptyWindows.unlaunch.restoreWindow.dbgDone

theorem nextOk_execStepRounds {s : State} (h : MemOk s) : NextOk (execStepRounds s) := by
  unfold execStepRounds
  refine nextOk_dbgEvent (fun _ _ ht1 => ?_) h
  extract_lets _ _ u
  have hu : MemOk u := ht1.releaseBrks.modCtx
  exact MemOk.ite ht1.dbgDone (MemOk.ite ht1 (MemOk.ite ht1.dbgDone ((MemOk.ite hu hu.requestClose).debugIrq)))

theorem nextOk_execStepFiring {s : State} (h : MemOk s) : NextOk (execStepFiring s) :=
    nextOk_dbgEvent (fun _ _ ht1 => MemOk.ite ht1 (MemOk.ite ht1.dbgDone (MemOk.ite ht1.dbgDone ht1.releaseBrks.modCtx.debugIrq))) h
theorem nextOk_execMask {s : State} (h : MemOk s) : NextOk (execMask s) := nextOk_dbgEvent (fun _ _ ht1 => ht1.modCtx.dbgDone) h

end Sys2Proof.Machine
end

section
/-!
PROOF. The canonical form of the memories: registers, contexts and the cores.
-/
namespace Sys2Proof.Machine

theorem MemOk.pushTurn {s : State} {i : Instr} {u : Subject} (h : MemOk s) : MemOk (s.pushTurn i u) := h.same (by rfl)

theorem MemOk.writeHcmd {s : State} {v : Word} (h : MemOk s) : MemOk (s.writeHcmd v) := by
  unfold State.writeHcmd
  split
  · exact h
  · extract_lets _ _ t
    have ht : MemOk t := h.same (by rfl)
    split
    · exact ht.pushTurn
    · exact ht.same (by rfl)

theorem MemOk.writeGrcmd {s : State} {g : GuestId} {v : Word} (h : MemOk s) : MemOk (s.writeGrcmd g v) :=
    MemOk.ite h (MemOk.ite h.modGuest.pushTurn h.modGuest)

theorem MemOk.writeGcmd {s : State} {g : GuestId} {v : Word} (h : MemOk s) : MemOk (s.writeGcmd g v) := by
  unfold State.writeGcmd
  extract_lets _ t
  have ht : MemOk t := h.modGuest
  exact MemOk.ite ht.pushTurn (MemOk.ite ht.pushTurn (MemOk.ite ht.pushTurn ht))

theorem MemOk.writeGncmd {s : State} {g : GuestId} {v : DWord} (h : MemOk s) : MemOk (s.writeGncmd g v) := MemOk.ite h h.modGuest.pushTurn
theorem MemOk.writeQctl {s : State} {g : GuestId} {n : Nat} {v : Word} (h : MemOk s) : MemOk (s.writeQctl g n v) := h.modQueue.modQueue

theorem MemOk.writeDbgcmd {s : State} {c : CtxId} {v : Word} (h : MemOk s) : MemOk (s.writeDbgcmd c v) := by
  unfold State.writeDbgcmd
  split
  · exact h
  · exact MemOk.ite h h.modCtx.pushTurn

theorem MemOk.regWrite {s : State} {r : Reg} {v : DWord} (h : MemOk s) : MemOk (s.regWrite r v) := by
  unfold State.regWrite
  extract_lets _ _ _ t
  have ht : MemOk t := MemOk.ite h.pushTurn h
  split
  · exact h
  · exact h
  · exact h
  · exact h
  · exact h
  · exact h
  · exact h
  · exact MemOk.ite (h.same (by rfl)) h
  · exact MemOk.ite ht.pushTurn ht
  · exact h.pushTurn
  · exact h.same (by rfl)
  · exact h.writeHcmd
  · exact h.same (by rfl)
  · exact h.pushTurn
  · exact h.modPart
  · exact h.modPart
  · exact MemOk.ite h.pushTurn h
  · exact h.modRing
  · exact h.modRing
  · exact h
  · exact h.modRing
  · exact h.modRing.pushTurn
  · exact h.writeGrcmd
  · exact h.modGuest
  · exact h.modGuest
  · exact h.writeGcmd
  · exact h.modGuest
  · exact h.writeGncmd
  · exact h
  · exact h.modQueue
  · exact h.writeQctl
  · exact h.pushTurn
  · exact h
  · exact h.pushTurn
  · exact h.pushTurn
  · exact h.modCtx
  · exact h.modCtx
  · exact h.writeDbgcmd
  · exact h.modCtx
  · exact h.modCtx
  · exact h
  · exact MemOk.ite h.modCtx h
  · exact MemOk.ite h.modCtx h
  · exact h.modCtx
  · exact h.modCtx
  · exact h.pushTurn
  · exact h

theorem nextOk_execRegisterWrite {s : State} (h : MemOk s) : NextOk (execRegisterWrite s) := by
  unfold execRegisterWrite
  split
  · split
    · exact MemOk.ite h.regWrite h
    · exact h
  · exact trivial

theorem nextOk_execLbctlWrite {s : State} (h : MemOk s) : NextOk (execLbctlWrite s) := by
  unfold execLbctlWrite
  split
  · exact MemOk.ite (h.same (by rfl)).logTime (h.same (by rfl))
  · exact trivial

theorem nextOk_execQdirtyClear {s : State} (h : MemOk s) : NextOk (execQdirtyClear s) := by
  unfold execQdirtyClear
  split
  · exact h.modQueue
  · exact trivial

theorem nextOk_execS1rootWrite {s : State} (h : MemOk s) : NextOk (execS1rootWrite s) := by
  unfold execS1rootWrite
  split
  · exact h.modCtx.startInval
  · exact trivial

theorem nextOk_execS2rootWrite {s : State} (h : MemOk s) : NextOk (execS2rootWrite s) := by
  unfold execS2rootWrite
  split
  · exact h.modPart.startInval
  · exact trivial

theorem MemOk.dropContext {s : State} {c : CtxId} (h : MemOk s) : MemOk (s.dropContext c) := by
  unfold State.dropContext
  extract_lets _ s1 s2 s3 _ _ _ _ s4
  have hs1 : MemOk s1 := h.voidHomes.foldl (fun _ _ ht1 => ht1.endFrame)
  have hs2 : MemOk s2 := (hs1.foldl (fun _ _ ht1 => ht1.dropGraph)).dropReleased
  have hs3 : MemOk s3 := hs2.dropPages.modUndo
  have hs4 : MemOk s4 := hs3.same (by rfl)
  exact hs4.modGuest.modPart

theorem nextOk_execContextCreate {s : State} (h : MemOk s) : NextOk (execContextCreate s) := by
  unfold execContextCreate
  split
  · exact MemOk.ite h (h.same (by rfl)).modCtx
  · exact trivial

theorem nextOk_execContextDestroy {s : State} (h : MemOk s) : NextOk (execContextDestroy s) := by
  unfold execContextDestroy
  split
  · exact MemOk.ite h.dropContext h
  · exact trivial

theorem MemOk.modCore {s : State} {n : Nat} {f : CoreParty → CoreParty} (h : MemOk s) : MemOk (s.modCore n f) := h.same (by rfl)
theorem MemOk.coreAnswer {s : State} {a : CoreAccess} {r : CoreReply} (h : MemOk s) : MemOk (s.coreAnswer a r) := (h.same (by rfl)).modCore
theorem MemOk.coreWait {s : State} {a : CoreAccess} (h : MemOk s) : MemOk (s.coreWait a) := MemOk.ite h (h.same (by rfl))
theorem MemOk.coreAcquire {s : State} {n : Nat} (h : MemOk s) : MemOk (s.coreAcquire n) := h.modCore
theorem MemOk.coreRelease {s : State} {n : Nat} (h : MemOk s) : MemOk (s.coreRelease n) := (h.same (by rfl)).modCore
theorem MemOk.coreSaw {s : State} {n : Nat} {sp : Space} {w : Nat} {d : Dep} (h : MemOk s) : MemOk (s.coreSaw n sp w d) := h.modCore

theorem MemOk.coreLoad {s : State} {n : Nat} {sp : Space} {pa size : Nat} {l : List Nat} (h : MemOk s) :
    MemOk (s.coreLoad n sp pa size l).2 := by
  induction l generalizing s with
  | nil => exact h
  | cons w ws ih => exact ih h.readAs.coreSaw.modCore

theorem MemOk.coreStore {s : State} {n : Nat} {sp : Space} {pa : Nat} {bs : List Byte} (h : MemOk s) : MemOk (s.coreStore n sp pa bs) := by
  unfold State.coreStore
  extract_lets _ _ q
  have hq : MemOk q.2 := h.writeBy
  exact (hq.foldl (fun _ _ ht1 => ht1.coreSaw)).modCore

theorem MemOk.coreMemory {s : State} {a : CoreAccess} {sp : Space} {addr : Nat} (h : MemOk s) : MemOk (s.coreMemory a sp addr) := by
  unfold State.coreMemory
  extract_lets _ _ _ _ _ s0 s1 q r
  have hs0 : MemOk s0 := h.noteChoice
  have hs1 : MemOk s1 := MemOk.ite hs0.coreRelease hs0
  have hq : MemOk q.2 := by
    unfold q
    split
    · exact h.secondTry
    · exact h
  have hr : MemOk r.2 := hq.noteChoice.coreLoad
  split
  · exact h.coreWait
  · split
    · exact h.coreAnswer
    · split
      · exact h.coreAnswer
      · split
        · exact h.coreWait
        · split
          · exact h.coreAnswer
          · split
            · exact h.startCollapse.coreWait
            · exact hs1.coreStore.coreAnswer
            · exact MemOk.ite h.markSuspect.coreAnswer (MemOk.ite hq.coreAnswer ((MemOk.ite hr.coreAcquire hr).coreAnswer))

theorem MemOk.coreTells {s : State} {n : Nat} {r : Reg} (h : MemOk s) : MemOk (s.coreTells n r) := by
  unfold State.coreTells
  split
  · exact h.modGuest
  · exact h

theorem MemOk.coreWindow {s : State} {a : CoreAccess} {o : Nat} (h : MemOk s) : MemOk (s.coreWindow a o) := by
  unfold State.coreWindow
  extract_lets
  split
  · exact h.coreWait
  · split
    · exact h.coreAnswer
    · split
      · exact h.coreAnswer
      · split
        · exact MemOk.ite h.regWrite.coreTells.coreAnswer h.coreAnswer
        · exact MemOk.ite h.coreAnswer h.coreAnswer
        · exact h.coreAnswer
        · exact h.coreAnswer

theorem MemOk.coreVf {s : State} {a : CoreAccess} {vf : Nat} (h : MemOk s) : MemOk (s.coreVf a vf) := by
  unfold State.coreVf
  split
  · exact h.coreAnswer
  · split
    · exact h.coreWindow
    · exact h.coreAnswer

theorem memOk_coreAccess {a : CoreAccess} {s : State} (h : MemOk s) : MemOk (coreAccess a s) := by
  unfold coreAccess
  split
  · split
    · exact h.coreWait
    · extract_lets t
      have ht : MemOk t := MemOk.ite h.coreAcquire h
      exact (MemOk.ite ht.coreRelease ht).coreAnswer
  · split
    · exact h.coreVf
    · exact MemOk.ite h.coreAnswer h.coreWindow
    · split
      · exact h.coreMemory
      · split
        · exact h.coreMemory
        · exact h.coreWindow
        · exact MemOk.ite h.coreAnswer (h.same (by rfl)).coreAnswer
        · exact h.coreAnswer

end Sys2Proof.Machine
end

section
/-!
PROOF. The canonical form of the memories: the hypervisor and the device.
-/
namespace Sys2Proof.Machine

theorem MemOk.hcmdDone {s : State} {cause : Nat} (h : MemOk s) : MemOk (s.hcmdDone cause) := h.same (by rfl)

theorem nextOk_hcmdEvent {op : Nat} {act : Nat → State → State} {s : State} (hact : ∀ (x : Nat) (t : State), MemOk t → MemOk (act x t))
    (h : MemOk s) : NextOk (hcmdEvent op act s) := by
  unfold hcmdEvent
  split
  · exact MemOk.ite h (MemOk.ite h.hcmdDone (hact _ _ h))
  · exact trivial

theorem nextOk_execCreate {s : State} (h : MemOk s) : NextOk (execCreate s) := by
  unfold execCreate
  split
  · exact MemOk.ite h (MemOk.ite h.hcmdDone (h.same (by rfl)).modPart.hcmdDone)
  · exact trivial

theorem MemOk.zeroQuad {s : State} {q : Nat} (h : MemOk s) : MemOk (s.zeroQuad q) := by
  have ht : MemOk (s.zeroRange .sram (q * 4 * 2 ^ 22) ((q + 1) * 4 * 2 ^ 22)) := h.zeroRange
  exact ht.same (by rfl)

theorem MemOk.resetPartition {s : State} {part : Nat} (h : MemOk s) : MemOk (s.resetPartition part) := by
  unfold State.resetPartition
  extract_lets _ s1 _ s2 _ s21 s3 s4 s5 s6 _ s7
  have hs1 : MemOk s1 := h.same (by rfl)
  have hs2 : MemOk s2 := hs1.foldl (fun _ _ ht1 => MemOk.ite ht1 ht1.freezeCtx)
  have hs21 : MemOk s21 := hs2.foldl (fun _ _ ht1 => ht1.performReq)
  have hs3 : MemOk s3 := hs21.foldl (fun _ _ ht1 => ht1.dropContext.modCtx)
  have hs4 : MemOk s4 := hs3.foldl (fun _ _ ht1 => ht1.dropGraph)
  have hs5 : MemOk s5 := hs4.foldl (fun _ _ ht1 => ht1.zeroQuad)
  have hs6 : MemOk s6 := hs5.same (by rfl)
  have hs7 : MemOk s7 := hs6.modPart
  exact hs7.foldl (fun _ _ ht1 => ht1.post)

theorem nextOk_execReset {s : State} (h : MemOk s) : NextOk (execReset s) := nextOk_hcmdEvent (fun _ _ ht1 => ht1.resetPartition.hcmdDone) h

theorem nextOk_execDestroy {s : State} (h : MemOk s) : NextOk (execDestroy s) := by
  unfold execDestroy
  refine nextOk_hcmdEvent (fun _ _ ht1 => ?_) h
  extract_lets t11 t2 t3 _ _ t4
  have ht11 : MemOk t11 := ht1.resetPartition
  have ht2 : MemOk t2 := ht11.foldl (fun _ _ hu1 => hu1.dropContext)
  have ht3 : MemOk t3 := ht2.foldl (fun _ _ hu1 => hu1.zeroRange)
  have ht4 : MemOk t4 := ht3.same (by rfl)
  exact ht4.hcmdDone

theorem nextOk_execGrant {s : State} (h : MemOk s) : NextOk (execGrant s) :=
    nextOk_hcmdEvent (fun _ _ ht1 => MemOk.ite (ht1.same (by rfl)).hcmdDone ht1.hcmdDone) h

theorem nextOk_execRemove {s : State} (h : MemOk s) : NextOk (execRemove s) := by
  unfold execRemove
  refine nextOk_hcmdEvent (fun _ _ ht1 => ?_) h
  extract_lets _ _ _ _ _ _ u v
  have hu : MemOk u := ht1.same (by rfl)
  have hv : MemOk v := hu.modPart
  split
  · exact MemOk.ite ht1.hcmdDone hv.startInval
  · exact MemOk.ite ht1 ht1.hcmdDone
  · exact ht1
  · exact ht1.hcmdDone

theorem nextOk_execScrubComplete {s : State} (h : MemOk s) : NextOk (execScrubComplete s) := by
  unfold execScrubComplete
  split
  · extract_lets _ _ t
    have ht : MemOk t := h.zeroRange
    split
    · split
      · exact MemOk.ite ht.tellAll.hcmdDone ht
      · exact MemOk.ite (ht.same (by rfl)).hcmdDone (ht.same (by rfl))
    · exact h
  · exact trivial

theorem nextOk_execScrub {s : State} (h : MemOk s) : NextOk (execScrub s) :=
    nextOk_hcmdEvent (fun _ _ ht1 => (ht1.foldl (fun _ _ hu1 => hu1.zeroRange)).hcmdDone) h
theorem nextOk_execBind {s : State} (h : MemOk s) : NextOk (execBind s) := nextOk_hcmdEvent (fun _ _ ht1 => (ht1.same (by rfl)).modGuest.hcmdDone) h
theorem nextOk_execPort {s : State} (h : MemOk s) : NextOk (execPort s) := nextOk_hcmdEvent (fun _ _ ht1 => (ht1.same (by rfl)).hcmdDone) h
theorem nextOk_execS2inval {s : State} (h : MemOk s) : NextOk (execS2inval s) :=
    nextOk_hcmdEvent (fun _ _ ht1 => MemOk.ite ht1 (MemOk.ite ht1.startInval (MemOk.ite ht1.hcmdDone ht1.startInval))) h
theorem nextOk_execPlacefill {s : State} (h : MemOk s) : NextOk (execPlacefill s) :=
    nextOk_hcmdEvent (fun _ _ ht1 => MemOk.ite ht1.hcmdDone ht1.modPart.hcmdDone) h
theorem nextOk_execDonate {s : State} (h : MemOk s) : NextOk (execDonate s) :=
    nextOk_hcmdEvent (fun _ _ ht1 => MemOk.ite ht1.hcmdDone ht1.modPart.hcmdDone) h
theorem nextOk_execReclaim {s : State} (h : MemOk s) : NextOk (execReclaim s) :=
    nextOk_hcmdEvent (fun _ _ ht1 => ht1.modPart.writeNow.hcmdDone) h
theorem MemOk.setGranule {s : State} {g v : Nat} (h : MemOk s) : MemOk (s.setGranule g v) := h.same (by rfl)
theorem MemOk.zeroGranule {s : State} {g : Nat} (h : MemOk s) : MemOk (s.zeroGranule g) := h.zeroRange
theorem MemOk.gncmdDone {s : State} {g : GuestId} {cause : Nat} (h : MemOk s) : MemOk (s.gncmdDone g cause) := h.modGuest.guestIrq
theorem nextOk_execGranuleGrant {s : State} (h : MemOk s) : NextOk (execGranuleGrant s) :=
    nextOk_hcmdEvent (fun _ _ ht1 => MemOk.ite ht1 (MemOk.ite ht1.hcmdDone ht1.setGranule.hcmdDone)) h
theorem nextOk_execGranuleRevoke {s : State} (h : MemOk s) : NextOk (execGranuleRevoke s) :=
    nextOk_hcmdEvent (fun _ _ ht1 => MemOk.ite ht1 (MemOk.ite ht1.hcmdDone (MemOk.ite ht1 ht1.zeroGranule.setGranule.hcmdDone))) h

theorem nextOk_execGranuleAssign {s : State} (h : MemOk s) : NextOk (execGranuleAssign s) := by
  unfold execGranuleAssign
  split
  · exact MemOk.ite h (MemOk.ite h.gncmdDone h.setGranule.gncmdDone)
  · exact trivial

theorem nextOk_execGranuleRelease {s : State} (h : MemOk s) : NextOk (execGranuleRelease s) := by
  unfold execGranuleRelease
  split
  · exact MemOk.ite h (MemOk.ite h.gncmdDone (MemOk.ite h h.zeroGranule.setGranule.gncmdDone))
  · exact trivial

theorem MemOk.writeQueues {s : State} {part area : Nat} (h : MemOk s) : MemOk (s.writeQueues part area) :=
    h.foldl (fun _ _ ht1 => ht1.writeNow)

theorem nextOk_execExportPart {s : State} (h : MemOk s) : NextOk (execExportPart s) := by
  unfold execExportPart
  refine nextOk_hcmdEvent (fun _ _ ht1 => ?_) h
  extract_lets _ _ _ _ u
  have hu : MemOk u := ht1.same (by rfl)
  split
  · exact ht1.modPart.foldl (fun _ _ hu1 => hu1.requestClose)
  · exact MemOk.ite (ht1.foldl (fun _ _ hu1 => hu1.requestClose)) hu.writeQueues.hcmdDone

theorem MemOk.importArea {s : State} {part : Nat} {e : ExportArea} (h : MemOk s) : MemOk (s.importArea part e) := ((h.same (by rfl)).same (by rfl)).retranslate

theorem nextOk_execImportPart {s : State} (h : MemOk s) : NextOk (execImportPart s) := by
  unfold execImportPart
  refine nextOk_hcmdEvent (fun _ _ ht1 => ?_) h
  split
  · exact ht1.hcmdDone
  · exact MemOk.ite ht1.hcmdDone ht1.importArea.hcmdDone

theorem MemOk.noteTemp {s : State} {die temp : Nat} (h : MemOk s) : MemOk (s.noteTemp die temp) := h.same (by rfl)
theorem MemOk.throttleDie {s : State} {die cause : Nat} (h : MemOk s) : MemOk (s.throttleDie die cause) := h.same (by rfl)

theorem MemOk.freezeFor {s : State} {cause : Nat} {stop : Bool} {c : CtxId} (h : MemOk s) : MemOk (s.freezeFor cause stop c) := by
  unfold State.freezeFor
  extract_lets t
  have ht : MemOk t := h.askFreeze
  exact MemOk.ite ht.modGuest ht

theorem nextOk_execThermalWarn {s : State} (h : MemOk s) : NextOk (execThermalWarn s) := by
  unfold execThermalWarn
  split
  · extract_lets t
    have ht : MemOk t := h.noteTemp
    exact MemOk.ite ht ht.throttleDie.tellAll
  · exact trivial

theorem nextOk_execThermalTrip {s : State} (h : MemOk s) : NextOk (execThermalTrip s) := by
  unfold execThermalTrip
  split
  · extract_lets t
    have ht : MemOk t := h.noteTemp
    exact MemOk.ite ht (ht.tellAll.foldl (fun _ _ hu1 => hu1.freezeFor))
  · exact trivial

theorem nextOk_execThrottleEnd {s : State} (h : MemOk s) : NextOk (execThrottleEnd s) := by
  unfold execThrottleEnd
  split
  · exact h.same (by rfl)
  · exact trivial

theorem nextOk_execVoltageWarn {s : State} (h : MemOk s) : NextOk (execVoltageWarn s) := by
  unfold execVoltageWarn
  split
  · exact MemOk.ite h.tellAll h
  · exact trivial

theorem nextOk_execVoltageFault {s : State} (h : MemOk s) : NextOk (execVoltageFault s) := by
  unfold execVoltageFault
  split
  · exact MemOk.ite (h.tellAll.foldl (fun _ _ ht1 => ht1.resetPartition)) h
  · exact trivial

theorem nextOk_execPowerLimit {s : State} (h : MemOk s) : NextOk (execPowerLimit s) := by
  unfold execPowerLimit
  split
  · extract_lets _ t
    have ht : MemOk t := h.same (by rfl)
    exact MemOk.ite ht ht.throttleDie.throttleDie.tellAll
  · exact trivial

theorem nextOk_execUcieFlitError {s : State} (h : MemOk s) : NextOk (execUcieFlitError s) := by
  unfold execUcieFlitError
  split
  · extract_lets t1 t2
    have ht1 : MemOk t1 := h.same (by rfl)
    have ht2 : MemOk t2 := h.same (by rfl)
    exact MemOk.ite ht1 (MemOk.ite ht2.noteTransient (ht2.tellAll.foldl (fun _ _ hu1 => hu1.freezeFor)))
  · exact trivial

theorem nextOk_execGddrLinkCrc {s : State} (h : MemOk s) : NextOk (execGddrLinkCrc s) := by
  unfold execGddrLinkCrc
  split
  · extract_lets t
    have ht : MemOk t := h.same (by rfl)
    exact MemOk.ite ht.noteTransient (ht.same (by rfl)).tellAll
  · exact trivial

theorem nextOk_execGddrRetrainDone {s : State} (h : MemOk s) : NextOk (execGddrRetrainDone s) := by
  unfold execGddrRetrainDone
  split
  · exact h.same (by rfl)
  · exact trivial

theorem nextOk_execPrompterFailover {s : State} (h : MemOk s) : NextOk (execPrompterFailover s) := by
  unfold execPrompterFailover
  split
  · extract_lets _ t
    have ht : MemOk t := h.same (by rfl)
    exact MemOk.ite (ht.same (by rfl)) (MemOk.ite ht (ht.same (by rfl)).tellAll)
  · exact trivial

theorem nextOk_execPcieLinkUp {s : State} (h : MemOk s) : NextOk (execPcieLinkUp s) := by
  unfold execPcieLinkUp
  split
  · exact h.same (by rfl)
  · exact trivial

theorem nextOk_execPcieLinkDown {s : State} (h : MemOk s) : NextOk (execPcieLinkDown s) := by
  unfold execPcieLinkDown
  split
  · exact h.same (by rfl)
  · exact trivial

theorem nextOk_execVfFlr {s : State} (h : MemOk s) : NextOk (execVfFlr s) := by
  unfold execVfFlr
  split
  · split
    · exact h
    · extract_lets _ t
      have ht : MemOk t := h.foldl (fun _ _ ht1 => ht1.dropContext)
      exact ht.modGuest.modPart
  · exact trivial

theorem nextOk_execPfFlr {s : State} (h : MemOk s) : NextOk (execPfFlr s) := by
  unfold execPfFlr
  split
  · extract_lets t
    have ht : MemOk t := (h.foldl (fun _ _ ht1 => ht1.resetPartition)).writeBackAll
    exact ht.same (by rfl)
  · exact trivial

theorem nextOk_execPowerGood {s : State} (h : MemOk s) : NextOk (execPowerGood s) := by
  unfold execPowerGood
  split
  · extract_lets _ t
    have ht : MemOk t := h.zeroRange
    refine MemOk.ite h ?_
    split
    · exact h.same (by rfl)
    · exact ht.same (by rfl)
  · exact trivial

theorem nextOk_execSafectlClr {s : State} (h : MemOk s) : NextOk (execSafectlClr s) := by
  unfold execSafectlClr
  split
  · exact h.same (by rfl)
  · exact trivial

theorem nextOk_execSafectlForce {s : State} (h : MemOk s) : NextOk (execSafectlForce s) := by
  unfold execSafectlForce
  split
  · exact h.same (by rfl)
  · exact trivial

theorem nextOk_execSafetyTrigger {s : State} (h : MemOk s) : NextOk (execSafetyTrigger s) := by
  unfold execSafetyTrigger
  split
  · extract_lets _ t u
    have ht : MemOk t := h.same (by rfl)
    have hu : MemOk u := ht.tellAll
    exact MemOk.ite hu.lbFreeze hu
  · exact trivial

theorem nextOk_execTriggerInputRise {s : State} (h : MemOk s) : NextOk (execTriggerInputRise s) := by
  unfold execTriggerInputRise
  split
  · exact h.same (by rfl)
  · exact trivial

theorem MemOk.modPort {s : State} {n : Nat} {f : EthPort → EthPort} (h : MemOk s) : MemOk (s.modPort n f) := h.same (by rfl)
theorem MemOk.writePages {s : State} {a : Nat} {bs : List Byte} (h : MemOk s) : MemOk (s.writePages a bs) :=
    h.foldl (fun _ _ ht1 => ht1.writeNow)

theorem MemOk.etherStore {s : State} {n : Nat} {p : EthPort} {part : Nat} (h : MemOk s) : MemOk (s.etherStore n p part) := by
  unfold State.etherStore
  split
  · exact h
  · exact MemOk.ite h.modPort (MemOk.ite (h.foldl (fun _ _ ht1 => ht1.startCollapse)) h.modPort.writePages)
  · split
    · exact h.modPort
    · exact MemOk.ite h h.modPort

theorem nextOk_execEthernetTransmit {s : State} (h : MemOk s) : NextOk (execEthernetTransmit s) := by
  unfold execEthernetTransmit
  split
  · split
    · exact h
    · split
      · exact h
      · split
        · split
          · exact h.modPort
          · split
            · exact h
            · extract_lets t
              have ht : MemOk t := h.modPort
              split
              · exact ht.modCtx
              · exact ht
        · split
          · exact h.modPort
          · exact h
  · exact trivial

theorem nextOk_execEthernetReceive {s : State} (h : MemOk s) : NextOk (execEthernetReceive s) := by
  unfold execEthernetReceive
  split
  · extract_lets t
    have ht : MemOk t := by
      unfold t
      split
      · exact h.same (by rfl)
      · exact h
    exact ht.modPort
  · split
    · exact h
    · split
      · exact h
      · exact h.etherStore
  · exact trivial

theorem nextOk_execGateControlInterval {s : State} (h : MemOk s) : NextOk (execGateControlInterval s) := by
  unfold execGateControlInterval
  split
  · split
    · exact h
    · split
      · exact (h.same (by rfl)).modPort
      · exact MemOk.ite h h.modPort
  · exact trivial

end Sys2Proof.Machine
end

section
/-!
PROOF. The canonical form of the memories: islands.
-/
namespace Sys2Proof.Machine

theorem MemOk.laneHead {s : State} {k : PageKey} {lane : Nat} (h : MemOk s) : MemOk (s.laneHead k lane).2 := by
  unfold State.laneHead
  extract_lets q l t
  have ht : MemOk t := MemOk.ite h h.modDyn
  clear_value t l
  cases l with
  | nil => exact ht
  | cons i tail => exact ht

theorem MemOk.takeLaneHead {s : State} {k : PageKey} {tag : Tag} {lane : Nat} {packet : Bool} (h : MemOk s) :
    ExcOk HoldOk (fun r => MemOk r.2) (s.takeHead k tag lane packet) := by
  unfold State.takeHead
  extract_lets r t
  have ht : MemOk t := h.laneHead
  split
  · exact trivial
  · extract_lets stop check bad
    have hstop : ∀ c, ExcOk HoldOk (fun r => MemOk r.2) (stop c) := fun _ => ht
    refine iteInduction (fun _ => hstop _) fun _ => iteInduction (fun _ => hstop _) fun _ => iteInduction (fun _ => ?_) fun _ => ?_
    · have hp := ht.modDyn (k := k) (f := fun d => d.pop (.laneIn lane))
      exact hp
    · split
      · exact iteInduction (fun _ => hstop _) fun _ => iteInduction (fun _ => hstop _) fun _ => ht
      · exact iteInduction (fun _ => hstop _) fun _ => iteInduction (fun _ => hstop _) fun _ => ht
      · exact trivial

theorem MemOk.sendLane {s : State} {k : PageKey} {lane : Nat} {items : List Item} (h : MemOk s) :
    ExcOk HoldOk MemOk (s.sendLane k lane items) := by
  unfold State.sendLane
  extract_lets
  split
  · exact h.modDyn
  · exact trivial

theorem MemOk.scratchRows {s : State} {k : PageKey} {x : IslandState} {n node : Nat} {l : List Nat} (h : MemOk s) :
    ExcOk HoldOk (fun _ => True) (s.scratchRows k x n node l) := by
  induction l with
  | nil => trivial
  | cons r rest ih =>
    have hstop : ∀ c v, ExcOk HoldOk (fun _ : List (Nat × Nat) => True) (.error (.fault c v node s)) := fun _ _ => h
    refine iteInduction (fun _ => hstop _ _) fun _ => iteInduction (fun _ => hstop _ _) fun _ => iteInduction (fun _ => hstop _ _) fun _ =>
      iteInduction (fun _ => hstop _ _) fun _ => ?_
    cases hr : s.scratchRows k x n node rest with
    | error e => exact ih.of_eq hr
    | ok rows => trivial

theorem MemOk.noteIsland {s : State} {k : PageKey} {round node a : Nat} {tag : Tag} {d : Dep} (h : MemOk s) :
    MemOk (s.noteIsland k round node a tag d) := h.addSeen.addNodeDep

theorem MemOk.loadRows {s : State} {k : PageKey} {x : IslandState} {n node : Nat} {l : List (Nat × Nat)} (h : MemOk s) :
    ExcOk HoldOk (fun r => MemOk r.2.2) (s.loadRows k x n node l) := by
  induction l generalizing s with
  | nil => exact h
  | cons ra rest ih =>
    unfold State.loadRows
    refine iteInduction (fun _ => trivial) fun _ => ?_
    split
    · trivial
    · next he => exact h.reachAt.of_eq he
    · next he => exact h.reachAt.of_eq he
    · next he =>
        have ht := h.reachAt.of_eq he
        dsimp only
        split
        · next he1 => exact (ih (MemOk.readElem ht).noteIsland).of_eq he1
        · next he1 =>
            have hu := (ih (MemOk.readElem ht).noteIsland).of_eq he1
            exact hu

theorem MemOk.storeRows {s : State} {k : PageKey} {x : IslandState} {n node : Nat} {dep : Dep} {l : List ((Nat × Nat) × BitVec 512)}
    (h : MemOk s) : ExcOk HoldOk (fun r => MemOk r.2) (s.storeRows k x n node dep l) := by
  induction l generalizing s with
  | nil => exact h
  | cons ra rest ih =>
    unfold State.storeRows
    refine iteInduction (fun _ => trivial) fun _ => ?_
    split
    · trivial
    · next he => exact h.reachAt.of_eq he
    · next he => exact h.reachAt.of_eq he
    · next he =>
        have ht := h.reachAt.of_eq he
        dsimp only
        split
        · next he1 => exact (ih (MemOk.storeElem ht).noteIsland).of_eq he1
        · next he1 =>
            have hu := (ih (MemOk.storeElem ht).noteIsland).of_eq he1
            exact hu

theorem MemOk.loadPair {s : State} {k : PageKey} {x : IslandState} {n node : Nat} {rs : List Nat} (h : MemOk s) :
    ExcOk HoldOk (fun r => MemOk r.2.2) (s.loadPair k x n node rs) := by
  unfold State.loadPair
  split
  · next he => exact h.scratchRows.of_eq he
  · exact h.loadRows

theorem MemOk.storePair {s : State} {k : PageKey} {x : IslandState} {n node : Nat} {dep : Dep} {rs : List (Nat × BitVec 512)}
    (h : MemOk s) : ExcOk HoldOk (fun r => MemOk r.2) (s.storePair k x n node dep rs) := by
  unfold State.storePair
  split
  · next he => exact h.scratchRows.of_eq he
  · exact h.storeRows

theorem MemOk.setIsland {s : State} {k : PageKey} {x : IslandState} (h : MemOk s) : MemOk (s.setIsland k x) := h.modDyn
theorem MemOk.islandFault {s : State} {k : PageKey} {cause : Nat} {info0 : DWord} {node : Nat} (h : MemOk s) :
    MemOk (s.islandFault k cause info0 node) := h.faultWide

theorem MemOk.islandStep {s : State} {k : PageKey} {jump : Bool} {f : IslandState → Except Hold Done} (h : MemOk s)
    (hf : ∀ (x : IslandState), ExcOk HoldOk DoneOk (f x)) : MemOk (s.islandStep k jump f) := by
  unfold State.islandStep
  split
  · exact h
  · split
    · exact h
    · next he => exact (hf _).of_eq he
    · next he => exact MemOk.islandFault ((hf _).of_eq he)
    · next he => exact MemOk.setIsland ((hf _).of_eq he)
    · next d he =>
        have hd : MemOk d.t := (hf _).of_eq he
        extract_lets t u
        have ht : MemOk t := hd.setIsland.touch
        have hu : MemOk u := ht.same (by rfl)
        exact MemOk.ite ht hu.raiseFlags

theorem MemOk.runIsl {s : State} {jump : Bool} {f : PageKey → IslandState → Except Hold Done} (h : MemOk s)
    (hf : ∀ (x : PageKey) (x1 : IslandState), ExcOk HoldOk DoneOk (f x x1)) : NextOk (s.runIsl jump f) := by
  unfold State.runIsl
  split
  · exact h.islandStep (fun _ => hf _ _)
  · exact trivial

theorem MemOk.badOperand {s : State} {k : PageKey} (h : MemOk s) : HoldOk (s.badOperand k) := h

theorem MemOk.multiplicand {s : State} {k : PageKey} {x : IslandState} {ty : Ty} {d : Desig} {node : Nat} (h : MemOk s) :
    ExcOk HoldOk (fun r => MemOk r.2) (s.multiplicand k x ty d node) := by
  unfold State.multiplicand
  split
  · extract_lets
    split
    · next he => exact h.loadPair.of_eq he
    · next he =>
        have hq := h.loadPair.of_eq he
        exact hq
  · exact h

theorem MemOk.checkPair {s : State} {k : PageKey} {x : IslandState} {ty : Ty} {d : Desig} {node : Nat} (h : MemOk s) :
    ExcOk HoldOk (fun _ => True) (s.checkPair k x ty d node) := by
  unfold State.checkPair
  split
  · split
    · next he => exact h.scratchRows.of_eq he
    · exact trivial
  · exact trivial

theorem MemOk.mmaStep {s : State} {k : PageKey} {w : Isl} {kmajor scaled : Bool} {x : IslandState} (h : MemOk s) :
    ExcOk HoldOk DoneOk (s.mmaStep k w kmajor scaled x) := by
  unfold State.mmaStep
  extract_lets xf nb nc a
  refine iteInduction (fun _ => h.badOperand (k := k)) fun _ => ?_
  split
  · next he => exact h.checkPair.of_eq he
  · next he _ => exact h.checkPair.of_eq he
  · split
    · next he => exact h.multiplicand.of_eq he
    · next he =>
        have ht := h.multiplicand.of_eq he
        split
        · next he1 => exact (MemOk.multiplicand ht).of_eq he1
        · next he1 =>
            have hu := (MemOk.multiplicand ht).of_eq he1
            have hv : MemOk { s with free := s.free + 1 } := h.same (by rfl)
            exact iteInduction (fun _ => hv) fun _ => hu

theorem MemOk.vecStep {s : State} {k : PageKey} {w : Isl} {srcs : List Accum} {f : Nat → Nat → Nat × Flags} {x : IslandState}
    (h : MemOk s) : ExcOk HoldOk DoneOk (s.vecStep k w srcs f x) := by
  unfold State.vecStep
  exact iteInduction (fun _ => h.badOperand (k := k)) fun _ => h

theorem MemOk.vec2 {s : State} {k : PageKey} {w : Isl} {op : Nat → Nat → Nat × Flags} {x : IslandState} (h : MemOk s) :
    ExcOk HoldOk DoneOk (s.vec2 k w op x) := h.vecStep
theorem MemOk.rowStep {s : State} {k : PageKey} {w : Isl} {op : Accum → Nat → Nat × Flags} {x : IslandState} (h : MemOk s) :
    ExcOk HoldOk DoneOk (s.rowStep k w op x) := h.vecStep
theorem nextOk_execMma {w : Isl} {s : State} (h : MemOk s) : NextOk (execMma w s) := h.runIsl (fun _ _ => h.mmaStep)
theorem nextOk_execMmat {w : Isl} {s : State} (h : MemOk s) : NextOk (execMmat w s) := h.runIsl (fun _ _ => h.mmaStep)
theorem nextOk_execMmas {w : Isl} {s : State} (h : MemOk s) : NextOk (execMmas w s) := h.runIsl (fun _ _ => h.mmaStep)

theorem nextOk_execLdt {w : Isl} {s : State} (h : MemOk s) : NextOk (execLdt w s) := by
  unfold execLdt
  refine h.runIsl fun k x => ?_
  dsimp only
  split
  · split
    · next he => exact h.loadPair.of_eq he
    · next he =>
        have hq := h.loadPair.of_eq he
        exact hq
  · split
    · next he => exact h.takeLaneHead.of_eq he
    · next he =>
        have ht := h.takeLaneHead.of_eq he
        split
        · exact trivial
        · exact MemOk.modDyn ht
    · exact trivial

theorem nextOk_execLdtt {w : Isl} {s : State} (h : MemOk s) : NextOk (execLdtt w s) := by
  unfold execLdtt
  refine h.runIsl fun k x => ?_
  dsimp only
  split
  · next he => exact h.loadPair.of_eq he
  · next he =>
      have hq := h.loadPair.of_eq he
      exact hq

theorem nextOk_execStt {w : Isl} {s : State} (h : MemOk s) : NextOk (execStt w s) := by
  unfold execStt
  refine h.runIsl fun k x => ?_
  dsimp only
  split
  · exact h.badOperand (k := k)
  · split
    · next he => exact h.storePair.of_eq he
    · next he =>
        have hq := h.storePair.of_eq he
        exact hq

theorem nextOk_execLda {w : Isl} {s : State} (h : MemOk s) : NextOk (execLda w s) := by
  unfold execLda
  refine h.runIsl fun k x => ?_
  dsimp only
  split
  · next he => exact h.loadPair.of_eq he
  · next he =>
      have hq := h.loadPair.of_eq he
      exact hq

theorem nextOk_execSta {w : Isl} {s : State} (h : MemOk s) : NextOk (execSta w s) := by
  unfold execSta
  refine h.runIsl fun k x => ?_
  dsimp only
  split
  · exact h.badOperand (k := k)
  · split
    · next he => exact h.storePair.of_eq he
    · next he =>
        have hq := h.storePair.of_eq he
        exact hq

theorem nextOk_execRda {w : Isl} {s : State} (h : MemOk s) : NextOk (execRda w s) := by
  unfold execRda
  refine h.runIsl fun k x => ?_
  extract_lets lane a r idx
  split
  · exact h.badOperand (k := k)
  · split
    · next he => exact h.sendLane.of_eq he
    · next he =>
        have ht := h.sendLane.of_eq he
        exact ht

theorem nextOk_execZacc {w : Isl} {s : State} (h : MemOk s) : NextOk (execZacc w s) := h.runIsl (fun _ _ => h)

theorem nextOk_execSca {w : Isl} {s : State} (h : MemOk s) : NextOk (execSca w s) := by
  unfold execSca
  refine h.runIsl (fun _ _ => ?_)
  extract_lets
  split <;> exact h.vecStep

theorem nextOk_execVmaxr {w : Isl} {s : State} (h : MemOk s) : NextOk (execVmaxr w s) := h.runIsl (fun _ _ => h.rowStep)
theorem nextOk_execVsumr {w : Isl} {s : State} (h : MemOk s) : NextOk (execVsumr w s) := h.runIsl (fun _ _ => h.rowStep)
theorem nextOk_execVexp2 {w : Isl} {s : State} (h : MemOk s) : NextOk (execVexp2 w s) := h.runIsl (fun _ _ => h.vecStep)
theorem nextOk_execVadd {w : Isl} {s : State} (h : MemOk s) : NextOk (execVadd w s) := h.runIsl (fun _ _ => h.vec2)
theorem nextOk_execVsub {w : Isl} {s : State} (h : MemOk s) : NextOk (execVsub w s) := h.runIsl (fun _ _ => h.vec2)
theorem nextOk_execVmul {w : Isl} {s : State} (h : MemOk s) : NextOk (execVmul w s) := h.runIsl (fun _ _ => h.vec2)
theorem nextOk_execVfma {w : Isl} {s : State} (h : MemOk s) : NextOk (execVfma w s) := h.runIsl (fun _ _ => h.vecStep)
theorem nextOk_execVmax {w : Isl} {s : State} (h : MemOk s) : NextOk (execVmax w s) := h.runIsl (fun _ _ => h.vec2)

theorem nextOk_execVcvt {w : Isl} {s : State} (h : MemOk s) : NextOk (execVcvt w s) := by
  unfold execVcvt
  refine h.runIsl fun k x => ?_
  dsimp only
  split
  · exact h.badOperand (k := k)
  · exact h

theorem nextOk_execVbcast {w : Isl} {s : State} (h : MemOk s) : NextOk (execVbcast w s) := h.runIsl (fun _ _ => h)
theorem nextOk_execIloop {w : Isl} {s : State} (h : MemOk s) : NextOk (execIloop w s) := h.runIsl (fun _ _ => h)

theorem nextOk_execIwait {w : Isl} {s : State} (h : MemOk s) : NextOk (execIwait w s) := by
  unfold execIwait
  refine h.runIsl (fun _ _ => ?_)
  extract_lets
  split
  · next he => exact h.takeLaneHead.of_eq he
  · next he => exact (h.takeLaneHead.of_eq he).modDyn
  · exact trivial

theorem nextOk_execIemitPkt {w : Isl} {s : State} (h : MemOk s) : NextOk (execIemitPkt w s) := by
  unfold execIemitPkt
  refine h.runIsl fun k x => ?_
  dsimp only
  split
  · exact h.badOperand (k := k)
  · split
    · next he => exact h.sendLane.of_eq he
    · next he =>
        have ht := h.sendLane.of_eq he
        exact ht

theorem nextOk_execIemitTok {w : Isl} {s : State} (h : MemOk s) : NextOk (execIemitTok w s) := by
  unfold execIemitTok
  refine h.runIsl (fun _ _ => ?_)
  extract_lets
  split
  · next he => exact h.sendLane.of_eq he
  · next he => exact h.sendLane.of_eq he

theorem nextOk_execIsync {x : Isl} {s : State} (h : MemOk s) : NextOk (execIsync x s) := h.runIsl (fun _ _ => h)

theorem nextOk_execArm {s : State} (h : MemOk s) : NextOk (execArm s) := by
  unfold execArm
  split
  · split
    · exact h
    · extract_lets x sent s1
      have hs1 : MemOk s1 := by
        unfold s1
        cases sent with
        | none => exact h
        | some z => exact h.same (by rfl)
      clear_value s1
      split
      · exact hs1
      · split
        · exact hs1
        · split
          · exact hs1
          · exact MemOk.ite hs1 (MemOk.ite hs1.setIsland.islandFault (MemOk.ite hs1.sendCtl hs1.noteChoice.setIsland))
  · exact trivial

theorem nextOk_execPassEnd {s : State} (h : MemOk s) : NextOk (execPassEnd s) := by
  unfold execPassEnd
  split
  · split
    · exact h
    · exact MemOk.ite h (MemOk.ite h.setIsland h.setIsland)
  · exact trivial

theorem nextOk_execSectionEnd {s : State} (h : MemOk s) : NextOk (execSectionEnd s) := by
  unfold execSectionEnd
  split
  · split
    · exact h
    · extract_lets _ _ _ t
      have ht : MemOk t := h.modDyn
      split
      · exact h
      · split
        · extract_lets r t1 _ src1 t2
          have hr : MemOk r.2 := h.laneHead
          have ht1 : MemOk t1 := hr.modDyn
          have hsrc1 : MemOk src1 := hr
          have ht2 : MemOk t2 := hsrc1.same (by rfl)
          split
          · exact hr
          · exact MemOk.ite hr.islandFault (MemOk.ite hr.islandFault (MemOk.ite ht1.setIsland ht2.islandFault))
        · exact MemOk.ite ht.sendCtl h
  · exact trivial

theorem nextOk_execSectionDone {s : State} (h : MemOk s) : NextOk (execSectionDone s) := by
  unfold execSectionDone
  split
  · split
    · exact h
    · next he1 =>
        split
        · exact h.takeCtl.of_eq he1
        · exact (h.takeCtl.of_eq he1).modDyn
  · exact trivial

theorem nextOk_execIslandCut {s : State} (h : MemOk s) : NextOk (execIslandCut s) := by
  unfold execIslandCut
  split
  · split
    · exact h
    · extract_lets
      split
      · exact h
      · split
        · exact h
        · exact h.modPage
  · exact trivial

end Sys2Proof.Machine
end

section
/-!
PROOF. The canonical form of the memories: the loader and the step.
-/
namespace Sys2Proof.Machine

theorem MemOk.putBytes {s : State} {c : CtxId} {va : Nat} {bs : List Byte} {n : Nat} (h : MemOk s) : MemOk (s.putBytes c va bs n) := by
  induction n generalizing s va bs with
  | zero => exact h
  | succ n ih =>
    unfold State.putBytes
    extract_lets k t
    have ht : MemOk t := by
      unfold t
      split
      · exact h.writeNow
      · exact h
    exact MemOk.ite ht (ih ht)

theorem MemOk.reside {s : State} {c : CtxId} {base out : Nat} (h : MemOk s) : MemOk (s.reside c base out).2 := by
  unfold State.reside
  have hg : ∀ g, MemOk { s with graphs := s.graphs ++ [g] } := fun _ => h.same (by rfl)
  -- behind names of their own the kernel does not evaluate the two calls when it compares their branches
  obtain ⟨graph, hgraph⟩ : ∃ f, f = State.readGraph := ⟨_, rfl⟩
  obtain ⟨stop, hstop⟩ : ∃ f, f = State.putStop := ⟨_, rfl⟩
  rw [← hgraph, ← hstop]
  split
  · exact h.deviceFault
  · split
    · exact h.deviceFault
    · split
      · exact h.putBytes.noteCause
      · exact (hg _).putBytes

theorem MemOk.residencyDone {s : State} {g : GuestId} (h : MemOk s) : MemOk (s.residencyDone g) := by
  unfold State.residencyDone
  extract_lets t
  have ht : MemOk t := h.modGuest
  split
  · exact ht.guestIrq
  · exact ht.pushTurn

theorem nextOk_execReside {s : State} (h : MemOk s) : NextOk (execReside s) := by
  unfold execReside
  split
  · split
    · exact h
    · split
      · exact h
      · extract_lets q
        have hq : MemOk q.2 := by
          unfold q
          split
          · split
            · exact h.reside
            · exact h
          · exact h
        exact MemOk.ite hq.residencyDone hq
  · exact trivial

theorem nextOk_execRelease {s : State} (h : MemOk s) : NextOk (execRelease s) := by
  unfold execRelease
  split
  · split
    · exact h
    · split
      · exact h
      · extract_lets t
        have ht : MemOk t := by
          unfold t
          split
          · exact MemOk.ite h.modGraph.dropReleased h
          · exact h
        exact ht.residencyDone
  · exact trivial

theorem nextOk_execNop {place : NopPlace} {s : State} (h : MemOk s) : NextOk (execNop place s) := by
  unfold execNop
  split
  · exact h
  · exact memOk_fireBlock (fun _ _ ht1 => ht1.giveNone) h
  · exact MemOk.ite h.modDyn.touch h
  · exact trivial

theorem nextOk_execFscl {f : Form} {s : State} (h : MemOk s) : NextOk (execFscl f s) := by
  unfold execFscl
  extract_lets
  exact nextOk_runForm h (fun _ _ _ => memOk_fireElem (fun _ _ ht1 => ht1.emitBoth.raiseFlags) h)
      (fun _ _ _ _ => memOk_fireBlock (fun _ _ ht1 => MemOk.ite ht1.faultP ht1.give.raiseFlags) h)

theorem memOk_dealt {n : Nat} {l : List Turn} {s : State} (h : MemOk s) : MemOk (dealt n l s).2 := by
  induction n generalizing l s with
  | zero => exact h
  | succ n ih =>
    unfold dealt
    extract_lets c
    have hc : MemOk c.2 := h.choose
    split
    · exact hc
    · exact ih hc

theorem memOk_tick {s : State} (h : MemOk s) : MemOk (tick s) := by
  obtain ⟨_, _, _, _, he⟩ := tick_eq s
  rw [he]
  exact h.same (by rfl)


theorem nextOk_exec {s : State} (h : MemOk s) : ∀ i, NextOk (exec i s)
  | .add _ | .sub _ | .rsub _ | .adds _ | .subs _ | .addsn _ | .subsn _ | .mul _ | .mulh _ | .mulhn _ | .mad _ | .div _ | .divn _ | .rem _
  | .remn _ | .min _ | .max _ | .minn _ | .maxn _ | .abs _ | .neg _ | .clamp _ | .and _ | .or _ | .xor _ | .andn _ | .not _ | .shl _
  | .shr _ | .sar _ | .rol _ | .ror _ | .clz _ | .ctz _ | .popc _ | .brev _ | .bfx _ | .bfxs _ | .bfi _ | .bytep _ | .shrr _ | .satw _
  | .satwn _ | .lea _ | .cmp _ | .tst _ | .sel _ | .mov _ | .lit _ | .dot4 _ | .dot2 _ | .sad4 _ | .pack _ | .unpkl _ | .unpkh _ | .fadd _
  | .fsub _ | .fmul _ | .ffma _ | .ffms _ | .fmin _ | .fmax _ | .fminm _ | .fmaxm _ | .fabs _ | .fneg _ | .fcmp _ | .fcls _ | .frcp _
  | .frsq _ | .fsqrt _ | .fdiv _ | .fexp2 _ | .flog2 _ | .frnd _ | .fldx _ | .cvti _ | .cvtf _ | .cvtw _ | .tagr _ | .arg _ => nextOk_scalar h
  | .nop _ => nextOk_execNop h
  | .fscl _ => nextOk_execFscl h
  | .fxpk _ => nextOk_execFxpk h
  | .fxun _ => nextOk_execFxun h
  | .fxsc _ => nextOk_execFxsc h
  | .steer _ => nextOk_execSteer h
  | .cmerge _ => nextOk_execCmerge h
  | .merge _ => nextOk_execMerge h
  | .omerge _ => nextOk_execOmerge h
  | .gate _ => nextOk_execGate h
  | .dup _ => nextOk_execDup h
  | .drop _ => nextOk_execDrop h
  | .repeatSeg _ => nextOk_execRepeatSeg h
  | .count _ => nextOk_execCount h
  | .iter _ => nextOk_execIter h
  | .strikeMake _ => nextOk_execStrikeMake h
  | .strikeAnnul _ => nextOk_execStrikeAnnul h
  | .join _ => nextOk_execJoin h
  | .reduce _ => nextOk_execReduce h
  | .scanp _ => nextOk_execScanp h
  | .mkeos _ => nextOk_execMkeos h
  | .oneos _ => nextOk_execOneos h
  | .tagw _ => nextOk_execTagw h
  | .nexti _ => nextOk_execNexti h
  | .wid _ => nextOk_execWid h
  | .argw _ => nextOk_execArgw h
  | .launch _ => nextOk_execLaunch h
  | .call _ => nextOk_execCall h
  | .rclose _ => nextOk_execRclose h
  | .recv _ => nextOk_execRecv h
  | .peek _ => nextOk_execPeek h
  | .emit _ => nextOk_execEmit h
  | .advr _ => nextOk_execAdvr h
  | .advw _ => nextOk_execAdvw h
  | .cbq _ => nextOk_execCbq h
  | .ld _ => nextOk_execLd h
  | .st _ => nextOk_execSt h
  | .ldx _ => nextOk_execLdx h
  | .stx _ => nextOk_execStx h
  | .pf _ => nextOk_execPf h
  | .aadd _ => nextOk_execAadd h
  | .aadds _ => nextOk_execAadds h
  | .amin _ => nextOk_execAmin h
  | .amax _ => nextOk_execAmax h
  | .aminn _ => nextOk_execAminn h
  | .amaxn _ => nextOk_execAmaxn h
  | .aand _ => nextOk_execAand h
  | .aor _ => nextOk_execAor h
  | .axor _ => nextOk_execAxor h
  | .axch _ => nextOk_execAxch h
  | .acas _ => nextOk_execAcas h
  | .acasD _ => nextOk_execAcasD h
  | .afadd _ => nextOk_execAfadd h
  | .ainc _ => nextOk_execAinc h
  | .fenceAcq _ => nextOk_execFenceAcq h
  | .fenceRel _ => nextOk_execFenceRel h
  | .fenceAr _ => nextOk_execFenceAr h
  | .mma _ => nextOk_execMma h
  | .mmat _ => nextOk_execMmat h
  | .mmas _ => nextOk_execMmas h
  | .ldt _ => nextOk_execLdt h
  | .ldtt _ => nextOk_execLdtt h
  | .stt _ => nextOk_execStt h
  | .lda _ => nextOk_execLda h
  | .sta _ => nextOk_execSta h
  | .rda _ => nextOk_execRda h
  | .zacc _ => nextOk_execZacc h
  | .sca _ => nextOk_execSca h
  | .vmaxr _ => nextOk_execVmaxr h
  | .vsumr _ => nextOk_execVsumr h
  | .vexp2 _ => nextOk_execVexp2 h
  | .vadd _ => nextOk_execVadd h
  | .vsub _ => nextOk_execVsub h
  | .vmul _ => nextOk_execVmul h
  | .vfma _ => nextOk_execVfma h
  | .vmax _ => nextOk_execVmax h
  | .vcvt _ => nextOk_execVcvt h
  | .vbcast _ => nextOk_execVbcast h
  | .iloop _ => nextOk_execIloop h
  | .iwait _ => nextOk_execIwait h
  | .iemitPkt _ => nextOk_execIemitPkt h
  | .iemitTok _ => nextOk_execIemitTok h
  | .isync w => nextOk_execIsync (x := w) h
  | .sendCopy _ => nextOk_execSendCopy h
  | .sendFill _ => nextOk_execSendFill h
  | .sendGather _ => nextOk_execSendGather h
  | .sendScatter _ => nextOk_execSendScatter h
  | .sendIstream _ => nextOk_execSendIstream h
  | .sendPublish _ => nextOk_execSendPublish h
  | .sendDiscard _ => nextOk_execSendDiscard h
  | .sendPreload _ => nextOk_execSendPreload h
  | .sendMigrate _ => nextOk_execSendMigrate h
  | .sendMark _ => nextOk_execSendMark h
  | .sendTest _ => nextOk_execSendTest h
  | .sendw _ => nextOk_execSendw h
  | .sendwCensus _ => nextOk_execSendwCensus h
  | .sendwQuery _ => nextOk_execSendwQuery h
  | .trap _ => nextOk_execTrap h
  | .brk _ => nextOk_execBrk h
  | .wmark _ => nextOk_execWmark h
  | .sealWindow _ => nextOk_execSealWindow h
  | .rdsr _ => nextOk_execRdsr h
  | .wrsrAflg _ => nextOk_execWrsrAflg h
  | .wrsrRtmr _ => nextOk_execWrsrRtmr h
  | .wrsrQuota _ => nextOk_execWrsrQuota h
  | .inval _ => nextOk_execInval h
  | .invalAll _ => nextOk_execInvalAll h
  | .pgld _ => nextOk_execPgld h
  | .pgev _ => nextOk_execPgev h
  | .fold _ => nextOk_execFold h
  | .yield _ => nextOk_execYield h
  | .census _ => nextOk_execCensus h
  | .actorSelect => nextOk_execActorSelect h
  | .firingComplete => nextOk_execFiringComplete h
  | .matchOverflowProbe => nextOk_execMatchOverflowProbe h
  | .listenArrival => nextOk_execListenArrival h
  | .emitForward => nextOk_execEmitForward h
  | .tokenHop => nextOk_execTokenHop h
  | .egressLookup => nextOk_execEgressLookup h
  | .cueMark => nextOk_execCueMark h
  | .censusToken => nextOk_execCensusToken h
  | .unknownControlCode => nextOk_execUnknownControlCode h
  | .notify => nextOk_execNotify h
  | .arm => nextOk_execArm h
  | .passEnd => nextOk_execPassEnd h
  | .sectionEnd => nextOk_execSectionEnd h
  | .sectionDone => nextOk_execSectionDone h
  | .islandCut => nextOk_execIslandCut h
  | .generatorStart => nextOk_execGeneratorStart h
  | .generatorStop => nextOk_execGeneratorStop h
  | .writeNodeData => nextOk_execWriteNodeData h
  | .writeNodeEos => nextOk_execWriteNodeEos h
  | .generatorEmit => nextOk_execGeneratorEmit h
  | .windowReturn => nextOk_execWindowReturn h
  | .homeArbitrate => nextOk_execHomeArbitrate h
  | .accessResponse => nextOk_execAccessResponse h
  | .roundTimer => nextOk_execRoundTimer h
  | .closeRequest => nextOk_execCloseRequest h
  | .cutReport => nextOk_execCutReport h
  | .commit => nextOk_execCommit h
  | .writeBack => nextOk_execWriteBack h
  | .void => nextOk_execVoid h
  | .freeze => nextOk_execFreeze h
  | .trapDeliver => nextOk_execTrapDeliver h
  | .trapAccept => nextOk_execTrapAccept h
  | .pageSignal => nextOk_execPageSignal h
  | .pageLoadDone => nextOk_execPageLoadDone h
  | .wingDrain => nextOk_execWingDrain h
  | .evictionSave => nextOk_execEvictionSave h
  | .regionAssign => nextOk_execRegionAssign h
  | .foldTurnEnd => nextOk_execFoldTurnEnd h
  | .savePoolWaitEnd => nextOk_execSavePoolWaitEnd h
  | .tlbWalkStep => nextOk_execTlbWalkStep h
  | .drainAck => nextOk_execDrainAck h
  | .placement => nextOk_execPlacement h
  | .replicaCollapse => nextOk_execReplicaCollapse h
  | .pullRetry => nextOk_execPullRetry h
  | .pullComplete => nextOk_execPullComplete h
  | .copy => nextOk_execCopy h
  | .fill => nextOk_execFill h
  | .gather => nextOk_execGather h
  | .scatter => nextOk_execScatter h
  | .publish => nextOk_execPublish h
  | .discard => nextOk_execDiscard h
  | .istream => nextOk_execIstream h
  | .preload => nextOk_execPreload h
  | .migrate => nextOk_execMigrate h
  | .logbookMark => nextOk_execLogbookMark h
  | .scanTest => nextOk_execScanTest h
  | .scanPhaseEnd => nextOk_execScanPhaseEnd h
  | .quadClaim => nextOk_execQuadClaim h
  | .censusSweep => nextOk_execCensusSweep h
  | .prompterQuery => nextOk_execPrompterQuery h
  | .engineReply => nextOk_execEngineReply h
  | .regionRetire => nextOk_execRegionRetire h
  | .repairMapWrite => nextOk_execRepairMapWrite h
  | .hang => nextOk_execHang h
  | .logbookTimeRecord => nextOk_execLogbookTimeRecord h
  | .qnotifyWrite => nextOk_execQnotifyWrite h
  | .distributorSelect => nextOk_execDistributorSelect h
  | .argBlockLoad => nextOk_execArgBlockLoad h
  | .tagWait => nextOk_execTagWait h
  | .walkerEmit => nextOk_execWalkerEmit h
  | .sinkCounted => nextOk_execSinkCounted h
  | .frameComplete => nextOk_execFrameComplete h
  | .phaseRelease => nextOk_execPhaseRelease h
  | .sliceEnd => nextOk_execSliceEnd h
  | .sliceWatchdog => nextOk_execSliceWatchdog h
  | .regionShrink => nextOk_execRegionShrink h
  | .preemptUnfold => nextOk_execPreemptUnfold h
  | .infillStart => nextOk_execInfillStart h
  | .infillPoint => nextOk_execInfillPoint h
  | .coverageUpdate => nextOk_execCoverageUpdate h
  | .guestSuspend => nextOk_execGuestSuspend h
  | .guestResume => nextOk_execGuestResume h
  | .guestSwitch => nextOk_execGuestSwitch h
  | .reside => nextOk_execReside h
  | .release => nextOk_execRelease h
  | .granuleAssign => nextOk_execGranuleAssign h
  | .granuleRelease => nextOk_execGranuleRelease h
  | .contextCreate => nextOk_execContextCreate h
  | .contextDestroy => nextOk_execContextDestroy h
  | .s1rootWrite => nextOk_execS1rootWrite h
  | .s2rootWrite => nextOk_execS2rootWrite h
  | .fresolveRetry => nextOk_execFresolveRetry h
  | .fresolveStop => nextOk_execFresolveStop h
  | .faultRingWrite => nextOk_execFaultRingWrite h
  | .qdirtyClear => nextOk_execQdirtyClear h
  | .covgstatWrite => nextOk_execCovgstatWrite h
  | .lbctlWrite => nextOk_execLbctlWrite h
  | .registerWrite => nextOk_execRegisterWrite h
  | .logEnable => nextOk_execLogEnable h
  | .logDisable => nextOk_execLogDisable h
  | .mark => nextOk_execMark h
  | .markEvery => nextOk_execMarkEvery h
  | .drain => nextOk_execDrain h
  | .breakEnable => nextOk_execBreakEnable h
  | .stop => nextOk_execStop h
  | .resume => nextOk_execResume h
  | .rewind => nextOk_execRewind h
  | .stepRounds => nextOk_execStepRounds h
  | .stepFiring => nextOk_execStepFiring h
  | .mask => nextOk_execMask h
  | .create => nextOk_execCreate h
  | .destroy => nextOk_execDestroy h
  | .reset => nextOk_execReset h
  | .grant => nextOk_execGrant h
  | .remove => nextOk_execRemove h
  | .scrubComplete => nextOk_execScrubComplete h
  | .bind => nextOk_execBind h
  | .exportPart => nextOk_execExportPart h
  | .importPart => nextOk_execImportPart h
  | .scrub => nextOk_execScrub h
  | .port => nextOk_execPort h
  | .granuleGrant => nextOk_execGranuleGrant h
  | .granuleRevoke => nextOk_execGranuleRevoke h
  | .s2inval => nextOk_execS2inval h
  | .placefill => nextOk_execPlacefill h
  | .donate => nextOk_execDonate h
  | .reclaim => nextOk_execReclaim h
  | .safectlClr => nextOk_execSafectlClr h
  | .safectlForce => nextOk_execSafectlForce h
  | .safetyTrigger => nextOk_execSafetyTrigger h
  | .powerGood => nextOk_execPowerGood h
  | .vfFlr => nextOk_execVfFlr h
  | .pfFlr => nextOk_execPfFlr h
  | .thermalWarn => nextOk_execThermalWarn h
  | .thermalTrip => nextOk_execThermalTrip h
  | .throttleEnd => nextOk_execThrottleEnd h
  | .voltageWarn => nextOk_execVoltageWarn h
  | .voltageFault => nextOk_execVoltageFault h
  | .powerLimit => nextOk_execPowerLimit h
  | .ucieFlitError => nextOk_execUcieFlitError h
  | .gddrLinkCrc => nextOk_execGddrLinkCrc h
  | .gddrRetrainDone => nextOk_execGddrRetrainDone h
  | .prompterFailover => nextOk_execPrompterFailover h
  | .pageBecomesEligible => nextOk_execPageBecomesEligible h
  | .vacateDeadline => nextOk_execVacateDeadline h
  | .pcieLinkUp => nextOk_execPcieLinkUp h
  | .pcieLinkDown => nextOk_execPcieLinkDown h
  | .triggerInputRise => nextOk_execTriggerInputRise h
  | .ethernetTransmit => nextOk_execEthernetTransmit h
  | .ethernetReceive => nextOk_execEthernetReceive h
  | .gateControlInterval => nextOk_execGateControlInterval h

theorem nextOk_step {s : State} (h : MemOk s) : NextOk (step s) := by
  unfold step
  split
  · exact memOk_tick h
  · exact nextOk_exec (MemOk.same h (by rfl)) _
  · exact memOk_coreAccess (MemOk.same h (by rfl))
  · split
    · exact nextOk_exec (MemOk.same h (by rfl)) _
    · exact MemOk.same h (by rfl)
    · trivial

/-- Settles O53: the three memories of the reset state are empty. -/
theorem memoriesAreCanonicalAtReset : Obligations.MemoriesAreCanonicalAtReset := ⟨rfl, rfl, rfl⟩

/-- Settles O54: a tick, a core's access and every instruction keep the form, one lemma per operation above. -/
theorem everyStepKeepsMemoriesCanonical : Obligations.EveryStepKeepsMemoriesCanonical := by
  unfold Obligations.EveryStepKeepsMemoriesCanonical
  intro s t h hs
  exact (nextOk_step h).of_eq hs

end Sys2Proof.Machine
end

section
/-!
PROOF. A home's arbiter (R294): telling of a stalled write changes nothing that it looks at, a single ready request is taken, and
what a store to fabric SRAM leaves.
-/
namespace Sys2Proof.Machine

theorem State.ctx_modCtx_other {s : State} {c c' : CtxId} {f : Context → Context} (hf : ∀ x, (f x).id = x.id) (hc : c' ≠ c) :
    (s.modCtx c f).ctx c' = s.ctx c' := by
  have hne : ∀ x : Context, (x.id == c) = true → (x.id == c') = false := fun x hx => by
    rw [beq_iff_eq.mp hx]
    exact beq_false_of_ne (Ne.symm hc)
  have hfind := find?_update_other (p := fun x => x.id == c) (q := fun x => x.id == c') (f := f) (new := some (f { id := c })) hne
    (fun x hx => by rw [hf]; exact hne x hx) (fun x hx => by cases hx; rw [hf]; exact hne _ (beq_self_eq_true c)) s.ctxs
  simp only [State.ctx, State.ctx?, State.modCtx, hfind]

/-- The Logbook's records, what a context's debugger is told and what the guests' vectors show: nothing that a home's arbiter looks at. -/
def Told (s t : State) : Prop :=
  (∃ log seq wptr ctl irqs inc since cs gs, t = { s with
    dev := { s.dev with log := log, logSeq := seq, lbWptr := wptr, lbCtl := ctl, irqs := irqs, incident := inc, logTimeAt := since }
    ctxs := cs
    guests := gs }) ∧
  ∀ c, (t.ctx c).s1root = (s.ctx c).s1root ∧ (t.ctx c).undo = (s.ctx c).undo

namespace Told

variable {s t u : State}

theorem refl (s : State) : Told s s := ⟨⟨_, _, _, _, _, _, _, _, _, rfl⟩, fun _ => ⟨rfl, rfl⟩⟩

theorem trans (h : Told s t) (h' : Told t u) : Told s u := by
  obtain ⟨⟨_, _, _, _, _, _, _, _, _, rfl⟩, hc⟩ := h
  obtain ⟨⟨_, _, _, _, _, _, _, _, _, rfl⟩, hc'⟩ := h'
  exact ⟨⟨_, _, _, _, _, _, _, _, _, rfl⟩, fun c => ⟨(hc' c).1.trans (hc c).1, (hc' c).2.trans (hc c).2⟩⟩

theorem logEvent (a b c : Nat) : Told s (s.logEvent a b c) :=
  iteInduction (fun _ => ⟨⟨_, _, _, _, _, _, _, _, _, rfl⟩, fun _ => ⟨rfl, rfl⟩⟩) fun _ => refl s

theorem logTime : Told s s.logTime :=
  iteInduction (fun _ => ⟨⟨_, _, _, _, _, _, _, _, _, rfl⟩, fun _ => ⟨rfl, rfl⟩⟩) fun _ => refl s

theorem lbFreeze (a : Nat) : Told s (s.lbFreeze a) :=
  iteInduction (fun _ => (logTime.trans (logEvent _ _ _)).trans ⟨⟨_, _, _, _, _, _, _, _, _, rfl⟩, fun _ => ⟨rfl, rfl⟩⟩) fun _ => refl s

theorem noteCause (a b c : Nat) (x : Word) : Told s (s.noteCause a b c x) :=
  iteInduction (fun _ => (logEvent _ _ _).trans (lbFreeze _)) fun _ => logEvent _ _ _

theorem guestIrq (g : GuestId) (v : Nat) : Told s (s.guestIrq g v) :=
  iteInduction (fun _ => ⟨⟨_, _, _, _, _, _, _, _, _, rfl⟩, fun _ => ⟨rfl, rfl⟩⟩)
    fun _ => ⟨⟨_, _, _, _, _, _, _, _, _, rfl⟩, fun _ => ⟨rfl, rfl⟩⟩

theorem modCtx (c : CtxId) {f : Context → Context} (hid : ∀ x, (f x).id = x.id) (hroot : ∀ x, (f x).s1root = x.s1root)
    (hundo : ∀ x, (f x).undo = x.undo) : Told s (s.modCtx c f) := by
  refine ⟨⟨_, _, _, _, _, _, _, _, _, rfl⟩, fun c' => ?_⟩
  by_cases hc : c' = c
  · subst hc
    rw [State.ctx_modCtx_same hid]
    exact ⟨hroot _, hundo _⟩
  · rw [State.ctx_modCtx_other hid hc]
    exact ⟨rfl, rfl⟩

theorem tellDebug (c : CtxId) (a : Nat) (x y : DWord) : Told s (s.tellDebug c a x y) := by
  have h : Told s (s.modCtx c (fun z => { z with report := some (a, x, y) })) := modCtx c (fun _ => rfl) (fun _ => rfl) (fun _ => rfl)
  exact (h.trans (guestIrq _ _)).trans (noteCause _ _ _ _)

theorem tellStall (c : CtxId) : Told s (s.tellStall c) := by
  unfold State.tellStall
  extract_lets x
  split
  · exact refl s
  · have h : Told s (s.modCtx c (fun z => { z with stalled := true })) := modCtx c (fun _ => rfl) (fun _ => rfl) (fun _ => rfl)
    exact h.trans (tellDebug _ _ _ _)

/-! ### What an arbiter looks at -/

theorem walkStep (h : Told s t) (w : Walk) : t.walkStep w = s.walkStep w := by
  obtain ⟨⟨_, _, _, _, _, _, _, _, _, rfl⟩, hc⟩ := h
  unfold State.walkStep
  rw [(hc _).1]
  rfl

theorem walkAll (h : Told s t) (w : Walk) (n : Nat) : t.walkAll w n = s.walkAll w n := by
  induction n generalizing w with
  | zero => rfl
  | succ n ih =>
    unfold State.walkAll
    rw [h.walkStep w]
    simp only [ih]

theorem stage2_writeStop (h : Told s t) (part gpa : Nat) :
    t.stage2 part gpa = s.stage2 part gpa ∧ ∀ x, t.writeStop part x = s.writeStop part x := by
  have hw := h.walkAll
  obtain ⟨⟨_, _, _, _, _, _, _, _, _, rfl⟩, hc⟩ := h
  refine ⟨?_, fun x => rfl⟩
  unfold State.stage2
  simp only [hw]
  rfl

theorem writeGpa (h : Told s t) (part gpa n v : Nat) :
    (t.writeGpa part gpa n v).map (fun _ => ()) = (s.writeGpa part gpa n v).map fun _ => () := by
  obtain ⟨h2, hstop⟩ := h.stage2_writeStop part gpa
  unfold State.writeGpa
  rw [h2]
  cases s.stage2 part gpa with
  | error f => rfl
  | ok x =>
    simp only [hstop]
    cases s.writeStop part x <;> rfl

theorem logHeld (h : Told s t) (c : CtxId) (n : Nat) : t.logHeld c n = s.logHeld c n := by
  unfold State.logHeld
  rw [(h.2 c).2]
  refine congrArg (ite _ none) (congrArg (List.findSome? · _) (funext fun p => ?_))
  have he := h.writeGpa c.part (p * 4096) 1 0
  cases ht : t.writeGpa c.part (p * 4096) 1 0 with
  | error f =>
    cases hs : s.writeGpa c.part (p * 4096) 1 0 with
    | error g =>
      rw [ht, hs] at he
      cases he
      rfl
    | ok v =>
      rw [ht, hs] at he
      cases he
  | ok u =>
    cases hs : s.writeGpa c.part (p * 4096) 1 0 with
    | error g =>
      rw [ht, hs] at he
      cases he
    | ok v => rfl

theorem performable (h : Told s t) (r : Req) : t.performable r = s.performable r := by
  have hstall : t.undoStalls r = s.undoStalls r := by
    unfold State.undoStalls
    rw [(h.2 _).2, h.logHeld]
  obtain ⟨⟨_, _, _, _, _, _, _, _, _, rfl⟩, _⟩ := h
  unfold State.performable
  rw [hstall]
  rfl

theorem readyHeads (h : Told s t) (x : Home) : t.readyHeads x = s.readyHeads x := by
  have hp : t.performable = s.performable := funext h.performable
  obtain ⟨⟨_, _, _, _, _, _, _, _, _, rfl⟩, _⟩ := h
  unfold State.readyHeads
  rw [hp]
  rfl

theorem replayLets (h : Told s t) (x : Home) (r : Req) : t.replayLets x r = s.replayLets x r := by
  obtain ⟨⟨_, _, _, _, _, _, _, _, _, rfl⟩, _⟩ := h
  rfl

end Told

/-! ### One ready request -/

/-- The one ready request that a replay lets be taken is taken. -/
theorem State.arbitrate_single {s : State} {h : Home} {r : Req} (hall : s.readyHeads h = [r]) (hlet : s.replayLets h r = true) :
    s.arbitrate h = s.takeReq h r := by
  have hold : min (2 ^ 64) r.entered.toNat = r.entered.toNat := by have := r.entered.isLt; omega
  unfold State.arbitrate
  simp only [hall, List.filter_cons, hlet, if_true, List.filter_nil, List.foldl_cons, List.foldl_nil, hold, beq_self_eq_true]

theorem execHomeArbitrate_single {s : State} {h : Home} {n : Nat} {r : Req} (hcur : s.cur = some (.home h n))
    (hall : ((s.letIn h n).joinClose h).readyHeads h = [r]) (hlet : ((s.letIn h n).joinClose h).replayLets h r = true) :
    ∃ u, Told ((s.letIn h n).joinClose h) u ∧ exec .homeArbitrate s = .next (u.takeReq h r) := by
  change ∃ u, _ ∧ execHomeArbitrate s = _
  unfold execHomeArbitrate
  simp only [hcur]
  split
  · next q _ =>
      have ht : Told ((s.letIn h n).joinClose h) (((s.letIn h n).joinClose h).tellStall q.ctx) := Told.tellStall q.ctx
      exact ⟨_, ht, congrArg _ (State.arbitrate_single ((ht.readyHeads h).trans hall) ((ht.replayLets h r).trans hlet))⟩
  · exact ⟨_, Told.refl _, congrArg _ (State.arbitrate_single hall hlet)⟩

namespace SameHomes

variable {s t : State}

theorem of_told (h : Told s t) : SameHomes s t := by
  obtain ⟨⟨_, _, _, _, _, _, _, _, _, rfl⟩, _⟩ := h
  exact of_fields rfl rfl rfl rfl

theorem noteChoice (a b : Nat) : SameHomes s (s.noteChoice a b) := by
  obtain ⟨d, h⟩ := noteChoice_dev s a b
  rw [h]
  exact of_fields rfl rfl rfl rfl

theorem letIn (h : Home) (n : Nat) : SameHomes s (s.letIn h n) := by
  unfold State.letIn
  split
  · exact iteInduction (fun _ => of_fields rfl rfl rfl rfl) fun _ => refl s
  · exact refl s

theorem decideBy (arb : Nat) (c : CtxId) (round input : Nat) : SameHomes s (s.decideBy arb c round input).2 := by
  unfold State.decideBy
  extract_lets _ _ _ _ _ _ s1
  have h1 : SameHomes s s1 := of_fields rfl rfl rfl rfl
  exact h1.trans (noteChoice _ _)

theorem requestClose (c : CtxId) (trigger : Nat) : SameHomes s (s.requestClose c trigger) := by
  refine iteInduction (fun _ => refl s) fun _ => ?_
  have h : SameHomes s ((s.modCtx c (fun x => { x with wantClose := true })).sendCtl { code := 0x05, operand := trigger, ctx := some c }) :=
    of_fields rfl rfl rfl rfl
  exact h.trans (noteChoice _ _)

theorem finish (r : Req) (v : DWord) (fl : BitVec 6) (d : Dep) : SameHomes s (s.finish r v fl d) := by
  have hl : ∀ t : State, SameHomes t (t.addLate r d) := by
    intro t
    unfold State.addLate
    split
    · exact of_fields rfl rfl rfl rfl
    · exact refl t
  unfold State.finish
  extract_lets s1 s2
  have h1 : SameHomes s s1 := of_fields rfl rfl rfl rfl
  have ha : SameHomes s1 ((s1.addSeen r.issuer r.round r.space r.addr r.size d).addNodeDep r.issuer.page r.node r.tag r.round d) :=
    of_fields rfl rfl rfl rfl
  have h2 : SameHomes s s2 := ((h1.trans ha).trans (hl _)).trans (of_fields rfl rfl rfl rfl)
  exact h2.trans (of_fields rfl rfl rfl rfl)

end SameHomes

/-! ### A store performed -/

/-- The memories stand, and one entry has joined those of the homes: these bytes, uncommitted, for this context. -/
def Wrote (c : CtxId) (sp : Space) (a : Nat) (bs : List Byte) (s t : State) : Prop :=
  t.mem = s.mem ∧ ∃ x : HomeWrite, t.homeWrites = s.homeWrites ++ [x] ∧ x.ctx = c ∧ x.space = sp ∧ x.addr = a ∧ x.bytes = bs ∧ x.committed = false

namespace Wrote

variable {c : CtxId} {sp : Space} {a : Nat} {bs : List Byte} {s t u : State}

theorem trans (h : Wrote c sp a bs s t) (h' : SameHomes t u) : Wrote c sp a bs s u := by
  obtain ⟨hm, x, hw, hx⟩ := h
  exact ⟨h'.mem.trans hm, x, h'.homeWrites.trans hw, hx⟩

theorem after (h : SameHomes s t) (h' : Wrote c sp a bs t u) : Wrote c sp a bs s u := by
  obtain ⟨hm, x, hw, hx⟩ := h'
  exact ⟨hm.trans h.mem, x, by rw [hw, h.homeWrites], hx⟩

theorem byteAt (h : Wrote c sp a bs s t) (sp' : Space) (c' : Option CtxId) (y : Nat) :
    t.byteAt sp' c' y = if sp' = sp ∧ c' = some c ∧ a ≤ y ∧ y < a + bs.length then (bs[y - a]?).getD 0 else s.byteAt sp' c' y := by
  obtain ⟨hm, x, hw, hctx, hsp, haddr, hbytes, hcom⟩ := h
  rw [State.byteAt_append hm hw, haddr, hbytes]
  refine if_congr ?_ rfl rfl
  simp only [State.sees, hctx, hsp, haddr, hbytes, hcom, Bool.false_or, Bool.and_eq_true, beq_iff_eq, decide_eq_true_eq]
  tauto

/-- A store to fabric SRAM that asks for no close. -/
theorem performOp {r : Req} (hclose : r.needClose = false) (hop : r.op = .store ∨ (r.op = .store8 ∧ r.size = 8)) :
    Wrote r.issuer.page.ctx r.space r.addr (bytesOfWord r.size r.b.toNat) s (s.performOp r) := by
  have hwrite : ∀ (w : Who) (bs : List Byte), Wrote w.ctx r.space r.addr bs s (s.writeReq r w false bs).2 := by
    intro w bs
    obtain ⟨x, hctx, hsp, haddr, hbytes, hcom, hm, hw⟩ := s.performWrite_homes w r.space r.addr r.va bs false false
    simp only [State.writeReq, hclose, Bool.false_eq_true, if_false]
    exact ⟨hm, x, hw, hctx, hsp, haddr, hbytes, hcom⟩
  unfold State.performOp
  rcases hop with hop | ⟨hop, hsize⟩
  · rw [hop]
    exact (hwrite _ _).trans (.finish _ _ _ _)
  · rw [hop, hsize]
    exact (hwrite _ _).trans (.finish _ _ _ _)

theorem performReq {r : Req} (hphase : r.phase = .queued) (hclose : r.needClose = false) (hsram : r.space = .sram)
    (hop : r.op = .store ∨ (r.op = .store8 ∧ r.size = 8)) :
    Wrote r.issuer.page.ctx r.space r.addr (bytesOfWord r.size r.b.toNat) s (s.performReq r) := by
  have hdone := performOp (s := s) hclose hop
  have hsp : (Space.sram == .host) = false ∧ (Space.sram == .dram) = false := ⟨rfl, rfl⟩
  have hheld : ¬ ReqPhase.queued = .held := nofun
  have hend : s.performReq r = (let t := s.performOp r
      let used := (t.bufferLines r.home (r.round % 2) (fun w => w.ctx == r.ctx && w.round == r.round)).length
      if t.bufferCap r.home r.ctx * 3 ≤ used * 4 then t.requestClose r.ctx 1 else t) := by
    unfold State.performReq
    rcases hop with hop | ⟨hop, _⟩ <;>
      simp only [hphase, hsram, hop, State.imageAt, State.replicaAt, hsp.1, hsp.2, hheld, Bool.false_and, Bool.and_false, Bool.not_true,
        Bool.false_eq_true, if_false]
  rw [hend]
  exact iteInduction (fun _ => hdone.trans (.requestClose _ _)) fun _ => hdone

end Wrote

theorem length_bytesOfWord (n v : Nat) : (bytesOfWord n v).length = n := by
  induction n generalizing v with
  | zero => rfl
  | succ n ih => simp only [bytesOfWord, List.length_cons, ih]

/-- The bytes of a value, least significant first. -/
theorem getElem?_bytesOfWord {n v i : Nat} (h : i < n) : (bytesOfWord n v)[i]? = some (BitVec.ofNat 8 (v / 2 ^ (8 * i))) := by
  induction n generalizing v i with
  | zero => omega
  | succ n ih =>
    cases i with
    | zero => simp [bytesOfWord]
    | succ i =>
      have hdiv : v / 256 / 2 ^ (8 * i) = v / 2 ^ (8 * (i + 1)) := by
        rw [Nat.div_div_eq_div_mul, show 8 * (i + 1) = 8 + 8 * i by ring, pow_add]
        norm_num
      rw [bytesOfWord, List.getElem?_cons_succ, ih (by omega), hdiv]

/-- Settles O58: what is told of a stalled write is nothing that the arbiter looks at, so the one ready request is taken, and its
store adds one uncommitted entry of its context. -/
theorem storeReachesItsBytesAlone : Obligations.StoreReachesItsBytesAlone := by
  unfold Obligations.StoreReachesItsBytesAlone
  intro s h n r hcur u hall hlet hphase hclose hsram hop hctx _
  obtain ⟨v, htold, hexec⟩ := execHomeArbitrate_single hcur hall hlet
  have hu : SameHomes s u := (SameHomes.letIn h n).trans (.of_fields rfl rfl rfl rfl)
  have hv : SameHomes s (v.decideBy (State.arbOf h) r.ctx r.round r.port).2 := (hu.trans (.of_told htold)).trans (.decideBy _ _ _ _)
  refine ⟨_, hexec, fun sp c a => ?_⟩
  have hheld : ¬ r.phase = .held := by rw [hphase]; nofun
  have hdone : Wrote r.ctx .sram r.addr (bytesOfWord r.size r.b.toNat) s (v.takeReq h r) := by
    unfold State.takeReq
    rw [if_neg hheld, hctx, ← hsram]
    exact .after (hctx ▸ hv) (Wrote.performReq hphase hclose hsram hop)
  rw [hdone.byteAt, length_bytesOfWord]
  refine ite_congr rfl (fun ⟨_, _, hle, hlt⟩ => ?_) fun _ => rfl
  rw [getElem?_bytesOfWord (by omega), Option.getD_some]

end Sys2Proof.Machine
end

section
/-!
PROOF. The turns of a home, of a reorder buffer, of a walk and of a drain token (R294, R295, R325, R334).
-/
namespace Sys2Proof.Machine

/-! ### Arbitration -/

theorem foldl_min_le {α : Type} (f : α → Nat) (l : List α) (m : Nat) :
    l.foldl (fun m x => min m (f x)) m ≤ m ∧ ∀ x ∈ l, l.foldl (fun m x => min m (f x)) m ≤ f x := by
  induction l generalizing m with
  | nil => simp
  | cons y l ih =>
    obtain ⟨h1, h2⟩ := ih (min m (f y))
    refine ⟨h1.trans (Nat.min_le_left _ _), fun x hx => ?_⟩
    rcases List.mem_cons.mp hx with rfl | hx
    · exact h1.trans (Nat.min_le_right _ _)
    · exact h2 x hx

theorem le_foldl_min {α : Type} {f : α → Nat} {l : List α} {m b : Nat} (hm : b ≤ m) (hl : ∀ x ∈ l, b ≤ f x) :
    b ≤ l.foldl (fun m x => min m (f x)) m := by
  induction l generalizing m with
  | nil => exact hm
  | cons y l ih => exact ih (Nat.le_min.mpr ⟨hm, hl y List.mem_cons_self⟩) fun x hx => hl x (List.mem_cons_of_mem _ hx)

/-- The first entry of requests that all stand at or after one of them is that one's. -/
theorem foldl_min_entered {l : List Req} {r : Req} (hr : r ∈ l) (hmin : ∀ q ∈ l, r.entered.toNat ≤ q.entered.toNat) :
    l.foldl (fun m q => min m q.entered.toNat) (2 ^ 64) = r.entered.toNat :=
  Nat.le_antisymm ((foldl_min_le (fun q : Req => q.entered.toNat) l _).2 r hr) (le_foldl_min r.entered.isLt.le hmin)

section
variable {s : State} {h : Home}

/-- With nothing ready the arbiter takes nothing. -/
theorem State.arbitrate_none (hall : s.readyHeads h = []) : s.arbitrate h = s := by
  simp only [State.arbitrate, hall, List.filter_nil, List.find?_nil]

/-- The oldest ready requests are those that entered with one that entered first. -/
theorem State.oldest_ready {r : Req} {l : List Req} (hl : ((s.readyHeads h).filter (s.replayLets h)).filter (fun q => q.entered == r.entered) = l)
    (hr : r ∈ l) (hmin : ∀ q ∈ (s.readyHeads h).filter (s.replayLets h), r.entered.toNat ≤ q.entered.toNat) :
    ((s.readyHeads h).filter (s.replayLets h)).filter (fun q => q.entered.toNat ==
      ((s.readyHeads h).filter (s.replayLets h)).foldl (fun m q => min m q.entered.toNat) (2 ^ 64)) = l := by
  have hmem := List.mem_of_mem_filter (hl ▸ hr)
  rw [foldl_min_entered hmem hmin, ← hl]
  refine List.filter_congr fun q _ => ?_
  rw [Bool.eq_iff_iff, beq_iff_eq, beq_iff_eq, BitVec.toNat_inj]

theorem State.arbitrate_oldest {r : Req} (hl : ((s.readyHeads h).filter (s.replayLets h)).filter (fun q => q.entered == r.entered) = [r])
    (hmin : ∀ q ∈ (s.readyHeads h).filter (s.replayLets h), r.entered.toNat ≤ q.entered.toNat) : s.arbitrate h = s.takeReq h r := by
  have hold := State.oldest_ready hl List.mem_cons_self hmin
  simp only [State.arbitrate, hold]

/-- Among those that entered first together an open choice decides. -/
theorem State.arbitrate_choice {r q : Req} {l : List Req}
    (hl : ((s.readyHeads h).filter (s.replayLets h)).filter (fun x => x.entered == r.entered) = r :: q :: l)
    (hmin : ∀ x ∈ (s.readyHeads h).filter (s.replayLets h), r.entered.toNat ≤ x.entered.toNat) :
    s.arbitrate h = (s.choose (l.length + 2)).2.takeReq h (((r :: q :: l)[(s.choose (l.length + 2)).1]?).getD r) := by
  have hold := State.oldest_ready hl List.mem_cons_self hmin
  simp only [State.arbitrate, hold, List.length_cons]
  cases (r :: q :: l)[(s.choose (l.length + 1 + 1)).1]? <;> rfl

end

/-- No write stalls in its undo log, and the home arbitrates over what has entered its queues. -/
theorem execHomeArbitrate_unstalled {s : State} {h : Home} {n : Nat} (hcur : s.cur = some (.home h n))
    (hstall : ∀ r ∈ ((s.letIn h n).joinClose h).reqs, r.home = h → r.phase = .queued → ((s.letIn h n).joinClose h).undoStalls r = false) :
    exec .homeArbitrate s = .next (((s.letIn h n).joinClose h).arbitrate h) := by
  change execHomeArbitrate s = _
  have hnone : ((s.letIn h n).joinClose h).reqs.find? (fun r => r.home == h && r.phase == .queued && ((s.letIn h n).joinClose h).undoStalls r) =
      none := by
    refine List.find?_eq_none.mpr fun r hr hp => ?_
    simp only [Bool.and_eq_true, beq_iff_eq] at hp
    obtain ⟨⟨hhome, hqueued⟩, hs⟩ := hp
    rw [hstall r hr hhome hqueued] at hs
    cases hs
  simp only [execHomeArbitrate, hcur, hnone]

/-! ### Responses -/

theorem execAccessResponse_elem {s : State} {k : PageKey} {n : Nat} {p : Page} {r : Req} (hcur : s.cur = some (.party (.elem k n)))
    (hp : s.page? k = some p) (hr : s.reqs.find? (fun r => r.issuer == .elem k n && r.phase != .given) = some r) (hhead : s.atHead r = true) :
    exec .accessResponse s = .next (s.respondElem k n (p.ecw n) r) := by
  change execAccessResponse s = _
  simp only [execAccessResponse, hcur, hr, hhead, hp, Bool.not_true, Bool.false_eq_true, if_false]

/-! ### Walks -/

section
variable {s : State} {id : Nat} {w : Walk}

/-- The walk's record taken away. -/
def State.dropWalk (s : State) (id : Nat) : State := { s with walks := s.walks.filter (fun x => x.id != id) }

theorem execTlbWalkStep_more {w' : Walk} (hcur : s.cur = some (.unit id)) (hw : s.walks.find? (fun w => w.id == id) = some w)
    (hstep : s.walkStep w = .more w') :
    exec .tlbWalkStep s = .next { s.cacheTable w with walks := update (fun x => x.id == id) (fun _ => w') none s.walks } := by
  change execTlbWalkStep s = _
  unfold execTlbWalkStep
  split
  · next id' hc =>
      cases hcur.symm.trans hc
      simp only [hw, hstep]
  · next hc => exact absurd hcur (hc id)

theorem execTlbWalkStep_done {x : Xl} (hcur : s.cur = some (.unit id)) (hw : s.walks.find? (fun w => w.id == id) = some w)
    (hstep : s.walkStep w = .done x) (hperm : permFault w.use x = none) :
    let u := if w.cached then ((s.dropWalk id).cacheTable w).tlbFill w.mse w.ctx w.va x else s.dropWalk id
    exec .tlbWalkStep s = .next (u.enterHome id x.space (u.backedFor id w.mse x.space x.pa)) := by
  change execTlbWalkStep s = _
  unfold execTlbWalkStep
  split
  · next id' hc =>
      cases hcur.symm.trans hc
      simp only [hw, hstep, hperm]
      rfl
  · next hc => exact absurd hcur (hc id)

theorem execTlbWalkStep_fault {f : XFault} (hcur : s.cur = some (.unit id)) (hw : s.walks.find? (fun w => w.id == id) = some w)
    (hstep : (s.walkStep w = .fault f ∧ f.pull = none) ∨ ∃ x, s.walkStep w = .done x ∧ permFault w.use x = some f)
    (hheld : s.faultHeld w.mse w.ctx f.stage2 w.va = false) :
    exec .tlbWalkStep s = .next (((s.dropWalk id).dropReq id).xlFault w.ctx w.va w.use f w.mse w.tag w.round w.window) := by
  change execTlbWalkStep s = _
  unfold execTlbWalkStep
  split
  · next id' hc =>
      cases hcur.symm.trans hc
      rcases hstep with ⟨hstep, hpull⟩ | ⟨x, hstep, hperm⟩
      · obtain ⟨cause, stage2, walk, gpa, level, pull⟩ := f
        subst hpull
        simp only [hw, hstep, hheld, Bool.false_eq_true, if_false]
        rfl
      · simp only [hw, hstep, hperm, hheld, Bool.false_eq_true, if_false]
        rfl
  · next hc => exact absurd hcur (hc id)

end

/-! ### Drain tokens -/

/-- An MSE acknowledges once nothing ahead of the token concerns what it drops. -/
theorem execDrainAck_next {s : State} {id m : Nat} {v : Inval} (hcur : s.cur = some (.units id m))
    (hv : s.invals.find? (fun v => v.id == id) = some v) (hpend : v.pending.contains m = true) (hm : m < 24)
    (hahead : ((s.invals.takeWhile (fun x => x.id != id)).filter (fun x => x.part == v.part)).length < 8) (hpub : v.publish = false)
    (hwalks : s.walks.any (fun w => w.mse == m && decide (w.id < id) && State.invalHits v w.ctx) = false)
    (hreqs : s.reqs.any (fun r => r.phase == .translating m && decide (r.id < id) && State.invalHits v r.ctx) = false) :
    let v' : Inval := { v with drains := v.drains.filter (fun d => d.1 != m) }
    let u : State := { s with
      tlb := s.tlb.filter (fun e => !(e.mse == m && State.invalDrops v e))
      walkCache := s.walkCache.filter (fun e => !(e.mse == m && State.cacheDrops v e))
      walks := s.walks.map (fun w => if w.mse = m ∧ State.invalHits v w.ctx then { w with cached := false } else w)
      invals := update (fun x => x.id == id) (fun _ => v') none s.invals }
    exec .drainAck s = .next (if v'.pending.isEmpty then u.invalDone v' else u) := by
  intro v' u
  obtain ⟨vid, part, ctx, stage1, lo, hi, drains, msg, hcmd, collapse, block, publish, reached, root1, root2⟩ := v
  obtain rfl : publish = false := hpub
  change execDrainAck s = _
  unfold execDrainAck
  split
  · next id' m' hc =>
      cases hcur.symm.trans hc
      simp only [hv, hpend, hwalks, hreqs, Nat.not_le.mpr hm, Nat.not_le.mpr hahead, Bool.false_and, Bool.false_or, Bool.or_false,
        Bool.not_true, decide_false, Bool.false_eq_true, if_false]
      rfl
  · next hc => exact absurd hcur (hc id m)

/-- Settles O25, one event at a time: the arbiter's list of ready requests, the oldest response, the walk's step, the drain token. -/
theorem homesServeInOrder : Obligations.HomesServeInOrder := by
  unfold Obligations.HomesServeInOrder
  refine ⟨?arbitrate, ?response, ?closing, ?walk, ?drain⟩
  case arbitrate =>
    intro s h n hcur u ready take hstall
    have hexec := execHomeArbitrate_unstalled hcur hstall
    refine ⟨fun hall => ?_, fun r hl hmin => ?_, fun r q l hl hmin => ?_⟩
    · rw [hexec, State.arbitrate_none hall]
    · rw [hexec, State.arbitrate_oldest hl hmin]
      rfl
    · intro z
      rw [hexec, State.arbitrate_choice hl hmin]
      rfl
  case response =>
    intro s k n p r hcur hp hr hhead hclosing v
    rw [execAccessResponse_elem hcur hp hr hhead]
    unfold State.respondElem
    refine ⟨fun hwait => ?_, fun hdone hfree => ?_⟩
    · rcases hwait with hphase | hbusy
      · simp only [hclosing, bne_iff_ne.mpr hphase, if_true, ite_self]
      · simp only [hbusy, Bool.not_false, if_true]
    · simp only [hfree, hclosing, hdone, bne_self_eq_false, Bool.not_true, Bool.false_eq_true, if_false]
      rfl
  case closing =>
    intro s k n p r t hcur hp hr hhead hclosing
    rw [execAccessResponse_elem hcur hp hr hhead]
    unfold State.respondElem
    refine ⟨fun hbusy => ?_, fun hfree => ⟨fun hk => ?_, fun hk => ?_, fun hk => ?_⟩⟩
    · simp only [hbusy, Bool.not_false, if_true]
    · simp [hfree, hclosing, hk]
    · simp [hfree, hclosing, hk]
    · simp [hfree, hclosing, hk]
  case walk =>
    intro s id w hcur hw rest
    exact ⟨fun w' hstep => execTlbWalkStep_more hcur hw hstep, fun x hstep hperm => execTlbWalkStep_done hcur hw hstep hperm,
      fun f hstep hheld => execTlbWalkStep_fault hcur hw hstep hheld⟩
  case drain =>
    intro s id m v hcur hv hpend hm hahead hpub hwalks hreqs v' u
    rw [execDrainAck_next hcur hv hpend hm hahead hpub hwalks hreqs]
    refine ⟨fun hmore => ?_, fun hlast => ?_⟩
    · exact congrArg Host.Outcome.next (if_neg fun he => hmore (List.isEmpty_iff.mp he))
    · exact congrArg Host.Outcome.next (if_pos (List.isEmpty_iff.mpr hlast))

end Sys2Proof.Machine
end

section
/-!
PROOF. The course of rounds (R308, R309, R311, R313 to R317, R361): what each event of a context answers.
-/
namespace Sys2Proof.Machine

section
variable {s : State} {c : CtxId}

theorem execRoundTimer_ctx (hcur : s.cur = some (.ctx c)) :
    let x := s.ctx c
    exec .roundTimer s = .next (if x.exist && x.close.isNone && !x.wantClose && !x.frozen && x.voided.isNone &&
        decide (x.commitAt.toNat + (bitsOf x.rtmr.toNat 0 7) * Config.cyclesPerMicrosecond ≤ s.cycle.toNat) then s.requestClose c 0 else s) := by
  change execRoundTimer s = _
  simp only [execRoundTimer, hcur]

/-- Whether a close of the context has been asked for: in a replay of a removed round, whether the sources stand where its cut found them. -/
def State.closeAsked (s : State) (c : CtxId) : Bool :=
  match s.replayMark c with
  | some m => s.marksReached c m
  | none => (s.ctx c).wantClose

theorem State.closeAsked_none (h : s.replayMark c = none) : s.closeAsked c = (s.ctx c).wantClose := by
  simp only [State.closeAsked, h]

theorem State.closeAsked_some {m : CutMark} (h : s.replayMark c = some m) : s.closeAsked c = s.marksReached c m := by
  simp only [State.closeAsked, h]

theorem execCloseRequest_ctx (hcur : s.cur = some (.ctx c)) :
    let x := s.ctx c
    exec .closeRequest s =
      .next (if s.closeAsked c && x.close.isNone && !x.frozen && x.voided.isNone && x.voidFrom.isNone then s.beginClose c else s) := by
  change execCloseRequest s = _
  simp only [execCloseRequest, hcur]
  rfl

/-- The reports taken, and every page of the context brought to report its cut of a round (R309). -/
def State.cutPages (s : State) (c : CtxId) (round : Nat) : State :=
  ((s.pages.filter (fun p => p.key.ctx == c)).map Page.key).foldl (fun y k =>
    let y1 := y.injectLate k (State.cueTok round)
    (if y1.pageRuns k && !((y1.page? k).map Page.reported).getD false then y1.cutUnfed k round else y1).reportPage k round)
    (s.takeReports c)

theorem execCutReport_ctx (hcur : s.cur = some (.ctx c)) {cl : Close} (hclose : (s.ctx c).close = some cl) :
    let t := s.cutPages c cl.round
    exec .cutReport s = .next (if (t.pages.filter (fun p => p.key.ctx == c)).all Page.reported &&
        !t.ctl.any (fun z => z.code == 0x06 && z.ctx == some c) then
      t.modCtx c (fun x => { x with close := some { cl with reported := true } }) else t) := by
  change execCutReport s = _
  simp only [execCutReport, hcur, hclose]
  rfl

/-- A void reaches a round (R313). -/
def Context.voidReaches (x : Context) (round : Nat) : Bool :=
  match x.voidFrom with
  | some v => decide (v ≤ round)
  | none => false

theorem execCommit_ctx (hcur : s.cur = some (.ctx c)) {cl : Close} (hclose : (s.ctx c).close = some cl) :
    let t := s.takeTokens c 0x07
    let x := s.ctx c
    let n := (s.roundRecords c cl.round).length
    exec .commit s = .next (if !cl.reported || x.voidReaches cl.round || x.dbg == .stopped then t
      else if (t.logHeld c n).isSome then ((t.logHeld c n).map (t.waitOn c.part)).getD t
      else if x.undo.on && x.undo.stall && !x.undo.windows.isEmpty && x.undo.full n then t.tellStall c
      else t.commitRound c cl.round) := by
  change execCommit s = _
  have hctx : (s.takeTokens c 0x07).ctx c = s.ctx c := rfl
  simp only [execCommit, hcur, hctx, hclose]
  rfl

/-- A close of an earlier round than this is in progress (R313). -/
def Context.closesBefore (x : Context) (round : Nat) : Bool :=
  match x.close with
  | some cl => decide (cl.round < round)
  | none => false

theorem execVoid_ctx (hcur : s.cur = some (.ctx c)) {v : Nat} (hvoid : (s.ctx c).voidFrom = some v) :
    let t := s.takeTokens c 0x08
    let x := s.ctx c
    exec .void s = .next (if x.closesBefore v then t
      else if (s.firingWork c).isNone ∨ s.firingWork c = x.voidSeen then t.voidRounds c v
      else t.modCtx c (fun y => { y with voidSeen := s.firingWork c })) := by
  change execVoid s = _
  have hctx : (s.takeTokens c 0x08).ctx c = s.ctx c := rfl
  have hwork : (s.takeTokens c 0x08).firingWork c = s.firingWork c := rfl
  simp only [execVoid, hcur, hctx, hvoid, hwork]
  rfl

theorem execVoid_resume (hcur : s.cur = some (.ctx c)) (hvoid : (s.ctx c).voidFrom = none) :
    let t := s.takeTokens c 0x08
    exec .void s = .next (if (s.ctx c).voided.isSome && !t.voidsPending c then t.modCtx c (fun y => { y with voided := none }) else t) := by
  change execVoid s = _
  have hctx : (s.takeTokens c 0x08).ctx c = s.ctx c := rfl
  simp only [execVoid, hcur, hctx, hvoid]

theorem execFreeze_ctx (hcur : s.cur = some (.ctx c)) {z : Ctl} (hz : s.ctl.find? (fun z => z.code == 0x0B && z.ctx == some c) = some z) :
    let t : State := { s with ctl := s.ctl.erase z }
    exec .freeze s = .next (if (s.ctx c).frozen then t else t.freezeCtx c (s.ctx c).frozenCause) := by
  change execFreeze s = _
  unfold execFreeze
  split
  · next c' hc =>
      cases hcur.symm.trans hc
      simp only [hz]
  · next hc => exact absurd hcur (hc c)

theorem Context.voidReaches_iff {x : Context} {round : Nat} : x.voidReaches round = true ↔ ∃ v, x.voidFrom = some v ∧ v ≤ round := by
  unfold Context.voidReaches
  cases x.voidFrom <;> simp

theorem Context.closesBefore_iff {x : Context} {round : Nat} : x.closesBefore round = true ↔ ∃ cl, x.close = some cl ∧ cl.round < round := by
  unfold Context.closesBefore
  cases x.close <;> simp

end

/-- Settles O24, one event at a time: each answers by the equation above, of which the conditions choose the branch. -/
theorem roundsCloseCommitAndVoid : Obligations.RoundsCloseCommitAndVoid := by
  unfold Obligations.RoundsCloseCommitAndVoid
  intro s c hcur
  dsimp only
  refine ⟨?timer, ?request, ?unasked, ?noCut, ?cut, ?commit, ?void, ?resume, ?freeze⟩
  case timer =>
    intro hexist hclose hwant hfrozen hvoided
    rw [execRoundTimer_ctx hcur]
    refine ⟨fun hdue => congrArg _ (if_pos ?_), fun hearly => congrArg _ (if_neg ?_)⟩
    · simp [hexist, hclose, hwant, hfrozen, hvoided, hdue]
    · simp [hearly]
  case request =>
    intro hclose hfrozen hvoided hfrom
    rw [execCloseRequest_ctx hcur]
    refine ⟨fun hmark hwant => congrArg _ (if_pos ?_), fun m hmark hreached => congrArg _ (if_pos ?_),
      fun m hmark hreached => congrArg _ (if_neg ?_)⟩
    · simp [State.closeAsked_none hmark, hwant, hclose, hfrozen, hvoided, hfrom]
    · simp [State.closeAsked_some hmark, hreached, hclose, hfrozen, hvoided, hfrom]
    · simp [State.closeAsked_some hmark, hreached]
  case unasked =>
    intro hmark hwant
    rw [execCloseRequest_ctx hcur, State.closeAsked_none hmark, hwant]
    rfl
  case noCut =>
    intro hclose
    change execCutReport s = _
    simp only [execCutReport, hcur, hclose]
  case cut =>
    intro cl hclose
    rw [execCutReport_ctx hcur hclose]
    refine ⟨fun hall htaken => congrArg _ (if_pos ?_), fun ⟨p, hp, hc, hrep⟩ => congrArg _ (if_neg ?_)⟩
    · rw [Bool.and_eq_true, List.all_eq_true, Bool.not_eq_true', List.any_eq_false]
      refine ⟨fun p hp => ?_, fun z hz hcode => ?_⟩
      · obtain ⟨hp, hc⟩ := List.mem_filter.mp hp
        exact hall p hp (beq_iff_eq.mp hc)
      · obtain ⟨hcode, hc⟩ := Bool.and_eq_true_iff.mp hcode
        exact htaken z hz (beq_iff_eq.mp hcode) (beq_iff_eq.mp hc)
    · intro hall
      obtain ⟨hall, _⟩ := Bool.and_eq_true_iff.mp hall
      have htrue := List.all_eq_true.mp hall p (List.mem_filter.mpr ⟨hp, beq_iff_eq.mpr hc⟩)
      exact Bool.false_ne_true (hrep.symm.trans htrue)
  case commit =>
    intro cl hclose
    rw [execCommit_ctx hcur hclose]
    refine ⟨fun hwaits => congrArg _ (if_pos ?_), fun hreported hfrom hdbg => ?_⟩
    · rcases hwaits with h | h | h
      · simp [h]
      · simp [h]
      · simp [Context.voidReaches_iff.mpr h]
    · have hgo : (!cl.reported || (s.ctx c).voidReaches cl.round || (s.ctx c).dbg == .stopped) = false := by
        have hreach : (s.ctx c).voidReaches cl.round = false := by
          refine Bool.eq_false_iff.mpr fun h => ?_
          obtain ⟨v, hv, hle⟩ := Context.voidReaches_iff.mp h
          exact absurd (hfrom v hv) (Nat.not_lt.mpr hle)
        rw [hreported, hreach, beq_false_of_ne hdbg]
        rfl
      rw [hgo]
      refine ⟨fun f hf => ?_, fun hnone => ⟨fun hfull => ?_, fun hfull => ⟨fun hst => ?_, fun hst => ?_⟩⟩⟩
      · rw [hf]
        rfl
      · rw [hnone, hfull]
        rfl
      · rw [hnone, hfull]
        exact congrArg Host.Outcome.next (if_pos hst)
      · rw [hnone, hfull]
        exact congrArg Host.Outcome.next (if_neg (Bool.eq_false_iff.mp hst))
  case void =>
    intro v hfrom
    rw [execVoid_ctx hcur hfrom]
    refine ⟨fun hlate => ?_, fun cl hclose hlt => congrArg _ (if_pos (Context.closesBefore_iff.mpr ⟨cl, hclose, hlt⟩))⟩
    have hbefore : ¬ (s.ctx c).closesBefore v = true := fun h => by
      obtain ⟨cl, hclose, hlt⟩ := Context.closesBefore_iff.mp h
      exact absurd (hlate cl hclose) (Nat.not_le.mpr hlt)
    rw [if_neg hbefore]
    refine ⟨fun hrest => congrArg _ (if_pos ?_), fun hsome hseen => congrArg _ (if_neg ?_)⟩
    · exact hrest.imp Option.isNone_iff_eq_none.mpr id
    · exact fun h => h.elim (fun h => hsome (Option.isNone_iff_eq_none.mp h)) hseen
  case resume =>
    intro hfrom hvoided hpending
    rw [execVoid_resume hcur hfrom]
    refine congrArg _ (if_pos ?_)
    rw [hpending, Option.isSome_iff_ne_none.mpr hvoided]
    rfl
  case freeze =>
    intro z hz hfrozen
    rw [execFreeze_ctx hcur hz]
    exact congrArg _ (if_neg (Bool.eq_false_iff.mp hfrozen))

end Sys2Proof.Machine
end

section
/-!
PROOF. The cores and the host at memory and at the register window (R74, R303, R305, R429, R430, R433).
-/
namespace Sys2Proof.Machine

section
variable {s : State} {a : CoreAccess}

/-! ### Where an access goes -/

theorem coreAccess_memory {addr : Nat} (hsize : a.size ≠ 0) (hbar : a.bar = none)
    (hto : a.core ≠ State.hostParty ∧ coreTarget s a.addr = some (.memory .dram addr) ∨ a.core = State.hostParty ∧ addr = a.addr) :
    coreAccess a s = s.coreMemory a .dram addr := by
  unfold coreAccess
  rw [if_neg hsize, hbar]
  rcases hto with ⟨hcore, htarget⟩ | ⟨hhost, rfl⟩
  · simp only [hcore, if_false, htarget]
  · simp only [hhost, if_true]

theorem coreAccess_window {o : Nat} (hsize : a.size ≠ 0)
    (hto : (a.bar = none ∧ a.core ≠ State.hostParty ∧ coreTarget s a.addr = some (.window o)) ∨ (a.bar = some none ∧ o = a.addr ∧ o < 2 ^ 26) ∨
      ∃ vf, a.bar = some (some vf) ∧ a.addr < 2 ^ 20 ∧ vfWindow s vf a.addr = some o) :
    coreAccess a s = s.coreWindow a o := by
  unfold coreAccess
  rw [if_neg hsize]
  rcases hto with ⟨hbar, hcore, htarget⟩ | ⟨hbar, rfl, hlt⟩ | ⟨vf, hbar, hlt, hvf⟩
  · simp only [hbar, hcore, if_false, htarget]
  · simp only [hbar, if_neg (Nat.not_le.mpr hlt)]
  · simp only [hbar, State.coreVf, if_neg (Nat.not_le.mpr hlt), hvf]

/-! ### Memory -/

section
variable {addr : Nat} (hbehind : s.coreBehind a = false)
include hbehind

theorem State.coreMemory_image (hstore : a.store.isSome = true) (himage : s.imageFrame (addr / 4096) = true) :
    s.coreMemory a .dram addr = s.coreAnswer a .refused := by
  simp only [State.coreMemory, hbehind, hstore, himage, Bool.false_eq_true, if_false, and_self, if_true]

variable (hlost : s.parts.any (fun p => p.frozen && p.pullBits.contains (addr / 4096)) = false)
include hlost

theorem State.coreMemory_held (himage : a.store.isSome = true → s.imageFrame (addr / 4096) = false)
    (hheld : s.coreHeld .dram (s.backed none .dram addr) a.size a.store.isSome = true) : s.coreMemory a .dram addr = s.coreWait a := by
  have hno : ¬ (a.store.isSome = true ∧ s.imageFrame (addr / 4096) = true) := fun h => Bool.false_ne_true ((himage h.1).symm.trans h.2)
  simp only [State.coreMemory, hbehind, hlost, hheld, Bool.and_false, Bool.false_eq_true, true_and, hno, if_false, if_true]

variable (hpoison : s.backed none .dram addr / 4096 ∉ s.dev.poisoned)
include hpoison

theorem State.coreMemory_store {bs : List Byte} (hstore : a.store = some bs) (himage : s.imageFrame (addr / 4096) = false)
    (hopen : (s.blockOwner addr).bind (fun p => if s.replicated p (addr / 4096) then some p else none) = none)
    (hheld : s.coreHeld .dram (s.backed none .dram addr) a.size true = false) :
    let pa := s.backed none .dram addr
    let s0 := s.noteChoice (State.arbOf (homeOf .dram pa)) State.coreInput
    s.coreMemory a .dram addr =
      ((if a.release then s0.coreRelease a.core else s0).coreStore a.core .dram pa (bs.take a.size)).coreAnswer a .stored := by
  have hp : s.dev.poisoned.contains (s.backed none .dram addr / 4096) = false := by simpa using hpoison
  simp only [State.coreMemory, hbehind, hlost, hstore, himage, Option.isSome_some, hheld, hp, hopen, Bool.and_false, Bool.false_eq_true,
    and_false, if_false, if_true]

theorem State.coreMemory_load (hstore : a.store = none) (hheld : s.coreHeld .dram (s.backed none .dram addr) a.size false = false)
    (hfail : (.dram, s.backed none .dram addr / 64) ∉ s.dev.failing) (hsuspect : (.dram, s.backed none .dram addr / 64) ∉ s.dev.suspect) :
    let pa := s.backed none .dram addr
    let r := (s.noteChoice (State.arbOf (homeOf .dram pa)) State.coreInput).coreLoad a.core .dram pa a.size (wordsOf pa a.size)
    s.coreMemory a .dram addr = (if a.acquire then r.2.coreAcquire a.core else r.2).coreAnswer a (.value (wordOfBytes r.1)) := by
  have hp : s.dev.poisoned.contains (s.backed none .dram addr / 4096) = false := by simpa using hpoison
  have hf : s.dev.failing.contains (.dram, s.backed none .dram addr / 64) = false := by simpa using hfail
  have hs : s.dev.suspect.contains (.dram, s.backed none .dram addr / 64) = false := by simpa using hsuspect
  simp only [State.coreMemory, hbehind, hlost, hstore, Option.isSome_none, hheld, hp, hf, hs, Bool.and_false, Bool.false_eq_true, false_and,
    and_false, Bool.not_true, if_false]

end

/-! ### The register window -/

/-- An 8-byte register stands at the offset. -/
def wideAt (o : Nat) : Bool := (regAt o).any (fun r => r.size == 8)

theorem wideAt_iff {o : Nat} : wideAt o = true ↔ ∃ r, regAt o = some r ∧ r.size = 8 := by
  unfold wideAt
  cases regAt o <;> simp

theorem wideAt_eq_false {o n : Nat} (h : ∀ r, regAt o = some r → r.size = 4 ∨ n = 8) (hn : n = 4) : wideAt o = false := by
  refine Bool.eq_false_iff.mpr fun hw => ?_
  obtain ⟨r, hr, hsize⟩ := wideAt_iff.mp hw
  have := h r hr
  omega

section
variable {o : Nat} (hbehind : s.coreBehind a = false)
include hbehind

theorem State.coreWindow_refused (h : (a.size ≠ 4 ∧ a.size ≠ 8) ∨ o % a.size ≠ 0 ∨ ((a.size = 4 ∧ wideAt (o - 4) = true) ∧ a.store.isNone = true)) :
    s.coreWindow a o = s.coreAnswer a .refused := by
  unfold State.coreWindow
  rw [hbehind]
  exact if_pos h

theorem State.coreWindow_half (hal : o % a.size = 0) (hsize : a.size = 4) (hstore : a.store.isSome = true)
    (hwide : wideAt o = true ∨ wideAt (o - 4) = true) : s.coreWindow a o = s.coreAnswer a .stored := by
  have hok : ¬ ((a.size ≠ 4 ∧ a.size ≠ 8) ∨ o % a.size ≠ 0 ∨ ((a.size = 4 ∧ wideAt (o - 4) = true) ∧ a.store.isNone = true)) := by
    rintro (⟨h4, _⟩ | h | ⟨_, hnone⟩)
    · exact h4 hsize
    · exact h hal
    · rw [Option.isNone_iff_eq_none.mp hnone] at hstore
      cases hstore
  unfold State.coreWindow
  rw [hbehind]
  exact (if_neg hok).trans (if_pos ⟨hsize, hstore, hwide⟩)

variable (hsize : a.size = 4 ∨ a.size = 8) (hal : o % a.size = 0) (hup : a.size = 4 → wideAt (o - 4) = false)
include hsize hal hup

/-- An access that is aligned and halves no wider register goes by what stands at its offset. -/
theorem State.coreWindow_whole (hlow : a.size = 4 → wideAt o = false) : s.coreWindow a o =
    (match regAt o, a.store with
      | some r, some bs =>
        if r.size = a.size then ((s.regWrite r (BitVec.ofNat 64 (wordOfBytes bs))).coreTells a.core r).coreAnswer a .stored
        else s.coreAnswer a .refused
      | some r, none => if r.size = a.size then s.coreAnswer a (.value (s.regValue r)) else s.coreAnswer a .refused
      | none, some _ => s.coreAnswer a .stored
      | none, none => s.coreAnswer a (.value 0)) := by
  have hok : ¬ ((a.size ≠ 4 ∧ a.size ≠ 8) ∨ o % a.size ≠ 0 ∨ ((a.size = 4 ∧ wideAt (o - 4) = true) ∧ a.store.isNone = true)) := by
    rintro (⟨h4, h8⟩ | h | ⟨⟨h4, hw⟩, _⟩)
    · exact hsize.elim h4 h8
    · exact h hal
    · exact Bool.false_ne_true ((hup h4).symm.trans hw)
  have hhalf : ¬ (a.size = 4 ∧ a.store.isSome = true ∧ (wideAt o = true ∨ wideAt (o - 4) = true)) := by
    rintro ⟨h4, _, hw | hw⟩
    · exact Bool.false_ne_true ((hlow h4).symm.trans hw)
    · exact Bool.false_ne_true ((hup h4).symm.trans hw)
  unfold State.coreWindow
  rw [hbehind]
  exact (if_neg hok).trans (if_neg hhalf)

theorem State.coreWindow_register {r : Reg} (hr : regAt o = some r) (hrs : r.size = a.size) :
    (∀ bs, a.store = some bs →
      s.coreWindow a o = ((s.regWrite r (BitVec.ofNat 64 (wordOfBytes bs))).coreTells a.core r).coreAnswer a .stored) ∧
    (a.store = none → s.coreWindow a o = s.coreAnswer a (.value (s.regValue r))) := by
  have hlow : a.size = 4 → wideAt o = false := fun h4 => wideAt_eq_false (n := a.size) (fun q hq => by cases hr.symm.trans hq; omega) h4
  have hwhole := State.coreWindow_whole hbehind hsize hal hup hlow
  refine ⟨fun bs hbs => ?_, fun hnone => ?_⟩
  · rw [hwhole, hr, hbs]
    exact if_pos hrs
  · rw [hwhole, hr, hnone]
    exact if_pos hrs

theorem State.coreWindow_empty (hr : regAt o = none) (hstore : a.store = none) : s.coreWindow a o = s.coreAnswer a (.value 0) := by
  have hlow : a.size = 4 → wideAt o = false := fun _ => by simp only [wideAt, hr, Option.any_none]
  rw [State.coreWindow_whole hbehind hsize hal hup hlow, hr, hstore]

end

/-- A write where no register stands is ignored (R429). -/
theorem State.coreWindow_ignored {o : Nat} (hbehind : s.coreBehind a = false) (hsize : a.size = 4 ∨ a.size = 8) (hal : o % a.size = 0)
    (hr : regAt o = none) (hstore : a.store ≠ none) : s.coreWindow a o = s.coreAnswer a .stored := by
  obtain ⟨bs, hbs⟩ := Option.ne_none_iff_exists'.mp hstore
  have hlow : wideAt o = false := by simp only [wideAt, hr, Option.any_none]
  by_cases hup : a.size = 4 ∧ wideAt (o - 4) = true
  · exact State.coreWindow_half hbehind hal hup.1 (by rw [hbs]; rfl) (.inr hup.2)
  · have hupper : a.size = 4 → wideAt (o - 4) = false := fun h4 => Bool.eq_false_iff.mpr fun hw => hup ⟨h4, hw⟩
    rw [State.coreWindow_whole hbehind hsize hal hupper (fun _ => hlow), hr, hbs]

end

/-- Settles O48: the access's target first, then the branches of an access to memory and of one to the register window. -/
theorem coresReachMemoryAndRegisters : Obligations.CoresReachMemoryAndRegisters := by
  unfold Obligations.CoresReachMemoryAndRegisters
  intro s a addr
  refine ⟨?memory, ?fence, ?unbound, ?window⟩
  case memory =>
    intro hsize hbar hto hbehind
    dsimp only
    rw [coreAccess_memory hsize hbar hto]
    refine ⟨fun bs hbs himage => ⟨State.coreMemory_image hbehind (by rw [hbs]; rfl) himage, rfl, rfl⟩,
      fun bs hbs ⟨himage, hlost, hpoison⟩ hopen hheld => State.coreMemory_store hbehind hlost hpoison hbs himage hopen hheld,
      fun hnone hlost hpoison hheld hfail hsuspect => State.coreMemory_load hbehind hlost hpoison hnone hheld hfail hsuspect,
      fun ⟨himage, hlost, _⟩ hheld => State.coreMemory_held hbehind hlost (fun _ => himage) hheld⟩
  case fence =>
    intro hsize hbehind t
    unfold coreAccess
    rw [if_pos hsize, hbehind]
    rfl
  case unbound =>
    intro vf hsize hbar hlt hvf
    unfold coreAccess
    simp only [if_neg hsize, hbar, State.coreVf, if_neg (Nat.not_le.mpr hlt), hvf]
  case window =>
    intro o hsize hto
    rw [coreAccess_window hsize hto]
    refine ⟨fun hbehind => ?_, fun hbehind hbad => State.coreWindow_refused hbehind (by tauto), fun hbehind h48 hal => ?_⟩
    · unfold State.coreWindow
      rw [hbehind]
      rfl
    · refine ⟨fun h4 bs hbs hwide => ?_, fun h4 hnone hwide => ?_, fun hup r hr hrs => ?_, fun hr hup hnone => ?_, fun hr hsome => ?_⟩
      · exact State.coreWindow_half hbehind hal h4 (by rw [hbs]; rfl) (hwide.imp wideAt_iff.mpr wideAt_iff.mpr)
      · exact State.coreWindow_refused hbehind (.inr (.inr ⟨⟨h4, wideAt_iff.mpr hwide⟩, by rw [hnone]; rfl⟩))
      · exact State.coreWindow_register hbehind h48 hal (wideAt_eq_false hup) hr hrs
      · exact State.coreWindow_empty hbehind h48 hal (wideAt_eq_false hup) hr hnone
      · exact State.coreWindow_ignored hbehind h48 hal hr hsome

end Sys2Proof.Machine
end
